-- ==== Sys2Proof/Word.lean ====
section
/-! DEFINITION. The machine words of the KSL-4816 model: bytes, 32-bit register words and 64-bit stamps. -/

namespace Sys2Proof

/-- One byte of host memory, of the pattern store or of a cell. -/
abbrev Byte := BitVec 8

/-- One 32-bit register word (R22). -/
abbrev Word := BitVec 32

/-- A 64-bit time-base stamp or host address. -/
abbrev Word64 := BitVec 64

end Sys2Proof
end

