-- ==== Sys2Proof/Syntax.lean ====
section
/-! DEFINITION. The commands that act on the block: one constructor per row of spec/opcode_table.json,
with the operands that come from outside the block. -/

namespace Sys2Proof

/-- Fanel Reg format: bits [31:28], sh [27:23], rb [22:18], ra [17:13], rd [12:8] (spec 11). -/
structure FmtReg where
  top : Fin 16
  sh : Fin 32
  rb : Fin 32
  ra : Fin 32
  rd : Fin 32
deriving DecidableEq, Repr

/-- Fanel Imm format: imm14 [31:18], ra [17:13], rd (rs for stores) [12:8] (spec 11). -/
structure FmtImm where
  imm : BitVec 14
  ra : Fin 32
  rd : Fin 32
deriving DecidableEq, Repr

/-- Fanel Cmp format: off14 [31:18], rb [17:13], ra [12:8]; LOOP uses it with BODY, zero and ra (spec 11). -/
structure FmtCmp where
  off : BitVec 14
  rb : Fin 32
  ra : Fin 32
deriving DecidableEq, Repr

/-- Fanel High format: imm19 [31:13], rd [12:8]; LSW uses it with zero and ra (spec 11). -/
structure FmtHigh where
  imm : BitVec 19
  rd : Fin 32
deriving DecidableEq, Repr

/-- Fanel Spec format: bits [31:23], s [22:18], ra [17:13], rd [12:8] (spec 11). -/
structure FmtSpec where
  top : Fin 512
  s : Fin 32
  ra : Fin 32
  rd : Fin 32
deriving DecidableEq, Repr

/-- Fanel LOOPI fields: BODY [9:0] in [31:22], COUNT in [21:8], BODY [11:10] in OP bits [1:0] (spec 11). -/
structure FmtLoopi where
  bodyLo : BitVec 10
  count : BitVec 14
  bodyHi : Fin 4
deriving DecidableEq, Repr

/-- Fanel CALLM fields: off14 [31:18], MASK [17:8] (spec 11). -/
structure FmtCallm where
  off : BitVec 14
  mask : BitVec 10
deriving DecidableEq, Repr

/-- A BAR0 read as asked for (R22). -/
structure ReadReq where
  /-- 64 bits: two consecutive registers. -/
  wide : Bool
  /-- Byte enables, from the lowest byte. -/
  enables : BitVec 8
deriving DecidableEq, Repr

/-- A change in the event controller while an interrupt entry or a RETI runs (R236, R237, R333). -/
inductive IrqChange where
  /-- A source arrives. -/
  | arrive (n : Fin 1023)
  /-- A source is withdrawn (R333). -/
  | withdraw (n : Fin 1023)
  /-- TARGET of a source is written (R333). -/
  | retarget (n : Fin 1023) (t : Fin 512)
deriving DecidableEq, Repr

/-- A ring of the host interface (R70). -/
inductive RingId where
  | command (n : Fin 64)
  | completion (n : Fin 64)
  | event
deriving DecidableEq, Repr

/-- Which class of sender a register write or read comes from (R23, R366): the host through BAR0, a descriptor, DMA device
space, or a steward core's store. -/
inductive Origin where
  | host
  | descriptor
  | dma
  | steward
deriving DecidableEq, Repr

/-- What one client had at one pseudo-channel in a 1 µs window: requests waiting there and slots granted (R99). -/
structure SlotCount where
  client : Fin 23
  pseudo : Fin 64
  waiting : Nat
  granted : Nat
deriving DecidableEq, Repr

/-- A received PIXEL cell without SEQ and CRC (R251, R254). -/
structure PixelCell where
  beam : Fin 16
  lc : Bool
  eol : Bool
  line : Fin 16384
  cidx : Fin 1024
  count : Fin 81
  depth : Fin 3
  ycc : Bool
  epochLo : BitVec 16
  payload : List Byte
deriving DecidableEq, Repr

/-- The payload of a received CAP cell (R259). -/
structure CapFields where
  rate : BitVec 8
  lanes : BitVec 8
  fec : Bool
  formats : BitVec 6
  audio : BitVec 8
  flags : BitVec 8
  depth : BitVec 16
  device : BitVec 64
deriving DecidableEq, Repr
/-- A gain register that R286 governs: voice GAIN, an output channel's TRIM and MUTE, OUT_GAIN of a bus set. -/
inductive GainReg where
  | voice (v : Fin 1024)
  | channel (c : Fin 64)
  | bus (b : Fin 64) (set : Fin 2)
deriving DecidableEq, Repr
/-- How an AVSBus transaction ends (R367): the voltage write acknowledged, a Status read with VDone or not, a Voltage read
in mV, or a CRC failure or no response. -/
inductive AvsReply where
  | ack
  | status (vdone : Bool)
  | volts (mv : BitVec 16)
  | failed
deriving DecidableEq, Repr

/-- How a PMBus transaction ends (R379): with the bytes read, not acknowledged, or with a wrong PEC. -/
inductive PmbReply where
  | ok (data : List Byte)
  | nack
  | pecErr
deriving DecidableEq, Repr

/-- What a PCI Express configuration read asks for (R47, R48): the Vendor and Device ID, the class code, the command
register, a BAR slot, the Interrupt Pin, half of the Device Serial Number, Device Control, Link Status, Link Control, the
MSI-X control word, the power state, the BAR2 size code, the BAR2 sizes offered, the errors that AER has logged, or a field
of an option that is absent (MSI, the Expansion ROM, I/O BARs, L1 PM Substates, SR-IOV and the others of R47). -/
inductive ConfigField where
  | identity
  | classCode
  | command
  | bar (slot : Fin 6)
  | interruptPin
  | serial (high : Bool)
  | deviceControl
  | linkStatus
  | linkControl
  | msix
  | power
  | bar2Size
  | bar2Sizes
  | aer
  | absent
deriving DecidableEq, Repr

/-- A PCI Express configuration request (R331, R48, R47): a read, or a write of the command register's Memory Space and
Bus Master Enable, of the MSI-X Function Mask or Enable, of the power state, of the BAR2 size code, of the Maximum Read
Request Size code or the Maximum Payload Size code (128 bytes × 2^code), of the address of BAR0 or BAR2, of Device Control's
Relaxed Ordering, of ASPM L1; or a write that asks for an absent option (D1, D2, L0s, MSI, another BAR2 or payload size, and
the others of R47). -/
inductive ConfigReq where
  | read (f : ConfigField)
  | command (memSpace busMaster : Bool)
  | functionMask (masked : Bool)
  | msixEnable (on : Bool)
  | power (d3hot : Bool)
  | bar2Size (code : Fin 7)
  | readSize (code : Fin 6)
  | payloadSize (code : Fin 3)
  | barAddress (two : Bool) (addr : Word64)
  | relaxedOrdering (on : Bool)
  | aspmL1 (on : Bool)
  | absent
deriving DecidableEq, Repr

/-- A fault that a test phase finds (R407): its row, the first failing bit in it, and whether it is a column's. -/
structure BistFault where
  row : BitVec 24
  bit : Fin 544
  column : Bool
deriving DecidableEq, Repr

/-- How a slice ends (R401, R407): at its end, with the faults found, or pre-empted by a beam-critical request. -/
inductive SliceEnd where
  | done (faults : List BistFault)
  | preempted
deriving DecidableEq, Repr


/-- The commands, in the order of spec/opcode_table.json. -/
inductive Instr where
  /-- REGISTER_WRITE (R5): A BAR0, descriptor or steward write to a register that has no row of its own is stored, or rejected and recorded in the block's REJECT register. -/
  | registerWrite (o : Origin) (addr : BitVec 26) (lo : Word) (hi : Option Word) (whole : Bool)
  /-- BAR0_UNSUPPORTED_REQUEST (R49): A BAR0 request longer than 8 bytes or misaligned gets a UR completion, or is discarded and logged if it is a write. -/
  | bar0UnsupportedRequest (addr : BitVec 26) (write : Bool)
  /-- POISONED_TLP (R49): A received BAR0 or BAR2 write with EP set is discarded and logged by AER. -/
  | poisonedTlp (bar2 : Bool)
  /-- BAR2_WRITE (R50): A host write through BAR2 lands in the pattern store at the mapped address, or is discarded at 48 GiB or above. -/
  | bar2Write (at_ : BitVec 36) (data : List (Option Byte))
  /-- BAR2_READ (R50): A host read through BAR2 returns pattern-store bytes, zeros above 48 GiB, or uncorrected data with EP set. -/
  | bar2Read (at_ : BitVec 36) (len : BitVec 13)
  /-- DEFERRED_PROMOTION (R9): A deferred request that has waited 64 µs is raised to normal service. -/
  | deferredPromotion (client : Fin 23)
  /-- POLL (R57): The poll interval expires and the host fabric reads the whole doorbell area. -/
  | poll
  /-- DOORBELL_READ_COMPLETE (R55): Doorbell data arrive; good fields are accepted, bad fields ignored, and descriptor fetches and the next interval are set. -/
  | doorbellReadComplete (data : Option (List Byte))
  /-- DESCRIPTOR_FETCH_COMPLETE (R64): Fetched descriptors arrive and become ready to begin in ring order. -/
  | descriptorFetchComplete (r : Fin 64) (data : List (List Byte)) (failed : Bool)
  /-- NOP (R60): The NOP descriptor completes at once. -/
  | nop (r : Fin 64)
  /-- WRITE_IMM (R61): The WRITE_IMM descriptor writes up to 12 immediate words to a BAR0 range. -/
  | writeImm (r : Fin 64)
  /-- WRITE_IND (R62): The WRITE_IND descriptor begins writing words read from host memory to a BAR0 range, chunk by chunk. -/
  | writeInd (r : Fin 64)
  /-- WRITE_IND_CHUNK_READ (R62): The source data of a WRITE_IND chunk arrive or fail, and the chunk's words are written or the descriptor ends HOST_FAULT. -/
  | writeIndChunkRead (r : Fin 64) (data : List Word) (failedAt : Option Word64)
  /-- WRITE_FILL (R61): The WRITE_FILL descriptor writes one value to COUNT words of a BAR0 range. -/
  | writeFill (r : Fin 64)
  /-- READ_REGS (R61): The READ_REGS descriptor reads a BAR0 range and writes the values to host memory. -/
  | readRegs (r : Fin 64)
  /-- COMMIT (R32): The COMMIT descriptor assigns the group a new epoch and hands over its shadow. -/
  | commit (r : Fin 64) (race : Bool)
  /-- WAIT_EPOCH (R66): The WAIT_EPOCH descriptor holds its ring until every member has adopted the epoch or a newer one. -/
  | waitEpoch (r : Fin 64)
  /-- WAIT_LINE (R66): The WAIT_LINE descriptor holds its ring until the beam next begins to emit the line. -/
  | waitLine (r : Fin 64)
  /-- WAIT_TIMEOUT (R66): The TIMEOUT of a WAIT_EPOCH or WAIT_LINE expires and the descriptor completes TIMEOUT. -/
  | waitTimeout (r : Fin 64)
  /-- DMA_START (R310): The DMA_START descriptor starts a DMA program on a channel, or completes BUSY. -/
  | dmaStart (r : Fin 64)
  /-- BLIT (R296): The BLIT descriptor is accepted into the blit queue. -/
  | blit (r : Fin 64)
  /-- HOST_WRITE (R60): The HOST_WRITE descriptor writes a 64-bit value to host memory after every earlier descriptor of its ring has completed. -/
  | hostWrite (r : Fin 64)
  /-- CQ_WAIT_RECORD (R68): A ring that has waited on a full completion ring for 1 ms posts a CQ_WAIT event record. -/
  | cqWaitRecord (r : Fin 64)
  /-- RING_ENABLE (R70): Writing EN = 1 enables a ring after the alignment and completion-ring checks. -/
  | ringEnable (ring : RingId)
  /-- RING_DISABLE (R71): Writing EN = 0 puts a running command ring into Draining, or a ring into Idle. -/
  | ringDisable (ring : RingId)
  /-- HEARTBEAT_TIMEOUT (R72): The heartbeat has not changed for HST_HB.TIMEOUT ms, a host loss of cause 1. -/
  | heartbeatTimeout
  /-- BUS_MASTER_ENABLE_CLEAR (R72): Bus Master Enable is cleared while RINGS_EN is 1, a host loss of cause 3. -/
  | busMasterEnableClear
  /-- DL_DOWN (R72): The PCIe link goes to DL_Down, a host loss of cause 4 that resets the PCIe controller and HST block. -/
  | dlDown
  /-- HOT_RESET (R72): A hot reset is received, a host loss of cause 5. -/
  | hotReset
  /-- FUNCTION_LEVEL_RESET (R72): A Function Level Reset is received, a host loss of cause 6. -/
  | functionLevelReset
  /-- D3HOT_ENTRY (R72): The function is placed in D3hot, a host loss of cause 7. -/
  | d3hotEntry
  /-- PERST_N_ASSERT (R72): PERST_N is asserted, a host loss of cause 8. -/
  | perstNAssert
  /-- RESUME (R74): Writing HST_CTRL.RESUME leaves Recovery, restarts polling and posts a RESUMED record. -/
  | resume
  /-- GROUP_READY (R35): The last member's transfer arrives and the group becomes ready; stopped members adopt at once. -/
  | groupReady (g : Fin 16)
  /-- FENCE_GUARD_EXPIRY (R40): FENCE_GUARD µs after sending its fence, the leader treats its group as ready. -/
  | fenceGuardExpiry (g : Fin 16)
  /-- FENCE_TIMEOUT (R40): A follower with no matching fence within FENCE_TIMEOUT becomes ready without it. -/
  | fenceTimeout (g : Fin 16)
  /-- CG_MAP_WRITE (R30): A write of SYS_CG_MAP0 or MAP1 moves beams between commit groups for later hand-overs. -/
  | cgMapWrite (half : Fin 2) (w : Word)
  /-- CALENDS (R78): A beam reaches its Calends, adopts ready state, updates Vigil and ladder, and begins generating line 0. -/
  | calends (n : Fin 16)
  /-- CENSUS_START (R41): Writing SYS_CEN_CTRL.START begins a census, or holds it in Sleep. -/
  | censusStart
  /-- CENSUS_ABORT (R41): Writing SYS_CEN_CTRL.ABORT ends a waiting census at once or a streaming one after its record. -/
  | censusAbort
  /-- CENSUS_GROUP_CUT (R42): Once every member has adopted the newest epoch, the census takes the group cut while holding hand-overs. -/
  | censusGroupCut
  /-- CENSUS_RECORD_WRITTEN (R45): A census record is written to the buffer and the census proceeds to the next record or ends. -/
  | censusRecordWritten
  /-- BEAM_FRAME_START (R77): A beam's frame starts; the frame count rises and FRAME_START is raised. -/
  | beamFrameStart (n : Fin 16)
  /-- BEAM_PLL_LOCK (R82): A starting beam's PLL has locked and the generator begins at the Calends of frame 0. -/
  | beamPllLock (n : Fin 16)
  /-- GENLOCK_HOLDOVER (R85): No reference event arrives within 2 × (MULT + 1) frame periods and the beam enters Holdover. -/
  | genlockHoldover (n : Fin 16)
  /-- BEAM_FRAME_LO_READ (R88): A 32-bit read of BEAM_FRAME_LO returns the low half and latches the high half. -/
  | beamFrameLoRead (n : Fin 16) (q : ReadReq)
  /-- LINE_EMISSION_START (R186): A beam begins to emit a line from its emission buffer to the crossbar. -/
  | lineEmissionStart (n : Fin 16) (drained : Fin 5)
  /-- RESERVATION_WINDOW_END (R99): A 1 µs reservation window ends and each client that missed its reservation is counted. -/
  | reservationWindowEnd (seen : List SlotCount)
  /-- SCRUB_LINE (R107): The scrubber reads the next pattern-store line and rewrites it if corrected. -/
  | scrubLine (upset : List (Fin 68 × Byte))
  /-- TBL_SCRUB_WORD (R107): The scrubber reads the next on-die table word and corrects or poisons it. -/
  | tblScrubWord (table : Fin 6) (index : Fin 2621440) (upset : List (Fin 36 × Byte))
  /-- PS_INJECT_ARM (R108): Writing SYMBOLS 1–3 to SYS_PS_INJECT_CTRL arms an error injection. -/
  | psInjectArm (n : Fin 3)
  /-- PS_INJECT_DISARM (R108): Writing SYMBOLS 0 disarms a pending injection. -/
  | psInjectDisarm
  /-- LINE_GENERATION_START (R193): The generator begins a line and applies every queued entry naming it. -/
  | lineGenerationStart (n : Fin 16)
  /-- LINE_COMPLETE (R188): A line's last pixel and version record are written to its slot. -/
  | lineComplete (n : Fin 16)
  /-- LINE_DEADLINE (R196): At a line's deadline the beam copies the first available version into the emission buffer. -/
  | lineDeadline (n : Fin 16) (upset : List (Fin 163840 × List (Fin 36 × Byte)))
  /-- GENERATION_RESTART (R194): 64 clocks after a squash or abandonment the generator begins again at the restart line. -/
  | generationRestart (n : Fin 16)
  /-- LSQ_ENTRY_ARRIVAL (R192): A line-scheduled write entry reaches the queue and is checked and classified. -/
  | lsqEntryArrival (n : Fin 16)
  /-- RA_MIN_HELD_CLEAR (R203): Writing LP_RA_MIN_HELD.CLEAR sets LINES to 0x7FFF. -/
  | raMinHeldClear (n : Fin 16)
  /-- OAT_WRITE (R130): A write to an OAT entry enters the shadow change store, or is refused when full or cross-group. -/
  | oatWrite (entry : Fin 131072) (word : Fin 8) (w : Word) (byDescriptor : Bool)
  /-- SORT_STAGE_END (R137): A beam's sort stage ends and every band is dealt to the sixteen workers. -/
  | sortStageEnd (n : Fin 16)
  /-- BAND_LIST_COMPLETE (R138): A worker completes a band list and takes its next band. -/
  | bandListComplete (k : Fin 16)
  /-- OBJ_PEAK_CLEAR (R144): Writing OBJ_PEAK.CLEAR sets SPANS to zero. -/
  | objPeakClear (n : Fin 16)
  /-- IMPORT_LINE_MISSING (R159): A needed import slot does not hold its line GRACE lines before emission and the line is missing. -/
  | importLineMissing (n : Fin 16) (k : Fin 3)
  /-- PLE_GO (R173): Writing CMP_PLE_CTRL.GO starts the PL engine fetching a package, or waits in Sleep. -/
  | pleGo (n : Fin 16)
  /-- PLE_FETCH_DONE (R173): The PL package has been fetched and hashed and verification begins. -/
  | pleFetchDone (pkg : Option (List Byte))
  /-- PLE_VERIFY_DONE (R173): Signature, sequence, nonce and region checks end; the package fails or writing begins. -/
  | pleVerifyDone
  /-- PLE_WRITE_DONE (R175): The package data are in the PL region and pending banks are sent to the named beams. -/
  | pleWriteDone
  /-- PL_BANK_ARRIVAL (R175): Pending PL banks reach the beams; STATE becomes Done and PL_DONE is raised. -/
  | plBankArrival
  /-- ADD (R214): ADD sets rd to ra + rb with flags. -/
  | add (c : Fin 20) (o : FmtReg)
  /-- SUB (R214): SUB sets rd to ra − rb with flags. -/
  | sub (c : Fin 20) (o : FmtReg)
  /-- AND (R212): AND sets rd to ra AND rb. -/
  | and (c : Fin 20) (o : FmtReg)
  /-- OR (R212): OR sets rd to ra OR rb. -/
  | or (c : Fin 20) (o : FmtReg)
  /-- XOR (R212): XOR sets rd to ra XOR rb. -/
  | xor (c : Fin 20) (o : FmtReg)
  /-- NOR (R212): NOR sets rd to NOT (ra OR rb). -/
  | nor (c : Fin 20) (o : FmtReg)
  /-- SLT (R212): SLT sets rd to 1 if ra < rb signed. -/
  | slt (c : Fin 20) (o : FmtReg)
  /-- SLTU (R212): SLTU sets rd to 1 if ra < rb unsigned. -/
  | sltu (c : Fin 20) (o : FmtReg)
  /-- SLL (R215): SLL shifts ra left by rb[5:0]. -/
  | sll (c : Fin 20) (o : FmtReg)
  /-- SRL (R215): SRL shifts ra right by rb[5:0] with zeros in. -/
  | srl (c : Fin 20) (o : FmtReg)
  /-- SRA (R215): SRA shifts ra right by rb[5:0] with the sign in. -/
  | sra (c : Fin 20) (o : FmtReg)
  /-- ROR (R215): ROR rotates ra right by rb[4:0]. -/
  | ror (c : Fin 20) (o : FmtReg)
  /-- ROL (R215): ROL rotates ra left by rb[4:0]. -/
  | rol (c : Fin 20) (o : FmtReg)
  /-- NEG (R214): NEG sets rd to 0 − ra, setting V only for 0x8000_0000. -/
  | neg (c : Fin 20) (o : FmtReg)
  /-- MIN (R212): MIN sets rd to the signed lesser of ra and rb. -/
  | min (c : Fin 20) (o : FmtReg)
  /-- MAX (R212): MAX sets rd to the signed greater of ra and rb. -/
  | max (c : Fin 20) (o : FmtReg)
  /-- MINU (R212): MINU sets rd to the unsigned lesser of ra and rb. -/
  | minu (c : Fin 20) (o : FmtReg)
  /-- MAXU (R212): MAXU sets rd to the unsigned greater of ra and rb. -/
  | maxu (c : Fin 20) (o : FmtReg)
  /-- SLLI (R215): SLLI shifts ra left by sh. -/
  | slli (c : Fin 20) (o : FmtReg)
  /-- SRLI (R215): SRLI shifts ra right by sh with zeros in. -/
  | srli (c : Fin 20) (o : FmtReg)
  /-- SRAI (R215): SRAI shifts ra right by sh with the sign in. -/
  | srai (c : Fin 20) (o : FmtReg)
  /-- RORI (R215): RORI rotates ra right by sh. -/
  | rori (c : Fin 20) (o : FmtReg)
  /-- ADDI (R214): ADDI sets rd to ra plus the sign-extended immediate. -/
  | addi (c : Fin 20) (o : FmtImm)
  /-- ANDI (R212): ANDI sets rd to ra AND the zero-extended immediate. -/
  | andi (c : Fin 20) (o : FmtImm)
  /-- ORI (R212): ORI sets rd to ra OR the zero-extended immediate. -/
  | ori (c : Fin 20) (o : FmtImm)
  /-- XORI (R212): XORI sets rd to ra XOR the zero-extended immediate. -/
  | xori (c : Fin 20) (o : FmtImm)
  /-- SLTI (R212): SLTI sets rd to 1 if ra is below the sign-extended immediate, signed. -/
  | slti (c : Fin 20) (o : FmtImm)
  /-- SLTIU (R212): SLTIU sets rd to 1 if ra is below the sign-extended immediate, unsigned. -/
  | sltiu (c : Fin 20) (o : FmtImm)
  /-- MOVU (R212): MOVU sets rd to imm19 << 13. -/
  | movu (c : Fin 20) (o : FmtHigh)
  /-- MUL (R221): MUL places the signed 64-bit product in mh:ml. -/
  | mul (c : Fin 20) (o : FmtReg)
  /-- MULU (R221): MULU places the unsigned 64-bit product in mh:ml. -/
  | mulu (c : Fin 20) (o : FmtReg)
  /-- MAC (R221): MAC adds the signed product to mh:ml. -/
  | mac (c : Fin 20) (o : FmtReg)
  /-- MACU (R221): MACU adds the unsigned product to mh:ml. -/
  | macu (c : Fin 20) (o : FmtReg)
  /-- DIV (R216): DIV starts a signed division, setting V and DZ at issue or raising Divide by Zero. -/
  | div (c : Fin 20) (o : FmtReg)
  /-- DIVU (R216): DIVU starts an unsigned division, setting DZ at issue or raising Divide by Zero. -/
  | divu (c : Fin 20) (o : FmtReg)
  /-- DIV_COMPLETE (R221): A division that was not abandoned writes its quotient and remainder to ml and mh. -/
  | divComplete (c : Fin 20)
  /-- LDW (R208): LDW loads a word from the decoded address. -/
  | ldw (c : Fin 20) (o : FmtImm)
  /-- LDH (R208): LDH loads a sign-extended halfword. -/
  | ldh (c : Fin 20) (o : FmtImm)
  /-- LDHU (R208): LDHU loads a zero-extended halfword. -/
  | ldhu (c : Fin 20) (o : FmtImm)
  /-- LDB (R208): LDB loads a sign-extended byte. -/
  | ldb (c : Fin 20) (o : FmtImm)
  /-- LDBU (R208): LDBU loads a zero-extended byte. -/
  | ldbu (c : Fin 20) (o : FmtImm)
  /-- STW (R208): STW stores a word at the decoded address. -/
  | stw (c : Fin 20) (o : FmtImm)
  /-- STH (R208): STH stores the low halfword of rs. -/
  | sth (c : Fin 20) (o : FmtImm)
  /-- STB (R208): STB stores the low byte of rs. -/
  | stb (c : Fin 20) (o : FmtImm)
  /-- WINDOW_ACCESS_DONE (R209): A device-window or pattern-store-window access completes and the frozen core resumes. -/
  | windowAccessDone (c : Fin 20)
  /-- BEQ (R212): BEQ branches if ra = rb. -/
  | beq (c : Fin 20) (o : FmtCmp)
  /-- BNE (R212): BNE branches if ra ≠ rb. -/
  | bne (c : Fin 20) (o : FmtCmp)
  /-- BLT (R212): BLT branches if ra < rb signed. -/
  | blt (c : Fin 20) (o : FmtCmp)
  /-- BGE (R212): BGE branches if ra ≥ rb signed. -/
  | bge (c : Fin 20) (o : FmtCmp)
  /-- BLTU (R212): BLTU branches if ra < rb unsigned. -/
  | bltu (c : Fin 20) (o : FmtCmp)
  /-- BGEU (R212): BGEU branches if ra ≥ rb unsigned. -/
  | bgeu (c : Fin 20) (o : FmtCmp)
  /-- J (R212): J jumps to pc + 4 + 4 × offset within I-TCM. -/
  | j (c : Fin 20) (off : BitVec 24)
  /-- JAL (R212): JAL saves pc + 4 in lk and jumps. -/
  | jal (c : Fin 20) (off : BitVec 24)
  /-- JR (R222): JR jumps to ra with bits [1:0] cleared. -/
  | jr (c : Fin 20) (o : FmtReg)
  /-- JALR (R222): JALR saves pc + 4 in lk and jumps to ra. -/
  | jalr (c : Fin 20) (o : FmtReg)
  /-- LOOP (R223): LOOP starts a hardware loop with the count in ra, or skips the body when zero. -/
  | loop (c : Fin 20) (o : FmtCmp)
  /-- LOOPI (R223): LOOPI starts a hardware loop with an immediate count, or skips the body when zero. -/
  | loopi (c : Fin 20) (o : FmtLoopi)
  /-- CALLM (R226): CALLM saves MASK, lk and selected register groups below sp and calls the target. -/
  | callm (c : Fin 20) (o : FmtCallm)
  /-- RETM (R227): RETM restores the saved groups and lk and returns to lk. -/
  | retm (c : Fin 20) (z : BitVec 24)
  /-- LSW (R240): LSW sends four registers as one line-scheduled write entry, or freezes under back-pressure. -/
  | lsw (c : Fin 20) (o : FmtHigh)
  /-- FANEL_NOP (R212): The NOP instruction does nothing for one cycle. -/
  | fanelNop (c : Fin 20) (o : FmtSpec)
  /-- MFS (R207): MFS copies a special register into rd. -/
  | mfs (c : Fin 20) (o : FmtSpec)
  /-- MTS (R207): MTS copies ra into a writable special register. -/
  | mts (c : Fin 20) (o : FmtSpec)
  /-- WFE (R229): WFE takes matching ev bits at once, or waits for an event. -/
  | wfe (c : Fin 20) (o : FmtSpec)
  /-- WFE_WAKE (R229): An arriving event in the mask ends a waiting WFE. -/
  | wfeWake (c : Fin 20)
  /-- SEV (R228): SEV sets the issuer's bit in the ev register of each named core. -/
  | sev (c : Fin 20) (o : FmtSpec)
  /-- WAITT (R230): WAITT waits until the time-base replica reaches ra. -/
  | waitt (c : Fin 20) (o : FmtSpec)
  /-- WAITT_END (R230): The time-base replica reaches the WAITT target and the wait ends. -/
  | waittEnd (c : Fin 20)
  /-- WAITL (R231): WAITL ends at once or waits on the beam's emission position. -/
  | waitl (c : Fin 20) (o : FmtSpec)
  /-- WAITL_END (R231): The beam reaches the named line or stops and the WAITL wait ends. -/
  | waitlEnd (c : Fin 20)
  /-- MSYNC (R221): MSYNC waits until the multiply-divide unit is idle. -/
  | msync (c : Fin 20) (o : FmtSpec)
  /-- MSYNC_END (R221): The multiply-divide unit becomes idle and MSYNC ends. -/
  | msyncEnd (c : Fin 20)
  /-- RETI (R234): RETI restores st and pc from the stack, or tail-chains to a pending request. -/
  | reti (c : Fin 20) (o : FmtSpec) (during : List IrqChange)
  /-- LEAVE (R225): LEAVE ends the innermost hardware loop. -/
  | leave (c : Fin 20) (o : FmtSpec)
  /-- BRK (R232): BRK raises Breakpoint, or halts the core when BRK_HALT is 1. -/
  | brk (c : Fin 20) (o : FmtSpec)
  /-- SYSC (R232): SYSC raises the System Call exception. -/
  | sysc (c : Fin 20) (o : FmtSpec)
  /-- INTERRUPT_ENTRY (R236): A presented level is taken; five entry cycles push state, claim the source and enter the handler. -/
  | interruptEntry (c : Fin 20) (during : List IrqChange)
  /-- LP_RUN (R245): Writing LP_CTRL.RUN = 1 starts the line processor at pc 0x80. -/
  | lpRun (n : Fin 16)
  /-- LP_RESET (R245): Writing LP_CTRL.RUN = 0 holds the line processor in reset with its TCMs kept. -/
  | lpReset (n : Fin 16)
  /-- LP_HALT (R242): Writing LP_CTRL.HALT = 1 halts the line processor. -/
  | lpHalt (n : Fin 16)
  /-- LP_RESUME (R242): Writing LP_CTRL.HALT = 0 resumes a halted line processor. -/
  | lpResume (n : Fin 16)
  /-- LP_STEP (R242): Writing LP_CTRL.STEP = 1 executes one instruction of a halted core. -/
  | lpStep (n : Fin 16) (halt : Bool)
  /-- LNK_PORT_ENABLE (R256): A port with EN set to 1 outside Sleep leaves Disabled and starts Base training. -/
  | lnkPortEnable (p : Fin 8)
  /-- LNK_PORT_DISABLE (R256): A port with EN set to 0 goes to Disabled and is fenced. -/
  | lnkPortDisable (p : Fin 8)
  /-- TRAINING_FRAME_RX (R257): A training frame is received and its control and status fields are acted on. -/
  | trainingFrameRx (p : Fin 8) (lane : Fin 4) (control : Word) (status : Word) (inverted : Bool)
  /-- LANE_GRADED (R257): After 10^9 bits a lane is graded clean, FEC-grade or failed. -/
  | laneGraded (p : Fin 8) (lane : Fin 4) (errors : Fin 1000000001)
  /-- BASE_COMPLETE (R258): Base training at 28 Gbit/s ends and the port enters Descent. -/
  | baseComplete (p : Fin 8)
  /-- DESCENT_COMPLETE (R258): Descent selects and trains the mode and the port enters Align. -/
  | descentComplete (p : Fin 8)
  /-- ALIGNMENT_MARKER_RX (R250): An alignment marker is received, updating lock and deskew. -/
  | alignmentMarkerRx (p : Fin 8) (lane : Fin 4) (payload : List Byte) (skew : Fin 4000)
  /-- FEC_CODEWORD_RX (R249): An RS(544,514) codeword is decoded, corrected or found uncorrectable. -/
  | fecCodewordRx (p : Fin 8) (lane : Fin 4) (errors : Fin 545) (miscorrected : Bool) (cells : Fin 5)
  /-- PORT_STATE_TIMEOUT (R256): Base, Align or Exchange exceeds its time limit and the attempt fails to Fault. -/
  | portStateTimeout (p : Fin 8)
  /-- FAULT_WAIT_EXPIRY (R256): The Fault wait of 1 ms or 1,000 ms ends and the port returns to Base. -/
  | faultWaitExpiry (p : Fin 8)
  /-- CELL_IDLE_RX (R247): An IDLE cell is received and discarded. -/
  | cellIdleRx (p : Fin 8)
  /-- CELL_PIXEL_RX (R269): A PIXEL cell is checked, sequenced and dispatched to import planes or counted unused. -/
  | cellPixelRx (p : Fin 8) (seq : BitVec 16) (c : PixelCell)
  /-- CELL_AUDIO_RX (R269): An AUDIO cell is received and counted in RX_UNUSED. -/
  | cellAudioRx (p : Fin 8) (seq : BitVec 16)
  /-- CELL_FRAME_START_RX (R269): A FRAME_START cell is received and forms the genlock reference event for REF_BEAM. -/
  | cellFrameStartRx (p : Fin 8) (seq : BitVec 16) (beam : Fin 16) (repeated : Bool) (lines : Fin 8193)
  /-- CELL_REPEAT_RX (R160): A REPEAT cell makes importing planes treat every slot as newly arrived. -/
  | cellRepeatRx (p : Fin 8) (seq : BitVec 16) (beam : Fin 16)
  /-- CELL_FENCE_RX (R40): A FENCE cell is passed to the commit logic of a follower group. -/
  | cellFenceRx (p : Fin 8) (seq : BitVec 16) (group : Fin 16) (epoch : Word)
  /-- CELL_ROUTE_RX (R269): A ROUTE cell is received and discarded without count. -/
  | cellRouteRx (p : Fin 8) (seq : BitVec 16)
  /-- CELL_CAP_RX (R259): A CAP cell is compared with the port's mode, sets PEER_OK or applies an update. -/
  | cellCapRx (p : Fin 8) (seq : BitVec 16) (c : CapFields)
  /-- CELL_CREDIT_RX (R263): A CREDIT cell advances NEXT for the port's flow control. -/
  | cellCreditRx (p : Fin 8) (next : BitVec 16)
  /-- CELL_SLOT (R255): A transmit cell slot sends the highest-priority ready cell or IDLE. -/
  | cellSlot (p : Fin 8)
  /-- CREDIT_SEND_TIMER (R264): 10 µs pass and the port sends a CREDIT cell with NEXT = e. -/
  | creditSendTimer (p : Fin 8)
  /-- CAP_SEND_TIMER (R259): In Exchange, a CAP cell is sent every 10 µs. -/
  | capSendTimer (p : Fin 8)
  /-- CREDIT_TIMEOUT (R260): No CREDIT cell for 1 ms from a partner with non-zero DEPTH renegotiates the port. -/
  | creditTimeout (p : Fin 8)
  /-- RENEG (R260): Writing LNK_Pp_CTRL.RENEG returns an Active port to Base with cause 4. -/
  | reneg (p : Fin 8)
  /-- AUDIO_SAMPLE_BOUNDARY (R272): At each sample boundary the audio core applies writes, events and swaps and computes an output frame. -/
  | audioSampleBoundary (late : List (Fin 1024 × Fin 4294967296)) (lateBuses : List (Fin 64))
  /-- AUD_REF_LOST (R273): No audio reference event for two reference periods puts the sample clock in Holdover. -/
  | audRefLost
  /-- VEQ_PUSH (R280): A write of AUD_VEQg_W3 pushes the staged record into voice-event queue g. -/
  | veqPush (g : Fin 16) (w3 : Word)
  /-- FEED_PUSH (R283): A write of AUD_FEEDf_DATA pushes one sample into the feed, or sets OVR. -/
  | feedPush (f : Fin 8) (w : Word)
  /-- CROSSPOINT_WRITE (R285): A crosspoint write starts a 64-frame crossfade from the old route to the new one. -/
  | crosspointWrite (x : Fin 2048) (w : Word)
  /-- GAIN_CHANGE (R286): A change of voice GAIN, TRIM, MUTE or OUT_GAIN waits for a zero crossing. -/
  | gainChange (g : GainReg) (w : Word)
  /-- ZC_TIMEOUT (R286): No zero crossing within ZC_TIMEOUT ms and the gain ramps over 64 frames. -/
  | zcTimeout (gain : Fin 1152)
  /-- BUS_SWAP (R288): Writing AUD_SWAP0 or SWAP1 marks bus swaps pending. -/
  | busSwap (half : Fin 2) (w : Word)
  /-- TDM_FRAME_START (R292): A TDM port frame begins and sends the next buffered frame or a silent frame. -/
  | tdmFrameStart (a : Fin 4) (clocks : BitVec 10)
  /-- BLIT_DISPATCH (R296): An idle permitted engine takes the next blit from the queue and checks it. -/
  | blitDispatch
  /-- BLIT_SYNC_START (R303): The engine observes the sync beam emitting SYNC_LINE and begins the blit. -/
  | blitSyncStart (k : Fin 4)
  /-- BLIT_STAGE_DONE (R302): A staged blit has read its whole source and begins writing the destination. -/
  | blitStageDone (k : Fin 4)
  /-- BLIT_ROW_VISIBLE (R304): A destination row becomes visible to every client and PROGRESS rises. -/
  | blitRowVisible (k : Fin 4)
  /-- BLIT_COMPLETE (R305): The blit's last write is visible and its completion is posted. -/
  | blitComplete (k : Fin 4)
  /-- BLT_DIRECT_GO (R308): Writing BLT_DIRECT_CTRL.GO queues the blit held in the direct registers. -/
  | bltDirectGo
  /-- DMA_GO (R310): Writing DMA_CHc_CTRL.GO starts the program at the channel's program address. -/
  | dmaGo (c : Fin 64)
  /-- DMA_STOP (R319): Writing DMA_CHc_CTRL.STOP ends the program at its next instruction boundary. -/
  | dmaStop (c : Fin 64)
  /-- DMA_PROG_FETCH_DONE (R311): A 64-byte line of the DMA program arrives or fails. -/
  | dmaProgFetchDone (c : Fin 64) (line : Fin 4) (data : Option (List Byte))
  /-- DMA_MOVE (R315): MOVE issues one block of reads and writes between spaces. -/
  | dmaMove (c : Fin 64)
  /-- DMA_LOOP (R314): LOOP repeats its body COUNT times with address steps. -/
  | dmaLoop (c : Fin 64)
  /-- DMA_WAIT (R318): WAIT waits for a drain, a beam line or a time. -/
  | dmaWait (c : Fin 64)
  /-- DMA_WAIT_TIME_EXPIRY (R318): The time base advances NS past a TIME wait's start and the wait ends. -/
  | dmaWaitTimeExpiry (c : Fin 64)
  /-- DMA_SIGNAL (R317): SIGNAL is tagged to the most recent block and fires when it and earlier blocks complete. -/
  | dmaSignal (c : Fin 64)
  /-- DMA_JUMP (R312): JUMP continues execution at the target instruction. -/
  | dmaJump (c : Fin 64)
  /-- DMA_END (R319): END waits for every block and signal and then completes the program. -/
  | dmaEnd (c : Fin 64)
  /-- DMA_RESPONSE (R316): A response to a DMA request arrives, completing or marking BAD its block. -/
  | dmaResponse (c : Fin 64) (block : Fin 4) (req : Fin 32) (data : Option (List Byte))
  /-- EVENT_ARRIVAL (R326): An arrival of an event source sets PENDING and COUNT and may be delivered. -/
  | eventArrival (src : Fin 1024)
  /-- COALESCE_TIMEOUT (R327): COAL.TIME elapses since a source's first arrival and it becomes deliverable. -/
  | coalesceTimeout (src : Fin 1023)
  /-- EVT_WITHDRAW (R333): Clearing PENDING or EN withdraws a source's undelivered arrivals. -/
  | evtWithdraw (src : Fin 1023) (byEn : Bool)
  /-- EVT_RETARGET (R333): A change of TARGET moves a pending source to the new target. -/
  | evtRetarget (src : Fin 1023) (target : Fin 512)
  /-- EVT_QUEUE_POP (R335): A read of EVT_Qt_REC0 pops the head record and latches words 1–3. -/
  | evtQueuePop (t : Fin 276) (q : ReadReq)
  /-- EVT_SWI (R325): A write of 1 to a bit of EVT_SWI raises one arrival of the software source. -/
  | evtSwi (w : Word)
  /-- TB_WRAP (R336): The time base wraps from all ones to zero and raises TB_WRAP. -/
  | tbWrap
  /-- AON_TICK (R338): In Sleep or Debug Halt a 32.768 kHz tick advances the count by 30,517 or 30,518 ns. -/
  | aonTick
  /-- TB_LO_READ (R336): A 32-bit read of TMR_TB_LO returns the low half and latches the high half. -/
  | tbLoRead (q : ReadReq)
  /-- TB_LOAD (R337): Writing TMR_TB_CTRL.LOAD advances the time base to TMR_TB_SET. -/
  | tbLoad
  /-- CMP_VALUE_WRITE (R341): Writing a compare VALUE arms the channel and sets BEHIND when needed. -/
  | cmpValueWrite (c : Fin 64) (v : Word)
  /-- CMP_MATCH (R340): The low half of the count equals VALUE and the compare channel fires. -/
  | cmpMatch (c : Fin 64)
  /-- CMP_FIRE (R340): Writing FIRE fires a compare channel at once. -/
  | cmpFire (c : Fin 64)
  /-- CAP_READ (R342): A read of TMR_CAPk_LO returns the stamp and clears VALID. -/
  | capRead (k : Fin 32) (q : ReadReq)
  /-- CAP_LOG_POP (R342): A read of TMR_CAPk_LOG0 pops the capture log. -/
  | capLogPop (k : Fin 32) (q : ReadReq)
  /-- IT_ENABLE (R344): Setting an interval timer's EN loads its count from RELOAD. -/
  | itEnable (k : Fin 32) (oneshot : Bool)
  /-- IT_EXPIRY (R344): An interval timer reaches zero, raises its source and reloads or stops. -/
  | itExpiry (k : Fin 32)
  /-- IT_LOAD (R344): Writing TMR_ITk_LOAD sets the running count now. -/
  | itLoad (k : Fin 32) (v : Word)
  /-- GPIO_PAD_CHANGE (R355): A pad level changes and is synchronised into the GPIO island. -/
  | gpioPadChange (p : Fin 64) (level : Option Bool)
  /-- GPIO_FILTER_SAMPLE (R355): The digital filter samples a pin and may accept a new level and raise an arrival. -/
  | gpioFilterSample (p : Fin 64)
  /-- GPIO_SET (R353): A write of GPIO_SETx sets the output bits written as 1. -/
  | gpioSet (x : Fin 2) (w : Word)
  /-- GPIO_CLR (R353): A write of GPIO_CLRx clears the output bits written as 1. -/
  | gpioClr (x : Fin 2) (w : Word)
  /-- GPIO_FUNCTION_CHANGE (R354): A write changing FUNC, SEL, DIR or OD hands the pad over between drivers at edge E + 1. -/
  | gpioFunctionChange (p : Fin 64) (w : Word)
  /-- GPIO_BANK_SUPPLY_CHANGE (R347): A bank's VIO supply appears or disappears and GPIO_BANK follows within 10 µs. -/
  | gpioBankSupplyChange (b : Fin 4) (supply : Option Bool)
  /-- LEDGER_WINDOW_END (R361): A ledger window ends; power, floors, load bands and the effective state are recomputed. -/
  | ledgerWindowEnd (mw : List (BitVec 16))
  /-- AVS_RESPONSE (R367): An AVSBus transaction ends with VDone, a failure, or a fault after three failures. -/
  | avsResponse (g : Fin 4) (reply : AvsReply)
  /-- AVS_RETRY (R367): After an AVS fault the transaction is retried every 1 ms. -/
  | avsRetry (g : Fin 4)
  /-- TEMP_SENSOR_READ (R359): The temperature sensors are read and PWR_TMAX is updated. -/
  | tempSensorRead (t : List (BitVec 16))
  /-- PWR_LEDGER_WRITE (R363): A steward write of PWR_LEDGER sets the firmware state and restarts the watchdog. -/
  | pwrLedgerWrite (w : Word)
  /-- LEDGER_STALE (R363): No PWR_LEDGER write within TIMEOUT ms; firmware state becomes at least Lean and STALE is set. -/
  | ledgerStale
  /-- LEAP (R373): Writing PWR_PLAN_CTRL.LEAP checks a margin plan and installs it for verification. -/
  | leap
  /-- LEAP_VERIFY_END (R374): Verification ends; the plan is kept or reverted and a LEAP record is logged. -/
  | leapVerifyEnd (tedRise : BitVec 32) (slack : BitVec 16)
  /-- ALM_SAMPLE_PERIOD (R376): ALM_CTRL.PERIOD seconds elapse and an Almanac sample set begins. -/
  | almSamplePeriod
  /-- ALM_SAMPLE_NOW (R376): Writing ALM_CTRL.SAMPLE begins an Almanac sample set. -/
  | almSampleNow
  /-- ALM_SAMPLE_SET_END (R376): A sample set ends, all VAL registers change and ALM_SAMPLE is raised. -/
  | almSampleSetEnd (vals : List (BitVec 16))
  /-- ALM_LOG_WRITE_FLASH (R377): LOG_CTRL.OP 1 writes the staged firmware record to flash. -/
  | almLogWriteFlash
  /-- ALM_LOG_WRITE_FUSE (R377): LOG_CTRL.OP 2 writes the staged record to flash and fuse. -/
  | almLogWriteFuse
  /-- ALM_LOG_READ (R377): LOG_CTRL.OP 3 reads record IDX into LOG_DATA. -/
  | almLogRead
  /-- ALM_LOG_OP_DONE (R377): An Almanac log operation, including any 20 ms erase, completes and BUSY clears. -/
  | almLogOpDone
  /-- PMB_GO (R379): Writing PWR_PMB_CTRL.GO starts a PMBus transaction. -/
  | pmbGo (w : Word)
  /-- PMB_DONE (R379): A PMBus transaction ends, setting NACK or PEC_ERR on failure and raising PMB_DONE. -/
  | pmbDone (reply : PmbReply)
  /-- MODE_REQ_SERVICE (R382): Writing SYS_MODE_REQ.REQ = 2 requests Service, or wakes the device from Sleep. -/
  | modeReqService
  /-- MODE_REQ_SLEEP (R383): Writing REQ = 4 begins Sleep entry, or is rejected while beams run or commits are pending. -/
  | modeReqSleep
  /-- MODE_REQ_EMBER (R382): Writing REQ = 5 enters Ember from Provisioning or Service. -/
  | modeReqEmber
  /-- SLEEP_ENTRY_COMPLETE (R383): Sleep entry finishes its steps and SYS_MODE reads 4. -/
  | sleepEntryComplete
  /-- WAKE_COMPLETE (R384): After a wake source, clocks, stacks and ports restart and the device is in its new mode. -/
  | wakeComplete
  /-- SYS_DBG_HALT (R386): Writing SYS_DBG.HALT = 1 enters Debug Halt where the life-cycle state permits. -/
  | sysDbgHalt
  /-- SYS_DBG_RESUME (R386): Writing SYS_DBG.HALT = 0 ends Debug Halt into the prior mode or Recovery. -/
  | sysDbgResume
  /-- COLD_RESET (R387): An accepted low on SYS_RESET_N begins a cold reset. -/
  | coldReset
  /-- SYS_RESET_N_RELEASE (R387): Release of SYS_RESET_N begins the boot sequence. -/
  | sysResetNRelease (straps : BitVec 2) (testmode : Bool)
  /-- WARM_RESET_REQUEST (R387): Writing SYS_RESET.WARM triggers a warm reset. -/
  | warmResetRequest (steward : Bool)
  /-- WARM_RESET_BEGIN (R387): 1 µs after its trigger, a warm reset flushes caches and holds every island in reset. -/
  | warmResetBegin
  /-- BOOT_STEP_DONE (R387): A step of the boot sequence completes and the next begins, ending with Provisioning reported. -/
  | bootStepDone (vdone : BitVec 4) (trained : BitVec 2) (pllLock : Bool)
  /-- SC_RESET (R389): Setting a bit of SYS_SC_CTRL.RESET holds that steward core in reset with zeroed TCMs. -/
  | scReset (mask : BitVec 4)
  /-- SC_RELOAD (R389): Writing SYS_SC_CTRL.RELOAD checks and reloads the steward image. -/
  | scReload (mask : BitVec 4)
  /-- BOOT_GO (R390): Writing SYS_BOOT_CTRL.GO resets the steward cores and fetches a steward image. -/
  | bootGo
  /-- BOOT_IMAGE_FETCHED (R244): The steward image has been fetched, hashed and written, and signature checking begins. -/
  | bootImageFetched (image : Option (List Byte))
  /-- BOOT_IMAGE_CHECKED (R244): Image checks end; named steward cores start or all TCMs are zeroed, and BOOT_DONE is raised. -/
  | bootImageChecked
  /-- PROVISION (R391): Life-cycle command PROVISION moves Manufacture to Provisioned. -/
  | provision
  /-- SEAL_STEWARD (R391): Life-cycle command SEAL_STEWARD fuses the customer steward digest. -/
  | sealSteward
  /-- SEAL_PL (R391): Life-cycle command SEAL_PL fuses the PL owner digest. -/
  | sealPl
  /-- DEPLOY (R391): Life-cycle command DEPLOY moves Provisioned to Deployed. -/
  | deploy
  /-- RAISE_FLOOR (R391): Life-cycle command RAISE_FLOOR makes the running image's SEQ its key's rollback minimum. -/
  | raiseFloor
  /-- RETURN (R392): Life-cycle command RETURN checks a token, clears PL and moves to Returned with a warm reset. -/
  | lcReturn
  /-- RETIRE (R391): Life-cycle command RETIRE moves the device to Retired with a warm reset. -/
  | retire
  /-- LC_DONE (R391): A life-cycle command completes, sets RESULT and raises LC_DONE. -/
  | lcDone (operand : Option (List Byte))
  /-- MGMT_READ_IDENTITY (R394): Management command 0x01 returns identity and serial. -/
  | mgmtReadIdentity
  /-- MGMT_READ_MODE (R394): Management command 0x02 returns SYS_MODE and SYS_LC_STATUS. -/
  | mgmtReadMode
  /-- MGMT_READ_THERMAL (R394): Management command 0x03 returns PWR_TMAX and PWR_TOTAL. -/
  | mgmtReadThermal
  /-- MGMT_READ_RESET_CAUSE (R394): Management command 0x04 returns the reset cause and powered hours. -/
  | mgmtReadResetCause
  /-- MGMT_READ_BOOT (R394): Management command 0x05 returns boot status, key ID and sequence. -/
  | mgmtReadBoot
  /-- WARM_RESET (R394): Management command 0x10 with 0xA5 triggers a warm reset when RESET_EN is 1. -/
  | warmReset (value : Byte)
  /-- TAP_RESET (R423): TRST_N or TMS resets the TAP. -/
  | tapReset
  /-- EXTEST (R424): TAP instruction EXTEST puts every ball under the boundary-scan register. -/
  | extest
  /-- IDCODE (R423): TAP instruction IDCODE selects the IDCODE register. -/
  | idcode
  /-- SAMPLE_PRELOAD (R423): TAP instruction SAMPLE/PRELOAD samples or preloads the boundary-scan register. -/
  | samplePreload
  /-- EXTEST_PULSE (R424): TAP instruction EXTEST_PULSE tests AC-coupled lanes under IEEE 1149.6. -/
  | extestPulse
  /-- EXTEST_TRAIN (R424): TAP instruction EXTEST_TRAIN tests AC-coupled lanes under IEEE 1149.6. -/
  | extestTrain
  /-- CLAMP (R424): TAP instruction CLAMP holds the balls from the boundary-scan register. -/
  | clamp
  /-- HIGHZ (R424): TAP instruction HIGHZ places the outputs high-impedance. -/
  | highz
  /-- DBG_HALT (R386): TAP instruction DBG_HALT enters Debug Halt where permitted. -/
  | dbgHalt
  /-- DBG_RESUME (R386): TAP instruction DBG_RESUME ends Debug Halt. -/
  | dbgResume
  /-- WARM (R387): TAP instruction WARM triggers a warm reset where permitted. -/
  | warm
  /-- LC_MANUFACTURE (R423): TAP instruction LC_MANUFACTURE moves a Blank device to Manufacture once the Kamnor digest is fused. -/
  | lcManufacture
  /-- STEWARD_DEBUG_ACCESS (R423): TAP instructions 0x31–0x3F give debug access to steward cores where permitted. -/
  | stewardDebugAccess (k : Fin 15)
  /-- BYPASS (R423): TAP instruction BYPASS, or any unlisted or unpermitted opcode, selects the bypass register. -/
  | bypass
  /-- BIST_GO (R406): Writing BIST_PROG_CTRL.GO fetches a slice program, where the access level permits. -/
  | bistGo
  /-- BIST_STOP (R406): Writing BIST_PROG_CTRL.STOP ends the program after the current slice. -/
  | bistStop
  /-- BIST_PROG_FETCHED (R406): The slice program has been read and its checks and signature verification proceed. -/
  | bistProgFetched (prog : Option (List Byte))
  /-- BIST_SLICE_BEGIN (R399): A slice begins once the engine, ledger, mode and quiet interval permit. -/
  | bistSliceBegin
  /-- BIST_SLICE_END (R407): A slice restores its rows, records faults and may start a soft repair. -/
  | bistSliceEnd (r : SliceEnd) (waited restoreHit : Bool)
  /-- BIST_PAUSE_EXPIRY (R406): The PAUSE between passes of a REPEAT program ends and the entries run again. -/
  | bistPauseExpiry
  /-- BIST_REPAIR_SOFT (R408): BIST_REPAIR_CTRL.OP 1 soft-repairs the fault recorded in BIST_FAIL. -/
  | bistRepairSoft
  /-- BIST_REPAIR_FUSE (R409): BIST_REPAIR_CTRL.OP 2 fuses every soft repair entry at ACCESS 2. -/
  | bistRepairFuse
  /-- REPAIR_DONE (R409): A repair operation completes and REPAIR_DONE is raised. -/
  | repairDone
  /-- PERST_N_RELEASE (R417): PERST_N is released and the PCIe link trains from the later of that release and boot step 2. -/
  | perstNRelease
  /-- CONFIGURATION_REQUEST (R331): A PCIe configuration request reaches the endpoint; it gets Configuration Request Retry Status before boot step 9, and otherwise its write sets Bus Master Enable, Memory Space Enable, the MSI-X function mask, the power state or the BAR2 size. -/
  | configurationRequest (q : ConfigReq)
  /-- ALIGNMENT_MARKER_MISSING (R250): The block slot of an expected alignment marker passes with no valid marker, and the third such slot in a row declares loss of lock, which is renegotiation cause 1. -/
  | alignmentMarkerMissing (p : Fin 8) (lane : Fin 4)
  /-- CELL_CRC_FAIL_RX (R252): A received cell fails its CRC or carries a reserved TYPE or header bit, is discarded, and is counted in RX_CRC or RX_BADTYPE; without FEC it counts toward cause 2. -/
  | cellCrcFailRx (p : Fin 8) (badType : Bool)
  /-- LANE_GRADE_TIMEOUT (R257): 100 ms after training begins at a rate, a lane not yet graded in both directions counts as failed at that rate. -/
  | laneGradeTimeout (p : Fin 8) (lane : Fin 4)
  /-- ARRIVING_LAPSE (R161): A full upstream frame period passes with no imported line and IMP_STATUS.ARRIVING falls to 0. -/
  | arrivingLapse (n : Fin 16) (k : Fin 3)
  /-- POWERED_HOUR (R380): Another powered hour elapses and ALM_HOURS rises by one. -/
  | poweredHour
  /-- ALWAYS_ON_OSCILLATOR_START (R417): The 32.768 kHz always-on oscillator begins to run after first power-up, and Sleep and Debug Halt requests stop being rejected. -/
  | alwaysOnOscillatorStart
deriving DecidableEq, Repr

end Sys2Proof
end

