-- ==== Sys2Proof/Decode.lean ====
section
/-! DEFINITION. Words that spell commands. No row of spec/opcode_table.json gives a command's bits: the commands reach the
block over its interfaces and pins. The words of the Fanel instructions are decoded in Machine/Operands.lean. -/

namespace Sys2Proof

/-- The command that a word of the table's bits spells: none, for the table gives no row any bits. -/
def decodeTableWord (_nbits _w : Nat) : Option Instr := none

end Sys2Proof
end

