-- ==== Sys2Proof/Machine/Bits.lean ====
section
/-! DEFINITION. Bit fields, sign extension, little-endian byte order (R2) and the canonical sparse
tables that the rest of the machine uses. -/

namespace Sys2Proof.Machine

/-- Field [hi:lo] of a word, as a number. -/
def fld (w : Word) (hi lo : Nat) : Nat := (w.toNat / 2 ^ lo) % 2 ^ (hi + 1 - lo)

/-- The word with field [hi:lo] replaced by v. -/
def setFld (w : Word) (hi lo v : Nat) : Word :=
  BitVec.ofNat 32 (w.toNat - fld w hi lo * 2 ^ lo + v % 2 ^ (hi + 1 - lo) * 2 ^ lo)

/-- Bit i of a word. -/
def bit (w : Word) (i : Nat) : Bool := w.getLsbD i

/-- The word with bit i set to b. -/
def setBit (w : Word) (i : Nat) (b : Bool) : Word := setFld w i i b.toNat

/-- Bit i of a number. -/
def nbit (n i : Nat) : Bool := n / 2 ^ i % 2 == 1

/-- Field [hi:lo] of a number. -/
def nfld (n hi lo : Nat) : Nat := n / 2 ^ lo % 2 ^ (hi + 1 - lo)

/-- The signed value of the low n bits of v. -/
def sx (n v : Nat) : Int := if v % 2 ^ n < 2 ^ (n - 1) then (v % 2 ^ n : Nat) else (v % 2 ^ n : Nat) - (2 ^ n : Nat)

/-- A signed value as an n-bit two's complement number. -/
def toTwos (n : Nat) (v : Int) : Nat := (v % (2 ^ n : Nat)).toNat

/-- Clamp a signed value between two bounds. -/
def clampInt (lo hi v : Int) : Int := if v < lo then lo else if hi < v then hi else v

/-- Ceiling of a natural quotient. -/
def ceilDiv (a b : Nat) : Nat := (a + b - 1) / b

/-- Byte i of a number (little-endian, R2). -/
def byteAt (n i : Nat) : Byte := BitVec.ofNat 8 (n / 256 ^ i)

/-- The first k bytes of a number, little-endian (R2). -/
def bytesLE (k n : Nat) : List Byte := (List.range k).map (byteAt n)

/-- The number that a little-endian byte list spells (R2). -/
def leNat : List Byte → Nat
  | [] => 0
  | b :: bs => b.toNat + 256 * leNat bs

/-- The little-endian 32-bit words of a byte list. -/
def leWords : Nat → List Byte → List Word
  | 0, _ => []
  | n + 1, bs => BitVec.ofNat 32 (leNat (bs.take 4)) :: leWords n (bs.drop 4)

/-- Serial-number order of two 32-bit epochs (R31). -/
def newer (a b : Word) : Bool := 1 ≤ (a - b).toNat && (a - b).toNat ≤ 2 ^ 31 - 1

/-- Value at a key of a table sorted by key. -/
def kvGet {α : Type} (k : Nat) : List (Nat × α) → Option α
  | [] => none
  | (a, v) :: t => if a = k then some v else kvGet k t

/-- The table without a key. -/
def kvDel {α : Type} (k : Nat) : List (Nat × α) → List (Nat × α)
  | [] => []
  | (a, v) :: t => if a = k then kvDel k t else (a, v) :: kvDel k t

/-- The table with a key set, kept sorted by key. -/
def kvSet {α : Type} (k : Nat) (x : α) : List (Nat × α) → List (Nat × α)
  | [] => [(k, x)]
  | (a, v) :: t => if a = k then (k, x) :: t else if k < a then (k, x) :: (a, v) :: t else (a, v) :: kvSet k x t

/-- The table with a key set, or removed when the value is the one an unlisted key has. -/
def kvPut {α : Type} [DecidableEq α] (dflt : α) (k : Nat) (x : α) (t : List (Nat × α)) : List (Nat × α) :=
  if x = dflt then kvDel k t else kvSet k x t

/-- Keys strictly rising. -/
def kvSorted {α : Type} : List (Nat × α) → Bool
  | [] => true
  | [_] => true
  | (a, _) :: (b, y) :: t => a < b && kvSorted ((b, y) :: t)

/-- A sorted set of numbers with one more member. -/
def setAdd (k : Nat) : List Nat → List Nat
  | [] => [k]
  | a :: t => if a = k then a :: t else if k < a then k :: a :: t else a :: setAdd k t

/-- A sorted set of numbers without a member. -/
def setDel (k : Nat) (l : List Nat) : List Nat := l.filter (· ≠ k)

/-- The list with element i replaced (unchanged outside the list). -/
def lset {α : Type} (l : List α) (i : Nat) (x : α) : List α := l.set i x

/-- Element of a fixed vector by a number, or a default outside it. -/
def vget {α : Type} {n : Nat} (v : Vector α n) (i : Nat) (d : α) : α := v.getD i d

/-- A vector with element i replaced; outside the vector nothing changes. -/
def vset {α : Type} {n : Nat} (v : Vector α n) (i : Nat) (x : α) : Vector α n := v.setIfInBounds i x

end Sys2Proof.Machine
end

