-- ==== Sys2Proof/Machine/RegName.lean ====
section
/-! DEFINITION. The names of every register of the BAR0 register maps (spec 02 to 20), one constructor
per register family; an index (beam, layer, ring, channel, word) picks the register of a family. -/

namespace Sys2Proof.Machine

/-- Every register family of the field maps; the docstring gives its fields as spec/ names them. -/
inductive RegName where
  /-- SYS_ID (spec 19, R395): VENDOR[15:0] RO DEVICE[31:16] RO. -/
  | sysId
  /-- SYS_STEP (spec 19, R395): STEPPING[7:0] RO. -/
  | sysStep
  /-- SYS_SERIAL_LO (spec 19, R395): SERIAL[31:0] RO. -/
  | sysSerialLo
  /-- SYS_SERIAL_HI (spec 19, R395): SERIAL[31:0] RO. -/
  | sysSerialHi
  /-- SYS_REJECT (spec 19, R395): ADDR[25:0] RO VALID[31] W1C. -/
  | sysReject
  /-- SYS_MODE (spec 19, R395): MODE[2:0] RO PREV[5:3] RO RECOVERY_NEXT[6] RO. -/
  | sysMode
  /-- SYS_MODE_REQ (spec 19, R395): REQ[2:0] WO. -/
  | sysModeReq
  /-- SYS_DBG (spec 19, R395): HALT[0] RW. -/
  | sysDbg
  /-- SYS_RESET (spec 19, R395): WARM[0] WO. -/
  | sysReset
  /-- SYS_RESET_CAUSE (spec 19, R395): CAUSE[3:0] RO. -/
  | sysResetCause
  /-- SYS_WAKE (spec 19, R395): PIN_EN[0] RW EDGE[1] RW PIN[7:2] RW TIME_EN[8] RW MGMT_EN[9] RW. -/
  | sysWake
  /-- SYS_WAKE_STATUS (spec 19, R395): HOST[0] W1C PIN[1] W1C TIME[2] W1C MGMT[3] W1C LOSS[4] W1C. -/
  | sysWakeStatus
  /-- SYS_WAKE_TIME_LO (spec 19, R395): TIME[31:0] RW. -/
  | sysWakeTimeLo
  /-- SYS_WAKE_TIME_HI (spec 19, R395): TIME[31:0] RW. -/
  | sysWakeTimeHi
  /-- SYS_SC_CTRL (spec 19, R395): RESET[3:0] RW RELOAD[4] WO. -/
  | sysScCtrl
  /-- SYS_SC_STATUS (spec 19, R395): STATE0[2:0] RO STATE1[5:3] RO STATE2[8:6] RO STATE3[11:9] RO. -/
  | sysScStatus
  /-- SYS_BOOT_CTRL (spec 19, R395): GO[0] WO SPACE[1] RWS AUTO[2] RWS. -/
  | sysBootCtrl
  /-- SYS_BOOT_ADDR_LO (spec 19, R395): ADDR_LO[31:6] RWS. -/
  | sysBootAddrLo
  /-- SYS_BOOT_ADDR_HI (spec 19, R395): ADDR_HI[31:0] RWS. -/
  | sysBootAddrHi
  /-- SYS_BOOT_STATUS (spec 19, R395): STATE[2:0] RO RESULT[6:3] RO KEY[8:7] RO STACK_FAIL[9] RO. -/
  | sysBootStatus
  /-- SYS_BOOT_KEYID (spec 19, R395): KEY_ID[31:0] RO. -/
  | sysBootKeyid
  /-- SYS_BOOT_SEQ_LO (spec 19, R395): SEQ[31:0] RO. -/
  | sysBootSeqLo
  /-- SYS_BOOT_SEQ_HI (spec 19, R395): SEQ[31:0] RO. -/
  | sysBootSeqHi
  /-- SYS_LC_STATUS (spec 19, R395): STATE[2:0] RO STEWARD_SEALED[3] RO PL_SEALED[4] RO TORN[5] RO BUSY[6] RO RESULT[10:7] RO FLOORS_LEFT[16:11] RO. -/
  | sysLcStatus
  /-- SYS_LC_CMD (spec 19, R395): CMD[3:0] WO. -/
  | sysLcCmd
  /-- SYS_LC_ADDR_LO (spec 19, R395): ADDR_LO[31:6] RW. -/
  | sysLcAddrLo
  /-- SYS_LC_ADDR_HI (spec 19, R395): ADDR_HI[31:0] RW. -/
  | sysLcAddrHi
  /-- SYS_MGMT_CTRL (spec 19, R395): RESET_EN[0] RW. -/
  | sysMgmtCtrl
  /-- SYS_FDROP (spec 19, R395): COUNT[30:0] RO SAT[31] W1C. -/
  | sysFdrop
  /-- SYS_PS_CTRL (spec 05, R111): SCRUB_EN[0] RW TBL_SCRUB_EN[1] RW. -/
  | sysPsCtrl
  /-- SYS_PS_SCRUB (spec 05, R111): PERIOD[7:0] RW TBL_PERIOD[23:8] RW. -/
  | sysPsScrub
  /-- SYS_PS_CACHE (spec 05, R111): BEAM_WAYS[4:0] RW. -/
  | sysPsCache
  /-- SYS_PS_STATUS (spec 05, R111): SELF_REFRESH[0] RO OOR[1] W1C UE[2] W1C TBL_UE[3] W1C INJECT_ARMED[4] RO. -/
  | sysPsStatus
  /-- SYS_PS_SCRUB_POS (spec 05, R111): LINE[29:0] RO. -/
  | sysPsScrubPos
  /-- SYS_PS_OOR (spec 05, R111): COUNT[30:0] RO SAT[31] W1C. -/
  | sysPsOor
  /-- SYS_PS_INJECT_LO (spec 05, R111): ADDR_LO[31:6] RW. -/
  | sysPsInjectLo
  /-- SYS_PS_INJECT_HI (spec 05, R111): ADDR_HI[3:0] RW. -/
  | sysPsInjectHi
  /-- SYS_PS_INJECT_CTRL (spec 05, R111): SYMBOLS[1:0] WO. -/
  | sysPsInjectCtrl
  /-- SYS_PS_RES (spec 05, R111): RES[8:0] RW. -/
  | sysPsRes
  /-- SYS_PS_RESMISS (spec 05, R111): COUNT[30:0] RO SAT[31] W1C. -/
  | sysPsResmiss
  /-- SYS_PS_S_CE1 (spec 05, R111): COUNT[30:0] RO SAT[31] W1C. -/
  | sysPsSCe1
  /-- SYS_PS_S_CE2 (spec 05, R111): COUNT[30:0] RO SAT[31] W1C. -/
  | sysPsSCe2
  /-- SYS_PS_S_UE (spec 05, R111): COUNT[30:0] RO SAT[31] W1C. -/
  | sysPsSUe
  /-- SYS_PS_S_POISON (spec 05, R111): COUNT[30:0] RO SAT[31] W1C. -/
  | sysPsSPoison
  /-- SYS_PS_S_LOG_LO (spec 05, R111): ADDR_LO[31:6] RO. -/
  | sysPsSLogLo
  /-- SYS_PS_S_LOG_HI (spec 05, R111): ADDR_HI[3:0] RO TABLE[7:4] RO CLIENT[15:8] RO KIND[17:16] RO VALID[31] W1C. -/
  | sysPsSLogHi
  /-- SYS_PS_TBL_CE1 (spec 05, R111): COUNT[30:0] RO SAT[31] W1C. -/
  | sysPsTblCe1
  /-- SYS_PS_TBL_CE2 (spec 05, R111): COUNT[30:0] RO SAT[31] W1C. -/
  | sysPsTblCe2
  /-- SYS_PS_TBL_UE (spec 05, R111): COUNT[30:0] RO SAT[31] W1C. -/
  | sysPsTblUe
  /-- SYS_PS_TBL_POISON (spec 05, R111): COUNT[30:0] RO SAT[31] W1C. -/
  | sysPsTblPoison
  /-- SYS_PS_TBL_LOG_LO (spec 05, R111): ADDR_LO[31:6] RO. -/
  | sysPsTblLogLo
  /-- SYS_PS_TBL_LOG_HI (spec 05, R111): ADDR_HI[3:0] RO TABLE[7:4] RO CLIENT[15:8] RO KIND[17:16] RO VALID[31] W1C. -/
  | sysPsTblLogHi
  /-- HST_CTRL (spec 03, R75): RINGS_EN[0] RW RESUME[1] WO WB_EN[2] RW. -/
  | hstCtrl
  /-- HST_STATUS (spec 03, R75): POLLING[0] RO RECOVERY[1] RO BAR2_OOR[2] W1C. -/
  | hstStatus
  /-- HST_REJECT (spec 03, R75): ADDR[25:0] RO VALID[31] W1C. -/
  | hstReject
  /-- HST_DB_BASE_LO (spec 03, R75): ADDR_LO[31:10] RW. -/
  | hstDbBaseLo
  /-- HST_DB_BASE_HI (spec 03, R75): ADDR_HI[31:0] RW. -/
  | hstDbBaseHi
  /-- HST_WB_BASE_LO (spec 03, R75): ADDR_LO[31:8] RW. -/
  | hstWbBaseLo
  /-- HST_WB_BASE_HI (spec 03, R75): ADDR_HI[31:0] RW. -/
  | hstWbBaseHi
  /-- HST_POLL (spec 03, R75): MIN[9:0] RW CURRENT[25:16] RO. -/
  | hstPoll
  /-- HST_POLL_CEIL0 (spec 03, R75): AMPLE[9:0] RW LEAN[25:16] RW. -/
  | hstPollCeil0
  /-- HST_POLL_CEIL1 (spec 03, R75): SCARCE[9:0] RW VIGIL[25:16] RW. -/
  | hstPollCeil1
  /-- HST_HB (spec 03, R75): TIMEOUT[15:0] RW. -/
  | hstHb
  /-- HST_LOSS (spec 03, R75): CAUSE[3:0] RWS. -/
  | hstLoss
  /-- HST_LOSS_STAMP_LO (spec 03, R75): STAMP[31:0] RWS. -/
  | hstLossStampLo
  /-- HST_LOSS_STAMP_HI (spec 03, R75): STAMP[31:0] RWS. -/
  | hstLossStampHi
  /-- HST_LOST (spec 03, R75): COUNT[30:0] RO SAT[31] W1C. -/
  | hstLost
  /-- HST_BAR2_OFFSET (spec 03, R75): GIB[5:0] RW. -/
  | hstBar2Offset
  /-- HST_EQ_BASE_LO (spec 03, R75): ADDR_LO[31:12] RW. -/
  | hstEqBaseLo
  /-- HST_EQ_BASE_HI (spec 03, R75): ADDR_HI[31:0] RW. -/
  | hstEqBaseHi
  /-- HST_EQ_CTRL (spec 03, R75): EN[0] RW SIZE_LOG2[5:1] RW. -/
  | hstEqCtrl
  /-- HST_EQ_STATUS (spec 03, R75): PI[16:0] RO PHASE[17] RO FULL[18] RO OVR[19] W1C DB_BAD[20] W1C. -/
  | hstEqStatus
  /-- HST_CR_BASE_LO (spec 03, R75): ADDR_LO[31:12] RW. -/
  | hstCrBaseLo
  /-- HST_CR_BASE_HI (spec 03, R75): ADDR_HI[31:0] RW. -/
  | hstCrBaseHi
  /-- HST_CR_CTRL (spec 03, R75): EN[0] RW SIZE_LOG2[5:1] RW CQ[11:6] RW PRIO[13:12] RW. -/
  | hstCrCtrl
  /-- HST_CR_STATUS (spec 03, R75): FETCH[16:0] RO STATE[18:17] RO DB_BAD[19] W1C FETCH_FAULT[20] W1C CQ_WAIT[21] RO. -/
  | hstCrStatus
  /-- HST_CQ_BASE_LO (spec 03, R75): ADDR_LO[31:12] RW. -/
  | hstCqBaseLo
  /-- HST_CQ_BASE_HI (spec 03, R75): ADDR_HI[31:0] RW. -/
  | hstCqBaseHi
  /-- HST_CQ_CTRL (spec 03, R75): EN[0] RW SIZE_LOG2[5:1] RW. -/
  | hstCqCtrl
  /-- HST_CQ_STATUS (spec 03, R75): PI[16:0] RO PHASE[17] RO FULL[18] RO OVR[19] W1C DB_BAD[20] W1C. -/
  | hstCqStatus
  /-- HST_MSIX_ADDR_LO (spec 03, R75): ADDR_LO[31:2] RW. -/
  | hstMsixAddrLo
  /-- HST_MSIX_ADDR_HI (spec 03, R75): ADDR_HI[31:0] RW. -/
  | hstMsixAddrHi
  /-- HST_MSIX_DATA (spec 03, R75): DATA[31:0] RW. -/
  | hstMsixData
  /-- HST_MSIX_MASK (spec 03, R75): MASK[0] RW. -/
  | hstMsixMask
  /-- HST_MSIX_PBA (spec 03, R75): PENDING[31:0] RO. -/
  | hstMsixPba
  /-- EVT_CTRL (spec 16, R345): EN[0] RW. -/
  | evtCtrl
  /-- EVT_REJECT (spec 16, R345): ADDR[25:0] RO VALID[31] W1C. -/
  | evtReject
  /-- EVT_STRANDED (spec 16, R345): COUNT[30:0] RO SAT[31] W1C. -/
  | evtStranded
  /-- EVT_SPURIOUS (spec 16, R345): COUNT[30:0] RO SAT[31] W1C. -/
  | evtSpurious
  /-- EVT_SWI (spec 16, R345): RAISE[31:0] W1S. -/
  | evtSwi
  /-- EVT_CORE_CTRL (spec 16, R345): FALLBACK[8:0] RW FB_EN[9] RW WAKE[10] RW. -/
  | evtCoreCtrl
  /-- EVT_CORE_STATUS (spec 16, R345): CLAIMED[9:0] RO LEVEL[19:16] RO PRESENTED[20] RO WAITING[21] RO. -/
  | evtCoreStatus
  /-- EVT_PEND (spec 16, R345): SRC[31:0] RO. -/
  | evtPend
  /-- EVT_ACTIVE (spec 16, R345): SRC[31:0] RO. -/
  | evtActive
  /-- EVT_Q_REC (spec 16, R345): WORD[31:0] RO. -/
  | evtQRec
  /-- EVT_Q_RES (spec 16, R345): CELLS[14:0] RW. -/
  | evtQRes
  /-- EVT_Q_STATUS (spec 16, R345): USED[14:0] RO FULL[15] RO OVR[16] W1C. -/
  | evtQStatus
  /-- EVT_SRC_CFG (spec 16, R345): EN[0] RW REC[1] RW PRIO[5:2] RW TARGET[14:6] RW. -/
  | evtSrcCfg
  /-- EVT_SRC_COAL (spec 16, R345): N[7:0] RW TIME[23:8] RW. -/
  | evtSrcCoal
  /-- EVT_SRC_STATUS (spec 16, R345): PENDING[0] W1C ACTIVE[1] RO STRANDED[2] W1C SAT[3] W1C COUNT[31:16] RO. -/
  | evtSrcStatus
  /-- TMR_TB_LO (spec 16, R345): COUNT[31:0] RO. -/
  | tmrTbLo
  /-- TMR_TB_HI (spec 16, R345): COUNT[31:0] RO. -/
  | tmrTbHi
  /-- TMR_TB_SET_LO (spec 16, R345): VALUE[31:0] RW. -/
  | tmrTbSetLo
  /-- TMR_TB_SET_HI (spec 16, R345): VALUE[31:0] RW. -/
  | tmrTbSetHi
  /-- TMR_TB_CTRL (spec 16, R345): LOAD[0] WO SLOW[1] RO. -/
  | tmrTbCtrl
  /-- TMR_REJECT (spec 16, R345): ADDR[25:0] RO VALID[31] W1C. -/
  | tmrReject
  /-- TMR_CMP_VALUE (spec 16, R345): VALUE[31:0] RW. -/
  | tmrCmpValue
  /-- TMR_CMP_PERIOD (spec 16, R345): PERIOD[31:0] RW. -/
  | tmrCmpPeriod
  /-- TMR_CMP_CTRL (spec 16, R345): EN[0] RW FIRE[1] WO OUT[3:2] RW. -/
  | tmrCmpCtrl
  /-- TMR_CMP_STATUS (spec 16, R345): ARMED[0] RO BEHIND[1] W1C FIRED[2] W1C. -/
  | tmrCmpStatus
  /-- TMR_CAP_CTRL (spec 16, R345): SEL[9:0] RW EN[10] RW LOG[11] RW. -/
  | tmrCapCtrl
  /-- TMR_CAP_LO (spec 16, R345): STAMP[31:0] RO. -/
  | tmrCapLo
  /-- TMR_CAP_HI (spec 16, R345): STAMP[31:0] RO. -/
  | tmrCapHi
  /-- TMR_CAP_STATUS (spec 16, R345): VALID[0] RO OVR[1] W1C LOG_OVR[2] W1C LOG_COUNT[7:3] RO. -/
  | tmrCapStatus
  /-- TMR_CAP_LOG (spec 16, R345): WORD[31:0] RO. -/
  | tmrCapLog
  /-- TMR_IT_CTRL (spec 16, R345): EN[0] RW ONESHOT[1] RW. -/
  | tmrItCtrl
  /-- TMR_IT_RELOAD (spec 16, R345): PERIOD[31:0] RW. -/
  | tmrItReload
  /-- TMR_IT_LOAD (spec 16, R345): VALUE[31:0] WO. -/
  | tmrItLoad
  /-- TMR_IT_COUNT (spec 16, R345): COUNT[31:0] RO. -/
  | tmrItCount
  /-- TMR_IT_EXP (spec 16, R345): COUNT[30:0] RO SAT[31] W1C. -/
  | tmrItExp
  /-- GPIO_REJECT (spec 17, R357): ADDR[25:0] RO VALID[31] W1C. -/
  | gpioReject
  /-- GPIO_BANK (spec 17, R357): PRESENT[3:0] RO V33[7:4] RO. -/
  | gpioBank
  /-- GPIO_OUT (spec 17, R357): OUT[31:0] RW. -/
  | gpioOut
  /-- GPIO_SET (spec 17, R357): OUT[31:0] W1S. -/
  | gpioSet
  /-- GPIO_CLR (spec 17, R357): OUT[31:0] W1C. -/
  | gpioClr
  /-- GPIO_PAD (spec 17, R357): PAD[31:0] RO. -/
  | gpioPad
  /-- GPIO_FILT (spec 17, R357): FILT[31:0] RO. -/
  | gpioFilt
  /-- GPIO_P_CTRL (spec 17, R357): FUNC[3:0] RW SEL[9:4] RW DIR[10] RW OD[11] RW PULL[13:12] RW DRIVE[15:14] RW. -/
  | gpioPCtrl
  /-- GPIO_P_IN (spec 17, R357): IRQ[2:0] RW FILT[11:4] RW DIV[14:12] RW. -/
  | gpioPIn
  /-- PWR_REJECT (spec 18, R380): ADDR[25:0] RO VALID[31] W1C. -/
  | pwrReject
  /-- PWR_STATUS (spec 18, R380): STATE[1:0] RO FW[3:2] RO PFLOOR[5:4] RO TFLOOR[7:6] RO STALE[8] RO TRIP[9] RO TRIPPED[10] W1C. -/
  | pwrStatus
  /-- PWR_LEDGER (spec 18, R380): STATE[1:0] RW. -/
  | pwrLedger
  /-- PWR_CFG (spec 18, R380): WIN[9:0] RW TIMEOUT[23:16] RW. -/
  | pwrCfg
  /-- PWR_CAP (spec 18, R380): LEAN_W[7:0] RW SCARCE_W[15:8] RW HYST_W[23:16] RW. -/
  | pwrCap
  /-- PWR_THERM (spec 18, R380): TJ_LEAN[7:0] RW TJ_SCARCE[15:8] RW THYST[23:16] RW. -/
  | pwrTherm
  /-- PWR_TOTAL (spec 18, R380): MW[17:0] RO. -/
  | pwrTotal
  /-- PWR_TMAX (spec 18, R380): T[15:0] RO SENSOR[21:16] RO. -/
  | pwrTmax
  /-- PWR_BEAM_MIN (spec 18, R380): LEAN_DEPTH[3:0] RW SCARCE_DEPTH[7:4] RW. -/
  | pwrBeamMin
  /-- PWR_BEAM_TGT (spec 18, R380): DEPTH[3:0] RW. -/
  | pwrBeamTgt
  /-- PWR_ISL (spec 18, R380): MW[15:0] RO. -/
  | pwrIsl
  /-- PWR_TS (spec 18, R380): T[15:0] RO. -/
  | pwrTs
  /-- PWR_RAIL_CFG (spec 18, R380): RAIL[3:0] RW CLK[5:4] RW. -/
  | pwrRailCfg
  /-- PWR_RAIL_CTRL (spec 18, R380): VSET[9:0] RW. -/
  | pwrRailCtrl
  /-- PWR_RAIL_STATUS (spec 18, R380): VREQ[9:0] RO BAND[11:10] RO KIND[12] RO STALE[13] W1C AVS_FAULT[14] W1C VSENT[25:16] RO. -/
  | pwrRailStatus
  /-- PWR_RAIL_READ (spec 18, R380): VREAD[15:0] RO. -/
  | pwrRailRead
  /-- PWR_PLAN_W0 (spec 18, R380): PLAN_ID[31:0] RW. -/
  | pwrPlanW0
  /-- PWR_PLAN_W1 (spec 18, R380): GROUP[1:0] RW BAND[3:2] RW GUARD[9:4] RW TJ[31:16] RW. -/
  | pwrPlanW1
  /-- PWR_PLAN_W (spec 18, R380): V_EVEN[9:0] RW V_ODD[25:16] RW. -/
  | pwrPlanW
  /-- PWR_PLAN_CTRL (spec 18, R380): LEAP[0] WO. -/
  | pwrPlanCtrl
  /-- PWR_PLAN_STATUS (spec 18, R380): STATE[1:0] RO RESULT[5:2] RO. -/
  | pwrPlanStatus
  /-- PWR_LIVE (spec 18, R380): WORD[31:0] RO. -/
  | pwrLive
  /-- PWR_DAT (spec 18, R380): MV[7:0] RW FACTORY[15:8] RO. -/
  | pwrDat
  /-- PWR_PMB_CTRL (spec 18, R380): ADDR[6:0] RW CMD[15:8] RW LEN[18:16] RW READ[19] RW PEC[20] RW GO[21] WO. -/
  | pwrPmbCtrl
  /-- PWR_PMB_DATA (spec 18, R380): DATA[31:0] RW. -/
  | pwrPmbData
  /-- PWR_PMB_STATUS (spec 18, R380): BUSY[0] RO NACK[1] W1C PEC_ERR[2] W1C. -/
  | pwrPmbStatus
  /-- ALM_CTRL (spec 18, R380): EN[0] RW SAMPLE[1] WO PERIOD[15:4] RW. -/
  | almCtrl
  /-- ALM_STAMP_LO (spec 18, R380): STAMP[31:0] RO. -/
  | almStampLo
  /-- ALM_STAMP_HI (spec 18, R380): STAMP[31:0] RO. -/
  | almStampHi
  /-- ALM_HOURS (spec 18, R380): HOURS[31:0] RWS. -/
  | almHours
  /-- ALM_LEAP (spec 18, R380): CHECK_MS[9:0] RW TED_MAX[17:10] RW CPR_MIN_PS[25:18] RW. -/
  | almLeap
  /-- ALM_LOG_CTRL (spec 18, R380): OP[1:0] WO. -/
  | almLogCtrl
  /-- ALM_LOG_IDX (spec 18, R380): INDEX[11:0] RW FUSE[12] RW. -/
  | almLogIdx
  /-- ALM_LOG_STATUS (spec 18, R380): BUSY[0] RO FLASH[13:1] RO FUSE[24:14] RO FUSE_FULL[25] RO HW_OVR[26] W1C. -/
  | almLogStatus
  /-- ALM_LOG_TORN (spec 18, R380): COUNT[30:0] RO SAT[31] W1C. -/
  | almLogTorn
  /-- ALM_LOG_DATA (spec 18, R380): WORD[31:0] RW. -/
  | almLogData
  /-- ALM_M_ID (spec 18, R380): KIND[1:0] RO DOMAIN[7:2] RO SENSOR[13:8] RO. -/
  | almMId
  /-- ALM_M_VAL (spec 18, R380): VALUE[15:0] RO. -/
  | almMVal
  /-- ALM_M_REF (spec 18, R380): VALUE[15:0] RO. -/
  | almMRef
  /-- ALM_M_TED (spec 18, R380): COUNT[30:0] RO SAT[31] W1C. -/
  | almMTed
  /-- BIST_CTRL (spec 20, R410): EN[0] RW AUTO_SOFT[1] RW BUDGET[15:8] RW. -/
  | bistCtrl
  /-- BIST_STATUS (spec 20, R410): STATE[2:0] RO RESULT[6:3] RO ACCESS[8:7] RO ENTRY[16:9] RO. -/
  | bistStatus
  /-- BIST_REJECT (spec 20, R410): ADDR[25:0] RO VALID[31] W1C. -/
  | bistReject
  /-- BIST_PROG_LO (spec 20, R410): ADDR_LO[31:6] RW. -/
  | bistProgLo
  /-- BIST_PROG_HI (spec 20, R410): ADDR_HI[31:0] RW. -/
  | bistProgHi
  /-- BIST_PROG_CTRL (spec 20, R410): GO[0] WO STOP[1] WO SPACE[2] RW. -/
  | bistProgCtrl
  /-- BIST_KEYID (spec 20, R410): KEY_ID[31:0] RO. -/
  | bistKeyid
  /-- BIST_COUNT (spec 20, R410): COUNT[30:0] RO SAT[31] W1C. -/
  | bistCount
  /-- BIST_FAIL_LO (spec 20, R410): ROW[23:0] RO. -/
  | bistFailLo
  /-- BIST_FAIL_HI (spec 20, R410): CLASS[3:0] RO PART[9:4] RO UNIT[15:10] RO REPAIRABLE[17:16] RO BIT[27:18] RO KIND[29:28] RO VALID[31] W1C. -/
  | bistFailHi
  /-- BIST_REPAIR_CTRL (spec 20, R410): OP[1:0] WO. -/
  | bistRepairCtrl
  /-- BIST_REPAIR_STATUS (spec 20, R410): SOFT[9:0] RO FUSED[18:10] RO BUSY[19] RO RESULT[21:20] RO TORN[31:22] RO. -/
  | bistRepairStatus
  /-- DMA_RUN (spec 15, R324): RUN[31:0] RO. -/
  | dmaRun
  /-- DMA_REJECT (spec 15, R324): ADDR[25:0] RO VALID[31] W1C. -/
  | dmaReject
  /-- DMA_CH_CTRL (spec 15, R324): GO[0] WO STOP[1] WO SPACE[2] RW PRIO[4:3] RW. -/
  | dmaChCtrl
  /-- DMA_CH_STATUS (spec 15, R324): STATE[2:0] RO CODE[10:3] RO STOPPED[11] W1C WAIT_SKIP[12] W1C DIRECT[13] RO. -/
  | dmaChStatus
  /-- DMA_CH_PROG_LO (spec 15, R324): ADDR_LO[31:6] RW. -/
  | dmaChProgLo
  /-- DMA_CH_PROG_HI (spec 15, R324): ADDR_HI[31:0] RW. -/
  | dmaChProgHi
  /-- DMA_CH_BLOCK (spec 15, R324): NEXT[31:0] RO. -/
  | dmaChBlock
  /-- DMA_CH_BAD (spec 15, R324): COUNT[30:0] RO SAT[31] W1C. -/
  | dmaChBad
  /-- DMA_CH_BAD_FIRST (spec 15, R324): BLOCK[31:0] RO. -/
  | dmaChBadFirst
  /-- DMA_CH_BAD_LAST (spec 15, R324): BLOCK[31:0] RO. -/
  | dmaChBadLast
  /-- DMA_CH_ERR (spec 15, R324): KIND[2:0] RO SPACE[3] RO. -/
  | dmaChErr
  /-- DMA_CH_ERR_ADDR_LO (spec 15, R324): ADDR[31:0] RO. -/
  | dmaChErrAddrLo
  /-- DMA_CH_ERR_ADDR_HI (spec 15, R324): ADDR[31:0] RO. -/
  | dmaChErrAddrHi
  /-- DMA_CH_SIG_LAST (spec 15, R324): BLOCK[30:0] RO BAD[31] RO. -/
  | dmaChSigLast
  /-- BLT_CTRL (spec 14, R309): ENG_EN[3:0] RW. -/
  | bltCtrl
  /-- BLT_STATUS (spec 14, R309): QUEUED[5:0] RO BUSY[9:6] RO. -/
  | bltStatus
  /-- BLT_REJECT (spec 14, R309): ADDR[25:0] RO VALID[31] W1C. -/
  | bltReject
  /-- BLT_STAGE_BASE (spec 14, R309): ADDR[19:0] RW. -/
  | bltStageBase
  /-- BLT_STAGE_SIZE (spec 14, R309): UNITS[15:0] RW. -/
  | bltStageSize
  /-- BLT_E_STATUS (spec 14, R309): STATE[1:0] RO RING[15:8] RO. -/
  | bltEStatus
  /-- BLT_E_PROGRESS (spec 14, R309): ROWS[16:0] RO. -/
  | bltEProgress
  /-- BLT_DENY (spec 14, R309): COUNT[30:0] RO SAT[31] W1C. -/
  | bltDeny
  /-- BLT_POISON (spec 14, R309): COUNT[30:0] RO SAT[31] W1C. -/
  | bltPoison
  /-- BLT_DIRECT (spec 14, R309): WORD[31:0] RW. -/
  | bltDirect
  /-- BLT_DIRECT_CTRL (spec 14, R309): GO[0] WO. -/
  | bltDirectCtrl
  /-- BLT_DIRECT_STATUS (spec 14, R309): CODE[7:0] RO BUSY[8] RO. -/
  | bltDirectStatus
  /-- AUD_CTRL (spec 13, R295): EN[0] RW ZC_TIMEOUT[15:8] RW. -/
  | audCtrl
  /-- AUD_STATUS (spec 13, R295): LOCK[1:0] RO OPT_BYPASS[2] RO. -/
  | audStatus
  /-- AUD_REJECT (spec 13, R295): ADDR[25:0] RO VALID[31] W1C. -/
  | audReject
  /-- AUD_CLK (spec 13, R295): SRC[1:0] RW INDEX[7:2] RW FRAMES_M1[11:8] RW. -/
  | audClk
  /-- AUD_CLK_SPF (spec 13, R295): SPF[16:0] RW. -/
  | audClkSpf
  /-- AUD_PHASE_ERR (spec 13, R295): E[31:0] RO. -/
  | audPhaseErr
  /-- AUD_SAMPLE (spec 13, R295): INDEX[31:0] RO. -/
  | audSample
  /-- AUD_FRAME_SAMPLE (spec 13, R295): INDEX[31:0] RO. -/
  | audFrameSample
  /-- AUD_SWAP (spec 13, R295): BUS[31:0] WO. -/
  | audSwap
  /-- AUD_BUS_LIVE (spec 13, R295): SET[31:0] RO. -/
  | audBusLive
  /-- AUD_BUS_OPT (spec 13, R295): OPT[31:0] RW. -/
  | audBusOpt
  /-- AUD_FETCH_LATE (spec 13, R295): COUNT[30:0] RO SAT[31] W1C. -/
  | audFetchLate
  /-- AUD_VEV_BAD (spec 13, R295): COUNT[30:0] RO SAT[31] W1C. -/
  | audVevBad
  /-- AUD_VEV_LATE (spec 13, R295): COUNT[30:0] RO SAT[31] W1C. -/
  | audVevLate
  /-- AUD_XFADE_CUT (spec 13, R295): COUNT[30:0] RO SAT[31] W1C. -/
  | audXfadeCut
  /-- AUD_DATA_BAD (spec 13, R295): COUNT[30:0] RO SAT[31] W1C. -/
  | audDataBad
  /-- AUD_VEND (spec 13, R295): END[31:0] W1C. -/
  | audVend
  /-- AUD_OC (spec 13, R295): TRIM[13:0] RW MUTE[14] RW. -/
  | audOc
  /-- AUD_TDM_CTRL (spec 13, R295): EN[0] RW SLOTS_M1[4:1] RW WIDTH[6:5] RW I2S[7] RW FS_DIR[8] RW BCLK_EDGE[9] RW FS_POL[10] RW BASE[21:16] RW. -/
  | audTdmCtrl
  /-- AUD_TDM_SLIP (spec 13, R295): COUNT[30:0] RO SAT[31] W1C. -/
  | audTdmSlip
  /-- AUD_TDM_FRAME_ERR (spec 13, R295): COUNT[30:0] RO SAT[31] W1C. -/
  | audTdmFrameErr
  /-- AUD_LINK_BASE (spec 13, R295): BASE[5:0] RW. -/
  | audLinkBase
  /-- AUD_FEED_DATA (spec 13, R295): SAMPLE[31:0] WO. -/
  | audFeedData
  /-- AUD_FEED_STATUS (spec 13, R295): COUNT[12:0] RO FULL[13] RO OVR[14] W1C. -/
  | audFeedStatus
  /-- AUD_FEED_UNDER (spec 13, R295): COUNT[30:0] RO SAT[31] W1C. -/
  | audFeedUnder
  /-- AUD_VEQ_W (spec 13, R295): RECORD[31:0] RW. -/
  | audVeqW
  /-- AUD_VEQ_RES (spec 13, R295): CELLS[14:0] RW. -/
  | audVeqRes
  /-- AUD_VEQ_STATUS (spec 13, R295): USED[14:0] RO FULL[15] RO OVR[16] W1C. -/
  | audVeqStatus
  /-- AUD_BUS_BQ0 (spec 13, R295): B0[31:0] RW. -/
  | audBusBq0
  /-- AUD_BUS_BQ (spec 13, R295): COEF[31:0] RW. -/
  | audBusBq
  /-- AUD_BUS_BQEN (spec 13, R295): BQ_EN[3:0] RW. -/
  | audBusBqen
  /-- AUD_BUS_COMP (spec 13, R295): COMP_EN[0] RW RATIO[15:8] RW MAKEUP[31:16] RW. -/
  | audBusComp
  /-- AUD_BUS_THRESH (spec 13, R295): THRESH[31:0] RW. -/
  | audBusThresh
  /-- AUD_BUS_TIME (spec 13, R295): COEF[31:0] RW. -/
  | audBusTime
  /-- AUD_BUS_DLY_BASE (spec 13, R295): DLY_BASE[29:0] RW. -/
  | audBusDlyBase
  /-- AUD_BUS_DLY_LEN (spec 13, R295): DLY_LEN[17:0] RW. -/
  | audBusDlyLen
  /-- AUD_BUS_FBWET (spec 13, R295): FB[15:0] RW WET[31:16] RW. -/
  | audBusFbwet
  /-- AUD_BUS_DRY (spec 13, R295): DRY[15:0] RW. -/
  | audBusDry
  /-- AUD_BUS_GAIN (spec 13, R295): OUT_GAIN[13:0] RW. -/
  | audBusGain
  /-- Words 30 and 31 of a bus parameter set (spec 13, R295): reserved. -/
  | audBusEnd
  /-- AUD_XP (spec 13, R295): SRC[10:0] RW DST[17:11] RW GAIN[31:18] RW. -/
  | audXp
  /-- AUD_V0 (spec 13, R295): FMT[3:0] RW LOOP[4] RW FEED[7:5] RW TABLE_LOG2[11:8] RW. -/
  | audV0
  /-- AUD_V1 (spec 13, R295): DATA[29:0] RW. -/
  | audV1
  /-- AUD_V2 (spec 13, R295): LENGTH[31:0] RW. -/
  | audV2
  /-- AUD_V3 (spec 13, R295): LOOP_START[31:0] RW. -/
  | audV3
  /-- AUD_V4 (spec 13, R295): PITCH[19:0] RW. -/
  | audV4
  /-- AUD_V5 (spec 13, R295): GAIN[13:0] RW. -/
  | audV5
  /-- AUD_V6 (spec 13, R295): POS[31:0] RO. -/
  | audV6
  /-- AUD_V7 (spec 13, R295): STATE[1:0] RO. -/
  | audV7
  /-- LNK_REJECT (spec 12, R271): ADDR[25:0] RO VALID[31] W1C. -/
  | lnkReject
  /-- LNK_ROUTE (spec 12, R271): SET_A[7:0] RW SET_B[15:8] RW LINE_GRAN[16] RW. -/
  | lnkRoute
  /-- LNK_P_CTRL (spec 12, R271): EN[0] RW RATES[3:1] RW LANE_MASK[7:4] RW FEC_EN[8] RW FEC_REQ[9] RW REACH[10] RW RENEG[11] WO UCW_MAX[23:16] RW. -/
  | lnkPCtrl
  /-- LNK_P_AUDIO (spec 12, R271): CHANNELS[5:0] RW. -/
  | lnkPAudio
  /-- LNK_P_RX_CTRL (spec 12, R271): REF_BEAM[3:0] RW. -/
  | lnkPRxCtrl
  /-- LNK_P_STATUS (spec 12, R271): STATE[2:0] RO RATE[4:3] RO LANES[8:5] RO FEC[9] RO OVERLOAD[10] RO FMT_MISMATCH[11] RO AUD_TRUNC[12] RO CAUSE[15:13] RO ATTEMPTS[19:16] RO. -/
  | lnkPStatus
  /-- LNK_P_PEER (spec 12, R271): FORMATS[5:0] RO AUDIO[11:6] RO REPEAT[12] RO FENCE[13] RO. -/
  | lnkPPeer
  /-- LNK_P_PEER_DEPTH (spec 12, R271): DEPTH[15:0] RO. -/
  | lnkPPeerDepth
  /-- LNK_P_PEER_ID_LO (spec 12, R271): DEVICE[31:0] RO. -/
  | lnkPPeerIdLo
  /-- LNK_P_PEER_ID_HI (spec 12, R271): DEVICE[31:0] RO. -/
  | lnkPPeerIdHi
  /-- LNK_P_GRADE (spec 12, R271): LOCAL[7:0] RO REMOTE[15:8] RO RATE[17:16] RO. -/
  | lnkPGrade
  /-- LNK_P_CREDIT (spec 12, R271): AVAIL[15:0] RO UNLIMITED[16] RO. -/
  | lnkPCredit
  /-- LNK_P_LOAD (spec 12, R271): REQ[15:0] RO AVAIL[31:16] RO. -/
  | lnkPLoad
  /-- LNK_P_COUNT (spec 12, R271): COUNT[30:0] RO SAT[31] W1C. -/
  | lnkPCount
  /-- LNK_P_FEC_CE (spec 12, R271): COUNT[30:0] RO SAT[31] W1C. -/
  | lnkPFecCe
  /-- LNK_P_FEC_UE (spec 12, R271): COUNT[30:0] RO SAT[31] W1C. -/
  | lnkPFecUe
  /-- LNK_P_MASQ_CTRL (spec 12, R271): ACTION[2:0] RW ARG[15:8] RW TYPES[19:16] RW RANDOM[20] RW. -/
  | lnkPMasqCtrl
  /-- LNK_P_MASQ_BEAMS (spec 12, R271): BEAMS[15:0] RW. -/
  | lnkPMasqBeams
  /-- LNK_P_MASQ_LINE (spec 12, R271): LINE[13:0] RW LINE_EN[14] RW CIDX[25:16] RW CIDX_EN[26] RW. -/
  | lnkPMasqLine
  /-- LNK_P_MASQ_PERIOD (spec 12, R271): PERIOD[23:0] RW. -/
  | lnkPMasqPeriod
  /-- LNK_P_MASQ_LIMIT (spec 12, R271): LIMIT[15:0] RW. -/
  | lnkPMasqLimit
  /-- LNK_P_MASQ_STATUS (spec 12, R271): INJECTED[15:0] RO DONE[16] W1C NOFEC[17] W1C. -/
  | lnkPMasqStatus
  /-- BEAM_CTRL (spec 04, R94): RUN[0] RW. -/
  | beamCtrl
  /-- BEAM_CLK (spec 04, R94): FREQ[30:0] RW. -/
  | beamClk
  /-- BEAM_CLK_FRAC (spec 04, R94): FRAC[15:0] RW. -/
  | beamClkFrac
  /-- BEAM_ACTIVE (spec 04, R94): COLS[15:0] RW LINES[29:16] RW. -/
  | beamActive
  /-- BEAM_TOTAL (spec 04, R94): COLS[15:0] RW LINES[30:16] RW. -/
  | beamTotal
  /-- BEAM_HSYNC (spec 04, R94): START[15:0] RW WIDTH[27:16] RW POL[31] RW. -/
  | beamHsync
  /-- BEAM_VSYNC (spec 04, R94): START[13:0] RW WIDTH[23:16] RW POL[31] RW. -/
  | beamVsync
  /-- BEAM_CALENDS (spec 04, R94): LEAD[7:0] RW. -/
  | beamCalends
  /-- BEAM_GENLOCK (spec 04, R94): SRC[2:0] RW EDGE[3] RW INDEX[9:4] RW MULT[13:10] RW JUMP_EN[15] RW PULL[25:16] RW. -/
  | beamGenlock
  /-- BEAM_GENLOCK_OFS (spec 04, R94): OFFSET[31:0] RW. -/
  | beamGenlockOfs
  /-- BEAM_GENLOCK_WIN (spec 04, R94): LOCK_NS[15:0] RW. -/
  | beamGenlockWin
  /-- BEAM_VIGIL (spec 04, R94): EN[0] RW QUIET[15:8] RW REFRESH_DIV[31:16] RW. -/
  | beamVigil
  /-- BEAM_LINE_MATCH (spec 04, R94): LINE[13:0] RW EN[31] RW. -/
  | beamLineMatch
  /-- BEAM_STATUS (spec 04, R94): RUNNING[0] RO VIGIL[1] RO LOCK[3:2] RO TIMING_HELD[4] W1C VIGIL_DENIED[5] RO JUMP[6] W1C LOST[7] W1C CHECK[11:8] RO. -/
  | beamStatus
  /-- BEAM_POS (spec 04, R94): LINE[13:0] RO FRAME[31:16] RO. -/
  | beamPos
  /-- BEAM_FRAME_LO (spec 04, R94): COUNT_LO[31:0] RO. -/
  | beamFrameLo
  /-- BEAM_FRAME_HI (spec 04, R94): COUNT_HI[15:0] RO SAT[31] W1C. -/
  | beamFrameHi
  /-- BEAM_PHASE_ERR (spec 04, R94): E[31:0] RO. -/
  | beamPhaseErr
  /-- BEAM_CLK_ACTUAL (spec 04, R94): FREQ[30:0] RO. -/
  | beamClkActual
  /-- BEAM_VIGIL_FRAMES (spec 04, R94): COUNT[30:0] RO SAT[31] W1C. -/
  | beamVigilFrames
  /-- BEAM_JUMPS (spec 04, R94): COUNT[30:0] RO SAT[31] W1C. -/
  | beamJumps
  /-- BEAM_REJECT (spec 04, R94): ADDR[25:0] RO VALID[31] W1C. -/
  | beamReject
  /-- TMAP_CTRL (spec 06, R127): EN[0] RW TILE_SIZE[2:1] RW FMT[5:3] RW MODE[6] RW WRAP_X[7] RW WRAP_Y[8] RW ZERO_TRANS[9] RW. -/
  | tmapCtrl
  /-- TMAP_MAP_BASE (spec 06, R127): ADDR[23:0] RW. -/
  | tmapMapBase
  /-- TMAP_TILE_BASE (spec 06, R127): ADDR[23:0] RW. -/
  | tmapTileBase
  /-- TMAP_MAP_SIZE (spec 06, R127): WIDTH_LOG2[4:0] RW HEIGHT_LOG2[12:8] RW. -/
  | tmapMapSize
  /-- TMAP_SCROLL (spec 06, R127): FRAC[3:0] RW INT[24:4] RW. -/
  | tmapScroll
  /-- TMAP_VEL (spec 06, R127): VX[15:0] RW VY[31:16] RW. -/
  | tmapVel
  /-- TMAP_PAL (spec 06, R127): PAL_ADD[5:0] RW. -/
  | tmapPal
  /-- TMAP_MOSAIC (spec 06, R127): MX[3:0] RW MY[11:8] RW. -/
  | tmapMosaic
  /-- TMAP_WIN_X (spec 06, R127): LEFT[14:0] RW RIGHT[30:16] RW. -/
  | tmapWinX
  /-- TMAP_WIN_Y (spec 06, R127): TOP[13:0] RW BOTTOM[29:16] RW INVERT[31] RW. -/
  | tmapWinY
  /-- TMAP_AFF_O (spec 06, R127): ORIGIN[31:0] RW. -/
  | tmapAffO
  /-- TMAP_AFF_D (spec 06, R127): STEP[31:0] RW. -/
  | tmapAffD
  /-- TMAP_BADENT (spec 06, R127): COUNT[30:0] RO SAT[31] W1C. -/
  | tmapBadent
  /-- OBJ_CTRL (spec 07, R146): EN[0] RW. -/
  | objCtrl
  /-- OBJ_OFS_X (spec 07, R146): X[15:0] RW. -/
  | objOfsX
  /-- OBJ_OFS_Y (spec 07, R146): Y[15:0] RW. -/
  | objOfsY
  /-- OBJ_PAL (spec 07, R146): PAL_ADD[5:0] RW. -/
  | objPal
  /-- OBJ_ALPHA (spec 07, R146): ALPHA[11:0] RW. -/
  | objAlpha
  /-- OBJ_WIN_X (spec 07, R146): LEFT[14:0] RW RIGHT[30:16] RW. -/
  | objWinX
  /-- OBJ_WIN_Y (spec 07, R146): TOP[13:0] RW BOTTOM[29:16] RW INVERT[31] RW. -/
  | objWinY
  /-- OBJ_SPAN_LIMIT (spec 07, R146): LIMIT[12:0] RW. -/
  | objSpanLimit
  /-- OBJ_DEBUG (spec 07, R146): SHED_MARK[0] RW. -/
  | objDebug
  /-- OBJ_SHED_SPANS (spec 07, R146): COUNT[30:0] RO SAT[31] W1C. -/
  | objShedSpans
  /-- OBJ_SHED_LINES (spec 07, R146): COUNT[30:0] RO SAT[31] W1C. -/
  | objShedLines
  /-- OBJ_BAND_DROP (spec 07, R146): COUNT[30:0] RO SAT[31] W1C. -/
  | objBandDrop
  /-- OBJ_XGROUP (spec 07, R146): COUNT[30:0] RO SAT[31] W1C. -/
  | objXgroup
  /-- OBJ_LATE_BANDS (spec 07, R146): COUNT[30:0] RO SAT[31] W1C. -/
  | objLateBands
  /-- OBJ_PEAK (spec 07, R146): SPANS[14:0] RO CLEAR[31] WO. -/
  | objPeak
  /-- OBJ_SHED_LAST (spec 07, R146): LINE[13:0] RO KEEP[23:16] RO VALID[31] W1C. -/
  | objShedLast
  /-- OBJ_FRAME_SHED (spec 07, R146): COUNT[30:0] RO. -/
  | objFrameShed
  /-- OBJ_BIN_STATUS (spec 07, R146): USED[15:0] RO FULL[16] W1C. -/
  | objBinStatus
  /-- OBJ_BIN_BANDS (spec 07, R146): COUNT[30:0] RO SAT[31] W1C. -/
  | objBinBands
  /-- OBJ_BIN_STEALS (spec 07, R146): COUNT[30:0] RO SAT[31] W1C. -/
  | objBinSteals
  /-- BMP_CTRL (spec 08, R161): EN[0] RW FMT[4:1] RW CSC[8:5] RW LUT_EN[9] RW SITE_H[10] RW SITE_V[11] RW UPS[12] RW PRIO[14:13] RW. -/
  | bmpCtrl
  /-- BMP_BASE_Y (spec 08, R161): ADDR[27:0] RW. -/
  | bmpBaseY
  /-- BMP_BASE_C (spec 08, R161): ADDR[27:0] RW. -/
  | bmpBaseC
  /-- BMP_PITCH (spec 08, R161): PITCH_Y[11:0] RW PITCH_C[27:16] RW. -/
  | bmpPitch
  /-- BMP_SIZE (spec 08, R161): W_M1[13:0] RW H_M1[28:16] RW. -/
  | bmpSize
  /-- BMP_SRC (spec 08, R161): START_X[13:0] RW START_Y[28:16] RW. -/
  | bmpSrc
  /-- BMP_POS (spec 08, R161): X[15:0] RW Y[31:16] RW. -/
  | bmpPos
  /-- BMP_ALPHA (spec 08, R161): ALPHA[11:0] RW. -/
  | bmpAlpha
  /-- BMP_WIN_X (spec 08, R161): LEFT[14:0] RW RIGHT[30:16] RW. -/
  | bmpWinX
  /-- BMP_WIN_Y (spec 08, R161): TOP[13:0] RW BOTTOM[29:16] RW INVERT[31] RW. -/
  | bmpWinY
  /-- BMP_M (spec 08, R161): COEF[15:0] RW. -/
  | bmpM
  /-- BMP_OFS (spec 08, R161): PRE[12:0] RW POST[28:16] RW. -/
  | bmpOfs
  /-- BMP_IMP (spec 08, R161): PORT[2:0] RW SRC_BEAM[6:3] RW REPEAT[7] RW GRACE[11:8] RW LINES[26:13] RW. -/
  | bmpImp
  /-- BMP_IMP_STATUS (spec 08, R161): EPOCH_LO[15:0] RO ARRIVING[16] RO FRESH[17] W1C. -/
  | bmpImpStatus
  /-- BMP_IMP_MISS (spec 08, R161): COUNT[30:0] RO SAT[31] W1C. -/
  | bmpImpMiss
  /-- BMP_IMP_LOST (spec 08, R161): COUNT[30:0] RO SAT[31] W1C. -/
  | bmpImpLost
  /-- CMP_CTRL (spec 09, R185): OUT_FMT[0] RW DEPTH[2:1] RW YCC[5:3] RW LUT_EN[6] RW. -/
  | cmpCtrl
  /-- CMP_ORDER0 (spec 09, R185): POS[31:0] RW. -/
  | cmpOrder0
  /-- CMP_ORDER1 (spec 09, R185): POS[27:0] RW. -/
  | cmpOrder1
  /-- CMP_BG_RG (spec 09, R185): R[11:0] RW G[27:16] RW. -/
  | cmpBgRg
  /-- CMP_BG_B (spec 09, R185): B[11:0] RW. -/
  | cmpBgB
  /-- CMP_BLEND (spec 09, R185): MODE[1:0] RW ALPHA[27:16] RW. -/
  | cmpBlend
  /-- CMP_LADDER (spec 09, R185): LAYER[3:0] RW ACTION[5:4] RW LIMIT[28:16] RW. -/
  | cmpLadder
  /-- CMP_WB_CTRL (spec 09, R185): EN[0] RW FMT[2:1] RW FRAMES_M1[4:3] RW. -/
  | cmpWbCtrl
  /-- CMP_WB_BASE (spec 09, R185): ADDR[27:0] RW. -/
  | cmpWbBase
  /-- CMP_WB_PITCH (spec 09, R185): PITCH[11:0] RW. -/
  | cmpWbPitch
  /-- CMP_WB_REC (spec 09, R185): ADDR[27:0] RW. -/
  | cmpWbRec
  /-- CMP_WB_SKIP (spec 09, R185): COUNT[30:0] RO SAT[31] W1C. -/
  | cmpWbSkip
  /-- CMP_SHED_FRAMES (spec 09, R185): COUNT[30:0] RO SAT[31] W1C. -/
  | cmpShedFrames
  /-- CMP_STATUS (spec 09, R185): ORDER_HELD[0] W1C. -/
  | cmpStatus
  /-- CMP_LADDER_STATUS (spec 09, R185): DEPTH[3:0] RO TARGET[7:4] RO. -/
  | cmpLadderStatus
  /-- CMP_PL_CTRL (spec 09, R185): EN[0] RO. -/
  | cmpPlCtrl
  /-- CMP_PL_MAP (spec 09, R185): ADDR[23:0] RO. -/
  | cmpPlMap
  /-- CMP_PL_TILE (spec 09, R185): ADDR[23:0] RO. -/
  | cmpPlTile
  /-- CMP_PL_SIZE (spec 09, R185): WIDTH_LOG2[3:0] RO HEIGHT_LOG2[11:8] RO. -/
  | cmpPlSize
  /-- CMP_PL_POS (spec 09, R185): X[15:0] RO Y[31:16] RO. -/
  | cmpPlPos
  /-- CMP_PL_FAULT_RG (spec 09, R185): R[11:0] RO G[27:16] RO. -/
  | cmpPlFaultRg
  /-- CMP_PL_FAULT_B (spec 09, R185): B[11:0] RO. -/
  | cmpPlFaultB
  /-- CMP_PL_PAL (spec 09, R185): WORD[31:0] RO. -/
  | cmpPlPal
  /-- CMP_PL_BADENT (spec 09, R185): COUNT[30:0] RO SAT[31] W1C. -/
  | cmpPlBadent
  /-- CMP_PLE_ADDR_LO (spec 09, R185): ADDR_LO[31:6] RW. -/
  | cmpPleAddrLo
  /-- CMP_PLE_ADDR_HI (spec 09, R185): ADDR_HI[31:0] RW. -/
  | cmpPleAddrHi
  /-- CMP_PLE_CTRL (spec 09, R185): GO[0] WO. -/
  | cmpPleCtrl
  /-- CMP_PLE_STATUS (spec 09, R185): STATE[2:0] RO SEALED[3] RO RESULT[7:4] RO. -/
  | cmpPleStatus
  /-- CMP_PLE_NONCE (spec 09, R185): NONCE[31:0] RO. -/
  | cmpPleNonce
  /-- CMP_PLE_SEQ_LO (spec 09, R185): SEQ[31:0] RO. -/
  | cmpPleSeqLo
  /-- CMP_PLE_SEQ_HI (spec 09, R185): SEQ[31:0] RO. -/
  | cmpPleSeqHi
  /-- CMP_PLE_REGION_BASE (spec 09, R185): MIB[15:0] RO. -/
  | cmpPleRegionBase
  /-- CMP_PLE_REGION_SIZE (spec 09, R185): MIB[11:0] RO. -/
  | cmpPleRegionSize
  /-- CMP_PLE_DENY (spec 09, R185): COUNT[30:0] RO SAT[31] W1C. -/
  | cmpPleDeny
  /-- CMP_PLE_KEYID (spec 09, R185): KEY_ID[31:0] RO. -/
  | cmpPleKeyid
  /-- LP_CTRL (spec 11, R245): RUN[0] RW PIPE[1] RW HALT[2] RW STEP[3] WO. -/
  | lpCtrl
  /-- LP_STATUS (spec 11, R245): STATE[2:0] RO WAIT[5:3] RO WHY[10:8] RO. -/
  | lpStatus
  /-- LP_PC (spec 11, R245): PC[15:2] RO. -/
  | lpPc
  /-- LP_XCAUSE (spec 11, R245): CAUSE[31:0] RO. -/
  | lpXcause
  /-- LP_XADDR (spec 11, R245): ADDR[31:0] RO. -/
  | lpXaddr
  /-- LP_EXC (spec 11, R245): COUNT[30:0] RO SAT[31] W1C. -/
  | lpExc
  /-- LP_DBG_CTRL (spec 11, R245): BRK_HALT[0] RW EXC_HALT[1] RW. -/
  | lpDbgCtrl
  /-- LP_BKPT (spec 11, R245): EN[0] RW ADDR[15:2] RW. -/
  | lpBkpt
  /-- LP_WATCH (spec 11, R245): EN[0] RW ADDR[15:2] RW ON_LOAD[16] RW ON_STORE[17] RW. -/
  | lpWatch
  /-- LP_DBG_G (spec 11, R245): VALUE[31:0] RW. -/
  | lpDbgG
  /-- LP_DBG_S (spec 11, R245): VALUE[31:0] RW. -/
  | lpDbgS
  /-- LP_RA_CTRL (spec 10, R203): LEAD_MAX[14:0] RW. -/
  | lpRaCtrl
  /-- LP_RA_POS (spec 10, R203): GEN_LINE[13:0] RO GEN_FRAME[23:16] RO WAITING[31] RO. -/
  | lpRaPos
  /-- LP_RA_HELD (spec 10, R203): LINES[14:0] RO. -/
  | lpRaHeld
  /-- LP_RA_MIN_HELD (spec 10, R203): LINES[14:0] RO CLEAR[31] WO. -/
  | lpRaMinHeld
  /-- LP_LSQ_STATUS (spec 10, R203): USED[9:0] RO STALL[10] RO. -/
  | lpLsqStatus
  /-- LP_LSQ_REJECT (spec 10, R203): OFFSET[19:2] RO REASON[22:20] RO VALID[31] W1C. -/
  | lpLsqReject
  /-- LP_LSQ_LATE_LAST (spec 10, R203): NAMED[13:0] RO APPLIED[29:16] RO VALID[31] W1C. -/
  | lpLsqLateLast
  /-- LP_RA_COUNT (spec 10, R203): COUNT[30:0] RO SAT[31] W1C. -/
  | lpRaCount
  /-- LUT_PLANE (spec 08, R161): EVEN[11:0] RW ODD[27:16] RW. -/
  | lutPlane
  /-- LUT_OUT (spec 09, R185): EVEN[11:0] RW ODD[27:16] RW. -/
  | lutOut
  /-- PALETTE_LOW (spec 06, R127): R[15:0] RW G[31:16] RW. -/
  | paletteLow
  /-- PALETTE_HIGH (spec 06, R127): B[15:0] RW A[31:16] RW. -/
  | paletteHigh
  /-- LP_ITCM (spec 11, R245): WORD[31:0] RW. -/
  | lpItcm
  /-- LP_DTCM (spec 11, R245): WORD[31:0] RW. -/
  | lpDtcm
  /-- OAT (spec 07, R146): WORD[31:0] RW. -/
  | oat
  /-- TT (spec 07, R146): WORD[31:0] RW. -/
  | tt
  /-- SYS_CEN_CTRL (spec 02, R46): START[0] WO ABORT[1] WO. -/
  | sysCenCtrl
  /-- SYS_CEN_SCOPE (spec 02, R46): GROUPS[15:0] RW BLOCKS[16] RW LPMEM[17] RW. -/
  | sysCenScope
  /-- SYS_CEN_BASE_LO (spec 02, R46): ADDR_LO[31:12] RW. -/
  | sysCenBaseLo
  /-- SYS_CEN_BASE_HI (spec 02, R46): ADDR_HI[31:0] RW. -/
  | sysCenBaseHi
  /-- SYS_CEN_SIZE (spec 02, R46): PAGES[19:0] RW. -/
  | sysCenSize
  /-- SYS_CEN_STATUS (spec 02, R46): STATE[2:0] RO GROUP[7:4] RO HOLD[8] RO. -/
  | sysCenStatus
  /-- SYS_CEN_BYTES (spec 02, R46): UNITS[31:0] RO. -/
  | sysCenBytes
  /-- SYS_CG_MAP (spec 02, R46): MAP[31:0] RW. -/
  | sysCgMap
  /-- SYS_CG_CTRL (spec 02, R46): FENCE_EN[0] RW FENCE_ROLE[1] RW FENCE_PORTS[9:2] RW FENCE_GUARD[17:10] RW FENCE_TIMEOUT[31:18] RW. -/
  | sysCgCtrl
  /-- SYS_CG_EPOCH (spec 02, R46): EPOCH[31:0] RO. -/
  | sysCgEpoch
  /-- SYS_CG_STATUS (spec 02, R46): COMMIT_RACE[0] W1C PENDING[1] RO FENCE_TIMEOUT[2] W1C FENCE_LATE[3] W1C. -/
  | sysCgStatus
  /-- SYS_CG_SUPERSEDED (spec 02, R46): COUNT[30:0] RO SAT[31] W1C. -/
  | sysCgSuperseded
  /-- SYS_BEAM_EPOCH (spec 02, R46): EPOCH[31:0] RO. -/
  | sysBeamEpoch
deriving DecidableEq, Repr

end Sys2Proof.Machine
end

