-- ==== Sys2Proof/Machine/RegMap.lean ====
section
/-! DEFINITION. The BAR0 register map as data (spec 01 R20 to R23 and the field maps of spec 02 to 20):
where each register lies, which bits carry which access code of R3, and the constant part of its value
after cold reset. Bits in no mask are reserved (R5). -/

namespace Sys2Proof.Machine

/-- One row of the map: address base + i·s1 + j·s2 + k·s3, and one bit mask per access code of R3. -/
structure RegRow where
  base : Nat
  n1 : Nat := 1
  s1 : Nat := 4
  n2 : Nat := 1
  s2 : Nat := 4
  n3 : Nat := 1
  s3 : Nat := 4
  rw : Nat := 0
  ro : Nat := 0
  wo : Nat := 0
  w1c : Nat := 0
  w1s : Nat := 0
  rws : Nat := 0
  rst : Nat := 0
deriving DecidableEq, Repr

/-- The row of each register family. -/
def rowOf : RegName → RegRow
  | .sysId => { base := 0x0, ro := 0xFFFFFFFF }
  | .sysStep => { base := 0x4, ro := 0xFF }
  | .sysSerialLo => { base := 0x8, ro := 0xFFFFFFFF }
  | .sysSerialHi => { base := 0xC, ro := 0xFFFFFFFF }
  | .sysReject => { base := 0x10, ro := 0x3FFFFFF, w1c := 0x80000000 }
  | .sysMode => { base := 0x14, ro := 0x7F }
  | .sysModeReq => { base := 0x18, wo := 0x7 }
  | .sysDbg => { base := 0x1C, rw := 0x1 }
  | .sysReset => { base := 0x20, wo := 0x1 }
  | .sysResetCause => { base := 0x24, ro := 0xF }
  | .sysWake => { base := 0x28, rw := 0x3FF }
  | .sysWakeStatus => { base := 0x2C, w1c := 0x1F }
  | .sysWakeTimeLo => { base := 0x30, rw := 0xFFFFFFFF }
  | .sysWakeTimeHi => { base := 0x34, rw := 0xFFFFFFFF }
  | .sysScCtrl => { base := 0x40, rw := 0xF, wo := 0x10 }
  | .sysScStatus => { base := 0x44, ro := 0xFFF }
  | .sysBootCtrl => { base := 0x50, wo := 0x1, rws := 0x6 }
  | .sysBootAddrLo => { base := 0x54, rws := 0xFFFFFFC0 }
  | .sysBootAddrHi => { base := 0x58, rws := 0xFFFFFFFF }
  | .sysBootStatus => { base := 0x5C, ro := 0x3FF }
  | .sysBootKeyid => { base := 0x60, ro := 0xFFFFFFFF }
  | .sysBootSeqLo => { base := 0x64, ro := 0xFFFFFFFF }
  | .sysBootSeqHi => { base := 0x68, ro := 0xFFFFFFFF }
  | .sysLcStatus => { base := 0x80, ro := 0x1FFFF }
  | .sysLcCmd => { base := 0x84, wo := 0xF }
  | .sysLcAddrLo => { base := 0x88, rw := 0xFFFFFFC0 }
  | .sysLcAddrHi => { base := 0x8C, rw := 0xFFFFFFFF }
  | .sysMgmtCtrl => { base := 0x90, rw := 0x1 }
  | .sysFdrop => { base := 0x100, n1 := 38, s1 := 0x4, ro := 0x7FFFFFFF, w1c := 0x80000000 }
  | .sysPsCtrl => { base := 0x4000, rw := 0x3, rst := 0x3 }
  | .sysPsScrub => { base := 0x4004, rw := 0xFFFFFF, rst := 0x3E818 }
  | .sysPsCache => { base := 0x4008, rw := 0x1F, rst := 0x8 }
  | .sysPsStatus => { base := 0x400C, ro := 0x11, w1c := 0xE }
  | .sysPsScrubPos => { base := 0x4010, ro := 0x3FFFFFFF }
  | .sysPsOor => { base := 0x4014, ro := 0x7FFFFFFF, w1c := 0x80000000 }
  | .sysPsInjectLo => { base := 0x4020, rw := 0xFFFFFFC0 }
  | .sysPsInjectHi => { base := 0x4024, rw := 0xF }
  | .sysPsInjectCtrl => { base := 0x4028, wo := 0x3 }
  | .sysPsRes => { base := 0x4100, n1 := 21, s1 := 0x4, rw := 0x1FF }
  | .sysPsResmiss => { base := 0x4200, n1 := 23, s1 := 0x4, ro := 0x7FFFFFFF, w1c := 0x80000000 }
  | .sysPsSCe1 => { base := 0x4300, n1 := 2, s1 := 0x20, ro := 0x7FFFFFFF, w1c := 0x80000000 }
  | .sysPsSCe2 => { base := 0x4304, n1 := 2, s1 := 0x20, ro := 0x7FFFFFFF, w1c := 0x80000000 }
  | .sysPsSUe => { base := 0x4308, n1 := 2, s1 := 0x20, ro := 0x7FFFFFFF, w1c := 0x80000000 }
  | .sysPsSPoison => { base := 0x430C, n1 := 2, s1 := 0x20, ro := 0x7FFFFFFF, w1c := 0x80000000 }
  | .sysPsSLogLo => { base := 0x4310, n1 := 2, s1 := 0x20, ro := 0xFFFFFFC0 }
  | .sysPsSLogHi => { base := 0x4314, n1 := 2, s1 := 0x20, ro := 0x3FFFF, w1c := 0x80000000 }
  | .sysPsTblCe1 => { base := 0x4340, ro := 0x7FFFFFFF, w1c := 0x80000000 }
  | .sysPsTblCe2 => { base := 0x4344, ro := 0x7FFFFFFF, w1c := 0x80000000 }
  | .sysPsTblUe => { base := 0x4348, ro := 0x7FFFFFFF, w1c := 0x80000000 }
  | .sysPsTblPoison => { base := 0x434C, ro := 0x7FFFFFFF, w1c := 0x80000000 }
  | .sysPsTblLogLo => { base := 0x4350, ro := 0xFFFFFFC0 }
  | .sysPsTblLogHi => { base := 0x4354, ro := 0x3FFFF, w1c := 0x80000000 }
  | .hstCtrl => { base := 0x10000, rw := 0x5, wo := 0x2 }
  | .hstStatus => { base := 0x10004, ro := 0x3, w1c := 0x4 }
  | .hstReject => { base := 0x10008, ro := 0x3FFFFFF, w1c := 0x80000000 }
  | .hstDbBaseLo => { base := 0x10010, rw := 0xFFFFFC00 }
  | .hstDbBaseHi => { base := 0x10014, rw := 0xFFFFFFFF }
  | .hstWbBaseLo => { base := 0x10018, rw := 0xFFFFFF00 }
  | .hstWbBaseHi => { base := 0x1001C, rw := 0xFFFFFFFF }
  | .hstPoll => { base := 0x10020, rw := 0x3FF, ro := 0x3FF0000, rst := 0x10001 }
  | .hstPollCeil0 => { base := 0x10024, rw := 0x3FF03FF, rst := 0x500010 }
  | .hstPollCeil1 => { base := 0x10028, rw := 0x3FF03FF, rst := 0x1900190 }
  | .hstHb => { base := 0x1002C, rw := 0xFFFF }
  | .hstLoss => { base := 0x10030, rws := 0xF }
  | .hstLossStampLo => { base := 0x10034, rws := 0xFFFFFFFF }
  | .hstLossStampHi => { base := 0x10038, rws := 0xFFFFFFFF }
  | .hstLost => { base := 0x1003C, ro := 0x7FFFFFFF, w1c := 0x80000000 }
  | .hstBar2Offset => { base := 0x10040, rw := 0x3F }
  | .hstEqBaseLo => { base := 0x10050, rw := 0xFFFFF000 }
  | .hstEqBaseHi => { base := 0x10054, rw := 0xFFFFFFFF }
  | .hstEqCtrl => { base := 0x10058, rw := 0x3F, rst := 0xC }
  | .hstEqStatus => { base := 0x1005C, ro := 0x7FFFF, w1c := 0x180000, rst := 0x20000 }
  | .hstCrBaseLo => { base := 0x11000, n1 := 64, s1 := 0x20, rw := 0xFFFFF000 }
  | .hstCrBaseHi => { base := 0x11004, n1 := 64, s1 := 0x20, rw := 0xFFFFFFFF }
  | .hstCrCtrl => { base := 0x11008, n1 := 64, s1 := 0x20, rw := 0x3FFF, rst := 0xC }
  | .hstCrStatus => { base := 0x1100C, n1 := 64, s1 := 0x20, ro := 0x27FFFF, w1c := 0x180000 }
  | .hstCqBaseLo => { base := 0x12000, n1 := 64, s1 := 0x20, rw := 0xFFFFF000 }
  | .hstCqBaseHi => { base := 0x12004, n1 := 64, s1 := 0x20, rw := 0xFFFFFFFF }
  | .hstCqCtrl => { base := 0x12008, n1 := 64, s1 := 0x20, rw := 0x3F, rst := 0xC }
  | .hstCqStatus => { base := 0x1200C, n1 := 64, s1 := 0x20, ro := 0x7FFFF, w1c := 0x180000, rst := 0x20000 }
  | .hstMsixAddrLo => { base := 0x18000, n1 := 256, s1 := 0x10, rw := 0xFFFFFFFC }
  | .hstMsixAddrHi => { base := 0x18004, n1 := 256, s1 := 0x10, rw := 0xFFFFFFFF }
  | .hstMsixData => { base := 0x18008, n1 := 256, s1 := 0x10, rw := 0xFFFFFFFF }
  | .hstMsixMask => { base := 0x1800C, n1 := 256, s1 := 0x10, rw := 0x1, rst := 0x1 }
  | .hstMsixPba => { base := 0x19000, n1 := 8, s1 := 0x4, ro := 0xFFFFFFFF }
  | .evtCtrl => { base := 0x20000, rw := 0x1, rst := 0x1 }
  | .evtReject => { base := 0x20008, ro := 0x3FFFFFF, w1c := 0x80000000 }
  | .evtStranded => { base := 0x2000C, ro := 0x7FFFFFFF, w1c := 0x80000000 }
  | .evtSpurious => { base := 0x20010, ro := 0x7FFFFFFF, w1c := 0x80000000 }
  | .evtSwi => { base := 0x20020, w1s := 0xFFFFFFFF }
  | .evtCoreCtrl => { base := 0x20100, n1 := 20, s1 := 0x4, rw := 0x7FF, rst := 0x400 }
  | .evtCoreStatus => { base := 0x20180, n1 := 20, s1 := 0x4, ro := 0x3F03FF }
  | .evtPend => { base := 0x20400, n1 := 32, s1 := 0x4, ro := 0xFFFFFFFF }
  | .evtActive => { base := 0x20480, n1 := 32, s1 := 0x4, ro := 0xFFFFFFFF }
  | .evtQRec => { base := 0x22000, n1 := 276, s1 := 0x20, n2 := 4, s2 := 0x4, ro := 0xFFFFFFFF }
  | .evtQRes => { base := 0x22010, n1 := 276, s1 := 0x20, rw := 0x7FFF }
  | .evtQStatus => { base := 0x22014, n1 := 276, s1 := 0x20, ro := 0xFFFF, w1c := 0x10000 }
  | .evtSrcCfg => { base := 0x28000, n1 := 1023, s1 := 0x10, rw := 0x7FFF }
  | .evtSrcCoal => { base := 0x28004, n1 := 1023, s1 := 0x10, rw := 0xFFFFFF }
  | .evtSrcStatus => { base := 0x28008, n1 := 1023, s1 := 0x10, ro := 0xFFFF0002, w1c := 0xD }
  | .tmrTbLo => { base := 0x30000, ro := 0xFFFFFFFF }
  | .tmrTbHi => { base := 0x30004, ro := 0xFFFFFFFF }
  | .tmrTbSetLo => { base := 0x30008, rw := 0xFFFFFFFF }
  | .tmrTbSetHi => { base := 0x3000C, rw := 0xFFFFFFFF }
  | .tmrTbCtrl => { base := 0x30010, ro := 0x2, wo := 0x1 }
  | .tmrReject => { base := 0x30014, ro := 0x3FFFFFF, w1c := 0x80000000 }
  | .tmrCmpValue => { base := 0x30100, n1 := 64, s1 := 0x10, rw := 0xFFFFFFFF }
  | .tmrCmpPeriod => { base := 0x30104, n1 := 64, s1 := 0x10, rw := 0xFFFFFFFF }
  | .tmrCmpCtrl => { base := 0x30108, n1 := 64, s1 := 0x10, rw := 0xD, wo := 0x2 }
  | .tmrCmpStatus => { base := 0x3010C, n1 := 64, s1 := 0x10, ro := 0x1, w1c := 0x6 }
  | .tmrCapCtrl => { base := 0x30800, n1 := 32, s1 := 0x20, rw := 0xFFF }
  | .tmrCapLo => { base := 0x30804, n1 := 32, s1 := 0x20, ro := 0xFFFFFFFF }
  | .tmrCapHi => { base := 0x30808, n1 := 32, s1 := 0x20, ro := 0xFFFFFFFF }
  | .tmrCapStatus => { base := 0x3080C, n1 := 32, s1 := 0x20, ro := 0xF9, w1c := 0x6 }
  | .tmrCapLog => { base := 0x30810, n1 := 32, s1 := 0x20, n2 := 4, s2 := 0x4, ro := 0xFFFFFFFF }
  | .tmrItCtrl => { base := 0x30C00, n1 := 32, s1 := 0x10, rw := 0x3 }
  | .tmrItReload => { base := 0x30C04, n1 := 32, s1 := 0x10, rw := 0xFFFFFFFF, rst := 0xF4240 }
  | .tmrItLoad => { base := 0x30C08, n1 := 32, s1 := 0x10, wo := 0xFFFFFFFF }
  | .tmrItCount => { base := 0x30C0C, n1 := 32, s1 := 0x10, ro := 0xFFFFFFFF }
  | .tmrItExp => { base := 0x30E00, n1 := 32, s1 := 0x4, ro := 0x7FFFFFFF, w1c := 0x80000000 }
  | .gpioReject => { base := 0x40000, ro := 0x3FFFFFF, w1c := 0x80000000 }
  | .gpioBank => { base := 0x40004, ro := 0xFF }
  | .gpioOut => { base := 0x40010, n1 := 2, s1 := 0x4, rw := 0xFFFFFFFF }
  | .gpioSet => { base := 0x40018, n1 := 2, s1 := 0x4, w1s := 0xFFFFFFFF }
  | .gpioClr => { base := 0x40020, n1 := 2, s1 := 0x4, w1c := 0xFFFFFFFF }
  | .gpioPad => { base := 0x40028, n1 := 2, s1 := 0x4, ro := 0xFFFFFFFF }
  | .gpioFilt => { base := 0x40030, n1 := 2, s1 := 0x4, ro := 0xFFFFFFFF }
  | .gpioPCtrl => { base := 0x40100, n1 := 64, s1 := 0x4, rw := 0xFFFF, rst := 0x6000 }
  | .gpioPIn => { base := 0x40200, n1 := 64, s1 := 0x4, rw := 0x7FF7 }
  | .pwrReject => { base := 0x50000, ro := 0x3FFFFFF, w1c := 0x80000000 }
  | .pwrStatus => { base := 0x50004, ro := 0x3FF, w1c := 0x400, rst := 0x5 }
  | .pwrLedger => { base := 0x50008, rw := 0x3, rst := 0x1 }
  | .pwrCfg => { base := 0x5000C, rw := 0xFF03FF, rst := 0xA0064 }
  | .pwrCap => { base := 0x50010, rw := 0xFFFFFF, rst := 0x59B8C }
  | .pwrTherm => { base := 0x50014, rw := 0xFFFFFF, rst := 0x3665F }
  | .pwrTotal => { base := 0x50018, ro := 0x3FFFF }
  | .pwrTmax => { base := 0x5001C, ro := 0x3FFFFF }
  | .pwrBeamMin => { base := 0x50040, n1 := 16, s1 := 0x4, rw := 0xFF }
  | .pwrBeamTgt => { base := 0x50080, n1 := 16, s1 := 0x4, rw := 0xF }
  | .pwrIsl => { base := 0x50100, n1 := 38, s1 := 0x4, ro := 0xFFFF }
  | .pwrTs => { base := 0x50200, n1 := 48, s1 := 0x4, ro := 0xFFFF }
  | .pwrRailCfg => { base := 0x50300, n1 := 4, s1 := 0x10, rw := 0x3F, rst := 0x10 }
  | .pwrRailCtrl => { base := 0x50304, n1 := 4, s1 := 0x10, rw := 0x3FF }
  | .pwrRailStatus => { base := 0x50308, n1 := 4, s1 := 0x10, ro := 0x3FF1FFF, w1c := 0x6000 }
  | .pwrRailRead => { base := 0x5030C, n1 := 4, s1 := 0x10, ro := 0xFFFF }
  | .pwrPlanW0 => { base := 0x50400, rw := 0xFFFFFFFF }
  | .pwrPlanW1 => { base := 0x50404, rw := 0xFFFF03FF }
  | .pwrPlanW => { base := 0x50408, n1 := 4, s1 := 0x4, rw := 0x3FF03FF }
  | .pwrPlanCtrl => { base := 0x50418, wo := 0x1 }
  | .pwrPlanStatus => { base := 0x5041C, ro := 0x3F }
  | .pwrLive => { base := 0x50440, n1 := 4, s1 := 0x20, n2 := 6, s2 := 0x4, ro := 0xFFFFFFFF }
  | .pwrDat => { base := 0x50600, n1 := 4, s1 := 0x20, n2 := 6, s2 := 0x4, rw := 0xFF, ro := 0xFF00 }
  | .pwrPmbCtrl => { base := 0x50700, rw := 0x1FFF7F, wo := 0x200000 }
  | .pwrPmbData => { base := 0x50704, rw := 0xFFFFFFFF }
  | .pwrPmbStatus => { base := 0x50708, ro := 0x1, w1c := 0x6 }
  | .almCtrl => { base := 0x58000, rw := 0xFFF1, wo := 0x2, rst := 0x3C1 }
  | .almStampLo => { base := 0x58004, ro := 0xFFFFFFFF }
  | .almStampHi => { base := 0x58008, ro := 0xFFFFFFFF }
  | .almHours => { base := 0x5800C, rws := 0xFFFFFFFF }
  | .almLeap => { base := 0x58010, rw := 0x3FFFFFF, rst := 0x504064 }
  | .almLogCtrl => { base := 0x58040, wo := 0x3 }
  | .almLogIdx => { base := 0x58044, rw := 0x1FFF }
  | .almLogStatus => { base := 0x58048, ro := 0x3FFFFFF, w1c := 0x4000000 }
  | .almLogTorn => { base := 0x5804C, ro := 0x7FFFFFFF, w1c := 0x80000000 }
  | .almLogData => { base := 0x58080, n1 := 16, s1 := 0x4, rw := 0xFFFFFFFF }
  | .almMId => { base := 0x59000, n1 := 256, s1 := 0x10, ro := 0x3FFF }
  | .almMVal => { base := 0x59004, n1 := 256, s1 := 0x10, ro := 0xFFFF }
  | .almMRef => { base := 0x59008, n1 := 256, s1 := 0x10, ro := 0xFFFF }
  | .almMTed => { base := 0x5900C, n1 := 256, s1 := 0x10, ro := 0x7FFFFFFF, w1c := 0x80000000 }
  | .bistCtrl => { base := 0x60000, rw := 0xFF03, rst := 0x1401 }
  | .bistStatus => { base := 0x60004, ro := 0x1FFFF }
  | .bistReject => { base := 0x60008, ro := 0x3FFFFFF, w1c := 0x80000000 }
  | .bistProgLo => { base := 0x60010, rw := 0xFFFFFFC0 }
  | .bistProgHi => { base := 0x60014, rw := 0xFFFFFFFF }
  | .bistProgCtrl => { base := 0x60018, rw := 0x4, wo := 0x3 }
  | .bistKeyid => { base := 0x6001C, ro := 0xFFFFFFFF }
  | .bistCount => { base := 0x60020, n1 := 7, s1 := 0x4, ro := 0x7FFFFFFF, w1c := 0x80000000 }
  | .bistFailLo => { base := 0x60040, ro := 0xFFFFFF }
  | .bistFailHi => { base := 0x60044, ro := 0x3FFFFFFF, w1c := 0x80000000 }
  | .bistRepairCtrl => { base := 0x60050, wo := 0x3 }
  | .bistRepairStatus => { base := 0x60054, ro := 0xFFFFFFFF }
  | .dmaRun => { base := 0x70000, n1 := 2, s1 := 0x4, ro := 0xFFFFFFFF }
  | .dmaReject => { base := 0x70008, ro := 0x3FFFFFF, w1c := 0x80000000 }
  | .dmaChCtrl => { base := 0x71000, n1 := 64, s1 := 0x40, rw := 0x1C, wo := 0x3 }
  | .dmaChStatus => { base := 0x71004, n1 := 64, s1 := 0x40, ro := 0x27FF, w1c := 0x1800 }
  | .dmaChProgLo => { base := 0x71008, n1 := 64, s1 := 0x40, rw := 0xFFFFFFC0 }
  | .dmaChProgHi => { base := 0x7100C, n1 := 64, s1 := 0x40, rw := 0xFFFFFFFF }
  | .dmaChBlock => { base := 0x71010, n1 := 64, s1 := 0x40, ro := 0xFFFFFFFF }
  | .dmaChBad => { base := 0x71014, n1 := 64, s1 := 0x40, ro := 0x7FFFFFFF, w1c := 0x80000000 }
  | .dmaChBadFirst => { base := 0x71018, n1 := 64, s1 := 0x40, ro := 0xFFFFFFFF }
  | .dmaChBadLast => { base := 0x7101C, n1 := 64, s1 := 0x40, ro := 0xFFFFFFFF }
  | .dmaChErr => { base := 0x71020, n1 := 64, s1 := 0x40, ro := 0xF }
  | .dmaChErrAddrLo => { base := 0x71024, n1 := 64, s1 := 0x40, ro := 0xFFFFFFFF }
  | .dmaChErrAddrHi => { base := 0x71028, n1 := 64, s1 := 0x40, ro := 0xFFFFFFFF }
  | .dmaChSigLast => { base := 0x7102C, n1 := 64, s1 := 0x40, ro := 0xFFFFFFFF }
  | .bltCtrl => { base := 0x80000, rw := 0xF, rst := 0xF }
  | .bltStatus => { base := 0x80004, ro := 0x3FF }
  | .bltReject => { base := 0x80008, ro := 0x3FFFFFF, w1c := 0x80000000 }
  | .bltStageBase => { base := 0x80010, rw := 0xFFFFF }
  | .bltStageSize => { base := 0x80014, rw := 0xFFFF }
  | .bltEStatus => { base := 0x80020, n1 := 4, s1 := 0x10, ro := 0xFF03 }
  | .bltEProgress => { base := 0x80024, n1 := 4, s1 := 0x10, ro := 0x1FFFF }
  | .bltDeny => { base := 0x80060, ro := 0x7FFFFFFF, w1c := 0x80000000 }
  | .bltPoison => { base := 0x80064, ro := 0x7FFFFFFF, w1c := 0x80000000 }
  | .bltDirect => { base := 0x80108, n1 := 14, s1 := 0x4, rw := 0xFFFFFFFF }
  | .bltDirectCtrl => { base := 0x80140, wo := 0x1 }
  | .bltDirectStatus => { base := 0x80144, ro := 0x1FF }
  | .audCtrl => { base := 0x90000, rw := 0xFF01, rst := 0xA00 }
  | .audStatus => { base := 0x90004, ro := 0x7 }
  | .audReject => { base := 0x90008, ro := 0x3FFFFFF, w1c := 0x80000000 }
  | .audClk => { base := 0x9000C, rw := 0xFFF }
  | .audClkSpf => { base := 0x90010, rw := 0x1FFFF, rst := 0x3C0 }
  | .audPhaseErr => { base := 0x90014, ro := 0xFFFFFFFF }
  | .audSample => { base := 0x90018, ro := 0xFFFFFFFF }
  | .audFrameSample => { base := 0x9001C, ro := 0xFFFFFFFF }
  | .audSwap => { base := 0x90020, n1 := 2, s1 := 0x4, wo := 0xFFFFFFFF }
  | .audBusLive => { base := 0x90028, n1 := 2, s1 := 0x4, ro := 0xFFFFFFFF }
  | .audBusOpt => { base := 0x90030, n1 := 2, s1 := 0x4, rw := 0xFFFFFFFF }
  | .audFetchLate => { base := 0x90040, ro := 0x7FFFFFFF, w1c := 0x80000000 }
  | .audVevBad => { base := 0x90044, ro := 0x7FFFFFFF, w1c := 0x80000000 }
  | .audVevLate => { base := 0x90048, ro := 0x7FFFFFFF, w1c := 0x80000000 }
  | .audXfadeCut => { base := 0x9004C, ro := 0x7FFFFFFF, w1c := 0x80000000 }
  | .audDataBad => { base := 0x90050, ro := 0x7FFFFFFF, w1c := 0x80000000 }
  | .audVend => { base := 0x90080, n1 := 32, s1 := 0x4, w1c := 0xFFFFFFFF }
  | .audOc => { base := 0x90100, n1 := 64, s1 := 0x4, rw := 0x7FFF, rst := 0x2000 }
  | .audTdmCtrl => { base := 0x90200, n1 := 4, s1 := 0x10, rw := 0x3F07FF, rst := 0x22 }
  | .audTdmSlip => { base := 0x90204, n1 := 4, s1 := 0x10, ro := 0x7FFFFFFF, w1c := 0x80000000 }
  | .audTdmFrameErr => { base := 0x90208, n1 := 4, s1 := 0x10, ro := 0x7FFFFFFF, w1c := 0x80000000 }
  | .audLinkBase => { base := 0x90300, n1 := 8, s1 := 0x4, rw := 0x3F }
  | .audFeedData => { base := 0x90400, n1 := 8, s1 := 0x10, n2 := 2, s2 := 0x4, wo := 0xFFFFFFFF }
  | .audFeedStatus => { base := 0x90408, n1 := 8, s1 := 0x10, ro := 0x3FFF, w1c := 0x4000 }
  | .audFeedUnder => { base := 0x9040C, n1 := 8, s1 := 0x10, ro := 0x7FFFFFFF, w1c := 0x80000000 }
  | .audVeqW => { base := 0x90500, n1 := 16, s1 := 0x10, n2 := 4, s2 := 0x4, rw := 0xFFFFFFFF }
  | .audVeqRes => { base := 0x90600, n1 := 16, s1 := 0x8, rw := 0x7FFF }
  | .audVeqStatus => { base := 0x90604, n1 := 16, s1 := 0x8, ro := 0xFFFF, w1c := 0x10000 }
  | .audBusBq0 => { base := 0x91000, n1 := 128, s1 := 0x80, n2 := 4, s2 := 0x14, rw := 0xFFFFFFFF, rst := 0x20000000 }
  | .audBusBq => { base := 0x91004, n1 := 128, s1 := 0x80, n2 := 4, s2 := 0x14, n3 := 4, s3 := 0x4, rw := 0xFFFFFFFF }
  | .audBusBqen => { base := 0x91050, n1 := 128, s1 := 0x80, rw := 0xF }
  | .audBusComp => { base := 0x91054, n1 := 128, s1 := 0x80, rw := 0xFFFFFF01, rst := 0x10000400 }
  | .audBusThresh => { base := 0x91058, n1 := 128, s1 := 0x80, rw := 0xFFFFFFFF, rst := 0x7FFFFFFF }
  | .audBusTime => { base := 0x9105C, n1 := 128, s1 := 0x80, n2 := 2, s2 := 0x4, rw := 0xFFFFFFFF, rst := 0x7FFFFFFF }
  | .audBusDlyBase => { base := 0x91064, n1 := 128, s1 := 0x80, rw := 0x3FFFFFFF }
  | .audBusDlyLen => { base := 0x91068, n1 := 128, s1 := 0x80, rw := 0x3FFFF }
  | .audBusFbwet => { base := 0x9106C, n1 := 128, s1 := 0x80, rw := 0xFFFFFFFF }
  | .audBusDry => { base := 0x91070, n1 := 128, s1 := 0x80, rw := 0xFFFF, rst := 0x4000 }
  | .audBusGain => { base := 0x91074, n1 := 128, s1 := 0x80, rw := 0x3FFF, rst := 0x2000 }
  | .audBusEnd => { base := 0x91078, n1 := 128, s1 := 0x80, n2 := 2, s2 := 0x4 }
  | .audXp => { base := 0x96000, n1 := 2048, s1 := 0x4, rw := 0xFFFFFFFF }
  | .audV0 => { base := 0x98000, n1 := 1024, s1 := 0x20, rw := 0xFFF, rst := 0x1 }
  | .audV1 => { base := 0x98004, n1 := 1024, s1 := 0x20, rw := 0x3FFFFFFF }
  | .audV2 => { base := 0x98008, n1 := 1024, s1 := 0x20, rw := 0xFFFFFFFF }
  | .audV3 => { base := 0x9800C, n1 := 1024, s1 := 0x20, rw := 0xFFFFFFFF }
  | .audV4 => { base := 0x98010, n1 := 1024, s1 := 0x20, rw := 0xFFFFF, rst := 0x10000 }
  | .audV5 => { base := 0x98014, n1 := 1024, s1 := 0x20, rw := 0x3FFF, rst := 0x2000 }
  | .audV6 => { base := 0x98018, n1 := 1024, s1 := 0x20, ro := 0xFFFFFFFF }
  | .audV7 => { base := 0x9801C, n1 := 1024, s1 := 0x20, ro := 0x3 }
  | .lnkReject => { base := 0xA0008, ro := 0x3FFFFFF, w1c := 0x80000000 }
  | .lnkRoute => { base := 0xA0100, n1 := 16, s1 := 0x4, rw := 0x1FFFF }
  | .lnkPCtrl => { base := 0xA1000, n1 := 8, s1 := 0x100, rw := 0xFF07FF, wo := 0x800, rst := 0x801FE }
  | .lnkPAudio => { base := 0xA1004, n1 := 8, s1 := 0x100, rw := 0x3F }
  | .lnkPRxCtrl => { base := 0xA1008, n1 := 8, s1 := 0x100, rw := 0xF }
  | .lnkPStatus => { base := 0xA100C, n1 := 8, s1 := 0x100, ro := 0xFFFFF }
  | .lnkPPeer => { base := 0xA1010, n1 := 8, s1 := 0x100, ro := 0x3FFF }
  | .lnkPPeerDepth => { base := 0xA1014, n1 := 8, s1 := 0x100, ro := 0xFFFF }
  | .lnkPPeerIdLo => { base := 0xA1018, n1 := 8, s1 := 0x100, ro := 0xFFFFFFFF }
  | .lnkPPeerIdHi => { base := 0xA101C, n1 := 8, s1 := 0x100, ro := 0xFFFFFFFF }
  | .lnkPGrade => { base := 0xA1020, n1 := 8, s1 := 0x100, ro := 0x3FFFF }
  | .lnkPCredit => { base := 0xA1024, n1 := 8, s1 := 0x100, ro := 0x1FFFF }
  | .lnkPLoad => { base := 0xA1028, n1 := 8, s1 := 0x100, ro := 0xFFFFFFFF }
  | .lnkPCount => { base := 0xA1040, n1 := 8, s1 := 0x100, n2 := 11, s2 := 0x4, ro := 0x7FFFFFFF, w1c := 0x80000000 }
  | .lnkPFecCe => { base := 0xA1080, n1 := 8, s1 := 0x100, n2 := 4, s2 := 0x8, ro := 0x7FFFFFFF, w1c := 0x80000000 }
  | .lnkPFecUe => { base := 0xA1084, n1 := 8, s1 := 0x100, n2 := 4, s2 := 0x8, ro := 0x7FFFFFFF, w1c := 0x80000000 }
  | .lnkPMasqCtrl => { base := 0xA10C0, n1 := 8, s1 := 0x100, rw := 0x1FFF07 }
  | .lnkPMasqBeams => { base := 0xA10C4, n1 := 8, s1 := 0x100, rw := 0xFFFF, rst := 0xFFFF }
  | .lnkPMasqLine => { base := 0xA10C8, n1 := 8, s1 := 0x100, rw := 0x7FF7FFF }
  | .lnkPMasqPeriod => { base := 0xA10CC, n1 := 8, s1 := 0x100, rw := 0xFFFFFF, rst := 0x1 }
  | .lnkPMasqLimit => { base := 0xA10D0, n1 := 8, s1 := 0x100, rw := 0xFFFF }
  | .lnkPMasqStatus => { base := 0xA10D4, n1 := 8, s1 := 0x100, ro := 0xFFFF, w1c := 0x30000 }
  | .beamCtrl => { base := 0x100000, n1 := 16, s1 := 0x100000, rw := 0x1 }
  | .beamClk => { base := 0x100004, n1 := 16, s1 := 0x100000, rw := 0x7FFFFFFF, rst := 0x46CF710 }
  | .beamClkFrac => { base := 0x100008, n1 := 16, s1 := 0x100000, rw := 0xFFFF }
  | .beamActive => { base := 0x100010, n1 := 16, s1 := 0x100000, rw := 0x3FFFFFFF, rst := 0x4380780 }
  | .beamTotal => { base := 0x100014, n1 := 16, s1 := 0x100000, rw := 0x7FFFFFFF, rst := 0x4650898 }
  | .beamHsync => { base := 0x100018, n1 := 16, s1 := 0x100000, rw := 0x8FFFFFFF, rst := 0x2C07D8 }
  | .beamVsync => { base := 0x10001C, n1 := 16, s1 := 0x100000, rw := 0x80FF3FFF, rst := 0x5043C }
  | .beamCalends => { base := 0x100020, n1 := 16, s1 := 0x100000, rw := 0xFF, rst := 0x10 }
  | .beamGenlock => { base := 0x100030, n1 := 16, s1 := 0x100000, rw := 0x3FFBFFF, rst := 0x648000 }
  | .beamGenlockOfs => { base := 0x100034, n1 := 16, s1 := 0x100000, rw := 0xFFFFFFFF }
  | .beamGenlockWin => { base := 0x100038, n1 := 16, s1 := 0x100000, rw := 0xFFFF, rst := 0x64 }
  | .beamVigil => { base := 0x100040, n1 := 16, s1 := 0x100000, rw := 0xFFFFFF01, rst := 0x200 }
  | .beamLineMatch => { base := 0x100044, n1 := 16, s1 := 0x100000, rw := 0x80003FFF }
  | .beamStatus => { base := 0x100080, n1 := 16, s1 := 0x100000, ro := 0xF2F, w1c := 0xD0 }
  | .beamPos => { base := 0x100084, n1 := 16, s1 := 0x100000, ro := 0xFFFF3FFF }
  | .beamFrameLo => { base := 0x100088, n1 := 16, s1 := 0x100000, ro := 0xFFFFFFFF }
  | .beamFrameHi => { base := 0x10008C, n1 := 16, s1 := 0x100000, ro := 0xFFFF, w1c := 0x80000000 }
  | .beamPhaseErr => { base := 0x100090, n1 := 16, s1 := 0x100000, ro := 0xFFFFFFFF }
  | .beamClkActual => { base := 0x100094, n1 := 16, s1 := 0x100000, ro := 0x7FFFFFFF }
  | .beamVigilFrames => { base := 0x100098, n1 := 16, s1 := 0x100000, ro := 0x7FFFFFFF, w1c := 0x80000000 }
  | .beamJumps => { base := 0x10009C, n1 := 16, s1 := 0x100000, ro := 0x7FFFFFFF, w1c := 0x80000000 }
  | .beamReject => { base := 0x1000FC, n1 := 16, s1 := 0x100000, ro := 0x3FFFFFF, w1c := 0x80000000 }
  | .tmapCtrl => { base := 0x110000, n1 := 16, s1 := 0x100000, n2 := 8, s2 := 0x100, rw := 0x3FF, rst := 0x398 }
  | .tmapMapBase => { base := 0x110004, n1 := 16, s1 := 0x100000, n2 := 8, s2 := 0x100, rw := 0xFFFFFF }
  | .tmapTileBase => { base := 0x110008, n1 := 16, s1 := 0x100000, n2 := 8, s2 := 0x100, rw := 0xFFFFFF }
  | .tmapMapSize => { base := 0x11000C, n1 := 16, s1 := 0x100000, n2 := 8, s2 := 0x100, rw := 0x1F1F, rst := 0x606 }
  | .tmapScroll => { base := 0x110010, n1 := 16, s1 := 0x100000, n2 := 8, s2 := 0x100, n3 := 2, s3 := 0x4, rw := 0x1FFFFFF }
  | .tmapVel => { base := 0x110018, n1 := 16, s1 := 0x100000, n2 := 8, s2 := 0x100, rw := 0xFFFFFFFF }
  | .tmapPal => { base := 0x11001C, n1 := 16, s1 := 0x100000, n2 := 8, s2 := 0x100, rw := 0x3F }
  | .tmapMosaic => { base := 0x110020, n1 := 16, s1 := 0x100000, n2 := 8, s2 := 0x100, rw := 0xF0F }
  | .tmapWinX => { base := 0x110024, n1 := 16, s1 := 0x100000, n2 := 8, s2 := 0x100, rw := 0x7FFF7FFF, rst := 0x40000000 }
  | .tmapWinY => { base := 0x110028, n1 := 16, s1 := 0x100000, n2 := 8, s2 := 0x100, rw := 0xBFFF3FFF, rst := 0x20000000 }
  | .tmapAffO => { base := 0x110030, n1 := 16, s1 := 0x100000, n2 := 8, s2 := 0x100, n3 := 2, s3 := 0x4, rw := 0xFFFFFFFF }
  | .tmapAffD => { base := 0x110038, n1 := 16, s1 := 0x100000, n2 := 8, s2 := 0x100, n3 := 4, s3 := 0x4, rw := 0xFFFFFFFF }
  | .tmapBadent => { base := 0x110080, n1 := 16, s1 := 0x100000, n2 := 8, s2 := 0x100, ro := 0x7FFFFFFF, w1c := 0x80000000 }
  | .objCtrl => { base := 0x120000, n1 := 16, s1 := 0x100000, n2 := 4, s2 := 0x100, rw := 0x1 }
  | .objOfsX => { base := 0x120004, n1 := 16, s1 := 0x100000, n2 := 4, s2 := 0x100, rw := 0xFFFF }
  | .objOfsY => { base := 0x120008, n1 := 16, s1 := 0x100000, n2 := 4, s2 := 0x100, rw := 0xFFFF }
  | .objPal => { base := 0x12000C, n1 := 16, s1 := 0x100000, n2 := 4, s2 := 0x100, rw := 0x3F }
  | .objAlpha => { base := 0x120010, n1 := 16, s1 := 0x100000, n2 := 4, s2 := 0x100, rw := 0xFFF, rst := 0xFFF }
  | .objWinX => { base := 0x120014, n1 := 16, s1 := 0x100000, n2 := 4, s2 := 0x100, rw := 0x7FFF7FFF, rst := 0x40000000 }
  | .objWinY => { base := 0x120018, n1 := 16, s1 := 0x100000, n2 := 4, s2 := 0x100, rw := 0xBFFF3FFF, rst := 0x20000000 }
  | .objSpanLimit => { base := 0x120400, n1 := 16, s1 := 0x100000, rw := 0x1FFF, rst := 0x1000 }
  | .objDebug => { base := 0x120404, n1 := 16, s1 := 0x100000, rw := 0x1 }
  | .objShedSpans => { base := 0x120480, n1 := 16, s1 := 0x100000, ro := 0x7FFFFFFF, w1c := 0x80000000 }
  | .objShedLines => { base := 0x120484, n1 := 16, s1 := 0x100000, ro := 0x7FFFFFFF, w1c := 0x80000000 }
  | .objBandDrop => { base := 0x120488, n1 := 16, s1 := 0x100000, ro := 0x7FFFFFFF, w1c := 0x80000000 }
  | .objXgroup => { base := 0x12048C, n1 := 16, s1 := 0x100000, ro := 0x7FFFFFFF, w1c := 0x80000000 }
  | .objLateBands => { base := 0x120490, n1 := 16, s1 := 0x100000, ro := 0x7FFFFFFF, w1c := 0x80000000 }
  | .objPeak => { base := 0x120494, n1 := 16, s1 := 0x100000, ro := 0x7FFF, wo := 0x80000000 }
  | .objShedLast => { base := 0x120498, n1 := 16, s1 := 0x100000, ro := 0xFF3FFF, w1c := 0x80000000 }
  | .objFrameShed => { base := 0x12049C, n1 := 16, s1 := 0x100000, ro := 0x7FFFFFFF }
  | .objBinStatus => { base := 0x120800, ro := 0xFFFF, w1c := 0x10000 }
  | .objBinBands => { base := 0x120840, n1 := 16, s1 := 0x8, ro := 0x7FFFFFFF, w1c := 0x80000000 }
  | .objBinSteals => { base := 0x120844, n1 := 16, s1 := 0x8, ro := 0x7FFFFFFF, w1c := 0x80000000 }
  | .bmpCtrl => { base := 0x130000, n1 := 16, s1 := 0x100000, n2 := 3, s2 := 0x100, rw := 0x7FFF, rst := 0x12 }
  | .bmpBaseY => { base := 0x130004, n1 := 16, s1 := 0x100000, n2 := 3, s2 := 0x100, rw := 0xFFFFFFF }
  | .bmpBaseC => { base := 0x130008, n1 := 16, s1 := 0x100000, n2 := 3, s2 := 0x100, rw := 0xFFFFFFF }
  | .bmpPitch => { base := 0x13000C, n1 := 16, s1 := 0x100000, n2 := 3, s2 := 0x100, rw := 0xFFF0FFF, rst := 0x10001 }
  | .bmpSize => { base := 0x130010, n1 := 16, s1 := 0x100000, n2 := 3, s2 := 0x100, rw := 0x1FFF3FFF, rst := 0x437077F }
  | .bmpSrc => { base := 0x130014, n1 := 16, s1 := 0x100000, n2 := 3, s2 := 0x100, rw := 0x1FFF3FFF }
  | .bmpPos => { base := 0x130018, n1 := 16, s1 := 0x100000, n2 := 3, s2 := 0x100, rw := 0xFFFFFFFF }
  | .bmpAlpha => { base := 0x13001C, n1 := 16, s1 := 0x100000, n2 := 3, s2 := 0x100, rw := 0xFFF, rst := 0xFFF }
  | .bmpWinX => { base := 0x130020, n1 := 16, s1 := 0x100000, n2 := 3, s2 := 0x100, rw := 0x7FFF7FFF, rst := 0x40000000 }
  | .bmpWinY => { base := 0x130024, n1 := 16, s1 := 0x100000, n2 := 3, s2 := 0x100, rw := 0xBFFF3FFF, rst := 0x20000000 }
  | .bmpM => { base := 0x130030, n1 := 16, s1 := 0x100000, n2 := 3, s2 := 0x100, n3 := 9, s3 := 0x4, rw := 0xFFFF }
  | .bmpOfs => { base := 0x130054, n1 := 16, s1 := 0x100000, n2 := 3, s2 := 0x100, n3 := 3, s3 := 0x4, rw := 0x1FFF1FFF }
  | .bmpImp => { base := 0x130070, n1 := 16, s1 := 0x100000, n2 := 3, s2 := 0x100, rw := 0x7FFEFFF, rst := 0x20200 }
  | .bmpImpStatus => { base := 0x130080, n1 := 16, s1 := 0x100000, n2 := 3, s2 := 0x100, ro := 0x1FFFF, w1c := 0x20000 }
  | .bmpImpMiss => { base := 0x130084, n1 := 16, s1 := 0x100000, n2 := 3, s2 := 0x100, ro := 0x7FFFFFFF, w1c := 0x80000000 }
  | .bmpImpLost => { base := 0x130088, n1 := 16, s1 := 0x100000, n2 := 3, s2 := 0x100, ro := 0x7FFFFFFF, w1c := 0x80000000 }
  | .cmpCtrl => { base := 0x140000, n1 := 16, s1 := 0x100000, rw := 0x7F, rst := 0x12 }
  | .cmpOrder0 => { base := 0x140004, n1 := 16, s1 := 0x100000, rw := 0xFFFFFFFF, rst := 0x76543210 }
  | .cmpOrder1 => { base := 0x140008, n1 := 16, s1 := 0x100000, rw := 0xFFFFFFF, rst := 0xEDCBA98 }
  | .cmpBgRg => { base := 0x14000C, n1 := 16, s1 := 0x100000, rw := 0xFFF0FFF }
  | .cmpBgB => { base := 0x140010, n1 := 16, s1 := 0x100000, rw := 0xFFF }
  | .cmpBlend => { base := 0x140040, n1 := 16, s1 := 0x100000, n2 := 15, s2 := 0x4, rw := 0xFFF0003, rst := 0xFFF0000 }
  | .cmpLadder => { base := 0x140080, n1 := 16, s1 := 0x100000, n2 := 8, s2 := 0x4, rw := 0x1FFF003F }
  | .cmpWbCtrl => { base := 0x1400B0, n1 := 16, s1 := 0x100000, rw := 0x1F }
  | .cmpWbBase => { base := 0x1400B4, n1 := 16, s1 := 0x100000, rw := 0xFFFFFFF }
  | .cmpWbPitch => { base := 0x1400B8, n1 := 16, s1 := 0x100000, rw := 0xFFF, rst := 0x1 }
  | .cmpWbRec => { base := 0x1400BC, n1 := 16, s1 := 0x100000, rw := 0xFFFFFFF }
  | .cmpWbSkip => { base := 0x1400C0, n1 := 16, s1 := 0x100000, ro := 0x7FFFFFFF, w1c := 0x80000000 }
  | .cmpShedFrames => { base := 0x1400C4, n1 := 16, s1 := 0x100000, ro := 0x7FFFFFFF, w1c := 0x80000000 }
  | .cmpStatus => { base := 0x1400D0, n1 := 16, s1 := 0x100000, w1c := 0x1 }
  | .cmpLadderStatus => { base := 0x1400D4, n1 := 16, s1 := 0x100000, ro := 0xFF }
  | .cmpPlCtrl => { base := 0x140100, n1 := 16, s1 := 0x100000, ro := 0x1 }
  | .cmpPlMap => { base := 0x140104, n1 := 16, s1 := 0x100000, ro := 0xFFFFFF }
  | .cmpPlTile => { base := 0x140108, n1 := 16, s1 := 0x100000, ro := 0xFFFFFF }
  | .cmpPlSize => { base := 0x14010C, n1 := 16, s1 := 0x100000, ro := 0xF0F }
  | .cmpPlPos => { base := 0x140110, n1 := 16, s1 := 0x100000, ro := 0xFFFFFFFF }
  | .cmpPlFaultRg => { base := 0x140114, n1 := 16, s1 := 0x100000, ro := 0xFFF0FFF, rst := 0xFFF }
  | .cmpPlFaultB => { base := 0x140118, n1 := 16, s1 := 0x100000, ro := 0xFFF }
  | .cmpPlPal => { base := 0x140140, n1 := 16, s1 := 0x100000, n2 := 32, s2 := 0x4, ro := 0xFFFFFFFF }
  | .cmpPlBadent => { base := 0x1401C0, n1 := 16, s1 := 0x100000, ro := 0x7FFFFFFF, w1c := 0x80000000 }
  | .cmpPleAddrLo => { base := 0x140C00, rw := 0xFFFFFFC0 }
  | .cmpPleAddrHi => { base := 0x140C04, rw := 0xFFFFFFFF }
  | .cmpPleCtrl => { base := 0x140C08, wo := 0x1 }
  | .cmpPleStatus => { base := 0x140C0C, ro := 0xFF }
  | .cmpPleNonce => { base := 0x140C10, ro := 0xFFFFFFFF }
  | .cmpPleSeqLo => { base := 0x140C14, ro := 0xFFFFFFFF }
  | .cmpPleSeqHi => { base := 0x140C18, ro := 0xFFFFFFFF }
  | .cmpPleRegionBase => { base := 0x140C1C, ro := 0xFFFF }
  | .cmpPleRegionSize => { base := 0x140C20, ro := 0xFFF }
  | .cmpPleDeny => { base := 0x140C24, ro := 0x7FFFFFFF, w1c := 0x80000000 }
  | .cmpPleKeyid => { base := 0x140C28, ro := 0xFFFFFFFF }
  | .lpCtrl => { base := 0x150000, n1 := 16, s1 := 0x100000, rw := 0x7, wo := 0x8 }
  | .lpStatus => { base := 0x150004, n1 := 16, s1 := 0x100000, ro := 0x73F }
  | .lpPc => { base := 0x150008, n1 := 16, s1 := 0x100000, ro := 0xFFFC, rst := 0x80 }
  | .lpXcause => { base := 0x15000C, n1 := 16, s1 := 0x100000, ro := 0xFFFFFFFF }
  | .lpXaddr => { base := 0x150010, n1 := 16, s1 := 0x100000, ro := 0xFFFFFFFF }
  | .lpExc => { base := 0x150014, n1 := 16, s1 := 0x100000, ro := 0x7FFFFFFF, w1c := 0x80000000 }
  | .lpDbgCtrl => { base := 0x150020, n1 := 16, s1 := 0x100000, rw := 0x3 }
  | .lpBkpt => { base := 0x150030, n1 := 16, s1 := 0x100000, n2 := 4, s2 := 0x4, rw := 0xFFFD }
  | .lpWatch => { base := 0x150040, n1 := 16, s1 := 0x100000, n2 := 2, s2 := 0x4, rw := 0x3FFFD }
  | .lpDbgG => { base := 0x150100, n1 := 16, s1 := 0x100000, n2 := 32, s2 := 0x4, rw := 0xFFFFFFFF }
  | .lpDbgS => { base := 0x150180, n1 := 16, s1 := 0x100000, n2 := 26, s2 := 0x4, rw := 0xFFFFFFFF }
  | .lpRaCtrl => { base := 0x150800, n1 := 16, s1 := 0x100000, rw := 0x7FFF }
  | .lpRaPos => { base := 0x150804, n1 := 16, s1 := 0x100000, ro := 0x80FF3FFF }
  | .lpRaHeld => { base := 0x150808, n1 := 16, s1 := 0x100000, ro := 0x7FFF }
  | .lpRaMinHeld => { base := 0x15080C, n1 := 16, s1 := 0x100000, ro := 0x7FFF, wo := 0x80000000, rst := 0x7FFF }
  | .lpLsqStatus => { base := 0x150810, n1 := 16, s1 := 0x100000, ro := 0x7FF }
  | .lpLsqReject => { base := 0x150814, n1 := 16, s1 := 0x100000, ro := 0x7FFFFC, w1c := 0x80000000 }
  | .lpLsqLateLast => { base := 0x150818, n1 := 16, s1 := 0x100000, ro := 0x3FFF3FFF, w1c := 0x80000000 }
  | .lpRaCount => { base := 0x150820, n1 := 16, s1 := 0x100000, n2 := 8, s2 := 0x4, ro := 0x7FFFFFFF, w1c := 0x80000000 }
  | .lutPlane => { base := 0x160000, n1 := 16, s1 := 0x100000, n2 := 9, s2 := 0x2000, n3 := 2048, s3 := 0x4, rw := 0xFFF0FFF }
  | .lutOut => { base := 0x172000, n1 := 16, s1 := 0x100000, n2 := 3, s2 := 0x2000, n3 := 2048, s3 := 0x4, rw := 0xFFF0FFF }
  | .paletteLow => { base := 0x180000, n1 := 16, s1 := 0x100000, n2 := 16384, s2 := 0x8, rw := 0xFFFFFFFF }
  | .paletteHigh => { base := 0x180004, n1 := 16, s1 := 0x100000, n2 := 16384, s2 := 0x8, rw := 0xFFFFFFFF }
  | .lpItcm => { base := 0x1C0000, n1 := 16, s1 := 0x100000, n2 := 16384, s2 := 0x4, rw := 0xFFFFFFFF }
  | .lpDtcm => { base := 0x1D0000, n1 := 16, s1 := 0x100000, n2 := 16384, s2 := 0x4, rw := 0xFFFFFFFF }
  | .oat => { base := 0x2000000, n1 := 131072, s1 := 0x20, n2 := 8, s2 := 0x4, rw := 0xFFFFFFFF }
  | .tt => { base := 0x3000000, n1 := 8192, s1 := 0x20, n2 := 8, s2 := 0x4, rw := 0xFFFFFFFF }
  | .sysCenCtrl => { base := 0x3100000, wo := 0x3 }
  | .sysCenScope => { base := 0x3100004, rw := 0x3FFFF }
  | .sysCenBaseLo => { base := 0x3100008, rw := 0xFFFFF000 }
  | .sysCenBaseHi => { base := 0x310000C, rw := 0xFFFFFFFF }
  | .sysCenSize => { base := 0x3100010, rw := 0xFFFFF }
  | .sysCenStatus => { base := 0x3100014, ro := 0x1F7 }
  | .sysCenBytes => { base := 0x3100018, ro := 0xFFFFFFFF }
  | .sysCgMap => { base := 0x3100020, n1 := 2, s1 := 0x4, rw := 0xFFFFFFFF }
  | .sysCgCtrl => { base := 0x3100100, n1 := 16, s1 := 0x20, rw := 0xFFFFFFFF, rst := 0x1F40800 }
  | .sysCgEpoch => { base := 0x3100104, n1 := 16, s1 := 0x20, ro := 0xFFFFFFFF }
  | .sysCgStatus => { base := 0x3100108, n1 := 16, s1 := 0x20, ro := 0x2, w1c := 0xD }
  | .sysCgSuperseded => { base := 0x310010C, n1 := 16, s1 := 0x20, ro := 0x7FFFFFFF, w1c := 0x80000000 }
  | .sysBeamEpoch => { base := 0x3100400, n1 := 16, s1 := 0x4, ro := 0xFFFFFFFF }

/-- The register families of the sys part of the map. -/
def sysRegs : List RegName :=
  [.sysId, .sysStep, .sysSerialLo, .sysSerialHi, .sysReject, .sysMode, .sysModeReq, .sysDbg,
   .sysReset, .sysResetCause, .sysWake, .sysWakeStatus, .sysWakeTimeLo, .sysWakeTimeHi, .sysScCtrl,
   .sysScStatus, .sysBootCtrl, .sysBootAddrLo, .sysBootAddrHi, .sysBootStatus, .sysBootKeyid,
   .sysBootSeqLo, .sysBootSeqHi, .sysLcStatus, .sysLcCmd, .sysLcAddrLo, .sysLcAddrHi, .sysMgmtCtrl,
   .sysFdrop, .sysPsCtrl, .sysPsScrub, .sysPsCache, .sysPsStatus, .sysPsScrubPos, .sysPsOor,
   .sysPsInjectLo, .sysPsInjectHi, .sysPsInjectCtrl, .sysPsRes, .sysPsResmiss, .sysPsSCe1,
   .sysPsSCe2, .sysPsSUe, .sysPsSPoison, .sysPsSLogLo, .sysPsSLogHi, .sysPsTblCe1, .sysPsTblCe2,
   .sysPsTblUe, .sysPsTblPoison, .sysPsTblLogLo, .sysPsTblLogHi]

/-- The register families of the hst part of the map. -/
def hstRegs : List RegName :=
  [.hstCtrl, .hstStatus, .hstReject, .hstDbBaseLo, .hstDbBaseHi, .hstWbBaseLo, .hstWbBaseHi,
   .hstPoll, .hstPollCeil0, .hstPollCeil1, .hstHb, .hstLoss, .hstLossStampLo, .hstLossStampHi,
   .hstLost, .hstBar2Offset, .hstEqBaseLo, .hstEqBaseHi, .hstEqCtrl, .hstEqStatus, .hstCrBaseLo,
   .hstCrBaseHi, .hstCrCtrl, .hstCrStatus, .hstCqBaseLo, .hstCqBaseHi, .hstCqCtrl, .hstCqStatus,
   .hstMsixAddrLo, .hstMsixAddrHi, .hstMsixData, .hstMsixMask, .hstMsixPba]

/-- The register families of the evt part of the map. -/
def evtRegs : List RegName :=
  [.evtCtrl, .evtReject, .evtStranded, .evtSpurious, .evtSwi, .evtCoreCtrl, .evtCoreStatus,
   .evtPend, .evtActive, .evtQRec, .evtQRes, .evtQStatus, .evtSrcCfg, .evtSrcCoal, .evtSrcStatus]

/-- The register families of the tmr part of the map. -/
def tmrRegs : List RegName :=
  [.tmrTbLo, .tmrTbHi, .tmrTbSetLo, .tmrTbSetHi, .tmrTbCtrl, .tmrReject, .tmrCmpValue,
   .tmrCmpPeriod, .tmrCmpCtrl, .tmrCmpStatus, .tmrCapCtrl, .tmrCapLo, .tmrCapHi, .tmrCapStatus,
   .tmrCapLog, .tmrItCtrl, .tmrItReload, .tmrItLoad, .tmrItCount, .tmrItExp]

/-- The register families of the gpio part of the map. -/
def gpioRegs : List RegName :=
  [.gpioReject, .gpioBank, .gpioOut, .gpioSet, .gpioClr, .gpioPad, .gpioFilt, .gpioPCtrl, .gpioPIn]

/-- The register families of the pwr part of the map. -/
def pwrRegs : List RegName :=
  [.pwrReject, .pwrStatus, .pwrLedger, .pwrCfg, .pwrCap, .pwrTherm, .pwrTotal, .pwrTmax,
   .pwrBeamMin, .pwrBeamTgt, .pwrIsl, .pwrTs, .pwrRailCfg, .pwrRailCtrl, .pwrRailStatus,
   .pwrRailRead, .pwrPlanW0, .pwrPlanW1, .pwrPlanW, .pwrPlanCtrl, .pwrPlanStatus, .pwrLive,
   .pwrDat, .pwrPmbCtrl, .pwrPmbData, .pwrPmbStatus, .almCtrl, .almStampLo, .almStampHi, .almHours,
   .almLeap, .almLogCtrl, .almLogIdx, .almLogStatus, .almLogTorn, .almLogData, .almMId, .almMVal,
   .almMRef, .almMTed]

/-- The register families of the bist part of the map. -/
def bistRegs : List RegName :=
  [.bistCtrl, .bistStatus, .bistReject, .bistProgLo, .bistProgHi, .bistProgCtrl, .bistKeyid,
   .bistCount, .bistFailLo, .bistFailHi, .bistRepairCtrl, .bistRepairStatus]

/-- The register families of the dma part of the map. -/
def dmaRegs : List RegName :=
  [.dmaRun, .dmaReject, .dmaChCtrl, .dmaChStatus, .dmaChProgLo, .dmaChProgHi, .dmaChBlock,
   .dmaChBad, .dmaChBadFirst, .dmaChBadLast, .dmaChErr, .dmaChErrAddrLo, .dmaChErrAddrHi,
   .dmaChSigLast]

/-- The register families of the blt part of the map. -/
def bltRegs : List RegName :=
  [.bltCtrl, .bltStatus, .bltReject, .bltStageBase, .bltStageSize, .bltEStatus, .bltEProgress,
   .bltDeny, .bltPoison, .bltDirect, .bltDirectCtrl, .bltDirectStatus]

/-- The register families of the aud part of the map. -/
def audRegs : List RegName :=
  [.audCtrl, .audStatus, .audReject, .audClk, .audClkSpf, .audPhaseErr, .audSample,
   .audFrameSample, .audSwap, .audBusLive, .audBusOpt, .audFetchLate, .audVevBad, .audVevLate,
   .audXfadeCut, .audDataBad, .audVend, .audOc, .audTdmCtrl, .audTdmSlip, .audTdmFrameErr,
   .audLinkBase, .audFeedData, .audFeedStatus, .audFeedUnder, .audVeqW, .audVeqRes, .audVeqStatus,
   .audBusBq0, .audBusBq, .audBusBqen, .audBusComp, .audBusThresh, .audBusTime, .audBusDlyBase,
   .audBusDlyLen, .audBusFbwet, .audBusDry, .audBusGain, .audBusEnd, .audXp, .audV0, .audV1, .audV2, .audV3,
   .audV4, .audV5, .audV6, .audV7]

/-- The register families of the lnk part of the map. -/
def lnkRegs : List RegName :=
  [.lnkReject, .lnkRoute, .lnkPCtrl, .lnkPAudio, .lnkPRxCtrl, .lnkPStatus, .lnkPPeer,
   .lnkPPeerDepth, .lnkPPeerIdLo, .lnkPPeerIdHi, .lnkPGrade, .lnkPCredit, .lnkPLoad, .lnkPCount,
   .lnkPFecCe, .lnkPFecUe, .lnkPMasqCtrl, .lnkPMasqBeams, .lnkPMasqLine, .lnkPMasqPeriod,
   .lnkPMasqLimit, .lnkPMasqStatus]

/-- The register families of the beam part of the map. -/
def beamRegs : List RegName :=
  [.beamCtrl, .beamClk, .beamClkFrac, .beamActive, .beamTotal, .beamHsync, .beamVsync,
   .beamCalends, .beamGenlock, .beamGenlockOfs, .beamGenlockWin, .beamVigil, .beamLineMatch,
   .beamStatus, .beamPos, .beamFrameLo, .beamFrameHi, .beamPhaseErr, .beamClkActual,
   .beamVigilFrames, .beamJumps, .beamReject]

/-- The register families of the tmap part of the map. -/
def tmapRegs : List RegName :=
  [.tmapCtrl, .tmapMapBase, .tmapTileBase, .tmapMapSize, .tmapScroll, .tmapVel, .tmapPal,
   .tmapMosaic, .tmapWinX, .tmapWinY, .tmapAffO, .tmapAffD, .tmapBadent]

/-- The register families of the obj part of the map. -/
def objRegs : List RegName :=
  [.objCtrl, .objOfsX, .objOfsY, .objPal, .objAlpha, .objWinX, .objWinY, .objSpanLimit, .objDebug,
   .objShedSpans, .objShedLines, .objBandDrop, .objXgroup, .objLateBands, .objPeak, .objShedLast,
   .objFrameShed, .objBinStatus, .objBinBands, .objBinSteals]

/-- The register families of the bmp part of the map. -/
def bmpRegs : List RegName :=
  [.bmpCtrl, .bmpBaseY, .bmpBaseC, .bmpPitch, .bmpSize, .bmpSrc, .bmpPos, .bmpAlpha, .bmpWinX,
   .bmpWinY, .bmpM, .bmpOfs, .bmpImp, .bmpImpStatus, .bmpImpMiss, .bmpImpLost]

/-- The register families of the cmp part of the map. -/
def cmpRegs : List RegName :=
  [.cmpCtrl, .cmpOrder0, .cmpOrder1, .cmpBgRg, .cmpBgB, .cmpBlend, .cmpLadder, .cmpWbCtrl,
   .cmpWbBase, .cmpWbPitch, .cmpWbRec, .cmpWbSkip, .cmpShedFrames, .cmpStatus, .cmpLadderStatus,
   .cmpPlCtrl, .cmpPlMap, .cmpPlTile, .cmpPlSize, .cmpPlPos, .cmpPlFaultRg, .cmpPlFaultB,
   .cmpPlPal, .cmpPlBadent, .cmpPleAddrLo, .cmpPleAddrHi, .cmpPleCtrl, .cmpPleStatus, .cmpPleNonce,
   .cmpPleSeqLo, .cmpPleSeqHi, .cmpPleRegionBase, .cmpPleRegionSize, .cmpPleDeny, .cmpPleKeyid]

/-- The register families of the lp part of the map. -/
def lpRegs : List RegName :=
  [.lpCtrl, .lpStatus, .lpPc, .lpXcause, .lpXaddr, .lpExc, .lpDbgCtrl, .lpBkpt, .lpWatch, .lpDbgG,
   .lpDbgS, .lpRaCtrl, .lpRaPos, .lpRaHeld, .lpRaMinHeld, .lpLsqStatus, .lpLsqReject,
   .lpLsqLateLast, .lpRaCount]

/-- The register families of the table part of the map. -/
def tableRegs : List RegName :=
  [.lutPlane, .lutOut, .paletteLow, .paletteHigh, .lpItcm, .lpDtcm]

/-- The register families of the win part of the map. -/
def winRegs : List RegName :=
  [.oat, .tt, .sysCenCtrl, .sysCenScope, .sysCenBaseLo, .sysCenBaseHi, .sysCenSize, .sysCenStatus,
   .sysCenBytes, .sysCgMap, .sysCgCtrl, .sysCgEpoch, .sysCgStatus, .sysCgSuperseded, .sysBeamEpoch]

end Sys2Proof.Machine
end

