-- ==== Sys2Proof/Config.lean ====
section
/-! DEFINITION. What the spec leaves to the part or leaves open. Every constant here is opaque: nothing can be
proved about its value (log entry 1). -/

namespace Sys2Proof

/-- A value the spec leaves open, fresh for each use: the index counts the uses. -/
opaque Config.freeValue : Nat → BitVec 64

/-- Which neighbour a value n / d that lies midway is rounded to, where the spec says "rounded": true for the upper one. -/
opaque Config.tieUp : Int → Nat → Bool

/-- Whether a value n / d that lies between two codes takes the upper one, where the spec does not state a rounding. -/
opaque Config.roundUp : Int → Nat → Bool

/-- The part of the compressor's gain that the spec leaves open within its bound, by THRESH, envelope and RATIO. -/
opaque Config.gainDev : Nat → Nat → Nat → Nat

/-- A 64-bit accumulator after a sum that lies outside it. -/
opaque Config.accOverflow : Int → BitVec 64

/-- What the converter's 48-bit accumulator loses of a sum of so many products, in units of 2^−54 (R278). -/
opaque Config.convDev : Int → Nat → Nat

/-- The word that manufacture fused for a register, by its BAR0 address. -/
opaque Config.fused : Nat → BitVec 32

end Sys2Proof
end

