-- ==== Sys2Proof/Machine/State.lean ====
section
/-! DEFINITION. The state of the block, as plain data: every register, queue, buffer, counter, mode and pin the
spec gives it, the queue of waiting commands, and the model's own log of what leaves the block. -/

namespace Sys2Proof.Machine

/-- A sparse table of register words, sorted by BAR0 address; an unlisted register holds its reset word. -/
abbrev RegFile := List (Nat × Word)

/-- Why the machine stops with a fault. No command of this block stops that way: a command that cannot happen in a
state leaves the state as it is. The one name is kept for a machine whose state holds no reset device. -/
inductive Fault where
  /-- Raised by no meaning; safe. -/
  | noDevice
deriving DecidableEq, Repr

/-- Why the model gives a command no meaning. -/
inductive Refusal where
  /-- Raised by an arm of exec whose command is not modelled; safe. -/
  | notModelled (mnemonic : String)
deriving DecidableEq, Repr

/-- Everything the block gives to the outside, in order: requests, messages and completions on PCI Express, bytes on
its other interfaces. The log is the model's own; no command reads it. -/
inductive OutEvent where
  /-- A memory write to the host: address, bytes, and whether it carries Relaxed Ordering (R54). -/
  | hostWrite (addr : Word64) (data : List Byte) (relaxed : Bool := false)
  /-- A memory read request to the host: address and length. -/
  | hostRead (addr : Word64) (len : Nat)
  /-- An MSI-X message of a vector: address and data (R331). -/
  | msix (vector : Nat) (addr : Word64) (data : Word)
  /-- Data returned for a host read of BAR0 or BAR2; ep marks uncorrected data (R49, R50). -/
  | completion (data : List Byte) (ep : Bool)
  /-- An unsupported-request completion (R49). -/
  | unsupported
  /-- A Configuration Request Retry Status completion (R331, R417). -/
  | configRetry
  /-- A configuration request's successful completion, with what a read asked for (R47, R48). -/
  | configCompletion (value : Option Nat)
  /-- A cell sent by a link port on a lane: its bytes as packed (R251). -/
  | cell (port lane : Nat) (data : List Byte)
  /-- What a lane transmits: so many symbols, the first one lowest, of one bit each, or of two where `pam4` (R248, R249). -/
  | lane (port lane : Nat) (pam4 : Bool) (count levels : Nat)
  /-- The next cell of the port is sent with this many symbol errors in the codeword of its first block (R270); the lane
  symbols that the codeword's blocks show are those before the errors. -/
  | symbolErrors (port n : Nat)
  /-- A training frame sent on a lane: its control and status fields, and its symbols (R257). -/
  | training (port lane : Nat) (control status : Word) (pam4 : Bool) (levels : Nat)
  /-- A TDM frame sent by an audio serial port: slot words (R292). -/
  | tdm (port : Nat) (slots : List Word)
  /-- The pins of the port in that frame, one item a bit clock from the frame sync on (R291): the data bits, changing on the
  rising edges of the bit clock or on the falling ones, and the levels of a frame sync that the port drives, none for one that
  the spec leaves open. -/
  | tdmPins (port : Nat) (rising : Bool) (data : List Bool) (sync : List (Option Bool))
  /-- The data pins of the TDM ports are driven low from here: in Sleep (R294), and from a reset until a port is enabled
  (R418). -/
  | tdmLow
  /-- THERM_N is driven low, or released (R362, R418). -/
  | thermN (low : Bool)
  /-- An AVSBus voltage write of a rail group in mV, with the rail and the clock code of PWR_RAILg_CFG (R367). -/
  | avsWrite (group mv rail clk : Nat)
  /-- An AVSBus Status read of a rail group's regulator, and a Voltage read (R367). -/
  | avsStatus (group rail clk : Nat)
  | avsRead (group rail clk : Nat)
  /-- A PMBus transaction: address, command, bytes, read, PEC (R379). -/
  | pmbus (addr cmd : Nat) (data : List Byte) (read pec : Bool)
  /-- Bytes answered on the management port (R394). -/
  | mgmt (data : List Byte)
deriving DecidableEq, Repr

/-- What the configuration space and the link of the PCI Express endpoint hold (R47, R48, R331). -/
structure Pci where
  /-- Bus Master Enable. -/
  busMaster : Bool := false
  /-- Memory Space Enable. -/
  memSpace : Bool := false
  /-- MSI-X Function Mask. -/
  fnMask : Bool := false
  /-- The function is in D3hot. -/
  d3hot : Bool := false
  /-- BAR2 size code of the Resizable BAR capability: 1 GiB × 2^code, 0 to 6 (R48). -/
  bar2Size : Nat := 0
  /-- Codes of the Maximum Read Request Size and of the Maximum Payload Size: 128 bytes × 2^code (R47, R312). -/
  readCode : Fin 6 := 2
  payloadCode : Fin 3 := 0
  /-- Device Control permits Relaxed Ordering (R54). -/
  relaxed : Bool := true
  /-- MSI-X Enable (R47). -/
  msixEnable : Bool := false
  /-- ASPM L1 is enabled (R47, R58). -/
  aspmL1 : Bool := false
  /-- Addresses of BAR0 and BAR2 (R48). -/
  bar0 : Word64 := 0
  bar2 : Word64 := 0
  /-- The rate and the width that the link trained to: 2.5 to 32 GT/s as 1 to 5, and lanes; 0 before (R47). -/
  rate : Nat := 0
  width : Nat := 0
  /-- The link is up. -/
  linkUp : Bool := false
  /-- PERST_N is low. -/
  perst : Bool := true
  /-- AER has logged an Unsupported Request, and a Poisoned TLP (R49). -/
  aerUnsupported : Bool := false
  aerPoisoned : Bool := false
deriving DecidableEq, Repr

/-- The two sizes in bytes. -/
def Pci.readSize (p : Pci) : Nat := 128 * 2 ^ p.readCode.val
def Pci.payload (p : Pci) : Nat := 128 * 2 ^ p.payloadCode.val

/-- What a line held before a change: its data, erroneous symbols and poison (R101). -/
structure OldLine where
  line : Nat
  data : List Byte
  err : List (Nat × Byte)
  poisoned : Bool
deriving DecidableEq, Repr

/-- The pattern store (R95 to R108): data bytes in canonical form, and what its check codes know. -/
structure Store where
  /-- Bytes at addresses below 48 GiB, strictly rising, none zero; an unlisted byte is zero (R388). -/
  mem : List Host.Cell := []
  /-- Erroneous symbols of each 64-byte line: the stored codeword is that of `mem` exclusive-or these (R102). -/
  err : List (Nat × List (Nat × Byte)) := []
  /-- Lines that carry the poison signature (R105). -/
  poison : List Nat := []
  /-- The armed injection: line number and symbols (R108). -/
  inject : Option (Nat × Nat) := none
  /-- Clients whose waiting deferred request has been raised to normal service (R9). -/
  promoted : List Nat := []
  /-- Earlier contents of lines changed while a beam's read window was open, oldest first (R101). -/
  log : List OldLine := []
deriving DecidableEq, Repr

/-- Errors of the on-die tables: erroneous symbols per table word, and the poisoned words (R102 to R106). A table word
is keyed by its table number × 2^32 plus its index: 0 OAT, 1 Transform Table, 2 palettes, 3 colour tables, 4 memories of
the Fanel cores, 5 run-ahead windows (LOG_HI.TABLE). -/
structure Tables where
  err : List (Nat × List (Nat × Byte)) := []
  poison : List Nat := []
  /-- What a miscorrection or an undetected error left in a word, as the exclusive-or with the bytes last written; the memories
  of the cores hold such words themselves (R103). -/
  off : List (Nat × List (Nat × Byte)) := []
  /-- Poisoned core-memory words being rewritten in ascending order: the words written so far (R239). -/
  clear : List (Nat × Nat) := []
deriving DecidableEq, Repr

/-- A register of a Fanel core that a result reaches after its distance (R219). -/
inductive PReg where
  /-- General register i. -/
  | g (i : Nat)
  /-- Bit i of st: N, Z, C, V, DZ. -/
  | flag (i : Nat)
  /-- Special register s; 0 stands for DZE, IE, IPL and LD of st. -/
  | sp (s : Nat)
deriving DecidableEq, Repr

/-- A result that becomes visible at core cycle `at` (R219). -/
structure PendWrite where
  reg : PReg
  val : Word
  at_ : Nat
deriving DecidableEq, Repr

/-- What a core is waiting on or frozen by (R217, LP_STATUS.WAIT). -/
inductive CoreWait where
  | none
  /-- WFE with its destination and mask (R229). -/
  | wfe (rd : Nat) (mask : Word)
  /-- WAITT with its target (R230). -/
  | waitt (target : Word)
  /-- WAITL with its destination and position word (R231). -/
  | waitl (rd : Nat) (pos : Word)
  /-- MSYNC (R221). -/
  | msync
  /-- LSW back-pressure (R191). -/
  | lsw
  /-- A window load of `size` bytes into rd, sign-extended if `signed` (R209, R210). -/
  | load (addr : Word) (size : Nat) (signed : Bool) (rd : Nat)
  /-- A pattern-window store, or a device-window store that meets sixteen posted ones (R209, R210). -/
  | store (addr : Word) (size : Nat) (val : Word)
deriving DecidableEq, Repr

/-- LP_STATUS.STATE and SYS_SC_STATUS.STATE. -/
inductive CoreRun where
  | reset
  | running
  | waiting
  | halted
  | lockup
  | gated
deriving DecidableEq, Repr

/-- A division in the unit: the core cycle it ends at and its results (R216, R219). -/
structure Division where
  endAt : Nat
  quo : Word
  rem : Word
deriving DecidableEq, Repr

/-- One Fanel core (R204 to R245): registers, pipeline clock, memories and wait state. -/
structure Core where
  run : CoreRun := .reset
  wait : CoreWait := .none
  /-- LP_STATUS.WHY (0 not halted, 1 HALT, 2 breakpoint, 3 BRK, 4 step, 5 watchpoint, 6 exception, 7 Debug Halt). -/
  why : Nat := 0
  /-- The next instruction passes its breakpoint: the core was resumed or stepped at it. -/
  skipBp : Bool := false
  /-- A stepped load waits for its data; the core halts when they arrive (R242). -/
  stepped : Bool := false
  /-- Pipeline configuration: true X, false M (R205). -/
  pipeX : Bool := false
  pc : Word := 0x80
  g : Vector Word 32 := Vector.replicate 32 0
  /-- st without PIPE. -/
  st : Word := 0
  ml : Word := 0
  mh : Word := 0
  ev : Word := 0
  ls : Vector Word 4 := Vector.replicate 4 0
  le : Vector Word 4 := Vector.replicate 4 0
  lc : Vector Word 4 := Vector.replicate 4 0
  xcause : Word := 0
  xaddr : Word := 0
  vbase : Word := 0
  cyc : Word := 0
  tbh : Word := 0
  pswin : Word := 0
  /-- Core cycle of the next issue, freezes excluded (R217). -/
  t : Nat := 0
  /-- Results not yet visible, oldest first. -/
  pend : List PendWrite := []
  /-- The division in the unit, if any (R221). -/
  div : Option Division := none
  /-- Posted device-window stores of a steward core, oldest first, at most 16 (R209). -/
  posted : List (Word × Word) := []
  /-- I-TCM and D-TCM by word index; an unlisted word is zero. -/
  itcm : List (Nat × Word) := []
  dtcm : List (Nat × Word) := []
deriving DecidableEq, Repr

/-- A record of four words in a queue of the shared pool (R19): an event record (R335) or a voice event (R280). -/
structure Rec4 where
  w0 : Word
  w1 : Word
  w2 : Word
  w3 : Word
deriving DecidableEq, Repr

/-- A claimed source, the core that claimed it and its level (R330). -/
structure ActiveSrc where
  source : Nat
  core : Nat
  level : Nat
deriving DecidableEq, Repr

/-- Event controller state beside its registers (R19, R325 to R335). -/
structure Evt where
  /-- Stamp of the first undelivered arrival of each pending source. -/
  stamps : List (Nat × Word64) := []
  /-- Claimed sources. -/
  active : List ActiveSrc := []
  /-- Pending sources already counted as stranded (R334). -/
  stranded : List Nat := []
  /-- The queues of the shared pool, oldest record first: 0 to 275 by event target (core COREID, or 20 + vector),
  276 + g for voice-event queue g. -/
  queues : List (Nat × List Rec4) := []
  /-- The record whose words 1 to 3 the last pop of each queue latched. -/
  latch : List (Nat × Rec4) := []
deriving DecidableEq, Repr

/-- What a capture register held at the count `at_`, before the captures of that cycle: the stamp's halves and OVR. -/
structure CapBefore where
  at_ : Word64
  lo : Word
  hi : Word
  ovr : Bool
deriving DecidableEq, Repr

/-- Time base and timers beside their registers (R336 to R344). -/
structure Tmr where
  /-- The 64-bit count of ns. -/
  tb : Word64 := 0
  /-- Accumulator of the always-on domain (R338). -/
  acc : Nat := 0
  /-- The always-on domain drives the count (TMR_TB_CTRL.SLOW). -/
  slow : Bool := false
  /-- High half latched by a 32-bit read of TMR_TB_LO, until the next read of TMR_TB_HI. -/
  tbLatch : Option Word := none
  /-- Time-base replicas by clock domain number (R14). -/
  replicas : List (Nat × Nat) := []
  /-- Compare outputs (R340). -/
  cmpOut : BitVec 64 := 0
  /-- Capture logs by channel, oldest first (R342). -/
  capLog : List (Nat × List Word64) := []
  /-- The record whose words 1 to 3 the last pop of each capture log latched. -/
  capLatch : List (Nat × Rec4) := []
  /-- High halves latched by a 32-bit read of TMR_CAPk_LO, until the next read of HI. -/
  capHi : List (Nat × Word) := []
  /-- What each capture register held before the cycle of its latest capture (R343). -/
  capOld : List (Nat × CapBefore) := []
deriving DecidableEq, Repr

/-- A composed pixel: its three output codes and its flag field (R166, R169). -/
structure OutPixel where
  c0 : Nat
  c1 : Nat
  c2 : Nat
  fl : Nat
deriving DecidableEq, Repr, Inhabited

/-- One generated version of a line with its version record (R188): epoch, PL bank, ladder depth, the effective values
of the line-scheduled fields, the pixels, and the counts that emission reports (R144). -/
structure Version where
  epoch : Word
  plBank : Nat
  depth : Nat
  eff : RegFile
  pixels : List OutPixel
  /-- Counted spans, shed spans, and KEEP of the last span drawn. -/
  counted : Nat
  shed : Nat
  lastKeep : Nat
  /-- A word of the slot is uncorrectable. -/
  bad : Bool := false
deriving DecidableEq, Repr, Inhabited

/-- A window line: whether it is held, its complete current version and its superseded version (R186, R187, R195). -/
structure Slot where
  line : Nat
  held : Bool
  cur : Option Version
  sup : Option Version
deriving DecidableEq, Repr

/-- What the emission buffer holds for a line: the source of R196 (1 to 4), the last-consistent flag, the version. -/
structure Emit where
  line : Nat
  src : Nat
  lc : Bool
  ver : Version
deriving DecidableEq, Repr

/-- A line-scheduled write in the queue (R189, R191): target offset, the frame and line it names now, and whether the
generator has applied it (R193). -/
structure LqEntry where
  value : Word
  mask : Word
  off : Nat
  frame : Nat
  line : Nat
  applied : Bool
deriving DecidableEq, Repr

/-- A line being generated (R193): its number, the effective values fixed for it, and what it waits for. -/
structure GenLine where
  line : Nat
  eff : RegFile
deriving DecidableEq, Repr

/-- A band list of a frame: the objects in shed order once it is complete (R139), and whether a late wait at it has
been counted (R141). -/
structure Band where
  objs : Option (List Nat)
  late : Bool
deriving DecidableEq, Repr

/-- A slot of an import ring: the line it holds, its epoch low half and its pixel count (R158), and the frame of the
importing beam that has read it since it arrived (R160). -/
structure ImportSlot where
  line : Nat
  epochLo : Nat
  count : Nat
  used : Option Nat := none
deriving DecidableEq, Repr

/-- An importing plane: its ring's slots, lines declared missing, whether IMP_MISS was raised this frame, and whether
repeat frames are arriving (R158 to R160). -/
structure ImportPlane where
  slots : List (Nat × ImportSlot) := []
  missing : List Nat := []
  missRaised : Bool := false
  repeating : Bool := false
deriving DecidableEq, Repr

/-- How a frame is sent (R90, R91). -/
inductive FrameKind where
  | full
  | refresh
  | repeated
deriving DecidableEq, Repr

/-- What a beam does as a whole (R82, R83). -/
inductive BeamRun where
  | stopped
  | starting
  | running
deriving DecidableEq, Repr

/-- Genlock beside BEAM_STATUS.LOCK (R85, R86): the time of the last event taken, the events in a row within LOCK_NS,
the phase error still to be jumped, and the frequency in use as an offset from the programmed one. -/
structure Genlock where
  lastTaken : Option Nat := none
  good : Nat := 0
  jump : Option Int := none
  pull : Int := 0
deriving DecidableEq, Repr

/-- The write-back frame in progress (R183). -/
structure WbFrame where
  buffer : Nat := 0
  seq : Nat := 0
  lastCons : Bool := false
  mixed : Bool := false
  skipped : Nat := 0
  lines : Nat := 0
  epoch : Word := 0
  stamp : Word64 := 0
  active : Bool := false
deriving DecidableEq, Repr

/-- What the write-back writes next: a line's bytes, or a frame record, at an address; a complete record raises its
event. -/
inductive WbItem where
  | line (addr : Nat) (data : List Byte)
  | record (addr : Nat) (data : List Byte) (complete : Bool)
deriving DecidableEq, Repr

/-- One beam island (spec 04 to 10). -/
structure Beam where
  /-- The image the beam adopted last: beam region, route, OAT and Transform Table words (R36). -/
  live : RegFile := []
  /-- The pending bank: the group of its hand-over, its epoch and its image (R35). -/
  pend : Option (Nat × Word × RegFile) := none
  run : BeamRun := .stopped
  /-- RUN = 0 was adopted: the beam stops where the next frame would start (R83). -/
  stopping : Bool := false
  /-- TOTAL, HSYNC, VSYNC, CALENDS, CLK, CLK_FRAC in effect for the frame now emitting (R81). -/
  em : List (Nat × Word) := []
  /-- The Calends of the next frame has passed. -/
  calDone : Bool := false
  /-- Stamp of the latest Calends. -/
  calStamp : Word64 := 0
  /-- Time of the latest frame start, or, before frame 0, of the PLL's lock; and the island clock of the frame before, from
  which the PLL slews (R81), in 1/65,536 Hz. -/
  startAt : Nat := 0
  oldClk : Nat := 0
  /-- When the slew to the clock of the frame now emitting began, or it waits for the rail (R369). -/
  slewAt : Nat := 0
  slewWait : Bool := false
  /-- When the ladder target changed last, with the target before (R365). -/
  tgtWas : Option (Nat × Nat) := none
  /-- Time at which the emission of the latest line began (R349). -/
  lineAt : Nat := 0
  /-- Fg (R186), the kind of the frame that Calends began, and the kind and the line count of the frame now emitting, and
  whether it is a jump frame. -/
  fg : Nat := 0
  nextKind : FrameKind := .full
  curKind : FrameKind := .full
  curLines : Nat := 0
  curJump : Bool := false
  /-- Next line whose emission begins, counted from the frame start. -/
  nextLine : Nat := 0
  /-- No frame has begun since the beam started (R82). -/
  atStart : Bool := true
  /-- Quiet count and frame number in Vigil (R90, R91). -/
  quiet : Nat := 0
  vigilN : Nat := 0
  /-- Number of the last full frame. -/
  lastFull : Nat := 0
  /-- A line-scheduled write was consumed, or the protected layer changed, since the last Calends (R90). -/
  lsqUsed : Bool := false
  plChanged : Bool := false
  /-- PL fields waiting for the Calends with the number of their package, and the number of PL banks adopted (R175). -/
  plPend : Option (Nat × List Word) := none
  plBank : Nat := 0
  genlock : Genlock := {}
  /-- High half latched by a 32-bit read of BEAM_FRAME_LO (R88). -/
  frameLatch : Option Word := none
  /-- The generator: the line in progress, the generation point, the restart line (R194). -/
  gen : Option GenLine := none
  g : Nat := 0
  restart : Option Nat := none
  /-- The generator has a frame to generate. -/
  generating : Bool := false
  slots : List Slot := []
  /-- Lines of Fg whose deadline has passed, and whose emission has begun. -/
  dl : Nat := 0
  emitted : Nat := 0
  copied : Option Emit := none
  last : Option Emit := none
  /-- Stamp of the start of the last line's emission, and the image its version was generated from (R42). -/
  lastStamp : Word64 := 0
  lastLive : RegFile := []
  /-- Effective values up to the line now emitting (R193), of words that differ from the live image or were written. -/
  lineBase : RegFile := []
  /-- Affine origins (Ou, Ov) of T0 to T7 by line of Fg (R119). -/
  origins : List (List (Int × Int)) := []
  queue : List LqEntry := []
  /-- Entries issued and not yet at the queue, oldest first (R191). -/
  crossing : List Rec4 := []
  /-- RA_LASTCON and OBJ_SHED were raised for the frame now emitting; spans shed in it. -/
  lastConRaised : Bool := false
  shedRaised : Bool := false
  shedFrame : Nat := 0
  /-- Where the read windows of the line in progress open in the pattern store's log: layers, objects (R101). -/
  window : Option Nat := none
  objWindow : Option Nat := none
  nextObj : Option Nat := none
  /-- The sort stage runs; objects it kept; band lists (R137 to R140). -/
  sorting : Bool := false
  sorted : List Nat := []
  bands : List Band := []
  imports : Vector ImportPlane 3 := Vector.replicate 3 {}
  wb : WbFrame := {}
  /-- What waits in the write-back buffer (R109): at most four lines, with the frame records between them (R183). -/
  wbBuf : List WbItem := []
  /-- Route in use, and a line-granular route waiting for the next line boundary (R267). -/
  route : Word := 0
  routePend : Option Word := none
deriving DecidableEq, Repr

/-- The binning unit (R137, R138): each worker's list of (beam, band), and the band it is building. -/
structure Binning where
  lists : Vector (List (Nat × Nat)) 16 := Vector.replicate 16 []
  work : Vector (Option (Nat × Nat)) 16 := Vector.replicate 16 none
deriving DecidableEq, Repr

/-- A commit handed over and not completed (R33): its epoch, the members still to adopt it or a newer epoch, whether
one skipped it, and the descriptor to complete. -/
structure CommitRec where
  epoch : Word
  waiting : List Nat
  skipped : Bool
  /-- Ring, header word and index of the COMMIT descriptor. -/
  ring : Nat
  desc : List Byte
  index : Nat
  /-- Stamp of the last adoption. -/
  stamp : Word64
deriving DecidableEq, Repr

/-- A commit group (R29 to R40). -/
structure Group where
  /-- The committed image. -/
  image : RegFile := []
  commits : List CommitRec := []
  /-- An epoch is handed over and not yet ready; its transfers are under way. -/
  want : Bool := false
  moving : Bool := false
  /-- The epoch that members may adopt. -/
  ready : Option Word := none
  /-- The leader's guard runs. -/
  guard : Bool := false
  /-- The fence cell held: its epoch; it arrived while the transfer was under way; no fence is awaited any more (R40). -/
  fence : Option Word := none
  fenceLate : Bool := false
  waived : Bool := false
  /-- Commits that wait for the census to release hand-overs: ring, index and descriptor (R42). -/
  held : List (Nat × Nat × List Byte) := []
deriving DecidableEq, Repr

/-- What the census still has to write (R41): a group section not yet cut, a record of a section that has been cut, a
part of a register block or of a core memory, read when it is written, and the end record. -/
inductive CenItem where
  | group (g : Nat)
  | record (bytes : List Byte)
  | endGroup (g : Nat) (bytes : List Byte)
  | block (addr words : Nat)
  | mem (core addr words : Nat)
  | done
deriving DecidableEq, Repr

/-- The census (R41 to R45): what is still to write, bytes written, and where the last record's header lies. -/
structure Census where
  todo : List CenItem := []
  bytes : Nat := 0
  lastAt : Option Nat := none
  lastFlags : Nat := 0
  /-- An ABORT waits for the end of the record. -/
  abort : Bool := false
deriving DecidableEq, Repr

/-- The OAT change store (R130): entries that hold a slot, and those of them written since the last hand-over of their
group. -/
structure OatStore where
  /-- The Transform Table as last committed, entry by entry (R132). -/
  tt : RegFile := []
  slots : List Nat := []
  dirty : List Nat := []
deriving DecidableEq, Repr

/-- A PL region that a new one has replaced, still protected (R175): base and size in MiB, the package that replaced it,
and the beams that have yet to adopt a bank of that or a later package. -/
structure OldRegion where
  base : Nat
  size : Nat
  pkg : Nat
  beams : List Nat
deriving DecidableEq, Repr

/-- The PL engine (R173 to R175): package bytes once fetched, packages accepted, whether the data are written and the
banks under way, the old regions. -/
structure PlEngine where
  pkg : List Byte := []
  accepted : Nat := 0
  sent : Bool := false
  old : List OldRegion := []
deriving DecidableEq, Repr

/-- A cell before it is sent (R251): its header fields but SEQ and CRC, and its 240 payload bytes (fewer are padded
with zeros). -/
structure Cell where
  type : Nat
  beam : Nat := 0
  lc : Bool := false
  eol : Bool := false
  line : Nat := 0
  cidx : Nat := 0
  count : Nat := 0
  depth : Nat := 0
  ycc : Bool := false
  epochLo : Nat := 0
  payload : List Byte := []
deriving DecidableEq, Repr

/-- One lane of a port as it receives (R246, R250, R257): the last training fields received and how often each in a row,
what this side sends, tap positions, grades at the rate being trained, polarity, and alignment-marker lock. -/
structure Lane where
  ctl : Word := 0
  ctlSame : Nat := 0
  status : Word := 0
  statusSame : Nat := 0
  /-- The control field that this side sends: its own requests and RX_READY. -/
  own : Word := 0
  /-- The pair is connected the other way round, as training detected (R246). -/
  inverted : Bool := false
  /-- Per-tap status that this side sends: two bits per tap (R257). -/
  tapStatus : Nat := 0
  taps : List Int := [0, 0, 0, 0]
  rxReady : Bool := false
  /-- Grades at the rate being trained: 0 none, 1 failed, 2 FEC-grade, 3 clean; graded in that direction. -/
  localGrade : Nat := 0
  remoteGrade : Nat := 0
  /-- Partner's lane number. -/
  peerLane : Nat := 0
  /-- What the last valid alignment marker said (R250): port, lane, INDEX and COUNT; and how many block times it came after
  the port's first lane. -/
  marker : Option (Nat × Nat × Nat × Nat) := none
  skew : Nat := 0
  amGood : Nat := 0
  amBad : Nat := 0
  locked : Bool := false
deriving DecidableEq, Repr

/-- One lane of a port as it transmits (R248 to R250): the next block slot modulo 4,000, the count of markers sent, the last
58 bits that left the scrambler (the oldest lowest), the blocks of the codeword under way, and a bit that waits for the
second of its PAM4 pair. -/
structure LaneTx where
  slot : Nat := 0
  markers : Nat := 0
  scrambler : Nat := 0
  message : List Nat := []
  odd : Option Bool := none
deriving DecidableEq, Repr

/-- What a port knows of the lines of an imported beam (R158): the line after the last one of which a cell arrived, the
active lines of its frame (0: not known), and whether cells were missing since. -/
structure RxTrack where
  beam : Nat
  next : Nat
  lines : Nat
  gap : Bool
deriving DecidableEq, Repr

/-- A line being received: beam, line, the next cell index, and its pixels so far (R264). -/
structure RxLine where
  beam : Nat
  line : Nat
  next : Nat
  epochLo : Nat
  pixels : List OutPixel
deriving DecidableEq, Repr

/-- One link port beside its registers (R246 to R271). -/
structure Port where
  lanes : Vector Lane 4 := Vector.replicate 4 {}
  /-- The transmit side of the lanes, and the place in the active set of the lane that takes the next cell (R251). -/
  tx : Vector LaneTx 4 := Vector.replicate 4 {}
  nextLane : Nat := 0
  /-- LNK_CTRL as the attempt under way read it (R260). -/
  ctl0 : Word := 0
  /-- Rates both sides allow, and FEC, as training found them. -/
  common : Nat := 0
  fec : Bool := false
  fecBad : Bool := false
  /-- Results of training by rate code: the lanes usable. -/
  trained : List (Nat × List Nat) := []
  /-- Usable lanes found in Base (R258). -/
  base : List Nat := []
  /-- Rate being trained, or 0; the rate trained last; the port trains once more at the rate selected. -/
  rate : Nat := 0
  lastRate : Nat := 0
  final : Bool := false
  /-- The lanes of the mode selected. -/
  mode : List Nat := []
  /-- A partner CAP that matches is held; PEER_OK was sent, and received. -/
  capHeld : Bool := false
  okSent : Bool := false
  okGot : Bool := false
  /-- Times of the uncorrectable codewords of each lane, and of the CRC failures, within the last ms (R260). -/
  ucw : List (List Nat) := [[], [], [], []]
  crcBad : List Nat := []
  /-- Cells waiting to leave: CREDIT, CAP, control in the order raised, AUDIO, and PIXEL by completion (R255). -/
  credit : List Cell := []
  cap : List Cell := []
  ctl : List Cell := []
  audio : List Cell := []
  pixels : List (Nat × Cell) := []
  /-- Control cells of a beam that wait for pixel cells of the beam to leave first (R267): beam, pixel cells still to leave,
  cell. -/
  late : List (Nat × Nat × Cell) := []
  /-- Lines of which a cell has left and one has not: beam and line. -/
  started : List (Nat × Nat) := []
  /-- SEQ of the next cell (R263). -/
  txSeq : Nat := 0
  /-- NEXT received last, and whether a CREDIT has arrived (R263). -/
  next : Nat := 0
  gotCredit : Bool := false
  /-- Ready cells that were counted as starved (R263). -/
  starved : Nat := 0
  /-- Expected SEQ and SEQ freed by the last CREDIT sent (R264). -/
  rxSeq : Nat := 0
  freed : Nat := 0
  rxLines : List RxLine := []
  rxTrack : List RxTrack := []
  /-- Masquerade: candidates since the last taken one; held cells, each with the cells still to pass (R270). -/
  masqCount : Nat := 0
  held : List (Nat × List Byte) := []
  /-- Sample-frame count at 96 kHz, and the frames gathered for the next AUDIO cell, each with its stamp (R293). -/
  audIndex : Nat := 0
  audFrames : List (Word64 × List Int) := []
  /-- What this side last advertised: REPEAT and FENCE (R261). -/
  advRepeat : Bool := false
  advFence : Bool := false
  /-- Fault wait of 1,000 ms, after three failures in a row. -/
  longWait : Bool := false
deriving DecidableEq, Repr

/-- A voice's source as START latched it (R275, R282), its position, what it has taken from its feed, and the lines
fetched for it: line number, bytes, poisoned. -/
structure AudSrc where
  fmt : Nat
  loop : Bool
  feed : Nat
  tlog : Nat
  data : Nat
  len : Nat
  ls : Nat
  p : Nat
  /-- Index of the next feed sample to take, and the samples kept, by index. -/
  taken : Nat := 0
  hist : List (Nat × Word) := []
  buf : List (Nat × List Byte × Bool) := []
deriving DecidableEq, Repr

/-- A voice that is Playing or Stopping (R277, R282): frames of its STOP fade, and an old sound that fades: its source,
the level in 64ths that it fades from, and the frames done. -/
structure AudVoice where
  src : AudSrc
  stop : Option Nat := none
  old : Option (AudSrc × Nat × Nat) := none
deriving DecidableEq, Repr

/-- A gain in change (R286): the value in use n / 2^e in units of Q1.13, a value that waits for a zero crossing, or a
ramp from a value to another with the frames done. -/
structure AudGain where
  cur : Int × Nat
  wait : Option Nat := none
  since : Nat := 0
  ramp : Option ((Int × Nat) × Nat × Nat) := none
deriving DecidableEq, Repr

/-- A crosspoint in crossfade (R285): outgoing and incoming entries with the frames done. -/
structure AudFade where
  old : Word
  outDone : Nat
  cur : Word
  inDone : Nat
deriving DecidableEq, Repr

/-- A bus (R287, R289): biquad states x1, x2, y1, y2, envelope, delay position and line buffers, frames for which the wet
path is still muted, the last return, and the depth of the bypass in 64ths. -/
structure AudBus where
  bq : List (Int × Int × Int × Int) := List.replicate 4 (0, 0, 0, 0)
  env : Nat := 0
  pos : Nat := 0
  rbuf : List Int := []
  wbuf : List Int := []
  mute : Nat := 0
  ret : Int := 0
  byp : Nat := 0
deriving DecidableEq, Repr

/-- The audio core beside its registers (R272 to R294). -/
structure Aud where
  /-- Voices that are not Idle. -/
  voices : List (Nat × AudVoice) := []
  /-- Gains in change, and the non-zero signals of the previous frame: voice v at v, channel c at 1,024 + c, bus b at
  1,088 + b. -/
  gains : List (Nat × AudGain) := []
  prev : List (Nat × Int) := []
  /-- Crosspoints written since the last boundary with the entry before, and those in crossfade. -/
  xpDirty : List (Nat × Word) := []
  fades : List (Nat × AudFade) := []
  buses : List (Nat × AudBus) := []
  /-- Feeds, oldest sample first. -/
  feeds : List (Nat × List Word) := []
  swaps : BitVec 64 := 0
  /-- The output frame computed at the last boundary, not yet handed over; frames buffered by each TDM port. -/
  frame : Option (List Int) := none
  tdm : List (Nat × List (List Int)) := []
  /-- The I²S bit of a port's last frame that its next frame's first bit clock still carries (R291). -/
  tdmLast : List (Nat × Bool) := []
  /-- The sample clock's lock: events since the one taken last, good events in a row, times of the event taken last and
  of the last boundary; a reference event since that boundary. -/
  since : Option Nat := none
  good : Nat := 0
  lastTaken : Option Nat := none
  lastBound : Nat := 0
  refSeen : Bool := false
deriving DecidableEq, Repr

/-- A blit (R296, R297): its 64 descriptor bytes, and the ring and index it completes, or none for a direct one. -/
structure Blit where
  desc : List Byte
  ring : Option (Nat × Nat)
deriving DecidableEq, Repr

/-- A blit engine beside its registers: the blit it holds, whether the sync beam has begun to emit SYNC_LINE since the
wait began, whether the blit is staged, and source bytes that its own writes have replaced, with their poison. -/
structure Engine where
  job : Option Blit := none
  seen : Bool := false
  staged : Bool := false
  saved : List (Nat × Byte × Bool) := []
deriving DecidableEq, Repr

/-- The blitter: blits in order of acceptance, and the engines. -/
structure Blt where
  queue : List Blit := []
  engines : Vector Engine 4 := Vector.replicate 4 {}
deriving DecidableEq, Repr

/-- An active DMA loop (R314): the indices of the first and the last instruction of its body, its count and pass index,
and its signed steps. -/
structure DmaLoop where
  first : Int
  last : Int
  count : Nat
  pass : Nat
  sstep : Int
  dstep : Int
deriving DecidableEq, Repr

/-- A request of a DMA block in flight (R315): its offset and length in the block, whether it was issued while Bus Master Enable
was clear, and what its read returned where that has been applied before its response is in: none inside for an error. -/
structure DmaReq where
  off : Nat
  len : Nat
  refused : Bool := false
  got : Option (Option (List Byte)) := none
deriving DecidableEq, Repr

/-- An incomplete DMA block (R315): its number, spaces and effective addresses, length, how far its reads are issued,
the requests in flight in issue order, and whether it is BAD. -/
structure DmaBlock where
  num : Nat
  sspace : Nat
  dspace : Nat
  src : Nat
  dst : Nat
  len : Nat
  next : Nat
  reqs : List DmaReq
  bad : Bool
deriving DecidableEq, Repr

/-- A DMA signal that has not fired (R317): the block it is tagged to, and the status of that block so far. -/
structure DmaSignal where
  block : Option Nat
  bad : Bool
  irq : Bool
  write : Bool
  host : Bool
  tag : Word
  addr : Nat
deriving DecidableEq, Repr

/-- What a DMA channel waits for (R318): nothing to be issued any more, a line of a beam, or a time. -/
inductive DmaWait where
  | drain
  | line (beam line : Nat)
  | time (start ns : Nat)
deriving DecidableEq, Repr

/-- A DMA channel beside its registers (R310 to R320). -/
structure DmaChan where
  active : Bool := false
  /-- The program lies in host memory; its address; the index of the instruction to execute next. -/
  host : Bool := false
  prog : Nat := 0
  pc : Int := 0
  /-- Ring and index of the DMA_START descriptor with its bytes. -/
  ring : Option (Nat × Nat × List Byte) := none
  /-- Program lines read, by line number, none where the read failed; and those being read, with whether the read was issued
  while Bus Master Enable was clear. -/
  lines : List (Nat × Option (List Byte)) := []
  fetching : List (Nat × Bool) := []
  /-- Active loops, innermost first. -/
  loops : List DmaLoop := []
  /-- Incomplete blocks, oldest first; the number of the next one; the last one begun is BAD. -/
  blocks : List DmaBlock := []
  next : Nat := 0
  lastBad : Bool := false
  signals : List DmaSignal := []
  wait : Option DmaWait := none
  /-- STOP was written. -/
  stop : Bool := false
  /-- The program ends, with its status so far (0, ILLEGAL or HOST_FAULT) and INFO2. -/
  ending : Option (Nat × Nat) := none
deriving DecidableEq, Repr

/-- The pins beside their registers (R347 to R356): outside drivers, what each pin drives, pads that are high, equal samples
of a level that is not the accepted one, and the always-on samples of the wake pin: the level accepted and the level of
the last sample (R384). -/
structure Gpio where
  outside : List (Nat × Bool) := []
  driven : List (Nat × Bool) := []
  high : List Nat := []
  samples : List (Nat × Nat) := []
  wakeLevel : Bool := false
  wakeLast : Bool := false
deriving DecidableEq, Repr

/-- The AVSBus side of a rail group (R367, R369, R370): VDone was reported for the voltage sent, the write was acknowledged
and Status is being read, failures in a row, the fault that is being retried, a lower load band with the windows in a row
that measured it. -/
structure Rail where
  ready : Bool := true
  reading : Bool := false
  fails : Nat := 0
  faulted : Bool := false
  low : Nat := 0
  lowRun : Nat := 0
deriving DecidableEq, Repr

/-- An Almanac log operation (R377): a record to write without SEQ, HOURS and CRC, with its stamp, also to the fuse array
or not; or a read. -/
inductive LogOp where
  | write (type : Nat) (payload : List Byte) (stamp : Word64) (fuse : Bool)
  | read
deriving DecidableEq, Repr

/-- The power and Almanac units beside their registers (R358 to R379). -/
structure Pwr where
  rails : Vector Rail 4 := Vector.replicate 4 {}
  /-- The plan being verified: its group, the plan before it with its KIND; and when verification began. -/
  verify : Option (Nat × List Word × Bool) := none
  verifyAt : Nat := 0
  /-- When the running ledger window began (R358), and the latest periodic sample set (R376). -/
  windowAt : Nat := 0
  sampleAt : Nat := 0
  /-- The ledger watchdog's running period: its start and its length in ms. -/
  watch : Option (Nat × Nat) := none
  /-- A sample set runs. -/
  sampling : Bool := false
  /-- Flash records, oldest first, none for a torn one; the position of the next record; fuse records; SEQ of the next
  record; the operation under way and the hardware records that wait. -/
  flash : List (Option (List Byte)) := []
  flashAt : Nat := 0
  fuses : List (List Byte) := []
  seq : Nat := 0
  op : Option LogOp := none
  queue : List LogOp := []
deriving DecidableEq, Repr

/-- A completion waiting to be posted (R67): its fields as the record has them. -/
structure Cpl where
  status : Nat
  op : Nat
  tag : Word
  index : Nat
  info : Word
  info2 : Word64
  stamp : Word64
deriving DecidableEq, Repr

/-- What holds a command ring (R64): the descriptor's index and bytes, and its condition. -/
inductive Hold where
  | epoch (index : Nat) (desc : List Byte)
  | line (index : Nat) (desc : List Byte)
  | hostWrite (index : Nat) (desc : List Byte)
  /-- A COMMIT whose hand-over the census holds (R42). -/
  | commit (index : Nat) (desc : List Byte)
  /-- A WRITE_IND under way: words written and rejected, and the first rejected offset. -/
  | writeInd (index : Nat) (desc : List Byte) (done rejected : Nat) (first : Option Nat)
deriving DecidableEq, Repr

/-- A command ring beside its registers (R52 to R71). -/
structure Ring where
  /-- Last good producer index, and whether the field's bad value has been recorded (R55). -/
  pi : Nat := 0
  badSeen : Bool := false
  /-- Completion ring latched at enable (R70). -/
  cq : Nat := 0
  /-- Descriptors fetched and not begun, in index order, and the indices being fetched with their poll rounds. -/
  ready : List (Nat × List Byte) := []
  fetching : List (Nat × Nat) := []
  /-- Indices of descriptors begun and not completed. -/
  begun : List Nat := []
  hold : Option Hold := none
  /-- Completions that wait on a full completion ring, oldest first. -/
  waiting : List Cpl := []
  /-- The CQ_WAIT record of the wait under way has been posted (R68). -/
  cqWaitPosted : Bool := false
deriving DecidableEq, Repr

/-- The host interface beside its registers (R47 to R76). -/
structure Hst where
  rings : Vector Ring 64 := Vector.replicate 64 {}
  /-- Last good consumer indices of the completion rings and of the event ring, with badSeen flags. -/
  cqCi : Vector Nat 64 := Vector.replicate 64 0
  cqBad : Vector Bool 64 := Vector.replicate 64 false
  eqCi : Nat := 0
  eqBad : Bool := false
  heartbeat : Word := 0
  /-- A doorbell read is under way; failed reads in a row (R72). -/
  polling : Bool := false
  failed : Nat := 0
  /-- The number of the latest poll round, and the rounds that have advanced a fetch index (R56). -/
  round : Nat := 0
  advanced : List Nat := []
  /-- The ring served last at each priority (R65). -/
  served : Vector Nat 4 := Vector.replicate 4 63
deriving DecidableEq, Repr

/-- Where the device stands in a reset (R387, R417): SYS_RESET_N is low; the boot sequence runs, at a step, with the warm
column of its table or not, for a RESET_CAUSE; it has failed after the fuses were sensed, or TESTMODE was high before, and
waits for SYS_RESET_N; or it is over. -/
inductive ResetPhase where
  | held
  | boot (step : Nat) (warm : Bool) (cause : Nat)
  | stuck (sensed : Bool)
  | up
deriving DecidableEq, Repr

/-- A slice of a self-test program (R405). -/
structure BistEntry where
  cls : Nat
  part : Nat
  unit : Nat
  alg : Nat
  offline : Bool
  first : Nat
  rows : Nat
deriving DecidableEq, Repr

/-- A repair (R409): its instance, a row or a column of it, its number, and the spare used. -/
structure Repair where
  cls : Nat
  part : Nat
  unit : Nat
  column : Bool
  at_ : Nat
  spare : Nat
deriving DecidableEq, Repr

/-- The self-test engine beside its registers (R396 to R409): the program's entries, REPEAT and PAUSE; a GO that waits for
the slice to end and a STOP; whether a slice runs; pre-emptions in a row, and the
time of the last one with the ns until the slice may be retried; row faults that wait for a repair slice, and whether one runs; the repair log,
none for a torn entry, and the fuse array; the repair operation under way. -/
structure Bist where
  entries : List BistEntry := []
  repeated : Bool := false
  pause : Nat := 0
  pausing : Option Nat := none
  goNext : Bool := false
  stop : Bool := false
  slice : Bool := false
  cut : Nat := 0
  /-- Pre-emptions in a row of the repair slice that waits first (R402). -/
  fixCut : Nat := 0
  retry : Option (Nat × Nat) := none
  fix : List Repair := []
  fixing : Bool := false
  log : List (Option Repair) := []
  fused : List Repair := []
  op : Option (Nat × Option Repair) := none
deriving DecidableEq, Repr

/-- What the device as a whole holds beside its registers (R381 to R395, R417, R423). -/
structure Sys where
  /-- Fuse words that have been programmed since manufacture, by key; any other holds what manufacture fused. -/
  fuses : List (Nat × Word) := []
  reset : ResetPhase := .held
  /-- A warm reset has been triggered, with its cause (R387). -/
  warm : Option Nat := none
  /-- The 32.768 kHz oscillator runs (R417). -/
  aonClock : Bool := false
  /-- The management port answers, with the straps sampled at release (R394, R418). -/
  mgmtUp : Bool := false
  straps : Nat := 0
  /-- Sleep entry is under way; a wake is; the wake ends in Recovery (R383, R384). -/
  entering : Bool := false
  waking : Bool := false
  wakeLoss : Bool := false
  /-- The recorded loss occurred in Provisioning (R385); and when the host was lost last, also in Recovery. -/
  lossProv : Bool := false
  lossAt : Option Nat := none
  /-- The life-cycle command under way (R391). -/
  lc : Option Nat := none
  /-- The steward image that the boot engine has fetched (R390). -/
  image : List Byte := []
  /-- The instruction register of the TAP (R423). -/
  tapIr : Nat := 1
  bist : Bist := {}
deriving DecidableEq, Repr

/-- The state of the block. -/
structure State where
  /-- Every BAR0 register word but the core memories (spec 02 to 20), the shadow for shadowed state (R27, R28). -/
  regs : RegFile
  pci : Pci
  hst : Hst
  tmr : Tmr
  evt : Evt
  store : Store
  tbl : Tables
  cores : Vector Core 20
  beams : Vector Beam 16
  bin : Binning
  groups : Vector Group 16
  census : Census
  oat : OatStore
  ple : PlEngine
  ports : Vector Port 8
  aud : Aud
  blt : Blt
  dma : Vector DmaChan 64
  gpio : Gpio
  pwr : Pwr
  sys : Sys
  /-- Counter behind the values the spec leaves open; the model's own. -/
  free : Nat
  /-- What has left the block, oldest first; the model's own. -/
  out : List OutEvent
  /-- Commands waiting, first in, first out. -/
  pending : List Instr
deriving DecidableEq, Repr

/-- The block as it leaves cold reset (R6, R388), before the boot sequence of R387. -/
def State.reset : State where
  regs := []
  pci := {}
  hst := {}
  tmr := {}
  evt := {}
  store := {}
  tbl := {}
  cores := Vector.replicate 20 {}
  beams := Vector.replicate 16 {}
  bin := {}
  groups := Vector.replicate 16 {}
  census := {}
  oat := {}
  ple := {}
  ports := Vector.replicate 8 {}
  aud := {}
  blt := {}
  dma := Vector.replicate 64 {}
  gpio := {}
  pwr := {}
  sys := {}
  free := 0
  out := []
  pending := []

end Sys2Proof.Machine
end

