-- ==== Sys2Proof/Machine/Ops.lean ====
section
/-! DEFINITION. The named operations over registers: where an address lies in the map (R20, R21, R23), the word a
register holds after cold reset (R6), reading and storing a word, counters (R7), the REJECT registers (R5, R23),
values the spec leaves open, and the log of what leaves the block. -/

namespace Sys2Proof.Machine

/-- A register family with its three indices. -/
abbrev RegRef := RegName × Nat × Nat × Nat

/-- The address of a register. An index beyond the row's, which no command forms, wraps: the address lies in the row. -/
def addrOf (r : RegName) (i j k : Nat) : Nat :=
  (rowOf r).base + i % (rowOf r).n1 * (rowOf r).s1 + j % (rowOf r).n2 * (rowOf r).s2 + k % (rowOf r).n3 * (rowOf r).s3

/-- The indices of an address in one register family, if it lies there. -/
def indexIn (r : RegName) (a : Nat) : Option RegRef :=
  let w := rowOf r
  if a < w.base then none else
  let d := a - w.base
  let i := if w.n1 = 1 then 0 else d / w.s1
  let d1 := d - i * w.s1
  let j := if w.n2 = 1 then 0 else d1 / w.s2
  let d2 := d1 - j * w.s2
  let k := if w.n3 = 1 then 0 else d2 / w.s3
  if i < w.n1 ∧ j < w.n2 ∧ k < w.n3 ∧ d2 = k * w.s3 then some (r, i, j, k) else none

/-- The register families that may hold an address, by the maps of R20 and R21. -/
def regsNear (a : Nat) : List RegName :=
  if a < 0x10000 then sysRegs
  else if a < 0x20000 then hstRegs
  else if a < 0x30000 then evtRegs
  else if a < 0x40000 then tmrRegs
  else if a < 0x50000 then gpioRegs
  else if a < 0x60000 then pwrRegs
  else if a < 0x70000 then bistRegs
  else if a < 0x80000 then dmaRegs
  else if a < 0x90000 then bltRegs
  else if a < 0xA0000 then audRegs
  else if a < 0xB0000 then lnkRegs
  else if a < 0x100000 then []
  else if a < 0x1100000 then
    let o := a % 0x100000
    if o < 0x10000 then beamRegs
    else if o < 0x20000 then tmapRegs
    else if o < 0x30000 then objRegs
    else if o < 0x40000 then bmpRegs
    else if o < 0x50000 then cmpRegs
    else if o < 0x60000 then lpRegs
    else tableRegs
  else winRegs

/-- Offsets of the binning unit (R146) and of the PL engine (R185) are one set of storage in every beam's region:
the model keeps it at beam 0's addresses. -/
def canonAddr (a : Nat) : Nat :=
  if 0x100000 ≤ a ∧ a < 0x1100000 then
    let o := a % 0x100000
    if (0x20800 ≤ o ∧ o < 0x208C0) ∨ (0x40C00 ≤ o ∧ o < 0x40C2C) then 0x100000 + o else a
  else a

/-- The register at an address, or none for a reserved offset (R23). -/
def regAt (a : Nat) : Option RegRef := (regsNear a).findSome? (fun r => indexIn r a)

/-- The beam whose 1 MiB region holds an address (R20). -/
def beamOf (a : Nat) : Option Nat :=
  if 0x100000 ≤ a ∧ a < 0x1100000 then some (a / 0x100000 - 1) else none

/-- The word a register holds when the block leaves cold reset (R6): the constant of its row, or the value its field
map derives from the index. Values marked fuse, boot or entropy are put in place by the boot steps. -/
def resetOf (r : RegName) (i j k : Nat) : Word :=
  match r with
  | .hstCrCtrl => BitVec.ofNat 32 ((rowOf r).rst + i * 64)
  | .tmapAffD => if k = 0 ∨ k = 3 then 0x10000 else 0
  | .bmpM => if k % 4 = 0 then 0x1000 else 0
  | .lutPlane => BitVec.ofNat 32 (2 * k + (2 * k + 1) * 0x10000)
  | .lutOut => BitVec.ofNat 32 (2 * k + (2 * k + 1) * 0x10000)
  | .sysCgMap => if i = 0 then 0x76543210 else 0xFEDCBA98
  | .cmpPlPal => 0
  | _ => BitVec.ofNat 32 ((rowOf r).rst + 0 * j)

/-- The word at an address after cold reset. -/
def resetWord (a : Nat) : Word :=
  match regAt a with
  | some (r, i, j, k) => resetOf r i j k
  | none => 0

/-- The word a sparse register table holds at an address. -/
def rfGet (f : RegFile) (a : Nat) : Word := (kvGet a f).getD (resetWord a)

/-- The table with a word stored; a word equal to its reset word is not listed. -/
def rfSet (f : RegFile) (a : Nat) (w : Word) : RegFile := kvPut (resetWord a) a w f

/-- The word stored at an address. -/
def State.getW (s : State) (a : Nat) : Word := rfGet s.regs a

/-- The state with a word stored at an address. -/
def State.putW (s : State) (a : Nat) (w : Word) : State := { s with regs := rfSet s.regs a w }

/-- The word of a register. -/
def State.rd (s : State) (r : RegName) (i : Nat := 0) (j : Nat := 0) (k : Nat := 0) : Word :=
  s.getW (addrOf r i j k)

/-- The state with a register's word stored. -/
def State.wr (s : State) (r : RegName) (w : Word) (i : Nat := 0) (j : Nat := 0) (k : Nat := 0) : State :=
  s.putW (addrOf r i j k) w

/-- Field [hi:lo] of a register. -/
def State.rf (s : State) (r : RegName) (hi lo : Nat) (i : Nat := 0) (j : Nat := 0) (k : Nat := 0) : Nat :=
  fld (s.rd r i j k) hi lo

/-- The state with field [hi:lo] of a register set. -/
def State.wf (s : State) (r : RegName) (hi lo v : Nat) (i : Nat := 0) (j : Nat := 0) (k : Nat := 0) : State :=
  s.wr r (setFld (s.rd r i j k) hi lo v) i j k

/-- A bit of a register. -/
def State.rb (s : State) (r : RegName) (b : Nat) (i : Nat := 0) (j : Nat := 0) (k : Nat := 0) : Bool :=
  bit (s.rd r i j k) b

/-- The state with a bit of a register set or cleared. -/
def State.wb (s : State) (r : RegName) (b : Nat) (v : Bool) (i : Nat := 0) (j : Nat := 0) (k : Nat := 0) : State :=
  s.wf r b b v.toNat i j k

/-- A counter word after n more occurrences (R7): COUNT in [30:0] saturates and then SAT, bit 31, is set. -/
def countWord (w : Word) (n : Nat) : Word :=
  let c := fld w 30 0 + n
  if c < 2 ^ 31 then setFld w 30 0 c else setBit (setFld w 30 0 (2 ^ 31 - 1)) 31 true

/-- n more occurrences on a counter register (R7). -/
def State.bump (s : State) (r : RegName) (i : Nat := 0) (j : Nat := 0) (k : Nat := 0) (n : Nat := 1) : State :=
  if n = 0 then s else s.wr r (countWord (s.rd r i j k) n) i j k

/-- The REJECT register in which a write to an address is recorded (R5, R23). -/
def rejectReg (a : Nat) : RegName × Nat :=
  if a < 0x10000 then (.sysReject, 0)
  else if a < 0x20000 then (.hstReject, 0)
  else if a < 0x30000 then (.evtReject, 0)
  else if a < 0x40000 then (.tmrReject, 0)
  else if a < 0x50000 then (.gpioReject, 0)
  else if a < 0x60000 then (.pwrReject, 0)
  else if a < 0x70000 then (.bistReject, 0)
  else if a < 0x80000 then (.dmaReject, 0)
  else if a < 0x90000 then (.bltReject, 0)
  else if a < 0xA0000 then (.audReject, 0)
  else if a < 0xB0000 then (.lnkReject, 0)
  else match beamOf a with
    | some n => (.beamReject, n)
    | none => (.sysReject, 0)

/-- A write that did not take effect is recorded in its block's REJECT register: ADDR and VALID (R5, R23). -/
def State.reject (s : State) (a : Nat) : State :=
  s.wr (rejectReg a).1 (BitVec.ofNat 32 (a % 2 ^ 26 + 2 ^ 31)) (rejectReg a).2

/-- The clock domain of units in the central fabric (spec 01, the forty clock domains). -/
def domCentral : Nat := 3

/-- The clock domain of the steward cluster: the line processors and the steward cores. -/
def domSteward : Nat := 35

/-- The clock domain of the audio core. -/
def domAudio : Nat := 30

/-- The clock domain of beam n's island. -/
def domBeam (n : Nat) : Nat := 4 + n

/-- One item discarded at a fenced crossing is counted by the sending domain d, 1 to 38 (R13). -/
def State.fenceDrop (s : State) (d : Nat) : State := s.bump .sysFdrop (d - 1)

/-- The entry of the self-test program that runs, or is next. -/
def State.bistEntry (s : State) : Option BistEntry := s.sys.bist.entries[s.rf .bistStatus 16 9]?

/-- The island of a self-test instance (R396): the tables of objects lie in the central fabric, those of a beam in its island,
the memories of the Fanel cores in the steward cluster, caches and stacks in their controller's island. -/
def BistEntry.island (e : BistEntry) : Nat :=
  if e.cls ≤ 1 then domCentral
  else if e.cls ≤ 3 then 4 + e.unit
  else if e.cls = 4 then 35
  else if e.cls = 5 then 20 + e.unit
  else 20 + e.unit / 32

/-- An offline slice of an island runs (R404). -/
def State.offline (s : State) (d : Nat) : Bool :=
  s.sys.bist.slice && !s.sys.bist.fixing && match s.bistEntry with
    | some e => e.offline && e.island == d
    | none => false

/-- The crossings into an island are fenced (R13): the clock of every island but the host's, the central fabric and the
always-on domain stops in Sleep (R383); an offline slice fences the island that it tests (R404), of which log entry 97 leaves
the central fabric open; a Disabled port's island is fenced (R256). -/
def State.fenced (s : State) (d : Nat) : Bool :=
  (4 ≤ d && d < 39 && s.rf .sysMode 2 0 == 4) || (4 ≤ d && s.offline d) ||
    (22 ≤ d && d < 30 && s.rf .lnkPStatus 2 0 (d - 22) == 0)

/-- The generation point (R186): the next line that the generator will begin, none whose deadline has passed. -/
def Beam.nextGen (b : Beam) : Nat := max b.g b.dl

/-- A value the spec leaves open, of n values 0 to n − 1, and the state that has used it (log entry 1). -/
def State.fresh (s : State) (n : Nat) : Nat × State :=
  ((Config.freeValue s.free).toNat % n, { s with free := s.free + 1 })

/-- A 32-bit word the spec leaves open. -/
def State.freshWord (s : State) : Word × State := (BitVec.ofNat 32 (s.fresh (2 ^ 32)).1, (s.fresh (2 ^ 32)).2)

/-- An instruction is current in the TAP that puts every ball under the boundary-scan register (R424). -/
def State.scanned (s : State) : Bool := [0x00, 0x04, 0x05, 0x06, 0x07].contains s.sys.tapIr

/-- Something leaves the block, while its balls follow the functional logic (R424). -/
def State.emit (s : State) (e : OutEvent) : State := if s.scanned then s else { s with out := s.out ++ [e] }

/-- Host memory is read, while Bus Master Enable is set (R48): a range, asked for in one request or more. -/
def State.askHost (s : State) (a n : Nat) : State :=
  if s.pci.busMaster then s.emit (.hostRead (BitVec.ofNat 64 a) n) else s

/-- Host memory is written, while Bus Master Enable is set (R48). -/
def State.putHost (s : State) (a : Nat) (bs : List Byte) : State :=
  if s.pci.busMaster then s.emit (.hostWrite (BitVec.ofNat 64 a) bs) else s

/-- The (address, length) pieces of n bytes from a, cut at the multiples of a unit. -/
def unitPieces (unit a n : Nat) : List (Nat × Nat) :=
  if n = 0 then [] else
  (List.range ((a + n - 1) / unit - a / unit + 1)).map (fun i =>
    let lo := max a (unit * (a / unit + i))
    let hi := min (a + n) (unit * (a / unit + i + 1))
    (lo, hi - lo))

/-- Data of the DMA engine or of the census are written to the host (R54, R312): in writes of at most the Maximum Payload
Size, with Relaxed Ordering where Device Control permits it. Each write is as long as its place lets it be (log entry 107). -/
def State.putData (s : State) (a : Nat) (bs : List Byte) : State :=
  if s.pci.busMaster then
    (unitPieces s.pci.payload a bs.length).foldl (fun s p =>
      s.emit (.hostWrite (BitVec.ofNat 64 p.1) ((bs.drop (p.1 - a)).take p.2) s.pci.relaxed)) s
  else s

/-- The count of ns as a number. -/
def State.now (s : State) : Nat := s.tmr.tb.toNat

/-- At least `ns` have passed since time t, as the count runs. -/
def State.passed (s : State) (t ns : Nat) : Bool := ns ≤ (s.now + 2 ^ 64 - t % 2 ^ 64) % 2 ^ 64

/-- A stamp taken in a clock domain (R14). The central fabric holds the count itself. The replica of any other domain is
never ahead of the count, at most 32 ns behind it, and never goes back; the lag is a free value (log entry 6). Times are
compared as the count runs, across its wrap (R336). -/
def State.stamp (s : State) (d : Nat) : Word64 × State :=
  if d = domCentral then (s.tmr.tb, s) else
  let (lag, s1) := s.fresh 33
  let age := s.now + 2 ^ 64 - ((kvGet d s.tmr.replicas).getD 0) % 2 ^ 64
  let v := (s.now + 2 ^ 64 - min lag (age % 2 ^ 64)) % 2 ^ 64
  (BitVec.ofNat 64 v, { s1 with tmr := { s1.tmr with replicas := kvSet d v s1.tmr.replicas } })

/-- The TCM word at a byte address below 0x2_0000. -/
def Core.tcmWord (k : Core) (a : Nat) : Word :=
  if a < 0x10000 then (kvGet (a / 4) k.itcm).getD 0 else (kvGet ((a - 0x10000) / 4) k.dtcm).getD 0

/-- The core with a TCM word stored. -/
def Core.setTcm (k : Core) (a : Nat) (w : Word) : Core :=
  if a < 0x10000 then { k with itcm := kvPut 0 (a / 4) w k.itcm }
  else { k with dtcm := kvPut 0 ((a - 0x10000) / 4) w k.dtcm }

/-- A Fanel core by its COREID. -/
def State.core (s : State) (c : Nat) : Core := vget s.cores c {}

/-- The state with a core replaced. -/
def State.setCore (s : State) (c : Nat) (x : Core) : State := { s with cores := vset s.cores c x }

end Sys2Proof.Machine
end

