-- ==== Sys2Proof/Machine/Lanes.lean ====
section
/-! DEFINITION. Lane coding of a link port as it transmits (spec 12 R248 to R252): blocks, the scrambler, PAM4 levels,
RS(544,514) codewords, alignment markers and the lane that takes a cell; and training frames (R257). -/

namespace Sys2Proof.Machine

/-- A port by its number. -/
def State.port (s : State) (p : Nat) : Port := vget s.ports p {}

/-- The state with a port replaced. -/
def State.setPort (s : State) (p : Nat) (x : Port) : State := { s with ports := vset s.ports p x }

/-- The clock domain of port p. -/
def domPort (p : Nat) : Nat := 22 + p

/-- Port states (R256): 0 Disabled, 1 Base, 2 Descent, 3 Align, 4 Exchange, 5 Active, 6 Fault. -/
def State.portState (s : State) (p : Nat) : Nat := s.rf .lnkPStatus 2 0 p

/-- The lanes of the mode in use. -/
def State.modeLanes (s : State) (p : Nat) : List Nat := (List.range 4).filter (fun k => s.rb .lnkPStatus (5 + k) p)

/-- One bit of CRC-32C, least significant bit first. -/
def crcBit (c : Nat) : Nat := if c % 2 = 1 then (c / 2) ^^^ 0x82F63B78 else c / 2

/-- One byte of CRC-32C. -/
def crcByte (c : Nat) (b : Byte) : Nat := (List.range 8).foldl (fun c _ => crcBit c) (c ^^^ b.toNat)

/-- CRC-32C of a byte list (R252). -/
def crc32c (bs : List Byte) : Nat := bs.foldl crcByte 0xFFFFFFFF ^^^ 0xFFFFFFFF

/-! The scrambler (R248). -/

/-- Thirty-two bits go through x^58 + x^39 + 1: `h` holds the last 58 bits that left it, the oldest lowest. Answers the new
history and the scrambled bits. -/
def scramble32 (h w : Nat) : Nat × Nat :=
  let o := w ^^^ (h % 2 ^ 32) ^^^ (h / 2 ^ 19 % 2 ^ 32)
  (h / 2 ^ 32 + o * 2 ^ 26, o)

/-- A block's 256 payload bits, the first bit lowest. -/
def scramble256 (h v : Nat) : Nat × Nat :=
  (List.range 8).foldl (fun (acc : Nat × Nat) i =>
    let x := scramble32 acc.1 (v / 2 ^ (32 * i) % 2 ^ 32)
    (x.1, acc.2 + x.2 * 2 ^ (32 * i))) (h, 0)

/-- Pairs of bits as PAM4 levels, two bits each (R248): the first bit of a pair is the more significant of 00, 01, 11, 10. -/
def pamLevels (v count : Nat) : Nat :=
  (List.range count).foldl (fun acc i =>
    let a := v / 4 ^ i % 2
    let b := v / 4 ^ i / 2 % 2
    acc + (2 * a + (a ^^^ b)) * 4 ^ i) 0

/-! RS(544,514) over GF(2^10), with the field x^10 + x^3 + 1 and the roots α^0 to α^29 of IEEE Std 802.3 Clause 91
(PRESUMED: the standard that R249 names; log entry 100). -/

/-- The product of two field elements. -/
def gf10Mul (a b : Nat) : Nat :=
  ((List.range 10).foldl (fun (acc : Nat × Nat) i =>
    (if b.testBit i then acc.1 ^^^ acc.2 else acc.1,
     if acc.2 < 512 then 2 * acc.2 else (2 * acc.2) ^^^ 0x409)) (0, a)).1

/-- The generator polynomial's coefficients below its leading one, the highest first. -/
def fecGenerator : List Nat :=
  (((List.range 30).foldl (fun (acc : List Nat × Nat) _ =>
    (List.zipWith (fun x y => x ^^^ y) (acc.1 ++ [0]) (0 :: acc.1.map (gf10Mul acc.2)), gf10Mul acc.2 2)) ([1], 1)).1).drop 1

/-- The parity symbols of a message, first symbol first. -/
def fecParity (msg : List Nat) : List Nat :=
  msg.foldl (fun r m =>
    let f := m ^^^ r.headD 0
    List.zipWith (fun x g => x ^^^ gf10Mul f g) (r.drop 1 ++ [0]) fecGenerator) (List.replicate 30 0)

/-- The parity bits of twenty blocks of 257 bits (R249). -/
def blocksParity (blocks : List Nat) : Nat :=
  let m := blocks.zipIdx.foldl (fun a x => a + x.1 * 2 ^ (257 * x.2)) 0
  (fecParity ((List.range 514).map (fun j => m / 1024 ^ j % 1024))).zipIdx.foldl (fun a x => a + x.1 * 1024 ^ x.2) 0

/-! What a lane sends. -/

/-- The transmit side of lane k of port p. -/
def State.laneTx (s : State) (p k : Nat) : LaneTx := vget (s.port p).tx k {}
def State.setLaneTx (s : State) (p k : Nat) (x : LaneTx) : State :=
  s.setPort p { s.port p with tx := vset (s.port p).tx k x }

/-- The mode's signalling is PAM4 (R246): rate codes 2 and 3. -/
def State.pam4 (s : State) (p : Nat) : Bool := 2 ≤ s.rf .lnkPStatus 4 3 p

/-- `n` bits leave a lane, as NRZ symbols or as PAM4 pairs (R248). -/
def State.laneBits (s : State) (p k n v : Nat) : State :=
  if !s.pam4 p then s.emit (.lane p k false n v)
  else
    let x := s.laneTx p k
    let (n1, v1) := match x.odd with
      | some b => (n + 1, b.toNat + 2 * v)
      | none => (n, v)
    (s.setLaneTx p k { x with odd := if n1 % 2 = 1 then some (v1.testBit (n1 - 1)) else none }).emit
      (.lane p k true (n1 / 2) (pamLevels v1 (n1 / 2)))

/-- A block leaves a lane (R248): a data block, scrambled, or an alignment marker. The twentieth block of a codeword is
followed by its parity (R249). -/
def State.laneBlock (s : State) (p k : Nat) (data : Bool) (bytes : List Byte) : State :=
  let x := s.laneTx p k
  let (h, v) := if data then scramble256 x.scrambler (leNat bytes) else (x.scrambler, leNat bytes)
  let bits := data.toNat + 2 * v
  let fec := s.rb .lnkPStatus 9 p
  let msg := if fec then x.message ++ [bits] else []
  let s1 := (s.setLaneTx p k { x with
    slot := (x.slot + 1) % 4000, scrambler := h, message := if msg.length = 20 then [] else msg }).laneBits p k 257 bits
  if msg.length = 20 then s1.laneBits p k 300 (blocksParity msg) else s1

/-- An alignment marker's 32 bytes (R250): `i` is the lane's place among the `n` active lanes. -/
def markerBytes (p k i n count : Nat) : List Byte :=
  let bs := [0x49, 0x44, 0x48, 0x59, BitVec.ofNat 8 p, BitVec.ofNat 8 k, BitVec.ofNat 8 i, BitVec.ofNat 8 n] ++
    bytesLE 2 count ++ List.replicate 18 0
  bs ++ bytesLE 4 (crc32c bs)

/-- The next block slot of lane k, the i-th of n active lanes, is an alignment marker where it is the first of 4,000. -/
def State.laneMarker (s : State) (p k i n : Nat) : State :=
  let x := s.laneTx p k
  if x.slot = 0 then
    (s.setLaneTx p k { x with markers := (x.markers + 1) % 2 ^ 16 }).laneBlock p k false (markerBytes p k i n x.markers)
  else s

/-- A cell goes to the next active lane, in eight data blocks (R250, R251). -/
def State.putCell (s : State) (p : Nat) (bs : List Byte) : State :=
  let lanes := s.modeLanes p
  let i := (s.port p).nextLane % max 1 lanes.length
  let k := lanes.getD i 0
  let s1 := (s.setPort p { s.port p with nextLane := (i + 1) % max 1 lanes.length }).emit (.cell p k bs)
  (List.range 8).foldl (fun s j =>
    (s.laneMarker p k i lanes.length).laneBlock p k true ((bs.drop (32 * j)).take 32)) s1

/-- The lanes of a mode begin: block slot 0 is a marker, and the scramblers hold what they hold (log entry 100). -/
def State.lanesBegin (s : State) (p : Nat) : State :=
  let s1 := s.setPort p { s.port p with nextLane := 0 }
  (List.range 4).foldl (fun s k =>
    let (v, s1) := s.fresh (2 ^ 58)
    s1.setLaneTx p k { scrambler := v }) s1

/-! Training frames (R257). -/

/-- The next bit of PRBS13, x^13 + x^12 + x^2 + x + 1: `h` holds the last 13 bits, the newest lowest. -/
def prbs13 (h : Nat) : Nat :=
  (h * 2 + (h ^^^ h / 2 ^ 1 ^^^ h / 2 ^ 11 ^^^ h / 2 ^ 12) % 2) % 2 ^ 13

/-- `n` bits of PRBS13 from a history, the first bit lowest. -/
def prbsBits (n h : Nat) : Nat :=
  ((List.range n).foldl (fun (acc : Nat × Nat) i => (prbs13 acc.1, acc.2 + prbs13 acc.1 % 2 * 2 ^ i)) (h, 0)).2

/-- The 4,096 bits of a training frame: the marker, the control field, the status field and PRBS13. At PAM4 the marker's
highest level is the pair 10 and its lowest the pair 00. -/
def trainingBits (pam4 : Bool) (control status : Word) (seed : Nat) : Nat :=
  let (marker, m) := if pam4 then ((List.range 16).foldl (fun a i => a + 4 ^ i) 0, 64) else (2 ^ 16 - 1, 32)
  marker + control.toNat * 2 ^ m + status.toNat * 2 ^ (m + 32) + prbsBits (4096 - m - 64) seed * 2 ^ (m + 64)

/-- A training frame leaves a lane; where in its sequence PRBS13 begins is open (log entry 100). -/
def State.sendTraining (s : State) (p k : Nat) (control status : Word) : State :=
  let pam := 2 ≤ (s.port p).rate
  let (v, s1) := s.fresh (2 ^ 13 - 1)
  let bits := trainingBits pam control status (v + 1)
  s1.emit (.training p k control status pam (if pam then pamLevels bits 2048 else bits))

end Sys2Proof.Machine
end

