-- ==== Sys2Proof/Machine/Events.lean ====
section
/-! DEFINITION. The event controller (spec 16 R325 to R335), the queues of the shared pool (spec 01 R15 to R19) and
the capture channels that watch arrivals (R342, R343). -/

namespace Sys2Proof.Machine

/-- The idle item of a record queue (R17): all zeros, VALID clear. -/
def idleRec : Rec4 := ⟨0, 0, 0, 0⟩

/-- The source numbers of R325 that are sources: every number that neither R325 nor, for the power, self-test and mode
sources, R380, R410 and R395 mark reserved. -/
def isSource (n : Nat) : Bool :=
  if n < 256 then n % 16 != 15
  else if n < 326 then true
  else if n < 328 then false
  else if n < 348 then true
  else if n < 352 then false
  else if n < 373 then true
  else if n < 376 then false
  else if n < 381 then true
  else if n < 384 then false
  else if n < 745 then true
  else [768, 769, 770, 784, 785, 786].contains n

/-- The pool queue numbers: event target t is queue t, voice-event queue g is queue 276 + g. -/
def veqQueue (g : Nat) : Nat := 276 + g

/-- The records of a pool queue. -/
def State.queue (s : State) (q : Nat) : List Rec4 := (kvGet q s.evt.queues).getD []

/-- The reserve of a pool queue (R19). -/
def State.reserve (s : State) (q : Nat) : Nat :=
  if q < 276 then s.rf .evtQRes 14 0 q else s.rf .audVeqRes 14 0 (q - 276)

/-- The reserve field that a listed register word holds, if it is a reserve register. -/
def reserveIn (e : Nat × Word) : Nat :=
  match regAt e.1 with
  | some (.evtQRes, _) => fld e.2 14 0
  | some (.audVeqRes, _) => fld e.2 14 0
  | _ => 0

/-- The sum of all reserves (R19). -/
def State.reserveSum (s : State) : Nat := (s.regs.map reserveIn).sum

/-- Common cells in use: what each queue holds above its reserve (R19). -/
def State.commonUsed (s : State) : Nat := (s.evt.queues.map (fun e => e.2.length - s.reserve e.1)).sum

/-- A record can be pushed: the queue has reserve cells left, or a common cell is free (R19). DESIGN CHOICE (log 112): a
reserve raised while other queues hold the cells that it would keep free is taken at once, so that pushes within it succeed
and the queues together may hold more than 16,384 cells until those are popped. -/
def State.canPush (s : State) (q : Nat) : Bool :=
  (s.queue q).length < s.reserve q || s.commonUsed < 16384 - s.reserveSum

/-- Push a record on a queue whose status register is st i; a push to a full queue is ignored and sets OVR, bit 16 of that
register (R15, R19). -/
def State.pushRec (s : State) (q : Nat) (st : RegName) (i : Nat) (r : Rec4) : State :=
  if s.canPush q then { s with evt := { s.evt with queues := kvSet q (s.queue q ++ [r]) s.evt.queues } }
  else s.wb st 16 true i

/-- Remove the head of a queue; an empty queue is unchanged (R15). -/
def State.dropHead (s : State) (q : Nat) : State :=
  { s with evt := { s.evt with queues := kvPut [] q (s.queue q).tail s.evt.queues } }

/-- The words of an event record (R335). -/
def evtRecord (src count : Nat) (stamp : Word64) : Rec4 :=
  ⟨BitVec.ofNat 32 (src % 1024 + 2 ^ 15 + min count 0xFFFF * 2 ^ 16), 0,
    BitVec.ofNat 32 stamp.toNat, BitVec.ofNat 32 (stamp.toNat / 2 ^ 32)⟩

/-- Sources with PENDING set, in ascending number. -/
def State.pendingSrcs (s : State) : List Nat :=
  s.regs.filterMap (fun e => match regAt e.1 with
    | some (.evtSrcStatus, i, _) => if bit e.2 0 then some i else none
    | _ => none)

/-- The level PRIO and the TARGET code of a source. -/
def State.srcLevel (s : State) (n : Nat) : Nat := s.rf .evtSrcCfg 5 2 n
def State.srcTarget (s : State) (n : Nat) : Nat := s.rf .evtSrcCfg 14 6 n

/-- A source is deliverable (R327). -/
def State.deliverable (s : State) (n : Nat) : Bool :=
  let st := s.rd .evtSrcStatus n
  let co := s.rd .evtSrcCoal n
  let time := fld co 23 8
  let first := (kvGet n s.evt.stamps).getD 0
  s.rb .evtSrcCfg 0 n && bit st 0 && s.rb .evtCtrl 0 && !bit st 1 &&
    (fld co 7 0 ≤ 1 || fld co 7 0 ≤ fld st 31 16 || (time != 0 && time * 1000 ≤ (s.tmr.tb - first).toNat))

/-- A core is unavailable: power-gated, held in reset or in Lockup (R334). -/
def State.coreAway (s : State) (c : Nat) : Bool :=
  match (s.core c).run with
  | .reset => true
  | .lockup => true
  | .gated => true
  | _ => false

/-- The target a source is delivered to now: its own, or one step of fallback, or none (R334). -/
def State.effTarget (s : State) (n : Nat) : Option Nat :=
  let t := s.srcTarget n
  if t < 20 then
    if s.coreAway t then
      let f := s.rf .evtCoreCtrl 8 0 t
      if s.rb .evtCoreCtrl 9 t && (256 ≤ f || (f < 20 && !s.coreAway f)) then some f else none
    else some t
  else some t

/-- Best of two candidates: higher level, then lower source number (R328). -/
def State.better (s : State) (a b : Nat) : Nat :=
  if s.srcLevel a < s.srcLevel b || (s.srcLevel a == s.srcLevel b && b < a) then b else a

/-- The deliverable source of highest level for a target, lowest number first (R328). -/
def State.bestFor (s : State) (t : Nat) : Option Nat :=
  (s.pendingSrcs.filter (fun n => s.deliverable n && s.effTarget n == some t)).foldl
    (fun acc n => match acc with | none => some n | some a => some (s.better a n)) none

/-- A core frozen by LSW back-pressure or a window access is not waiting: it executes no WFE, WAITT, WAITL or MSYNC (R334). -/
def CoreWait.frozen : CoreWait → Bool
  | .lsw => true
  | .load _ _ _ _ => true
  | .store _ _ _ => true
  | _ => false

/-- The source presented to a core: none while it is halted for debug, or waiting with WAKE 0 (R334). -/
def State.presented (s : State) (c : Nat) : Option Nat :=
  match (s.core c).run with
  | .running => s.bestFor c
  | .waiting => if (s.core c).wait.frozen || s.rb .evtCoreCtrl 10 c then s.bestFor c else none
  | _ => none

/-- Delivery clears PENDING and COUNT and the first stamp (R326). -/
def State.clearPending (s : State) (n : Nat) : State :=
  let w := setFld (setBit (s.rd .evtSrcStatus n) 0 false) 31 16 0
  let s1 := s.wr .evtSrcStatus w n
  { s1 with evt := { s1.evt with stamps := kvDel n s1.evt.stamps, stranded := setDel n s1.evt.stranded } }

/-- Delivery of a source to a target: a record if REC is 1, then PENDING and COUNT clear (R329, R331, R335). The queue
of a core is its COREID, that of vector v is 20 + v. -/
def State.deliver (s : State) (n t : Nat) : State :=
  let st := s.rd .evtSrcStatus n
  let r := evtRecord n (fld st 31 16) ((kvGet n s.evt.stamps).getD 0)
  let q := if t < 20 then t else 20 + (t - 256)
  let s1 := if s.rb .evtSrcCfg 1 n then s.pushRec q .evtQStatus q r else s
  s1.clearPending n

/-- A vector can send: unmasked, with a message address, the function not masked, Bus Master Enable set (R331, R76). -/
def State.canSend (s : State) (v : Nat) : Bool :=
  !s.rb .hstMsixMask 0 v && (s.rd .hstMsixAddrLo v != 0 || s.rd .hstMsixAddrHi v != 0) &&
    !s.pci.fnMask && s.pci.busMaster

/-- The message address of a vector. -/
def State.msixAddr (s : State) (v : Nat) : Word64 := (s.rd .hstMsixAddrHi v) ++ (s.rd .hstMsixAddrLo v)

/-- Deliverable sources of a vector. -/
def State.vectorSrcs (s : State) (v : Nat) : List Nat :=
  s.pendingSrcs.filter (fun n => s.deliverable n && s.effTarget n == some (256 + v))

/-- One message of a vector, covering every deliverable source of it (R331). -/
def State.sendVector (s : State) (v : Nat) : State :=
  match s.vectorSrcs v with
  | [] => s
  | l => (l.foldl (fun s n => s.deliver n (256 + v)) s).emit (.msix v (s.msixAddr v) (s.rd .hstMsixData v))

/-- The vector with the best deliverable source among those that can send: highest level, then lowest vector. -/
def State.nextVector (s : State) : Option Nat :=
  let c := s.pendingSrcs.filterMap (fun n => if s.deliverable n then
      match s.effTarget n with
      | some t => if 256 ≤ t && s.canSend (t - 256) then some (s.srcLevel n, t - 256) else none
      | none => none
    else none)
  (c.foldl (fun acc x => match acc with
    | none => some x
    | some a => if a.1 < x.1 || (a.1 == x.1 && x.2 < a.2) then some x else some a) none).map (·.2)

/-- Send messages until none is due; each message empties its vector, so 256 rounds are enough. -/
def State.sendDue : Nat → State → State
  | 0, s => s
  | k + 1, s => match s.nextVector with
    | none => s
    | some v => State.sendDue k (s.sendVector v)

/-- Deliverable sources whose target is unavailable with no usable fallback are stranded once each (R334). -/
def State.strand (s : State) : State :=
  s.pendingSrcs.foldl (fun s n =>
    if s.deliverable n && (s.effTarget n).isNone && !(s.evt.stranded.contains n) then
      let s1 := (s.wb .evtSrcStatus 2 true n).bump .evtStranded
      { s1 with evt := { s1.evt with stranded := setAdd n s1.evt.stranded } }
    else s) s

/-- The arbitration that follows any change of sources, targets or vectors: strandings, then MSI-X messages. Delivery
to a core waits for its interrupt entry (R329). -/
def State.arbitrate (s : State) : State := State.sendDue 256 s.strand

/-- k arrivals of a source with a stamp are recorded while EN is 1 (R326). -/
def State.arrive (s : State) (n k : Nat) (stamp : Word64) : State :=
  if s.rb .evtSrcCfg 0 n && 0 < k then
    let st := s.rd .evtSrcStatus n
    let c := fld st 31 16 + k
    let st1 := setBit (setFld st 31 16 (min c 0xFFFF)) 0 true
    let st2 := if c < 2 ^ 16 then st1 else setBit st1 3 true
    let s1 := s.wr .evtSrcStatus st2 n
    if (kvGet n s1.evt.stamps).isSome then s1
    else { s1 with evt := { s1.evt with stamps := kvSet n stamp s1.evt.stamps } }
  else s

/-- The capture log of a channel. -/
def State.capLogOf (s : State) (k : Nat) : List Word64 := (kvGet k s.tmr.capLog).getD []

/-- The register of a capture channel as it stands. -/
def State.capHeld (s : State) (k : Nat) : CapBefore :=
  ⟨s.tmr.tb, s.rd .tmrCapLo k, s.rd .tmrCapHi k, s.rb .tmrCapStatus 1 k⟩

/-- What the register of a capture channel held before the cycle of its latest capture (R343). -/
def State.capBefore (s : State) (k : Nat) : CapBefore :=
  match kvGet k s.tmr.capOld with
  | some o => if o.at_ = s.tmr.tb then o else s.capHeld k
  | none => s.capHeld k

/-- One capture of a stamp by channel k (R342, R343): the register, then the log if LOG is 1. -/
def State.capture (s : State) (k : Nat) (stamp : Word64) : State :=
  let s0 := { s with tmr := { s.tmr with capOld := kvSet k (s.capBefore k) s.tmr.capOld } }
  let st := s.rd .tmrCapStatus k
  let s1 := s0.wr .tmrCapStatus (setBit (if bit st 0 then setBit st 1 true else st) 0 true) k
  let s2 := (s1.wr .tmrCapLo (BitVec.ofNat 32 stamp.toNat) k).wr .tmrCapHi (BitVec.ofNat 32 (stamp.toNat / 2 ^ 32)) k
  if s2.rb .tmrCapCtrl 11 k then
    if (s2.capLogOf k).length < 16 then
      { s2 with tmr := { s2.tmr with capLog := kvSet k (s2.capLogOf k ++ [stamp]) s2.tmr.capLog } }
    else s2.wb .tmrCapStatus 2 true k
  else s2

/-- The capture channels that watch a source, other than one of them (R342). -/
def State.watchers (s : State) (n : Nat) (except_ : Option Nat) : List Nat :=
  (List.range 32).filter (fun k => s.rb .tmrCapCtrl 10 k && s.rf .tmrCapCtrl 9 0 k == n && some k != except_)

/-- Captures of the arrival of a capture source 576 + j: each raises its own source, which no channel sees. -/
def State.captureSecond (s : State) (j : Nat) (stamp : Word64) : State :=
  (s.watchers (576 + j) (some j)).foldl (fun s k => (s.capture k stamp).arrive (576 + k) 1 stamp) s

/-- Captures of an arrival of a source (R342). A capture raises 576 + k in the central fabric, stamped there, which the
other channels see; a capture made for a capture source chains no further. -/
def State.captureAll (s : State) (n : Nat) (stamp : Word64) : State :=
  if 576 ≤ n && n < 608 then s.captureSecond (n - 576) stamp
  else (s.watchers n none).foldl
    (fun s k => ((s.capture k stamp).arrive (576 + k) 1 s.tmr.tb).captureSecond k s.tmr.tb) s

/-- k arrivals of a source in one step, stamped in domain d: captures see one, the controller records them all (R326,
R339, R342, R343). -/
def State.record (s : State) (n d k : Nat) : State :=
  if k = 0 then s else
  let (v, s1) := s.stamp d
  (s1.captureAll n v).arrive n k v

/-- k arrivals of a source in one step, then arbitration. -/
def State.raiseN (s : State) (n d k : Nat) : State := if k = 0 then s else (s.record n d k).arbitrate

/-- One arrival of a source from domain d. -/
def State.raise (s : State) (n d : Nat) : State := s.raiseN n d 1

/-- The domain that raises a source, for arrivals that reach the controller from outside a modelled unit. -/
def srcDomain (n : Nat) : Nat :=
  if n < 256 then domBeam (n / 16)
  else if n < 321 then 2
  else if n = 323 then 20
  else if 328 ≤ n && n < 348 then domSteward
  else if 352 ≤ n && n < 368 then 22 + n % 8
  else if 368 ≤ n && n < 373 then 30
  else if 376 ≤ n && n < 381 then 36
  else if 384 ≤ n && n < 512 then 37
  else if 640 ≤ n && n < 704 then 38
  else domCentral

/-- An arrival of a source (R326): recorded while enabled, seen by capture channels, delivered when it can be. A number
that is no source arrives nowhere. -/
def arrival (n : Nat) (s : State) : State := if isSource n then s.raise n (srcDomain n) else s

/-- COAL.TIME has elapsed: arbitration finds the source deliverable (R327). -/
def coalesceTimeout (_n : Nat) (s : State) : State := s.arbitrate

/-- Withdrawal: PENDING and COUNT clear and the arrivals are never delivered (R333). -/
def withdraw (n : Nat) (s : State) : State := s.clearPending n

/-- The source register writes with an effect of their own (R333): clearing EN withdraws. -/
def srcCfgWrite (n : Nat) (w : Word) (s : State) : State :=
  let s1 := s.wr .evtSrcCfg w n
  (if bit w 0 then s1 else withdraw n s1).arbitrate

/-- A write of TARGET (R333): PENDING, COUNT and the first stamp stay, and the next arbitration offers the source to the new
target; a reserved target code is rejected under R5. -/
def retarget (n t : Nat) (s : State) : State :=
  if 20 ≤ t && t < 256 then s.reject (addrOf .evtSrcCfg n 0 0)
  else srcCfgWrite n (setFld (s.rd .evtSrcCfg n) 14 6 t) s

/-- A write of EVT_SRCs_STATUS: PENDING written 1 withdraws, STRANDED and SAT written 1 clear; SAT leaves COUNT (R7). -/
def srcStatusWrite (n : Nat) (w : Word) (s : State) : State :=
  let s1 := if bit w 0 then withdraw n s else s
  let s2 := if bit w 2 then s1.wb .evtSrcStatus 2 false n else s1
  if bit w 3 then s2.wb .evtSrcStatus 3 false n else s2

/-- The highest-level deliverable source of a core at level at least L (R329). -/
def State.claimable (s : State) (c L : Nat) : Option Nat :=
  match s.bestFor c with
  | some n => if L ≤ s.srcLevel n then some n else none
  | none => none

/-- The claim of R329: the source is delivered and becomes ACTIVE, or 1,023 is claimed and EVT_SPURIOUS counts it. -/
def State.claim (s : State) (c L : Nat) : Nat × State :=
  match s.claimable c L with
  | some n =>
    let s1 := (s.deliver n c).wb .evtSrcStatus 1 true n
    let s2 := { s1 with evt := { s1.evt with active := s1.evt.active ++ [ActiveSrc.mk n c (s.srcLevel n)] } }
    (n, s2.wf .evtCoreStatus 9 0 n c)
  | none => (1023, (s.bump .evtSpurious).wf .evtCoreStatus 9 0 1023 c)

/-- The core leaves every level at or above a bound: its sources of those levels are no longer ACTIVE (R330). -/
def State.endActive (s : State) (c bound : Nat) : State :=
  let gone := s.evt.active.filter (fun a => a.core == c && bound ≤ a.level)
  let s1 := gone.foldl (fun s a => s.wb .evtSrcStatus 1 false a.source) s
  { s1 with evt := { s1.evt with active := s1.evt.active.filter (fun a => !(a.core == c && bound ≤ a.level)) } }

/-- A read of EVT_Qt_REC0: the head, or the idle item of an empty queue, is popped and its words 1 to 3 latched. -/
def queuePop (t : Nat) (s : State) : Rec4 × State :=
  let r := (s.queue t).headD idleRec
  let s1 := s.dropHead t
  (r, { s1 with evt := { s1.evt with latch := kvSet t r s1.evt.latch } })

/-- A write of EVT_SWI: one arrival of source 704 + i for each bit written 1, in one cycle, then arbitration (R325). -/
def swiWrite (w : Word) (s : State) : State :=
  ((List.range 32).foldl (fun s i => if bit w i then s.record (704 + i) domCentral 1 else s) s).arbitrate

/-- EVENT_ARRIVAL (R326). -/
def execEventArrival (src : Fin 1024) (s : State) : Host.Outcome State Fault Refusal := .next (arrival src s)

/-- COALESCE_TIMEOUT (R327). -/
def execCoalesceTimeout (src : Fin 1023) (s : State) : Host.Outcome State Fault Refusal :=
  .next (coalesceTimeout src s)

/-- EVT_WITHDRAW (R333): by clearing EN, or by writing 1 to PENDING. -/
def execEvtWithdraw (src : Fin 1023) (byEn : Bool) (s : State) : Host.Outcome State Fault Refusal :=
  .next (if byEn then srcCfgWrite src (setBit (s.rd .evtSrcCfg src) 0 false) s else srcStatusWrite src 1 s)

/-- EVT_RETARGET (R333): a reserved target code is rejected under R5. -/
def execEvtRetarget (src : Fin 1023) (target : Fin 512) (s : State) : Host.Outcome State Fault Refusal :=
  .next (retarget src target s)

/-- EVT_SWI (R325). -/
def execEvtSwi (w : Word) (s : State) : Host.Outcome State Fault Refusal := .next (swiWrite w s)

end Sys2Proof.Machine
end

