-- ==== Sys2Proof/Machine/Store.lean ====
section
/-! DEFINITION. The pattern store (spec 05): bytes, the check code of R102 with its decoder, counters and logs, poison,
injection, scrubbing and reservations; and the on-die tables' use of the same code. -/

namespace Sys2Proof.Machine

/-- Multiplication in GF(2^8) with polynomial x^8 + x^4 + x^3 + x^2 + 1: Horner over the bits of b, high to low. -/
def gfMulBits : Nat → Nat → Nat → Nat → Nat
  | 0, _, _, acc => acc
  | k + 1, a, b, acc =>
    let d := acc * 2
    let d := if 256 ≤ d then d ^^^ 0x11D else d
    gfMulBits k a b (if nbit b k then d ^^^ a else d)

def gfMul (a b : Nat) : Nat := gfMulBits 8 a b 0

/-- Powers of the primitive element 0x02. -/
def gfPow : Nat → Nat
  | 0 => 1
  | n + 1 => gfMul (gfPow n) 2

/-- a to the power n. -/
def gfExp (a : Nat) : Nat → Nat
  | 0 => 1
  | n + 1 => gfMul (gfExp a n) a

/-- The inverse, a^254. -/
def gfInv (a : Nat) : Nat := gfExp a 254

/-- Syndrome j of an error pattern in a code of n symbols: symbol i is the coefficient of x^(n − 1 − i). -/
def syndrome (n j : Nat) (e : List (Nat × Byte)) : Nat :=
  e.foldl (fun acc p => acc ^^^ gfMul p.2.toNat (gfPow (j * (n - 1 - p.1)))) 0

/-- What decoding a word finds (R102, R103). -/
inductive Decoded where
  /-- A codeword as it stands. -/
  | clean
  /-- Symbols that the decoder exclusive-ors in: one or two of them. -/
  | fixed (c : List (Nat × Byte))
  /-- No pattern of two or fewer symbols matches. -/
  | uncorrectable
deriving DecidableEq, Repr

/-- Decode an error pattern in a code of n symbols with generator roots α^0 to α^3 (R102). -/
def rsDecode (n : Nat) (e : List (Nat × Byte)) : Decoded :=
  let s0 := syndrome n 0 e
  let s1 := syndrome n 1 e
  let s2 := syndrome n 2 e
  let s3 := syndrome n 3 e
  if s0 = 0 ∧ s1 = 0 ∧ s2 = 0 ∧ s3 = 0 then .clean
  else
    match (List.range n).find? (fun i =>
        let x := gfPow (n - 1 - i)
        s0 != 0 && gfMul s0 x == s1 && gfMul s1 x == s2 && gfMul s2 x == s3) with
    | some i => .fixed [(i, BitVec.ofNat 8 s0)]
    | none =>
      let d := gfMul s0 s2 ^^^ gfMul s1 s1
      if d = 0 then .uncorrectable
      else
        let g1 := gfMul (gfMul s0 s3 ^^^ gfMul s1 s2) (gfInv d)
        let g2 := gfMul (gfMul s1 s3 ^^^ gfMul s2 s2) (gfInv d)
        match (List.range n).filter (fun i =>
            let x := gfPow (n - 1 - i)
            gfMul x x ^^^ gfMul g1 x ^^^ g2 == 0) with
        | [i, j] =>
          let xi := gfPow (n - 1 - i)
          let xj := gfPow (n - 1 - j)
          let ei := gfMul (gfMul s0 xj ^^^ s1) (gfInv (xi ^^^ xj))
          .fixed [(i, BitVec.ofNat 8 ei), (j, BitVec.ofNat 8 (s0 ^^^ ei))]
        | _ => .uncorrectable

/-- An error pattern with one more symbol error; errors of one symbol combine. -/
def addErr (e : List (Nat × Byte)) (p : Nat × Byte) : List (Nat × Byte) :=
  kvPut 0 p.1 ((kvGet p.1 e).getD 0 ^^^ p.2) e

/-- The first address past the pattern store's data (R95). -/
def psEnd : Nat := 0xC00000000

/-- The byte at a pattern-store address. -/
def memGet (m : List Host.Cell) (a : Nat) : Byte := (kvGet a m).getD 0

/-- The memory with a byte stored; a zero byte is not listed. -/
def memSet (m : List Host.Cell) (a : Nat) (b : Byte) : List Host.Cell := kvPut 0 a b m

/-- Store consecutive bytes; none keeps the byte that is there. -/
def memSetBytes (m : List Host.Cell) (a : Nat) : List (Option Byte) → List Host.Cell
  | [] => m
  | none :: t => memSetBytes m (a + 1) t
  | some b :: t => memSetBytes (memSet m a b) (a + 1) t

/-- n bytes from an address. -/
def memBytes (m : List Host.Cell) (a n : Nat) : List Byte := (List.range n).map (fun i => memGet m (a + i))

/-- The canonical form of the memory: addresses strictly rising, and no zero byte listed. -/
def Memory.wf (m : List Host.Cell) : Bool := kvSorted m && m.all (fun c => c.2 != 0)

/-- The pseudo-channel of an address (R96). -/
def pseudoChannel (a : Nat) : Nat :=
  let g := a / 256
  g % 64 ^^^ g / 64 % 64 ^^^ g / 4096 % 64

/-- The stack that holds an address (R96). -/
def stackOf (a : Nat) : Nat := pseudoChannel a / 32

/-- The errors of a line. -/
def State.lineErr (s : State) (ln : Nat) : List (Nat × Byte) := (kvGet ln s.store.err).getD []

/-- The state with a line's errors replaced. -/
def State.setLineErr (s : State) (ln : Nat) (e : List (Nat × Byte)) : State :=
  { s with store := { s.store with err := kvPut [] ln e s.store.err } }

/-- Bytes of a line with an error pattern laid over its data symbols. -/
def overlay (bs : List Byte) (e : List (Nat × Byte)) : List Byte :=
  bs.zipIdx.map (fun p => p.1 ^^^ (kvGet p.2 e).getD 0)

/-- The bytes as the stack stores them, uncorrected. -/
def State.rawLine (s : State) (ln : Nat) : List Byte := overlay (memBytes s.store.mem (64 * ln) 64) (s.lineErr ln)

/-- The log of a set: the latest uncorrectable detection since VALID was cleared, else the latest correction (R104). -/
def State.logError (s : State) (lo hi : RegName) (k ln extra kind : Nat) : State :=
  let h := s.rd hi k
  if bit h 31 && fld h 17 16 = 3 && kind ≠ 3 then s
  else (s.wr lo (BitVec.ofNat 32 (ln % 2 ^ 26 * 64)) k).wr hi
    (BitVec.ofNat 32 (ln / 2 ^ 26 % 16 + extra + kind * 2 ^ 16 + 2 ^ 31)) k

/-- The contents of a line as the store holds them. -/
def State.lineNow (s : State) (ln : Nat) : OldLine :=
  ⟨ln, memBytes s.store.mem (64 * ln) 64, s.lineErr ln, s.store.poison.contains ln⟩

/-- A line's contents are decoded for a client: the bytes, whether they are poisoned or uncorrectable, and the counts, log and
event that the decoding leaves (R102 to R104). -/
def State.decodeLine (s : State) (client : Nat) (l : OldLine) : List Byte × Bool × State :=
  let k := stackOf (64 * l.line)
  if l.poisoned then (l.data, true, s.bump .sysPsSPoison k)
  else if l.err = [] then (l.data, false, s)
  else match rsDecode 68 l.err with
    | .clean => (overlay l.data l.err, false, s)
    | .fixed c =>
      let left := c.foldl addErr l.err
      let s1 := s.bump (if c.length = 1 then .sysPsSCe1 else .sysPsSCe2) k
      (overlay l.data left, false, s1.logError .sysPsSLogLo .sysPsSLogHi k l.line (client * 256) c.length)
    | .uncorrectable =>
      let s1 := (s.bump .sysPsSUe k).wb .sysPsStatus 2 true
      (overlay l.data l.err, true, (s1.logError .sysPsSLogLo .sysPsSLogHi k l.line (client * 256) 3).raise 323 (20 + k))

/-- A read of a stacked line by a client (R102 to R105): a line found uncorrectable is written back with the poison signature,
its data as read. -/
def State.readLine (s : State) (client ln : Nat) : List Byte × Bool × State :=
  let l := s.lineNow ln
  let (bs, bad, s1) := s.decodeLine client l
  if bad && !l.poisoned then
    (bs, bad, { s1 with store := { s1.store with
      mem := memSetBytes s1.store.mem (64 * ln) (bs.map some)
      err := kvDel ln s1.store.err
      poison := setAdd ln s1.store.poison } })
  else (bs, bad, s1)

/-- The clock domain of a pattern-store client's unit (R97). -/
def clientDomain (c : Nat) : Nat := if c < 16 then domBeam c else [2, 37, 36, 30, domSteward].getD (c - 16) domCentral

/-- The controller that holds an address is fenced off: its crossing gives the idle item and discards what is written (R13). -/
def State.stackFenced (s : State) (a : Nat) : Bool := s.fenced (20 + stackOf a)

/-- An access at or above 48 GiB is counted once per line request (R95). -/
def State.oor (s : State) : State := (s.bump .sysPsOor).wb .sysPsStatus 1 true

/-- The (address, length) pieces of n bytes from a, one per 64-byte line. -/
def linePieces (a n : Nat) : List (Nat × Nat) := unitPieces 64 a n

/-- A client's read of n bytes from a, line by line: bytes, whether any line was poisoned, and the state. Bytes at or
above 48 GiB read zero (R95). -/
def State.psRead (s : State) (client a n : Nat) : List Byte × Bool × State :=
  (linePieces a n).foldl (fun (acc, bad, s) p =>
    if psEnd ≤ p.1 then (acc ++ List.replicate p.2 0, bad, s.oor)
    else if s.stackFenced p.1 then (acc ++ List.replicate p.2 0, bad, s)
    else
      let (bs, b, s1) := s.readLine client (p.1 / 64)
      (acc ++ (bs.drop (p.1 % 64)).take p.2, bad || b, s1)) ([], false, s)

/-- Some beam's read window is open (R101). -/
def State.windowOpen (s : State) : Bool := 
  s.beams.toList.any (fun b => b.window.isSome || b.objWindow.isSome || b.nextObj.isSome)

/-- The stored symbols an armed injection of n corrupts: data bytes 0, 21 and 42 exclusive-or 0x5A (R108). -/
def injected (n : Nat) : List (Nat × Byte) := [(0, 0x5A), (21, 0x5A), (42, 0x5A)].take n

/-- An address range [a, a + n) meets the PL region (R172). -/
def State.inPlRegion (s : State) (a n : Nat) : Bool :=
  let base := s.rf .cmpPleRegionBase 15 0 * 2 ^ 20
  let size := s.rf .cmpPleRegionSize 11 0 * 2 ^ 20
  let hit (b z : Nat) : Bool := n ≠ 0 && z ≠ 0 && a < b + z && b < a + n
  hit base size || s.ple.old.any (fun r => hit (r.base * 2 ^ 20) (r.size * 2 ^ 20))

/-- Writes of other clients into the PL region are discarded: one is counted for each pattern-store line (R172). -/
def State.deny (s : State) (a n : Nat) : State :=
  s.bump .cmpPleDeny 0 0 0 (((List.range ((a % 64 + n + 63) / 64)).filter
    (fun k => s.inPlRegion ((a / 64 + k) * 64) 64)).length)

/-- A write within one line: a full line gets new check bytes and is clean; a partial one is a read-modify-write, and a
poisoned line stays poisoned (R100, R101, R105). An injection armed for the line is stored with it (R108), but not in the PL
region (R172). -/
def State.writePiece (s : State) (client a : Nat) (bs : List (Option Byte)) : State :=
  let ln := a / 64
  let full := bs.length = 64 && bs.all (·.isSome)
  let s0 := if s.windowOpen then
      { s with store := { s.store with log := s.store.log ++ [s.lineNow ln] } } else s
  let s1 := if full then s0 else
    let (data, bad, s1) := s0.readLine client ln
    if bad then s1 else
      { s1 with store := { s1.store with mem := memSetBytes s1.store.mem (64 * ln) (data.map some) } }
  let s2 := { s1 with store := { s1.store with
    mem := memSetBytes s1.store.mem a bs
    err := kvDel ln s1.store.err
    poison := if full then setDel ln s1.store.poison else s1.store.poison } }
  match s2.store.inject with
  | some (l, n) =>
    if l = ln then
      let s3 := if s2.inPlRegion (64 * ln) 64 then s2 else s2.setLineErr ln (injected n)
      { s3 with store := { s3.store with inject := none } }.wb .sysPsStatus 4 false
    else s2
  | none => s2

/-- A client's write of bytes from a, line by line; none marks a byte not written. Bytes at or above 48 GiB are
discarded and counted (R95). -/
def State.psWrite (s : State) (client a : Nat) (bs : List (Option Byte)) : State :=
  (linePieces a bs.length).foldl (fun s p =>
    if psEnd ≤ p.1 then s.oor
    else if s.stackFenced p.1 then s.fenceDrop (clientDomain client)
    else s.writePiece client p.1 ((bs.drop (p.1 - a)).take p.2)) s

/-- A write of a line that takes poisoned source bytes: the destination line is written poisoned (R106). -/
def State.poisonLine (s : State) (ln : Nat) : State :=
  { s with store := { s.store with poison := setAdd ln s.store.poison } }

/-- The beam number a table log gives for a table word, or 0xFF (spec 05, LOG_HI.CLIENT). -/
def tableBeam (key : Nat) : Nat :=
  let t := key / 2 ^ 32
  let i := key % 2 ^ 32
  if t = 2 then i / 4096
  else if t = 3 then i / 4096
  else if t = 4 then (if i / 4096 < 16 then i / 4096 else 0xFF)
  else if t = 5 then i / 163840
  else 0xFF

/-- Bytes of a core's memory word exclusive-ored with a pattern. -/
def State.xorTcm (s : State) (key : Nat) (e : List (Nat × Byte)) : State :=
  let c := key % 2 ^ 32 / 4096
  let a := key % 4096 * 32
  s.setCore c ((e.filter (fun p => p.1 < 32)).foldl (fun k p =>
    let w := a + p.1 / 4 * 4
    k.setTcm w (k.tcmWord w ^^^ BitVec.ofNat 32 (p.2.toNat * 256 ^ (p.1 % 4)))) (s.core c))

/-- A table word is taken for right with a pattern of errors left in it, which is a codeword of its own (R103). -/
def State.keepOff (s : State) (key : Nat) (e : List (Nat × Byte)) : State :=
  let s1 := { s with tbl := { s.tbl with err := kvDel key s.tbl.err } }
  if key / 2 ^ 32 = 4 then s1.xorTcm key e
  else
    let o := (e.filter (fun p => p.1 < 32)).foldl addErr ((kvGet key s1.tbl.off).getD [])
    { s1 with tbl := { s1.tbl with off := kvPut [] key o s1.tbl.off } }

/-- A read of an on-die table word: corrected words are rewritten, as corrected, right or wrong; an uncorrectable one is marked
poisoned, keeps the bits it holds, and raises TBL_UE (R102 to R106). Answers whether the word is bad. -/
def State.readTable (s : State) (key : Nat) : Bool × State :=
  if s.tbl.poison.contains key then (true, s.bump .sysPsTblPoison)
  else
    let e := (kvGet key s.tbl.err).getD []
    if e = [] then (false, s)
    else
      let extra := key / 2 ^ 32 * 16 + tableBeam key * 256
      match rsDecode 36 e with
      | .clean => (false, s.keepOff key e)
      | .fixed c =>
        (false, ((s.keepOff key (c.foldl addErr e)).bump (if c.length = 1 then .sysPsTblCe1 else .sysPsTblCe2)).logError .sysPsTblLogLo
          .sysPsTblLogHi 0 (key % 2 ^ 26) extra c.length)
      | .uncorrectable =>
        let s1 := { s with tbl := { s.tbl with poison := setAdd key s.tbl.poison } }
        let s2 := (s1.bump .sysPsTblUe).wb .sysPsStatus 3 true
        (true, (s2.logError .sysPsTblLogLo .sysPsTblLogHi 0 (key % 2 ^ 26) extra 3).raise 324 domCentral)

/-- A full write of an on-die word clears its errors and its poison (R105). -/
def State.cleanTable (s : State) (key : Nat) : State :=
  { s with tbl := { err := kvDel key s.tbl.err, poison := setDel key s.tbl.poison, off := kvDel key s.tbl.off,
                    clear := kvDel key s.tbl.clear } }

/-- The write of SYS_PS_INJECT_CTRL in Provisioning (1) or Ember (5); elsewhere it is rejected (R108). -/
def injectWrite (n : Nat) (s : State) : State :=
  let m := s.rf .sysMode 2 0
  if m = 1 ∨ m = 5 then
    let ln := s.rf .sysPsInjectLo 31 6 + s.rf .sysPsInjectHi 3 0 * 2 ^ 26
    let s1 := s.wb .sysPsStatus 4 (n ≠ 0)
    { s1 with store := { s1.store with inject := if n = 0 then none else some (ln, n) } }
  else s.reject (addrOf .sysPsInjectCtrl 0 0 0)

/-- The sum of all reservations with client c's set to v (R98). -/
def State.resSum (s : State) (c v : Nat) : Nat :=
  ((List.range 21).map (fun i => if i = c then v else s.rf .sysPsRes 8 0 i)).sum

/-- One line of a scrub pass with the upsets it finds: read, then rewritten if corrected; SCRUB_POS moves on (R107). -/
def scrubLine (upset : List (Nat × Byte)) (s : State) : State :=
  if s.rb .sysPsCtrl 0 && !s.rb .sysPsStatus 0 then
    let ln := s.rf .sysPsScrubPos 29 0
    let s0 := if s.store.poison.contains ln then s else s.setLineErr ln (upset.foldl addErr (s.lineErr ln))
    let (data, bad, s1) := s0.readLine 21 ln
    let s2 := if bad then s1 else
      { s1 with store := { s1.store with mem := memSetBytes s1.store.mem (64 * ln) (data.map some)
                                         err := kvDel ln s1.store.err } }
    let s3 := s2.wr .sysPsScrubPos (BitVec.ofNat 32 ((ln + 1) % (psEnd / 64)))
    { s3 with store := { s3.store with promoted := setDel 21 s3.store.promoted } }
  else s

/-- A deferred client has a request waiting (R9): the scrubber while it scrubs, the self-test engine while a slice of the
pattern store is due; R9 does not apply to a slice that runs (R399). -/
def State.deferredWaits (s : State) (client : Nat) : Bool :=
  if client = 21 then s.rb .sysPsCtrl 0 && !s.rb .sysPsStatus 0
  else client = 22 && s.rf .bistStatus 2 0 == 3 && !s.sys.bist.slice && s.sys.bist.pausing.isNone && match s.bistEntry with
    | some e => e.cls == 6
    | none => false

/-- DEFERRED_PROMOTION (R9): the waiting request of the scrubber or the self-test engine is raised for that request. -/
def execDeferredPromotion (client : Fin 23) (s : State) : Host.Outcome State Fault Refusal :=
  .next (if s.deferredWaits client then
    { s with store := { s.store with promoted := setAdd client s.store.promoted } } else s)

/-- RESERVATION_WINDOW_END (R99): a client misses at a pseudo-channel when it was granted fewer than the smaller of its
reserved slots, 2 × RES, and its waiting requests. -/
def execReservationWindowEnd (seen : List SlotCount) (s : State) : Host.Outcome State Fault Refusal :=
  .next (seen.foldl (fun s x =>
    let res := if x.client.val < 21 then 2 * s.rf .sysPsRes 8 0 x.client else 0
    if x.granted < min res x.waiting then s.bump .sysPsResmiss x.client else s) s)

/-- SCRUB_LINE (R107). -/
def execScrubLine (upset : List (Fin 68 × Byte)) (s : State) : Host.Outcome State Fault Refusal :=
  .next (scrubLine (upset.map (fun p => (p.1.val, p.2))) s)

/-- The scrubber reads a table word with the upsets it finds; answers whether the word is found uncorrectable now. -/
def tblScrub (key : Nat) (upset : List (Nat × Byte)) (s : State) : Bool × State :=
  if s.rb .sysPsCtrl 1 then
    let e := upset.foldl addErr ((kvGet key s.tbl.err).getD [])
    if s.tbl.poison.contains key then (false, (s.readTable key).2)
    else State.readTable { s with tbl := { s.tbl with err := kvPut [] key e s.tbl.err } } key
  else (false, s)

/-- PS_INJECT_ARM (R108): SYMBOLS 1 to 3. -/
def execPsInjectArm (n : Fin 3) (s : State) : Host.Outcome State Fault Refusal := .next (injectWrite (n + 1) s)

/-- PS_INJECT_DISARM (R108). -/
def execPsInjectDisarm (s : State) : Host.Outcome State Fault Refusal := .next (injectWrite 0 s)

end Sys2Proof.Machine
end

