-- ==== Sys2Proof/Machine/Pixel.lean ====
section
/-! DEFINITION. What the layers of a beam share: the beam's image and effective values (R124), windows (R120), pixel
widening (R114), palettes (R122), the shed ladder's effect on a layer (R179), and the fetch of a line's pattern data
within its read window (R101). -/

namespace Sys2Proof.Machine

/-- A beam by its number. -/
def State.beam (s : State) (n : Nat) : Beam := vget s.beams n {}

/-- The state with a beam replaced. -/
def State.setBeam (s : State) (n : Nat) (b : Beam) : State := { s with beams := vset s.beams n b }

/-- A committed value of the beam's image. -/
def Beam.com (b : Beam) (r : RegName) (i : Nat := 0) (j : Nat := 0) (k : Nat := 0) : Word :=
  rfGet b.live (addrOf r i j k)

/-- A field of a committed value. -/
def Beam.cf (b : Beam) (r : RegName) (hi lo : Nat) (i : Nat := 0) (j : Nat := 0) (k : Nat := 0) : Nat :=
  fld (b.com r i j k) hi lo

/-- The value in effect: what a line-scheduled write or a velocity left, else the committed value (R124). -/
def effAt (live eff : RegFile) (a : Nat) : Word := (kvGet a eff).getD (rfGet live a)

/-- What composing one line of beam n needs: the image, the effective values fixed for it, the ladder depth, and the
affine origins of lines 0 to y (R119, R180, R193). -/
structure LineCtx where
  n : Nat
  y : Nat
  live : RegFile
  eff : RegFile
  depth : Nat
  cols : Nat
  origins : List (List (Int × Int))
  /-- The frame that the line belongs to. -/
  frame : Nat

/-- A register in effect on the line, in the beam's own region. -/
def LineCtx.get (c : LineCtx) (r : RegName) (j : Nat := 0) (k : Nat := 0) : Word :=
  effAt c.live c.eff (addrOf r c.n j k)

/-- A field of it. -/
def LineCtx.f (c : LineCtx) (r : RegName) (hi lo : Nat) (j : Nat := 0) (k : Nat := 0) : Nat := fld (c.get r j k) hi lo

/-- A bit of it. -/
def LineCtx.b (c : LineCtx) (r : RegName) (i : Nat) (j : Nat := 0) (k : Nat := 0) : Bool := bit (c.get r j k) i

/-- A working pixel: three 12-bit components, alpha and tier. -/
structure Px where
  c0 : Nat
  c1 : Nat
  c2 : Nat
  a : Nat
  tier : Nat
deriving DecidableEq, Repr, Inhabited

/-- The transparent pixel: everything zero (R112). -/
def Px.clear : Px := ⟨0, 0, 0, 0, 0⟩

/-- A pixel with the table words it was read through (spec 05, table errors). -/
abbrev PxK := Px × List Nat

/-- Multiplication of 12-bit fractions (R134). -/
def mulFrac (a b : Nat) : Nat := (a * b + 2047) / 4095

/-- A component of b bits widened to 12 by repeating its bits from the top down (R114). -/
def widen (b v : Nat) : Nat :=
  let reps := ceilDiv 12 b
  ((List.range reps).foldl (fun acc _ => acc * 2 ^ b + v) 0) / 2 ^ (b * reps - 12)

/-- A window shows a position: inside exclusive-or INVERT (R120). -/
def winShows (wx wy : Word) (x y : Nat) : Bool :=
  (fld wx 14 0 ≤ x && x < fld wx 30 16 && fld wy 13 0 ≤ y && y < fld wy 29 16) != bit wy 31

/-- The ladder steps of an image: those before the first ACTION 0 (R179). -/
def ladderSteps (n : Nat) (live : RegFile) : List Word :=
  ((List.range 8).map (fun k => rfGet live (addrOf .cmpLadder n k 0))).takeWhile (fun w => fld w 5 4 ≠ 0)

/-- The steps in effect on the line (R180). -/
def LineCtx.steps (c : LineCtx) : List Word := (ladderSteps c.n c.live).take c.depth

/-- Layer `code` is dropped (ACTION 1). -/
def LineCtx.dropped (c : LineCtx) (code : Nat) : Bool := c.steps.any (fun w => fld w 5 4 == 1 && fld w 3 0 == code)

/-- Layer `code` is halved (ACTION 2). -/
def LineCtx.halved (c : LineCtx) (code : Nat) : Bool := c.steps.any (fun w => fld w 5 4 == 2 && fld w 3 0 == code)

/-- The columns a layer evaluates: those its window shows, or the even column of every pair with a shown one. -/
def LineCtx.evalCols (c : LineCtx) (halve : Bool) (shown : Nat → Bool) : List Nat :=
  (List.range c.cols).filter (fun x =>
    if halve then x % 2 == 0 && (shown x || (x + 1 < c.cols && shown (x + 1))) else shown x)

/-- The column whose result serves column x (R179). -/
def srcCol (halve : Bool) (x : Nat) : Nat := if halve then x - x % 2 else x

/-- Fetched lines: line number, bytes, and whether the line is poisoned. -/
abbrev Fetched := List (Nat × (List Byte × Bool))

/-- One line request of beam n: the bytes as they stand when the controller serves it. Where the line has changed since
the read window opened, which of its contents is returned is open (R101): a free value. -/
def State.fetchLine (s : State) (n win ln : Nat) : (List Byte × Bool) × State :=
  if psEnd / 64 ≤ ln then ((List.replicate 64 0, false), s.oor)
  else if s.stackFenced (64 * ln) then ((List.replicate 64 0, false), s)
  else
    let olds := (s.store.log.drop win).filter (fun e => e.line = ln)
    let (k, s1) := if olds = [] then (0, s) else s.fresh (olds.length + 1)
    let (bs, bad, s2) := match olds[k]? with
      | some o => s1.decodeLine n o
      | none => s1.readLine n ln
    ((bs, bad), s2)

/-- The reads of a fetcher whose addresses rise along the generated line: one access per line (R126, R157). -/
def State.fetchAll (s : State) (n win : Nat) (lns : List Nat) : Fetched × State :=
  (lns.foldl (fun acc l => setAdd l acc) []).foldl (fun (f, s) l =>
    let (d, s1) := s.fetchLine n win l
    (f ++ [(l, d)], s1)) ([], s)

/-- What each of a fetcher's reads returned, by the key of the read. -/
abbrev Fetches := List (Nat × Fetched)

/-- What a read returned. -/
def Fetches.at_ (f : Fetches) (key : Nat) : Fetched := (kvGet key f).getD []

/-- A fetcher on its way along a line: what its reads have returned, newest first, the group of the last read with what that
returned, and the line accessed last. -/
structure Fetching where
  done : Fetches
  group : Option (Nat × Fetched)
  line : Option (Nat × (List Byte × Bool))

/-- One read of a fetcher, of the lines `lns`: the read of the group before it is the same one, and a read in the line accessed
just before it is merged into that access (R126). -/
def State.fetchNext (n win : Nat) (acc : Fetching × State) (r : Nat × Nat × List Nat) : Fetching × State :=
  let (f, s) := acc
  let again := match f.group with
    | some (g, d) => if g = r.2.1 then some d else none
    | none => none
  match again with
  | some d => ({ f with done := (r.1, d) :: f.done }, s)
  | none =>
    let (d, last, s1) := r.2.2.foldl (fun (d, last, s) l =>
      let hit := match last with
        | some (a, x) => if a = l then some x else none
        | none => none
      match hit with
      | some x => (d ++ [(l, x)], last, s)
      | none =>
        let (x, s1) := State.fetchLine s n win l
        (d ++ [(l, x)], some (l, x), s1)) ([], f.line, s)
    (⟨(r.1, d) :: f.done, some (r.2.1, d), last⟩, s1)

/-- The reads of a fetcher in order, each with its key, its group and the lines it needs (R126). -/
def State.fetchEach (s : State) (n win : Nat) (reads : List (Nat × Nat × List Nat)) : Fetches × State :=
  let (f, s1) := reads.foldl (State.fetchNext n win) (⟨[], none, none⟩, s)
  (f.done, s1)

/-- A little-endian field of k bytes within one fetched line, or none where the line is poisoned. -/
def Fetched.word (f : Fetched) (a k : Nat) : Option Nat :=
  match kvGet (a / 64) f with
  | some (bs, false) => some (leNat ((bs.drop (a % 64)).take k))
  | _ => none

/-- A table word reads as bad: it is poisoned, or found uncorrectable now (R106). -/
def State.tblBad (s : State) (key : Nat) : Bool :=
  s.tbl.poison.contains key || (match kvGet key s.tbl.err with
    | some e => rsDecode 36 e == .uncorrectable
    | none => false)

/-- The table key of a palette entry of beam n. -/
def palKey (n e : Nat) : Nat := 2 * 2 ^ 32 + n * 4096 + e / 4

/-- The table key of a byte offset in beam n's colour-table region. -/
def lutKey (n off : Nat) : Nat := 3 * 2 ^ 32 + n * 4096 + off / 32

/-- The working pixel of a palette entry's two words (R122): bits [15:4] of each field. -/
def palPx (low high : Word) (tier : Nat) : Px :=
  ⟨fld low 15 4, fld low 31 20, fld high 15 4, fld high 31 20, tier⟩

/-- Entry i of palette p of the beam; a poisoned entry has alpha zero (R106). -/
def LineCtx.palette (c : LineCtx) (s : State) (p i tier : Nat) : PxK :=
  let e := p * 256 + i
  let px := palPx (c.get .paletteLow e) (c.get .paletteHigh e) tier
  if s.tblBad (palKey c.n e) then (Px.clear, [palKey c.n e]) else (px, [palKey c.n e])

/-- A pixel of format fmt with raw bits v (R114): indexed formats through palette p. A pixel of alpha zero is
transparent; a transparent pixel carries tier 0. -/
def LineCtx.convert (c : LineCtx) (s : State) (fmt v p tier : Nat) (zeroTrans : Bool) : PxK :=
  if fmt ≤ 3 then
    if zeroTrans && v = 0 then (Px.clear, []) else c.palette s p v tier
  else if fmt = 4 then
    (⟨widen 5 (nfld v 14 10), widen 5 (nfld v 9 5), widen 5 (nfld v 4 0), if nbit v 15 then 4095 else 0, tier⟩, [])
  else (⟨widen 8 (nfld v 7 0), widen 8 (nfld v 15 8), widen 8 (nfld v 23 16), widen 8 (nfld v 31 24), tier⟩, [])

/-- Bits per pixel of a tile or object format (R113). -/
def fmtBpp (fmt : Nat) : Nat := if fmt = 0 then 1 else if fmt = 1 then 2 else if fmt = 2 then 4 else if fmt = 3 then 8
  else if fmt = 4 then 16 else 32

/-- The bits of pixel `col` in a row that starts at byte address `row`: its address and bit offset. -/
def pixelAt (fmt row col : Nat) : Nat × Nat := (row + col * fmtBpp fmt / 8, col * fmtBpp fmt % 8)

/-- The raw bits of that pixel, or none where the line is poisoned. -/
def Fetched.pixel (f : Fetched) (fmt row col : Nat) : Option Nat :=
  let (a, o) := pixelAt fmt row col
  (f.word a (max 1 (fmtBpp fmt / 8))).map (fun w => w / 2 ^ o % 2 ^ fmtBpp fmt)

/-- Component v through a table of 12-bit entries at a word address, or v itself where the entry is poisoned. -/
def LineCtx.lut (c : LineCtx) (s : State) (r : RegName) (j off v : Nat) : Nat × Nat :=
  let w := c.get r j (v / 2)
  let key := lutKey c.n (off + 2 * v)
  (if s.tblBad key then v else if v % 2 = 0 then fld w 11 0 else fld w 27 16, key)

end Sys2Proof.Machine
end

