-- ==== Sys2Proof/Machine/Tiles.lean ====
section
/-! DEFINITION. Tile layers T0 to T7 (spec 06 R112 to R126): map coordinates, map entries, tile pixels. -/

namespace Sys2Proof.Machine

/-- log2 of the tile width and height. -/
def LineCtx.tileLog (c : LineCtx) (t : Nat) : Nat := 3 + c.f .tmapCtrl 2 1 t

/-- A tile layer fetches: enabled and not dropped (R112, R179). -/
def LineCtx.tileOn (c : LineCtx) (t : Nat) : Bool := c.b .tmapCtrl 0 t && !c.dropped t

/-- The layer's window shows column x of the line (R120). -/
def LineCtx.tileShown (c : LineCtx) (t x : Nat) : Bool := winShows (c.get .tmapWinX t) (c.get .tmapWinY t) x c.y

/-- Signed map coordinates before wrapping: scroll (R118) or affine (R119), after mosaic. -/
def LineCtx.tileCoord (c : LineCtx) (t x : Nat) : Int × Int :=
  let mx := c.f .tmapMosaic 3 0 t + 1
  let my := c.f .tmapMosaic 11 8 t + 1
  let xs := x - x % mx
  let ys := c.y - c.y % my
  if c.b .tmapCtrl 6 t then
    let o := ((c.origins.getD ys []).getD t (0, 0))
    let step (k : Nat) : Int := sx 32 (c.get .tmapAffD t k).toNat
    ((o.1 + xs * step 0) / 65536, (o.2 + xs * step 1) / 65536)
  else (((xs + c.f .tmapScroll 24 4 t 0) % 2 ^ 21 : Nat), ((ys + c.f .tmapScroll 24 4 t 1) % 2 ^ 21 : Nat))

/-- A coordinate within a map of size m, wrapped or not (R118). -/
def wrapCoord (wrap : Bool) (m : Nat) (v : Int) : Option Nat :=
  if wrap then some (v % m).toNat else if 0 ≤ v ∧ v < m then some v.toNat else none

/-- The map pixel shown at column x, if any. -/
def LineCtx.tilePos (c : LineCtx) (t x : Nat) : Option (Nat × Nat) :=
  let p := c.tileCoord t x
  let w := c.tileLog t
  match wrapCoord (c.b .tmapCtrl 7 t) (2 ^ (c.f .tmapMapSize 4 0 t + w)) p.1,
      wrapCoord (c.b .tmapCtrl 8 t) (2 ^ (c.f .tmapMapSize 12 8 t + w)) p.2 with
  | some a, some b => some (a, b)
  | _, _ => none

/-- The address of the map entry of a map pixel (R117). -/
def LineCtx.entryAddr (c : LineCtx) (t : Nat) (p : Nat × Nat) : Nat :=
  let w := 2 ^ c.tileLog t
  c.f .tmapMapBase 23 0 t * 4096 + (p.2 / w * 2 ^ c.f .tmapMapSize 4 0 t + p.1 / w) * 4

/-- The row address and source column of a map pixel in the tile its entry names (R113, R116). -/
def LineCtx.tilePixel (c : LineCtx) (t : Nat) (p : Nat × Nat) (entry : Nat) : Nat × Nat :=
  let w := 2 ^ c.tileLog t
  let bpp := fmtBpp (c.f .tmapCtrl 5 3 t)
  let col := if nbit entry 26 then w - 1 - p.1 % w else p.1 % w
  let row := if nbit entry 27 then w - 1 - p.2 % w else p.2 % w
  (c.f .tmapTileBase 23 0 t * 4096 + nfld entry 19 0 * (w * w * bpp / 8) + row * (w * bpp / 8), col)

/-- A map entry that names a tile: no reserved bit set. -/
def entryOk (e : Nat) : Bool := nfld e 31 30 == 0

/-- The map position at column x with its entry, where the entry can be read and is good. -/
def LineCtx.tileCell (c : LineCtx) (t : Nat) (f : Fetches) (x : Nat) : Option ((Nat × Nat) × Nat) :=
  match c.tilePos t x with
  | none => none
  | some p => match (f.at_ x).word (c.entryAddr t p) 4 with
    | some e => if entryOk e then some (p, e) else none
    | none => none

/-- The pixel the layer delivers at an evaluated column. -/
def LineCtx.tilePx (c : LineCtx) (s : State) (t : Nat) (fe fp : Fetches) (x : Nat) : PxK :=
  match c.tileCell t fe x with
  | none => (Px.clear, [])
  | some (p, e) =>
    let fmt := c.f .tmapCtrl 5 3 t
    let (row, col) := c.tilePixel t p e
    match (fp.at_ x).pixel fmt row col with
    | none => (Px.clear, [])
    | some v => c.convert s fmt v ((nfld e 25 20 + c.f .tmapPal 5 0 t) % 64) (nfld e 29 28) (c.b .tmapCtrl 9 t)

/-- Map entries with a reserved bit that the layer reads on the line, counted once each (R116). -/
def LineCtx.badEntries (c : LineCtx) (t : Nat) (fe : Fetches) (xs : List Nat) : Nat :=
  ((xs.filterMap (fun x => (c.tilePos t x).map (fun p => (x, c.entryAddr t p)))).foldl (fun acc a =>
    match (fe.at_ a.1).word a.2 4 with
    | some e => if entryOk e then acc else setAdd a.2 acc
    | none => acc) []).length

/-- The lines that the pixel of a tile cell makes the layer read: in normal mode the tile's whole row, in affine mode the
line of the pixel (R126). -/
def LineCtx.tileFetch (c : LineCtx) (t : Nat) (q : (Nat × Nat) × Nat) : List Nat :=
  let (row, col) := c.tilePixel t q.1 q.2
  if c.b .tmapCtrl 6 t then [(pixelAt (c.f .tmapCtrl 5 3 t) row col).1 / 64]
  else (List.range ((row % 64 + 2 ^ c.tileLog t * fmtBpp (c.f .tmapCtrl 5 3 t) / 8 + 63) / 64)).map (row / 64 + ·)

/-- The pixels of layer t on the line, one per column, and what its fetches leave behind. -/
def LineCtx.tileLine (c : LineCtx) (t win : Nat) (s : State) : List PxK × State :=
  if !c.tileOn t then (List.replicate c.cols (Px.clear, []), s)
  else
    let h := c.halved t
    let xs := c.evalCols h (c.tileShown t)
    let (fe, s1) := s.fetchEach c.n win (xs.filterMap (fun x => (c.tilePos t x).map (fun p =>
      (x, c.entryAddr t p, [c.entryAddr t p / 64]))))
    let (fp, s2) := s1.fetchEach c.n win (xs.filterMap (fun x => (c.tileCell t fe x).map (fun q =>
      (x, if c.b .tmapCtrl 6 t then x else c.entryAddr t q.1, c.tileFetch t q))))
    let s3 := s2.bump .tmapBadent c.n t 0 (c.badEntries t fe xs)
    ((List.range c.cols).map (fun x =>
      if c.tileShown t x then c.tilePx s t fe fp (srcCol h x) else (Px.clear, [])), s3)

end Sys2Proof.Machine
end

