-- ==== Sys2Proof/Machine/Objects.lean ====
section
/-! DEFINITION. Objects (spec 07 R128 to R145): attribute entries, boxes, transforms, the sort stage, band lists,
spans, shedding and object pixels. -/

namespace Sys2Proof.Machine

/-- Word w of OAT entry i in an image. -/
def oatW (live : RegFile) (i w : Nat) : Word := rfGet live (addrOf .oat i w 0)

/-- The table key of an OAT entry and of a Transform Table entry. -/
def oatKey (i : Nat) : Nat := i
def ttKey (t : Nat) : Nat := 2 ^ 32 + t

/-- OAT entries that an image lists. -/
def oatListed (live : RegFile) : List Nat :=
  live.foldl (fun acc e => if 0x2000000 ≤ e.1 && e.1 < 0x2400000 then setAdd ((e.1 - 0x2000000) / 32) acc else acc) []

/-- Width and height of an object's box (R133). -/
def objBox (live : RegFile) (i : Nat) : Nat × Nat :=
  if bit (oatW live i 0) 15 then (fld (oatW live i 6) 13 0 + 1, fld (oatW live i 6) 29 16 + 1)
  else (fld (oatW live i 2) 9 0 + 1, fld (oatW live i 2) 25 16 + 1)

/-- The object's plane (R128). -/
def objPlane (live : RegFile) (i : Nat) : Nat := fld (oatW live i 0) 6 5

/-- The line of the box's top edge: Y plus the plane's committed OFS_Y (R133). -/
def objTop (n : Nat) (live : RegFile) (i : Nat) : Int :=
  sx 16 (fld (oatW live i 1) 31 16) + sx 16 (fld (rfGet live (addrOf .objOfsY n (objPlane live i) 0)) 15 0)

/-- The sort stage reads every enabled entry of beam n on an enabled plane (R137). -/
def sortReads (n : Nat) (live : RegFile) (i : Nat) : Bool :=
  let w := oatW live i 0
  bit w 0 && fld w 4 1 == n && bit (rfGet live (addrOf .objCtrl n (fld w 6 5) 0)) 0

/-- The sort stage keeps enabled entries of beam n on enabled planes whose box meets the active lines (R137). -/
def sortKeeps (n : Nat) (live : RegFile) (lines i : Nat) : Bool :=
  let top := objTop n live i
  sortReads n live i && top < lines && 0 < top + (objBox live i).2

/-- An entry read in a sort stage: a poisoned one is not drawn in the frame (R106), and one whose box lies wholly
outside the active lines is discarded (R137). -/
def sortRead (n : Nat) (live : RegFile) (lines : Nat) (acc : List Nat × State) (i : Nat) : List Nat × State :=
  if sortReads n live i then
    let (bad, s1) := acc.2.readTable (oatKey i)
    (if bad || !sortKeeps n live lines i then acc.1 else acc.1 ++ [i], s1)
  else acc

/-- The object names a Transform Table entry of another group than g (R29, R132). -/
def xGroup (live : RegFile) (g i : Nat) : Bool :=
  bit (oatW live i 0) 15 && fld (rfGet live (addrOf .tt (fld (oatW live i 5) 12 0) 4 0)) 3 0 != g

/-- Shed order: KEEP descending, then OAT index ascending (R139). -/
def shedInsert (live : RegFile) (i : Nat) : List Nat → List Nat
  | [] => [i]
  | a :: t => if fld (oatW live a 4) 23 16 < fld (oatW live i 4) 23 16 then i :: a :: t else a :: shedInsert live i t

/-- The objects that touch band b, in shed order. -/
def bandAll (n : Nat) (live : RegFile) (sorted : List Nat) (b : Nat) : List Nat :=
  (sorted.filter (fun i =>
    let top := objTop n live i
    top < (8 * b + 8 : Nat) && (8 * b : Nat) < top + (objBox live i).2)).foldl (fun acc i => shedInsert live i acc) []

/-- Plane Ok's window shows column x of the line. -/
def LineCtx.objShown (c : LineCtx) (k x : Nat) : Bool := winShows (c.get .objWinX k) (c.get .objWinY k) x c.y

/-- Box coordinates of column x, if it lies in the box (R133). -/
def LineCtx.boxPos (c : LineCtx) (i x : Nat) : Option (Nat × Nat) :=
  let k := objPlane c.live i
  let bi : Int := x - (sx 16 (fld (oatW c.live i 1) 15 0) + sx 16 (c.f .objOfsX 15 0 k))
  let bj : Int := c.y - objTop c.n c.live i
  let (w, h) := objBox c.live i
  if 0 ≤ bi ∧ bi < w ∧ 0 ≤ bj ∧ bj < h then some (bi.toNat, bj.toNat) else none

/-- The object has a span on the line: its box crosses it in a visible active column (R142). -/
def LineCtx.hasSpan (c : LineCtx) (i : Nat) : Bool :=
  (List.range c.cols).any (fun x => c.objShown (objPlane c.live i) x && (c.boxPos i x).isSome)

/-- The effective span limit (R142, R179). -/
def LineCtx.spanLimit (c : LineCtx) : Nat :=
  (c.steps.filter (fun w => fld w 5 4 == 3)).foldl (fun a w => min a (fld w 28 16)) (min 4096 (c.f .objSpanLimit 12 0))

/-- The four coefficients of an object's transform: the identity for another group's or a poisoned entry (R132). -/
def LineCtx.xform (c : LineCtx) (s : State) (g i : Nat) : Int × Int × Int × Int :=
  let t := fld (oatW c.live i 5) 12 0
  if xGroup c.live g i || s.tblBad (ttKey t) then (65536, 0, 0, 65536)
  else
    let p (k : Nat) : Int := sx 32 (rfGet c.live (addrOf .tt t k 0)).toNat
    (p 0, p 1, p 2, p 3)

/-- The source position of box coordinates, after bounds and flips (R133). -/
def LineCtx.srcPos (c : LineCtx) (s : State) (g i : Nat) (p : Nat × Nat) : Option (Nat × Nat) :=
  let w0 := oatW c.live i 0
  let w := fld (oatW c.live i 2) 9 0 + 1
  let h := fld (oatW c.live i 2) 25 16 + 1
  let q : Int × Int :=
    if bit w0 15 then
      let (pa, pb, pc, pd) := c.xform s g i
      let (bw, bh) := objBox c.live i
      let dx : Int := 2 * p.1 - bw + 1
      let dy : Int := 2 * p.2 - bh + 1
      ((pa * dx + pb * dy + w * 65536) / 131072, (pc * dx + pd * dy + h * 65536) / 131072)
    else (p.1, p.2)
  if 0 ≤ q.1 ∧ q.1 < w ∧ 0 ≤ q.2 ∧ q.2 < h then
    some (if bit w0 11 then w - 1 - q.1.toNat else q.1.toNat, if bit w0 12 then h - 1 - q.2.toNat else q.2.toNat)
  else none

/-- The row address of a source row (R134). -/
def LineCtx.objRow (c : LineCtx) (i v : Nat) : Nat :=
  fld (oatW c.live i 3) 29 0 * 64 + v * (fld (oatW c.live i 4) 15 0 * 64)

/-- Source position and row address at an evaluated column. -/
def LineCtx.objSrc (c : LineCtx) (s : State) (g i x : Nat) : Option (Nat × Nat) :=
  match c.boxPos i x with
  | none => none
  | some p => (c.srcPos s g i p).map (fun q => (c.objRow i q.2, q.1))

/-- The key of the pixel read of object i at column x. -/
def objReadKey (i x : Nat) : Nat := i * 2 ^ 14 + x

/-- The pixel of a drawn object at an evaluated column, with the alpha its plane delivers (R134). -/
def LineCtx.objPx (c : LineCtx) (s : State) (g : Nat) (f : Fetches) (i x : Nat) : PxK :=
  match c.objSrc s g i x with
  | none => (Px.clear, [])
  | some (row, u) =>
    let w0 := oatW c.live i 0
    let k := objPlane c.live i
    match (f.at_ (objReadKey i x)).pixel (fld w0 10 8) row u with
    | none => (Px.clear, [])
    | some v =>
      let (px, ks) := c.convert s (fld w0 10 8) v ((fld w0 21 16 + c.f .objPal 5 0 k) % 64) (fld w0 14 13) (bit w0 7)
      ({ px with a := mulFrac (mulFrac px.a (fld (oatW c.live i 5) 27 16)) (c.f .objAlpha 11 0 k) }, ks)

/-- The front of two candidates on a plane: higher tier, then lower index; candidates come in ascending index. -/
def frontOf (acc : Option PxK) (p : PxK) : Option PxK :=
  if p.1.a = 0 then acc else
  match acc with
  | none => some p
  | some q => if q.1.tier < p.1.tier then some p else some q

/-- Insertion into ascending order. -/
def natInsert (i : Nat) : List Nat → List Nat
  | [] => [i]
  | a :: t => if i < a then i :: a :: t else a :: natInsert i t

/-- A shed span under SHED_MARK: opaque white at tier 3 (R143). -/
def shedMark : Px := ⟨4095, 4095, 4095, 4095, 3⟩

/-- The pixel plane k delivers at column x: the front object (R135), marks of shed spans among them (R143). -/
def LineCtx.planePx (c : LineCtx) (s : State) (g : Nat) (f : Fetches) (k : Nat) (drawn marked : List Nat) (x : Nat) :
    PxK :=
  if !c.objShown k x then (Px.clear, [])
  else
    let xe := srcCol (c.halved (8 + k)) x
    let mine := ((drawn ++ marked).filter (fun i => objPlane c.live i == k)).foldl (fun a i => natInsert i a) []
    ((mine.map (fun i =>
      if marked.contains i then (if (c.boxPos i xe).isSome then (shedMark, []) else (Px.clear, []))
      else c.objPx s g f i xe)).foldl frontOf none).getD (Px.clear, [])

/-- What the object unit makes of a line: the four planes' pixels, counted and shed spans, KEEP of the last drawn. -/
structure ObjLine where
  planes : List (List PxK)
  counted : Nat
  shed : Nat
  lastKeep : Nat

/-- Transform Table keys read for a line. -/
def LineCtx.xformKeys (c : LineCtx) (g : Nat) (drawn : List Nat) : List Nat :=
  drawn.filterMap (fun i => if bit (oatW c.live i 0) 15 && !xGroup c.live g i
    then some (ttKey (fld (oatW c.live i 5) 12 0)) else none)

/-- The object unit's work for a line (R142 to R145): `band` is the band list, g the beam's group. -/
def LineCtx.objLine (c : LineCtx) (band : List Nat) (g win : Nat) (s : State) : ObjLine × State :=
  let spans := band.filter c.hasSpan
  let drawn := spans.take c.spanLimit
  let shed := spans.drop c.spanLimit
  let mark := if c.b .objDebug 0 then shed else []
  let alive (i : Nat) : Bool := !c.dropped (8 + objPlane c.live i)
  let cols (k : Nat) := c.evalCols (c.halved (8 + k)) (c.objShown k)
  let (f, s1) := s.fetchEach c.n win ((drawn.filter alive).flatMap (fun i =>
    (cols (objPlane c.live i)).filterMap (fun x => (c.objSrc s g i x).map (fun q =>
      (objReadKey i x, objReadKey i x, [(pixelAt (fld (oatW c.live i 0) 10 8) q.1 q.2).1 / 64])))))
  let s2 := ((c.xformKeys g drawn).foldl (fun acc k => setAdd k acc) []).foldl (fun s k => (s.readTable k).2) s1
  (⟨(List.range 4).map (fun k => (List.range c.cols).map (fun x =>
      if c.dropped (8 + k) then (Px.clear, []) else c.planePx s g f k drawn mark x)),
    spans.length, shed.length, match drawn.getLast? with
      | some i => fld (oatW c.live i 4) 23 16
      | none => 0⟩, s2)

end Sys2Proof.Machine
end

