-- ==== Sys2Proof/Machine/Bitmaps.lean ====
section
/-! DEFINITION. Bitmap planes P0 to P2 (spec 08 R147 to R159): formats, chroma upsampling, colour conversion, and the import ring
as a source. -/

namespace Sys2Proof.Machine

/-- A quotient rounded to the nearest integer, halves away from zero (R153). -/
def roundDiv (n : Int) (d : Nat) : Int :=
  if 0 ≤ n then ((2 * n.toNat + d) / (2 * d) : Nat) else -((2 * (-n).toNat + d) / (2 * d) : Nat)

/-- Kr and Kb × 10,000 of a standard: 0 BT.601, 1 BT.709, 2 BT.2020. -/
def lumaK (std : Nat) : Nat × Nat := if std = 0 then (2990, 1140) else if std = 1 then (2126, 722) else (2627, 593)

/-- The matrix of CSC preset 1 to 6, row by row, × 4,096 (R153). -/
def cscMatrix (csc : Nat) : List Int :=
  let (kr, kb) := lumaK ((csc - 1) / 2)
  let kg := 10000 - kr - kb
  let full := csc % 2 == 0
  let sy : Nat × Nat := if full then (1, 1) else (4095, 3504)
  let sc : Nat × Nat := if full then (1, 1) else (4095, 3584)
  let y := roundDiv (4096 * sy.1 : Nat) sy.2
  let ch (n : Int) (d : Nat) := roundDiv (4096 * n * sc.1) (d * sc.2)
  [y, 0, ch (2 * (10000 - kr)) 10000,
   y, ch (-(2 * kb * (10000 - kb) : Nat)) (kg * 10000), ch (-(2 * kr * (10000 - kr) : Nat)) (kg * 10000),
   y, ch (2 * (10000 - kb)) 10000, 0]

/-- PRE offsets of a preset. -/
def cscPre (csc : Nat) : List Int := if csc % 2 == 0 then [0, -2048, -2048] else [-256, -2048, -2048]

/-- One output of a matrix row with offsets, clamped to 12 bits (R153). -/
def matRow (m : List Int) (pre : List Int) (post : Int) (v : List Nat) : Nat :=
  let acc := (List.range 3).foldl (fun a i => a + m.getD i 0 * ((v.getD i 0 : Nat) + pre.getD i 0)) 0
  (clampInt 0 4095 ((acc + 2048) / 4096 + post)).toNat

/-- Colour conversion of plane k (R153). -/
def LineCtx.convertCsc (c : LineCtx) (k : Nat) (v : List Nat) : List Nat :=
  let csc := c.f .bmpCtrl 8 5 k
  if csc = 0 then v
  else if csc = 7 then
    let m (i : Nat) : Int := sx 16 (c.f .bmpM 15 0 k i)
    let pre := (List.range 3).map (fun i => sx 13 (c.f .bmpOfs 12 0 k i))
    (List.range 3).map (fun r => matRow [m (3 * r), m (3 * r + 1), m (3 * r + 2)] pre (sx 13 (c.f .bmpOfs 28 16 k r)) v)
  else
    let m := cscMatrix csc
    (List.range 3).map (fun r => matRow ((m.drop (3 * r)).take 3) (cscPre csc) 0 v)

/-- Plane k fetches: enabled and not dropped. -/
def LineCtx.bmpOn (c : LineCtx) (k : Nat) : Bool := c.b .bmpCtrl 0 k && !c.dropped (12 + k)

/-- The plane's window shows column x of the line. -/
def LineCtx.bmpShown (c : LineCtx) (k x : Nat) : Bool := winShows (c.get .bmpWinX k) (c.get .bmpWinY k) x c.y

/-- Source width and height. -/
def LineCtx.bmpSize (c : LineCtx) (k : Nat) : Nat × Nat := (c.f .bmpSize 13 0 k + 1, c.f .bmpSize 28 16 k + 1)

/-- The source row of the line, if it lies in the source (R151). -/
def LineCtx.bmpRow (c : LineCtx) (k : Nat) : Option Nat :=
  let sy : Int := c.y - sx 16 (c.f .bmpPos 31 16 k) + c.f .bmpSrc 28 16 k
  if 0 ≤ sy ∧ sy < (c.bmpSize k).2 then some sy.toNat else none

/-- The source position at column x, if it lies in the source (R151). -/
def LineCtx.bmpSrcPos (c : LineCtx) (k x : Nat) : Option (Nat × Nat) :=
  let px : Int := x - sx 16 (c.f .bmpPos 15 0 k) + c.f .bmpSrc 13 0 k
  match c.bmpRow k with
  | none => none
  | some sy => if 0 ≤ px ∧ px < (c.bmpSize k).1 then some (px.toNat, sy) else none

/-- Bytes of a luma sample or packed pixel (R148). -/
def lumaBytes (fmt : Nat) : Nat :=
  if fmt = 0 ∨ fmt = 3 ∨ fmt = 6 then 1 else if fmt < 9 then 2 else if fmt < 11 then 4 else 8

/-- A stored luma or chroma sample widened to 12 bits by a left shift (R148, R149). -/
def sample12 (fmt w : Nat) : Nat :=
  if fmt % 3 = 0 then w * 16 else if fmt % 3 = 1 then w / 64 * 4 else w / 16

/-- The plane reads an import ring. -/
def LineCtx.imports (c : LineCtx) (k : Nat) : Bool := c.f .bmpCtrl 4 1 k == 12

/-- Address of the luma sample or pixel; a row of an import ring lies in its slot (R158). -/
def LineCtx.lumaAddr (c : LineCtx) (k : Nat) (p : Nat × Nat) : Nat :=
  let row := if c.imports k then p.2 % c.f .bmpImp 26 13 k else p.2
  c.f .bmpBaseY 27 0 k * 256 + row * (c.f .bmpPitch 11 0 k * 256) + p.1 * lumaBytes (c.f .bmpCtrl 4 1 k)

/-- Address of the pair i of chroma row j. -/
def LineCtx.chromaAddr (c : LineCtx) (k i j : Nat) : Nat :=
  c.f .bmpBaseC 27 0 k * 256 + j * (c.f .bmpPitch 27 16 k * 256) + i * (2 * lumaBytes (c.f .bmpCtrl 4 1 k))

/-- The chroma samples that one axis step takes for index x of `count` stored ones: earlier or only sample, other
sample, and the weights' numerator of each with the rounding term and the shift (R152). -/
structure ChromaStep where
  a : Nat
  b : Nat
  wa : Nat
  wb : Nat
  add : Nat
  shift : Nat

/-- Clamp an index to the stored samples. -/
def clampIdx (count : Nat) (i : Int) : Nat := (clampInt 0 (count - 1 : Nat) i).toNat

/-- The step for an axis with half as many chroma samples: siting false is co-sited. -/
def chromaStep (ups siting : Bool) (count x : Nat) : ChromaStep :=
  let m := x / 2
  let at_ (i : Int) := clampIdx count i
  if ups then ⟨at_ m, at_ m, 1, 0, 0, 0⟩
  else if !siting then
    if x % 2 = 0 then ⟨at_ m, at_ m, 1, 0, 0, 0⟩ else ⟨at_ m, at_ (m + 1), 1, 1, 1, 1⟩
  else if x % 2 = 0 then ⟨at_ m, at_ (m - 1 : Int), 3, 1, 2, 2⟩ else ⟨at_ m, at_ (m + 1), 3, 1, 2, 2⟩

/-- A step that takes the sample itself. -/
def chromaSame (x : Nat) : ChromaStep := ⟨x, x, 1, 0, 0, 0⟩

/-- The result of a step. -/
def ChromaStep.eval (t : ChromaStep) (va vb : Nat) : Nat := (t.wa * va + t.wb * vb + t.add) / 2 ^ t.shift

/-- Horizontal and vertical steps for a source position (R152). -/
def LineCtx.chromaSteps (c : LineCtx) (k : Nat) (p : Nat × Nat) : ChromaStep × ChromaStep :=
  let fmt := c.f .bmpCtrl 4 1 k
  let (w, h) := c.bmpSize k
  let ups := c.b .bmpCtrl 12 k
  (if fmt < 3 then chromaSame p.1 else chromaStep ups (c.b .bmpCtrl 10 k) (ceilDiv w 2) p.1,
   if fmt < 6 then chromaSame p.2 else chromaStep ups (c.b .bmpCtrl 11 k) (ceilDiv h 2) p.2)

/-- A chroma component (0 Cb, 1 Cr) at a source position: the vertical step first, then the horizontal one. -/
def LineCtx.chroma (c : LineCtx) (k : Nat) (f : Fetched) (p : Nat × Nat) (comp : Nat) : Option Nat :=
  let fmt := c.f .bmpCtrl 4 1 k
  let n := lumaBytes fmt
  let (h, v) := c.chromaSteps k p
  let get (i j : Nat) : Option Nat := (f.word (c.chromaAddr k i j + comp * n) n).map (sample12 fmt)
  match get h.a v.a, get h.a v.b, get h.b v.a, get h.b v.b with
  | some aa, some ab, some ba, some bb => some (h.eval (v.eval aa ab) (v.eval ba bb))
  | _, _, _, _ => none

/-- The triple and alpha of a stored pixel before conversion, from the luma and the chroma lines fetched, or none where its data
are poisoned. -/
def LineCtx.bmpRaw (c : LineCtx) (k : Nat) (f fc : Fetched) (p : Nat × Nat) : Option (List Nat × Nat) :=
  let fmt := c.f .bmpCtrl 4 1 k
  let a := c.lumaAddr k p
  match f.word a (lumaBytes fmt) with
  | none => none
  | some w =>
    if fmt < 9 then
      match c.chroma k fc p 0, c.chroma k fc p 1 with
      | some cb, some cr => some ([sample12 fmt w, cb, cr], 4095)
      | _, _ => none
    else if fmt = 9 then
      some ([widen 8 (nfld w 7 0), widen 8 (nfld w 15 8), widen 8 (nfld w 23 16)], widen 8 (nfld w 31 24))
    else if fmt = 10 then
      some ([widen 10 (nfld w 9 0), widen 10 (nfld w 19 10), widen 10 (nfld w 29 20)], widen 2 (nfld w 31 30))
    else
      some ([nfld w 15 4, nfld w 31 20, nfld w 47 36], if fmt = 11 then nfld w 63 52 else 4095)

/-- The chroma lines a plane fetches for a source position, from the first or the second row that it needs. -/
def LineCtx.chromaLines (c : LineCtx) (k : Nat) (second : Bool) (p : Nat × Nat) : List Nat :=
  let (h, v) := c.chromaSteps k p
  if 9 ≤ c.f .bmpCtrl 4 1 k then []
  else if second then (if v.a = v.b then [] else [c.chromaAddr k h.a v.b / 64, c.chromaAddr k h.b v.b / 64])
  else [c.chromaAddr k h.a v.a / 64, c.chromaAddr k h.b v.a / 64]

/-- A slot can serve a frame: no earlier frame has read it since its line arrived (R160, log entry 98). -/
def ImportSlot.fresh (t : ImportSlot) (frame : Nat) : Bool := t.used.isNone || t.used == some frame

/-- The ring slot that holds source row sy of an importing plane for a frame, if it does (R159). -/
def ImportPlane.slot (ip : ImportPlane) (lines sy frame : Nat) : Option ImportSlot :=
  match kvGet (sy % lines) ip.slots with
  | some t => if t.line = sy && t.fresh frame then some t else none
  | none => none

/-- Pixels of the row that the source gives: all of them, or what the import slot stored; none for a missing line. -/
def LineCtx.bmpAvail (c : LineCtx) (k : Nat) (ip : ImportPlane) : Option Nat :=
  if c.imports k then
    if ip.missing.contains c.y then none
    else match c.bmpRow k with
      | none => some 0
      | some sy => (ip.slot (c.f .bmpImp 26 13 k) sy c.frame).map (·.count)
  else some (c.bmpSize k).1

/-- An importing plane needs its source row on the line: some column that it evaluates draws from it (R151, R159). -/
def LineCtx.bmpNeeds (c : LineCtx) (k : Nat) : Bool :=
  c.bmpOn k && c.imports k &&
    (c.evalCols (c.halved (12 + k)) (c.bmpShown k)).any (fun x => (c.bmpSrcPos k x).isSome)

/-- The plane can be generated now: its import slot holds the row, or the line was declared missing (R159). -/
def LineCtx.bmpReady (c : LineCtx) (k : Nat) (ip : ImportPlane) : Bool :=
  !c.bmpNeeds k || ip.missing.contains c.y || (c.bmpAvail k ip).isSome

/-- The pixel plane k delivers at an evaluated column (R147). -/
def LineCtx.bmpPx (c : LineCtx) (s : State) (k : Nat) (f fc : Fetched) (avail x : Nat) : PxK :=
  match c.bmpSrcPos k x with
  | none => (Px.clear, [])
  | some p =>
    if avail ≤ p.1 then (Px.clear, [])
    else match c.bmpRaw k f fc p with
      | none => (Px.clear, [])
      | some (v, a) =>
        let o := c.convertCsc k v
        let l := if c.b .bmpCtrl 9 k then
            (List.range 3).map (fun i => c.lut s .lutPlane (3 * k + i) (k * 0x6000 + i * 0x2000) (o.getD i 0))
          else o.map (fun v => (v, 0))
        (⟨(l.getD 0 (0, 0)).1, (l.getD 1 (0, 0)).1, (l.getD 2 (0, 0)).1,
          mulFrac a (c.f .bmpAlpha 11 0 k), c.f .bmpCtrl 14 13 k⟩,
         if c.b .bmpCtrl 9 k then l.map (·.2) else [])

/-- The pixels of plane k on the line and what its fetches leave behind, row by row (R157); a row drawn from an import slot
shows its epoch in IMP_STATUS. -/
def LineCtx.bmpLine (c : LineCtx) (k win : Nat) (ip : ImportPlane) (s : State) : List PxK × State :=
  match (if c.bmpOn k then c.bmpAvail k ip else none) with
  | none => (List.replicate c.cols (Px.clear, []), s)
  | some avail =>
    let h := c.halved (12 + k)
    let xs := c.evalCols h (c.bmpShown k)
    let ps := (xs.filterMap (c.bmpSrcPos k)).filter (fun p => p.1 < avail)
    let (f, s1) := s.fetchAll c.n win (ps.map (fun p => c.lumaAddr k p / 64))
    let (fa, sa) := s1.fetchAll c.n win (ps.flatMap (c.chromaLines k false))
    let (fb, sb) := sa.fetchAll c.n win (ps.flatMap (c.chromaLines k true))
    let s2 := match (if c.imports k && !ps.isEmpty then
        (c.bmpRow k).bind (fun sy => ip.slot (c.f .bmpImp 26 13 k) sy c.frame) else none) with
      | some t => sb.wf .bmpImpStatus 15 0 t.epochLo c.n k
      | none => sb
    ((List.range c.cols).map (fun x =>
      if c.bmpShown k x then c.bmpPx s k f (fa ++ fb) avail (srcCol h x) else (Px.clear, [])), s2)

/-- The slots that the line reads are read in its frame (R160). -/
def LineCtx.useSlots (c : LineCtx) (imps : Vector ImportPlane 3) : Vector ImportPlane 3 :=
  (List.range 3).foldl (fun v k =>
    let ip := vget v k {}
    let at_ := (c.bmpRow k).getD 0 % c.f .bmpImp 26 13 k
    match (if c.bmpNeeds k && !ip.missing.contains c.y then
        ip.slot (c.f .bmpImp 26 13 k) ((c.bmpRow k).getD 0) c.frame else none) with
    | some t => vset v k { ip with slots := kvSet at_ { t with used := some c.frame } ip.slots }
    | none => v) imps

end Sys2Proof.Machine
end

