-- ==== Sys2Proof/Machine/Compose.lean ====
section
/-! DEFINITION. The compositor (spec 09 R162 to R171): layer order and tier, blending, output LUT, the protected layer,
output encoding, and the idle line (R17). -/

namespace Sys2Proof.Machine

/-- The layer code at slot position p (R163). -/
def orderAt (o0 o1 : Word) (p : Nat) : Nat := if p < 8 then fld o0 (4 * p + 3) (4 * p) else fld o1 (4 * (p - 8) + 3) (4 * (p - 8))

/-- The fifteen positions hold each code 0 to 14 once (R163). -/
def orderOk (o0 o1 : Word) : Bool := (List.range 15).all (fun c => (List.range 15).any (fun p => orderAt o0 o1 p == c))

/-- One component under a blend mode (R165). -/
def blend1 (mode s a d : Nat) : Nat :=
  let r : Int :=
    if mode = 0 then (mulFrac s a + mulFrac d (4095 - a) : Nat)
    else if mode = 1 then (d + mulFrac s a : Nat)
    else if mode = 2 then (mulFrac d (4095 - a) + mulFrac (mulFrac d s) a : Nat)
    else (d : Int) - mulFrac s a
  (clampInt 0 4095 r).toNat

/-- A layer pixel over the destination; the alpha is in the pixel. -/
def blendPx (mode : Nat) (d p : Px) : Px :=
  { d with c0 := blend1 mode p.c0 p.a d.c0, c1 := blend1 mode p.c1 p.a d.c1, c2 := blend1 mode p.c2 p.a d.c2 }

/-- Stable insertion by tier: a later slot goes behind equal tiers (R164). -/
def tierInsert (x : Nat × Px) : List (Nat × Px) → List (Nat × Px)
  | [] => [x]
  | y :: t => if x.2.tier < y.2.tier then x :: y :: t else y :: tierInsert x t

/-- The layer pixels that take part, with their blend mode, back to front (R164): alpha is the effective alpha. -/
def LineCtx.ordered (c : LineCtx) (layers : List Px) : List (Nat × Px) :=
  ((List.range 15).filterMap (fun p =>
    let code := orderAt (c.get .cmpOrder0) (c.get .cmpOrder1) p
    let px := layers.getD code Px.clear
    let a := mulFrac px.a (c.f .cmpBlend 27 16 code)
    if a = 0 then none else some (c.f .cmpBlend 1 0 code, { px with a := a }))).foldl (fun acc x => tierInsert x acc) []

/-- The background as a destination. -/
def bgPx (rg b : Word) : Px := ⟨fld rg 11 0, fld rg 27 16, fld b 11 0, 4095, 0⟩

/-- Steps 2 and 3 of R162: the blended pixel with the tier of the frontmost pixel that took part (R166). -/
def LineCtx.blended (c : LineCtx) (layers : List Px) : Px :=
  let l := c.ordered layers
  let d := l.foldl (fun d x => blendPx x.1 d x.2) (bgPx (c.get .cmpBgRg) (c.get .cmpBgB))
  { d with tier := match l.getLast? with
    | some x => x.2.tier
    | none => 0 }

/-- A pixel through the output LUT when LUT_EN is 1 (R167), with the table words read. -/
def LineCtx.outLut (c : LineCtx) (s : State) (d : Px) : PxK :=
  if c.b .cmpCtrl 6 then
    let q (i v : Nat) := c.lut s .lutOut i (0x12000 + i * 0x2000) v
    ({ d with c0 := (q 0 d.c0).1, c1 := (q 1 d.c1).1, c2 := (q 2 d.c2).1 }, [(q 0 d.c0).2, (q 1 d.c1).2, (q 2 d.c2).2])
  else (d, [])

/-- The encoding rows of YCC preset y (0 to 5), × 4,096 (R169). -/
def yccMatrix (y : Nat) : List Int :=
  let (kr, kb) := lumaK (y / 2)
  let kg := 10000 - kr - kb
  let full := y % 2 == 1
  let sy : Nat × Nat := if full then (1, 1) else (3504, 4095)
  let sc : Nat × Nat := if full then (1, 1) else (3584, 4095)
  let yr (k : Nat) := roundDiv (4096 * k * sy.1 : Nat) (10000 * sy.2)
  let cr (n : Int) (k : Nat) := roundDiv (4096 * n * sc.1) (2 * (10000 - k) * sc.2)
  [yr kr, yr kg, yr kb, cr (-kr) kb, cr (-kg) kb, cr (10000 - kb : Nat) kb,
   cr (10000 - kr : Nat) kr, cr (-kg) kr, cr (-kb) kr]

/-- Depth reduction of a 12-bit value (R169). -/
def reduce (depth v : Nat) : Nat :=
  if depth = 2 then v else if depth = 1 then min ((v + 2) / 4) 1023 else min ((v + 8) / 16) 255

/-- The output encoding of a pixel (R169); fl is the flag field (R166). -/
def encodePx (ctrl : Word) (d : Px) (fl : Nat) : OutPixel :=
  let depth := fld ctrl 2 1
  let v : List Nat := [d.c0, d.c1, d.c2]
  let o : List Nat := if bit ctrl 0 then
      let y := fld ctrl 5 3
      let m := yccMatrix y
      (List.range 3).map (fun i => matRow ((m.drop (3 * i)).take 3) [0, 0, 0]
        (if i = 0 then (if y % 2 = 1 then 0 else 256) else 2048) v)
    else v
  ⟨reduce depth (o.getD 0 0), reduce depth (o.getD 1 0), reduce depth (o.getD 2 0), fl⟩

/-! The protected layer (R170, R171). Its fields are read from the registers: they change only at a Calends. -/

/-- What PL shows at a position: nothing, the fault colour, or a tile pixel to fetch at (row address, column). -/
inductive PlCell where
  | empty
  | fault (bad : Nat)
  | tile (row col : Nat)
deriving DecidableEq, Repr

/-- The map pixel of a screen position, inside the map (R170). -/
def State.plPos (s : State) (n x y : Nat) : Option (Nat × Nat) :=
  let px : Int := x - sx 16 (s.rf .cmpPlPos 15 0 n)
  let py : Int := y - sx 16 (s.rf .cmpPlPos 31 16 n)
  if 0 ≤ px ∧ px < (16 * 2 ^ s.rf .cmpPlSize 3 0 n : Nat) ∧ 0 ≤ py ∧ py < (16 * 2 ^ s.rf .cmpPlSize 11 8 n : Nat)
  then some (px.toNat, py.toNat) else none

/-- A PL read is performed: inside the PL region, old regions still protected included, and below 48 GiB (R171, R175). -/
def State.plReadable (s : State) (a n : Nat) : Bool := s.inPlRegion a n && a + n ≤ psEnd

/-- The address of the PL map entry of a map pixel. -/
def State.plEntryAddr (s : State) (n : Nat) (p : Nat × Nat) : Nat :=
  s.rf .cmpPlMap 23 0 n * 4096 + (p.2 / 16 * 2 ^ s.rf .cmpPlSize 3 0 n + p.1 / 16) * 4

/-- The cell at a screen position, once the map entries are fetched. A fault names the address it is counted for, or
zero for a poisoned read, which is not counted. -/
def State.plCell (s : State) (n y : Nat) (fe : Fetched) (x : Nat) : PlCell :=
  match s.plPos n x y with
  | none => .empty
  | some p =>
    let ea := s.plEntryAddr n p
    if !s.plReadable ea 4 then .fault (ea + 1)
    else match fe.word ea 4 with
      | none => .fault 0
      | some e =>
        if nfld e 31 20 ≠ 0 then .fault (ea + 1)
        else
          let row := s.rf .cmpPlTile 23 0 n * 4096 + nfld e 19 0 * 128 + p.2 % 16 * 8
          if s.plReadable row 8 then .tile row (p.1 % 16) else .fault (row + 1)

/-- The fault colour, opaque. -/
def State.plFault (s : State) (n : Nat) : Px :=
  ⟨s.rf .cmpPlFaultRg 11 0 n, s.rf .cmpPlFaultRg 27 16 n, s.rf .cmpPlFaultB 11 0 n, 4095, 0⟩

/-- The PL pixels of a line (R170, R171) and what the fetches leave; CMP_PL_BADENT counts each bad entry or refused
read once. -/
def State.plLine (s : State) (n y cols win : Nat) : List Px × State :=
  if !s.rb .cmpPlCtrl 0 n then (List.replicate cols Px.clear, s)
  else
    let xs := List.range cols
    let (fe, s1) := s.fetchAll n win (xs.filterMap (fun x => match s.plPos n x y with
      | some p => if s.plReadable (s.plEntryAddr n p) 4 then some (s.plEntryAddr n p / 64) else none
      | none => none))
    let cells := xs.map (s.plCell n y fe)
    let (fp, s2) := s1.fetchEach n win ((xs.zip cells).filterMap (fun k => match k.2 with
      | .tile row _ => some (k.1, k.1, [row / 64])
      | _ => none))
    let bad := cells.foldl (fun acc k => match k with
      | .fault (b + 1) => setAdd b acc
      | _ => acc) []
    ((xs.zip cells).map (fun k => match k.2 with
      | .empty => Px.clear
      | .fault _ => s.plFault n
      | .tile row col => match (fp.at_ k.1).pixel 2 row col with
        | none => s.plFault n
        | some 0 => Px.clear
        | some i => palPx (s.rd .cmpPlPal n (2 * i)) (s.rd .cmpPlPal n (2 * i + 1)) 0),
     s2.bump .cmpPlBadent n 0 0 bad.length)

/-! A whole line. -/

/-- The composed line with the counts of its object spans. -/
structure LineOut where
  pixels : List OutPixel
  counted : Nat
  shed : Nat
  lastKeep : Nat

/-- Compose one line (R162): band is the line's band list, g the beam's group, win and owin the openings of the read
windows, imports the state of the three planes. -/
def LineCtx.compose (c : LineCtx) (band : List Nat) (g win owin : Nat) (imps : Vector ImportPlane 3) (s : State) :
    LineOut × State :=
  let (tiles, s1) := (List.range 8).foldl (fun ((acc, s) : List (List PxK) × State) t =>
    let (l, s1) := c.tileLine t win s
    (acc ++ [l], s1)) ([], s)
  let (obj, s2) := c.objLine band g owin s1
  let (bmps, s3) := (List.range 3).foldl (fun ((acc, s) : List (List PxK) × State) k =>
    let (l, s1) := c.bmpLine k win (vget imps k {}) s
    (acc ++ [l], s1)) ([], s2)
  let layers := tiles ++ obj.planes ++ bmps
  let (pl, s4) := s3.plLine c.n c.y c.cols win
  let outs : List (OutPixel × List Nat) := (List.range c.cols).map (fun x =>
    let px : List PxK := layers.map (fun l => l.getD x (Px.clear, []))
    let d := c.blended (px.map (·.1))
    let (o, ks) := c.outLut s d
    let p := pl.getD x Px.clear
    (encodePx (c.get .cmpCtrl) (blendPx 0 o p) (d.tier + if p.a = 0 then 0 else 4), px.flatMap (·.2) ++ ks))
  let keys := (outs.flatMap (·.2)).foldl (fun acc k => setAdd k acc) []
  (⟨outs.map (·.1), obj.counted, obj.shed, obj.lastKeep⟩, keys.foldl (fun s k => (s.readTable k).2) s4)

/-- The pixel of the idle item (R17): the committed background through the output LUT and the encoding, no PL. -/
def idlePixel (n : Nat) (live : RegFile) (s : State) : OutPixel :=
  let c : LineCtx := ⟨n, 0, live, [], 0, 0, [], 0⟩
  encodePx (c.get .cmpCtrl) (c.outLut s (bgPx (c.get .cmpBgRg) (c.get .cmpBgB))).1 0

end Sys2Proof.Machine
end

