-- ==== Sys2Proof/Machine/Post.lean ====
section
/-! DEFINITION. Operating modes as state (spec 19 R381, R382), and what the host interface posts: completion records,
event records and their indices (spec 03 R52, R67, R68, R73). -/

namespace Sys2Proof.Machine

/-- SYS_MODE.MODE: 0 Reset, 1 Provisioning, 2 Service, 3 Vigil, 4 Sleep, 5 Ember, 6 Recovery, 7 Debug Halt. -/
def State.mode (s : State) : Nat := s.rf .sysMode 2 0

/-- SYS_LC_STATUS.STATE: 0 Blank, 1 Manufacture, 2 Provisioned, 3 Deployed, 4 Returned, 5 Retired (spec 19, Life cycle). -/
def State.lcState (s : State) : Nat := s.rf .sysLcStatus 2 0

/-- The mode by which units run: in Debug Halt as in the mode it was entered from (R386). -/
def State.runMode (s : State) : Nat := if s.mode = 7 then s.rf .sysMode 5 3 else s.mode

/-- The host interface is in Recovery: Recovery itself, Debug Halt entered from it, and Debug Halt after a host loss, which
Recovery follows (R73, R385, R386). -/
def State.hostLost (s : State) : Bool := s.runMode == 6 || (s.mode == 7 && s.rb .sysMode 6)

/-- In Sleep, or on the way to it: no descriptor, blit or program instruction begins (R383). -/
def State.asleep (s : State) : Bool := s.mode == 4 || s.sys.entering

/-- A mode change: PREV is the mode left, and MODE_CHANGE is raised (R382); on leaving Ember every port's ACTION becomes 0
(R270). -/
def State.setMode (s : State) (m : Nat) : State :=
  if s.mode = m then s
  else
    let s1 := if s.mode = 5 then (List.range 8).foldl (fun s p => s.wf .lnkPMasqCtrl 2 0 0 p) s else s
    ((s1.wf .sysMode 5 3 s.mode).wf .sysMode 2 0 m).raise 784 domCentral

/-- Beams that run. -/
def State.runningBeams (s : State) : List Nat := (List.range 16).filter (fun n => s.rb .beamStatus 0 n)

/-- At least one beam runs and every running beam is in Vigil (R57, R382). -/
def State.allVigil (s : State) : Bool :=
  !s.runningBeams.isEmpty && s.runningBeams.all (fun n => s.rb .beamStatus 1 n)

/-- Service and Vigil follow the beams (R382). -/
def State.followVigil (s : State) : State :=
  if s.mode = 2 && s.allVigil then s.setMode 3 else if s.mode = 3 && !s.allVigil then s.setMode 2 else s

/-- A host memory address held in a pair of registers. -/
def State.addr64 (s : State) (lo hi : RegName) (i : Nat := 0) : Nat := (s.rd lo i).toNat + (s.rd hi i).toNat * 2 ^ 32

/-- The ceiling of the poll interval in force, in 250 ns (R57). -/
def State.pollCeiling (s : State) : Nat :=
  let c := if s.allVigil then s.rf .hstPollCeil1 25 16
    else match s.rf .pwrStatus 1 0 with
      | 0 => s.rf .hstPollCeil0 9 0
      | 1 => s.rf .hstPollCeil0 25 16
      | _ => s.rf .hstPollCeil1 9 0
  max (s.rf .hstPoll 9 0) c

/-- Records in a ring of 2^k entries, from two indices of k + 1 bits (R18, R52). -/
def ringCount (k pi ci : Nat) : Nat := (pi + (2 ^ (k + 1) - ci)) % 2 ^ (k + 1)

/-- A completion ring is full (R67). -/
def State.cqFull (s : State) (c : Nat) : Bool :=
  let k := s.rf .hstCqCtrl 5 1 c
  2 ^ k ≤ ringCount k (s.rf .hstCqStatus 16 0 c) (vget s.hst.cqCi c 0)

/-- FULL of a completion ring's status, after an index has changed. -/
def State.cqFullBit (s : State) (c : Nat) : State := s.wb .hstCqStatus 18 (s.cqFull c) c

/-- The bytes of a completion record. -/
def cplBytes (ring : Nat) (phase : Bool) (x : Cpl) : List Byte :=
  [BitVec.ofNat 8 x.status, BitVec.ofNat 8 phase.toNat, BitVec.ofNat 8 ring, BitVec.ofNat 8 x.op] ++
    bytesLE 4 x.tag.toNat ++ bytesLE 4 x.index ++ bytesLE 4 x.info.toNat ++ bytesLE 8 x.stamp.toNat ++
    bytesLE 8 x.info2.toNat

/-- The producer index one further, and PHASE inverted on each wrap (R67). -/
def State.advancePi (s : State) (st : RegName) (c k : Nat) : State :=
  let p := (s.rf st 16 0 c + 1) % 2 ^ (k + 1)
  let s1 := s.wf st 16 0 p c
  if p % 2 ^ k = 0 then s1.wb st 17 (!s.rb st 17 c) c else s1

/-- Write a completion record to completion ring c, which has room: or count it lost when the ring is not enabled or
Bus Master Enable is clear (R73). -/
def State.writeCpl (s : State) (ring c : Nat) (x : Cpl) : State :=
  if !s.rb .hstCqCtrl 0 c || !s.pci.busMaster then s.bump .hstLost
  else
    let k := s.rf .hstCqCtrl 5 1 c
    let p := s.rf .hstCqStatus 16 0 c
    let a := s.addr64 .hstCqBaseLo .hstCqBaseHi c + p % 2 ^ k * 32
    let s1 := s.emit (.hostWrite (BitVec.ofNat 64 a) (cplBytes ring (s.rb .hstCqStatus 17 c) x))
    ((s1.advancePi .hstCqStatus c k).cqFullBit c).raise (256 + c) 2

/-- A command ring by its number. -/
def State.ring (s : State) (r : Nat) : Ring := vget s.hst.rings r {}

/-- The state with a ring replaced. -/
def State.setRing (s : State) (r : Nat) (x : Ring) : State :=
  { s with hst := { s.hst with rings := vset s.hst.rings r x } }

/-- A draining ring whose last completion is posted enters Idle (R71). -/
def State.settleRing (s : State) (r : Nat) : State :=
  let g := s.ring r
  if s.rf .hstCrStatus 18 17 r = 2 && g.begun.isEmpty && g.waiting.isEmpty then s.wf .hstCrStatus 18 17 0 r else s

/-- The completion of descriptor `index` is posted or, with a completion ring that is full, waits (R67). -/
def State.postCpl (s : State) (r : Nat) (x : Cpl) : State :=
  let g := s.ring r
  if !g.waiting.isEmpty || (s.rb .hstCqCtrl 0 g.cq && s.pci.busMaster && s.cqFull g.cq) then
    (s.setRing r { g with waiting := g.waiting ++ [x] }).wb .hstCrStatus 21 true r
  else
    let s1 := s.setRing r { g with begun := g.begun.erase x.index }
    (s1.writeCpl r g.cq x).settleRing r

/-- Completions of a ring that waited are posted while there is room. -/
def State.flushRing : Nat → State → Nat → State
  | 0, s, _ => s
  | n + 1, s, r =>
    let g := s.ring r
    match g.waiting with
    | [] => s.wb .hstCrStatus 21 false r
    | x :: t =>
      if s.rb .hstCqCtrl 0 g.cq && s.pci.busMaster && s.cqFull g.cq then s
      else
        let s1 := s.setRing r { g with waiting := t, begun := g.begun.erase x.index, cqWaitPosted := false }
        State.flushRing n ((s1.writeCpl r g.cq x).settleRing r) r

/-- Opcode, NOCOMP, FENCE and TAG of a descriptor (R59). -/
def descOp (d : List Byte) : Nat := (d.getD 0 0).toNat
def descNocomp (d : List Byte) : Bool := nbit (d.getD 1 0).toNat 0
def descFence (d : List Byte) : Bool := nbit (d.getD 1 0).toNat 1
/-- A little-endian field of n bytes at a byte offset. -/
def descField (d : List Byte) (at_ n : Nat) : Nat := leNat ((d.drop at_).take n)

/-- A HOST_WRITE that holds its ring completes once every earlier descriptor has completed (R60, R64). DESIGN CHOICE (log
108): while Bus Master Enable is clear its write is not made, and it completes OK. -/
def State.settleHw (s : State) (r : Nat) : State :=
  let g := s.ring r
  match g.hold with
  | some (.hostWrite i d) =>
    if g.begun.all (· == i) && g.waiting.isEmpty then
      let s1 := (s.setRing r { g with hold := none }).putHost (descField d 8 8) ((d.drop 16).take 8)
      let (v, s2) := s1.stamp 2
      if descNocomp d then
        (s2.setRing r { s2.ring r with begun := (s2.ring r).begun.erase i }).settleRing r
      else s2.postCpl r ⟨0, descOp d, BitVec.ofNat 32 (descField d 4 4), i, 0, 0, v⟩
    else s
  | _ => s

/-- A descriptor of ring r completes: a record unless NOCOMP is set and the status is OK (R59). -/
def State.finishNow (s : State) (r index : Nat) (hdr : List Byte) (status info info2 : Nat) (stamp : Word64) : State :=
  if descNocomp hdr && status = 0 then
    let g := s.ring r
    (s.setRing r { g with begun := g.begun.erase index }).settleRing r
  else s.postCpl r ⟨status, descOp hdr, BitVec.ofNat 32 (descField hdr 4 4), index, BitVec.ofNat 32 info,
    BitVec.ofNat 64 info2, stamp⟩

/-- Completions that waited on a full completion ring are posted while there is room, and a HOST_WRITE behind them. -/
def State.flushWaiting (s : State) (r : Nat) : State := (State.flushRing (s.ring r).waiting.length.succ s r).settleHw r

/-- A descriptor completes, and a HOST_WRITE that waited for it. -/
def State.finishAt (s : State) (r index : Nat) (hdr : List Byte) (status info info2 : Nat) (stamp : Word64) : State :=
  (s.finishNow r index hdr status info info2 stamp).settleHw r

/-- A descriptor completes now. -/
def State.finish (s : State) (r index : Nat) (hdr : List Byte) (status info info2 : Nat) : State :=
  let (v, s1) := s.stamp 2
  s1.finishAt r index hdr status info info2 v

/-- An event record (R68): lost while the ring is not enabled or Bus Master Enable is clear, and discarded with OVR
when the ring is full. -/
def State.postEvent (s : State) (type ring info addr : Nat) : State :=
  let k := s.rf .hstEqCtrl 5 1
  if !s.rb .hstEqCtrl 0 || !s.pci.busMaster then s.bump .hstLost
  else if 2 ^ k ≤ ringCount k (s.rf .hstEqStatus 16 0) s.hst.eqCi then s.wb .hstEqStatus 19 true
  else
    let (v, s0) := s.stamp 2
    let p := s0.rf .hstEqStatus 16 0
    let a := s0.addr64 .hstEqBaseLo .hstEqBaseHi + p % 2 ^ k * 32
    let bytes := [BitVec.ofNat 8 type, BitVec.ofNat 8 (s0.rb .hstEqStatus 17).toNat, BitVec.ofNat 8 ring, 0] ++
      bytesLE 4 info ++ bytesLE 8 v.toNat ++ bytesLE 8 addr ++ bytesLE 8 0
    let s1 := (s0.emit (.hostWrite (BitVec.ofNat 64 a) bytes)).advancePi .hstEqStatus 0 k
    (s1.wb .hstEqStatus 18 (2 ^ k ≤ ringCount k (s1.rf .hstEqStatus 16 0) s1.hst.eqCi)).raise 320 2

end Sys2Proof.Machine
end

