-- ==== Sys2Proof/Machine/Rails.lean ====
section
/-! DEFINITION. The voltage that a rail group needs, and its writes to the regulator (spec 18 R367 to R371). -/

namespace Sys2Proof.Machine

/-- The rail group of estimator i, which belongs to clock domain i + 1 (R358, R367). -/
def islandGroup (i : Nat) : Nat :=
  if 3 ≤ i ∧ i < 11 then 0 else if 11 ≤ i ∧ i < 19 then 1 else if i < 3 ∨ i = 19 ∨ i = 20 ∨ i = 34 then 2 else 3

/-- The clock in Hz of the island of estimator i while it runs, or none (R368): no island runs in Reset, and in Sleep only
the PCIe controller and the host fabric until a wake restarts the clocks (R383, R384). The clock of a beam is the higher of
its emission and its committed clock, so that the rail rises first (R369). -/
def State.islandHz (s : State) (i : Nat) : Option Nat :=
  if s.mode = 0 ∨ (s.mode = 4 ∧ 2 ≤ i ∧ !s.sys.waking) then none
  else if 3 ≤ i ∧ i < 19 then
    let n := i - 3
    let b := s.beam n
    if b.run = .stopped then none
    else some (max (b.cf .beamClk 30 0 n) (fld ((kvGet (addrOf .beamClk n 0 0) b.em).getD 0) 30 0))
  else if 21 ≤ i ∧ i < 29 then
    let p := i - 21
    if s.rf .lnkPStatus 2 0 p = 0 then none
    else some ([218750000, 218750000, 437500000, 875000000].getD (s.rf .lnkPStatus 4 3 p) 218750000)
  else if i = 29 then (if s.rb .audCtrl 0 then some 491520000 else none)
  else if 30 ≤ i ∧ i < 34 then (if s.rb .audTdmCtrl 0 (i - 30) then some 49152000 else none)
  else if i = 19 ∨ i = 20 then some 1200000000
  else if i = 37 then some 100000000
  else some 1000000000

/-- bin(f) of R368. -/
def voltBin (f : Nat) : Nat := min 7 (ceilDiv f 150000000 - 1)

/-- V[k], GUARD and BAND of a plan in the staging layout. -/
def planV (w : List Word) (k : Nat) : Nat :=
  let x := w.getD (2 + k / 2) 0
  if k % 2 = 0 then fld x 9 0 else fld x 25 16
def planGuard (w : List Word) : Nat := fld (w.getD 1 0) 9 4
def planBand (w : List Word) : Nat := fld (w.getD 1 0) 3 2

/-- The live plan of a group. -/
def State.livePlan (s : State) (g : Nat) : List Word := (List.range 6).map (fun k => s.rd .pwrLive g k)

/-- The pair index of bands m < a in the Droop Allowance Table (R371). -/
def bandPair (m a : Nat) : Nat := if m = 0 then a - 1 else if m = 1 then a + 1 else 5

/-- MV of the table entry for a group and two bands; 255 is no entry. -/
def State.droopEntry (s : State) (g m a : Nat) : Nat := s.rf .pwrDat 7 0 g (bandPair m a)

/-- The droop guard of a group now (R368). -/
def State.droop (s : State) (g : Nat) : Nat :=
  let m := planBand (s.livePlan g)
  let a := s.rf .pwrRailStatus 11 10 g
  if m < a ∧ s.droopEntry g m a ≠ 255 then s.droopEntry g m a else 0

/-- VREQ of a group in mV (R368); at most 850 mV where no island runs too, as R366 bounds what is sent (log entry 116). -/
def State.vreq (s : State) (g : Nat) : Nat :=
  let w := s.livePlan g
  let hz := ((List.range 38).filter (fun i => islandGroup i == g)).filterMap s.islandHz
  if hz.isEmpty then min 850 (planV w 0 + planGuard w + s.droop g)
  else
    let v := (hz.map (fun f => planV w (voltBin f))).foldl max 0
    min 850 (ceilDiv (v + planGuard w + s.droop g) 5 * 5)

/-- The AVSBus side of a group, and the state with it replaced. -/
def State.rail (s : State) (g : Nat) : Rail := vget s.pwr.rails g {}
def State.setRail (s : State) (g : Nat) (x : Rail) : State :=
  { s with pwr := { s.pwr with rails := vset s.pwr.rails g x } }

/-- The AVSBus transaction of a group that is under way: the voltage write, the Status read that follows it until VDone, or
a voltage read-back (R367). -/
def State.avsIssue (s : State) (g : Nat) : State :=
  let rail := s.rf .pwrRailCfg 3 0 g
  let clk := s.rf .pwrRailCfg 5 4 g
  let r := s.rail g
  s.emit (if r.ready then .avsRead g rail clk else if r.reading then .avsStatus g rail clk
    else .avsWrite g (s.rf .pwrRailStatus 25 16 g) rail clk)

/-- A voltage write to a group's regulator; VDone is awaited again (R367). -/
def State.avsSend (s : State) (g mv : Nat) : State :=
  ((s.wf .pwrRailStatus 25 16 mv g).setRail g { s.rail g with ready := false, reading := false }).avsIssue g

/-- A group's requirement is shown, and a changed value is sent (R367, R368). -/
def State.railSettle (s : State) (g : Nat) : State :=
  let v := s.vreq g
  let s1 := s.wf .pwrRailStatus 9 0 v g
  let mv := max v (s1.rf .pwrRailCtrl 9 0 g)
  if mv = s1.rf .pwrRailStatus 25 16 g then s1 else s1.avsSend g mv

/-- A group's regulator reports VDone: a slew that waited for it begins (R369). -/
def State.railDone (s : State) (g : Nat) : State :=
  let s1 := s.setRail g { s.rail g with ready := true, reading := false }
  (List.range 8).foldl (fun s k =>
    let b := s.beam (8 * g + k)
    if g < 2 ∧ b.slewWait then s.setBeam (8 * g + k) { b with slewWait := false, slewAt := s.now } else s) s1

/-- Every group's requirement is brought up to date; not while the device is held in Reset. -/
def State.railsSettle (s : State) : State :=
  if s.mode = 0 then s else (List.range 4).foldl (fun s g => s.railSettle g) s

end Sys2Proof.Machine
end

