-- ==== Sys2Proof/Machine/Valid.lean ====
section
/-! DEFINITION. Which words a register accepts (R5, R79, R110, R129 and the Meaning columns of the field maps): reserved
bits are zero and every field holds a value its field map calls valid. Conditions on other state are in Bus.lean. -/

namespace Sys2Proof.Machine

/-- Bits of a register that are in no field of its map are reserved (R5). -/
def reservedBits (r : RegName) (w : Word) : Bool :=
  let m := rowOf r
  w.toNat &&& (2 ^ 32 - 1 - (m.rw ||| m.ro ||| m.wo ||| m.w1c ||| m.w1s ||| m.rws)) != 0

/-- A number lies in a closed range. -/
def inR (lo hi v : Nat) : Bool := lo ≤ v && v ≤ hi

/-- A target code of the event controller: a core, or a vector (R328). -/
def targetOk (t : Nat) : Bool := t < 20 || 256 ≤ t

/-- An OAT word: reserved bits and values (R128, R129). -/
def oatWordOk (j : Nat) (w : Word) : Bool :=
  if j = 0 then fld w 31 22 == 0 && fld w 10 8 ≤ 5
  else if j = 2 then fld w 15 10 == 0 && fld w 31 26 == 0
  else if j = 3 then fld w 31 30 == 0 && fld w 29 0 < 0x30000000
  else if j = 4 then fld w 31 24 == 0 && fld w 15 0 != 0
  else if j = 5 then fld w 15 13 == 0 && fld w 31 28 == 0
  else if j = 6 then fld w 15 14 == 0 && fld w 31 30 == 0
  else true

/-- A Transform Table word (R132). -/
def ttWordOk (j : Nat) (w : Word) : Bool := if j = 4 then fld w 31 4 == 0 else if 5 ≤ j then w == 0 else true

/-- A window register pair's fields (R120). -/
def winXOk (w : Word) : Bool := fld w 14 0 ≤ 16384 && fld w 30 16 ≤ 16384
def winYOk (w : Word) : Bool := fld w 13 0 ≤ 8192 && fld w 29 16 ≤ 8192

/-- A ladder step whose fields fit its action (R179). -/
def ladderOk (w : Word) : Bool :=
  let act := fld w 5 4
  if act = 0 then fld w 3 0 == 0 && fld w 28 16 == 0
  else if act = 3 then fld w 3 0 == 0 && inR 1 4096 (fld w 28 16)
  else fld w 3 0 != 15 && fld w 28 16 == 0

/-- The INDEX of BEAM_GENLOCK fits SRC (R94). -/
def genlockOk (w : Word) : Bool :=
  let ix := fld w 9 4
  let src := fld w 2 0
  src ≤ 3 && (if src = 1 then ix < 16 else if src = 2 then ix < 8 else true) && inR 1 1000 (fld w 25 16)

/-- Number of ports in a set. -/
def popCount (n w : Nat) : Nat := ((List.range n).filter (nbit w)).length

/-- A route entry (R266). -/
def routeOk (w : Word) : Bool :=
  let a := fld w 7 0
  let b := fld w 15 8
  popCount 8 a ≤ 4 && popCount 8 b ≤ 4 && a &&& b == 0 && !(a == 0 && b != 0)

/-- GPIO_Pp_CTRL: FUNC, SEL and DIR fit one another (R348). -/
def padCtrlOk (w : Word) : Bool :=
  let f := fld w 3 0
  let sel := fld w 9 4
  f ≤ 6 && (if f ≤ 3 then sel == 0 else if f ≤ 5 then sel < 16 else true) && (f == 0 || !bit w 10) && fld w 13 12 != 3

/-- AUD_CLK: INDEX fits SRC (R273). -/
def audClkOk (w : Word) : Bool :=
  let ix := fld w 7 2
  let src := fld w 1 0
  if src = 1 then ix < 16 else if src = 3 then ix < 4 else true

/-- LNK_Pp_MASQ_CTRL: ACTION, and ARG in the action's range (R270). -/
def masqOk (w : Word) : Bool :=
  let a := fld w 2 0
  let g := fld w 15 8
  a ≤ 4 && (if a = 3 then inR 1 30 g else if a = 4 then inR 1 7 g else true)

/-- LNK_Pp_MASQ_PERIOD: PERIOD in the range that RANDOM gives it (R271). -/
def masqPeriodOk (random : Bool) (w : Word) : Bool := if random then fld w 23 0 ≤ 24 else fld w 23 0 != 0

/-- The fields of a register hold valid values. -/
def valuesOk (r : RegName) (j : Nat) (w : Word) : Bool :=
  match r with
  | .hstPoll => inR 1 400 (fld w 9 0)
  | .hstPollCeil0 => inR 1 400 (fld w 9 0) && inR 1 400 (fld w 25 16)
  | .hstPollCeil1 => inR 1 400 (fld w 9 0) && inR 1 400 (fld w 25 16)
  | .hstBar2Offset => fld w 5 0 < 48
  | .hstCrCtrl => inR 6 16 (fld w 5 1)
  | .hstCqCtrl => inR 6 16 (fld w 5 1)
  | .hstEqCtrl => inR 6 16 (fld w 5 1)
  | .sysPsScrub => fld w 7 0 != 0 && fld w 23 8 != 0
  | .sysPsCache => fld w 4 0 ≤ 16
  | .sysPsInjectHi => fld w 3 0 < 12
  | .sysPsRes => fld w 8 0 ≤ 256
  | .beamClk => inR 50000000 1200000000 (fld w 30 0)
  | .beamActive => inR 64 16384 (fld w 15 0) && fld w 15 0 % 2 == 0 && inR 1 8192 (fld w 29 16)
  | .beamTotal => inR 128 32768 (fld w 15 0) && fld w 15 0 % 2 == 0 && inR 2 16384 (fld w 30 16)
  | .beamHsync => fld w 27 16 != 0
  | .beamVsync => fld w 23 16 != 0
  | .beamCalends => fld w 7 0 != 0
  | .beamGenlock => genlockOk w
  | .beamGenlockWin => fld w 15 0 != 0
  | .beamVigil => fld w 15 8 != 0
  | .tmapCtrl => fld w 2 1 ≤ 2 && fld w 5 3 ≤ 5
  | .tmapMapBase => fld w 23 0 < 0xC00000
  | .tmapTileBase => fld w 23 0 < 0xC00000
  | .tmapMapSize => fld w 4 0 ≤ 16 && fld w 12 8 ≤ 16
  | .tmapWinX => winXOk w
  | .tmapWinY => winYOk w
  | .objWinX => winXOk w
  | .objWinY => winYOk w
  | .objSpanLimit => inR 1 4096 (fld w 12 0)
  | .bmpCtrl => fld w 4 1 ≤ 12 && fld w 8 5 ≤ 7
  | .bmpBaseY => fld w 27 0 < 0xC000000
  | .bmpBaseC => fld w 27 0 < 0xC000000
  | .bmpPitch => fld w 11 0 != 0 && fld w 27 16 != 0
  | .bmpWinX => winXOk w
  | .bmpWinY => winYOk w
  | .bmpImp => fld w 11 8 != 0 && inR 4 8192 (fld w 26 13)
  | .cmpCtrl => fld w 2 1 ≤ 2 && fld w 5 3 ≤ 5
  | .cmpOrder0 => (List.range 8).all (fun p => fld w (4 * p + 3) (4 * p) != 15)
  | .cmpOrder1 => (List.range 7).all (fun p => fld w (4 * p + 3) (4 * p) != 15)
  | .cmpLadder => ladderOk w
  | .cmpWbCtrl => fld w 2 1 ≤ 2
  | .cmpWbBase => fld w 27 0 < 0xC000000
  | .cmpWbPitch => fld w 11 0 != 0
  | .cmpWbRec => fld w 27 0 < 0xC000000
  | .lpRaCtrl => fld w 14 0 != 1 && fld w 14 0 ≤ 16384
  | .oat => oatWordOk j w
  | .tt => ttWordOk j w
  | .lnkRoute => routeOk w
  | .lnkPCtrl => fld w 3 1 != 0 && fld w 7 4 != 0 && fld w 23 16 != 0
  | .lnkPAudio => fld w 5 0 ≤ 32
  | .lnkPMasqCtrl => masqOk w
  | .audCtrl => fld w 15 8 != 0
  | .audClk => audClkOk w
  | .audClkSpf => fld w 16 0 != 0
  | .audTdmCtrl => fld w 6 5 != 3 && (!bit w 7 || fld w 4 1 == 1)
  | .audBusComp => fld w 15 8 == 0 || inR 4 80 (fld w 15 8)
  | .audBusThresh => inR 1 0x7FFFFFFF w.toNat
  | .audBusTime => w.toNat ≤ 0x7FFFFFFF
  | .audBusDlyBase => fld w 29 0 < 0x30000000
  | .audBusDlyLen => fld w 17 0 % 16 == 0 && fld w 17 0 ≤ 192000
  | .audXp => fld w 10 0 < 1088
  | .audV0 => (fld w 3 0 ≤ 5) && (fld w 3 0 == 5 || fld w 7 5 == 0) &&
      (if fld w 3 0 = 4 then inR 5 12 (fld w 11 8) else fld w 11 8 == 0)
  | .audV1 => fld w 29 0 < 0x30000000
  | .audV4 => inR 0x2000 0x80000 (fld w 19 0)
  | .bltStageBase => fld w 19 0 < 0xC0000
  | .bltStageSize => fld w 15 0 % 4 == 0
  | .evtCoreCtrl => targetOk (fld w 8 0)
  | .evtSrcCfg => targetOk (fld w 14 6)
  | .tmrCapCtrl => fld w 9 0 != 1023
  | .tmrItReload => 64 ≤ w.toNat
  | .tmrItLoad => w != 0
  | .gpioPCtrl => padCtrlOk w
  | .gpioPIn => fld w 2 0 ≤ 5
  | .pwrLedger => fld w 1 0 != 3
  | .pwrCfg => inR 10 1000 (fld w 9 0) && fld w 23 16 != 0
  | .pwrCap => fld w 7 0 < fld w 15 8 && fld w 15 8 ≤ 160 && fld w 23 16 < fld w 7 0
  | .pwrTherm => fld w 7 0 < fld w 15 8 && fld w 15 8 ≤ 105 && inR 1 10 (fld w 23 16)
  | .pwrBeamMin => fld w 3 0 ≤ 8 && fld w 7 4 ≤ 8
  | .pwrBeamTgt => fld w 3 0 ≤ 8
  | .pwrRailCfg => fld w 5 4 != 3
  | .pwrRailCtrl => fld w 9 0 == 0 || inR 650 850 (fld w 9 0)
  | .pwrPlanW1 => fld w 9 4 ≤ 50
  | .pwrDat => fld w 7 0 ≤ 250 || fld w 7 0 == 255
  | .pwrPmbCtrl => fld w 18 16 ≤ 4
  | .almCtrl => inR 1 3600 (fld w 15 4)
  | .almLeap => inR 10 1000 (fld w 9 0)
  | .bistCtrl => inR 5 200 (fld w 15 8)
  | .bistRepairCtrl => fld w 1 0 != 3
  | .sysModeReq => fld w 2 0 == 2 || fld w 2 0 == 4 || fld w 2 0 == 5
  | .sysLcCmd => inR 1 7 (fld w 3 0)
  | _ => true

/-- A word carries no reserved field value for the register (R5). -/
def wordOk (r : RegName) (j : Nat) (w : Word) : Bool := !reservedBits r w && valuesOk r j w

end Sys2Proof.Machine
end

