-- ==== Sys2Proof/Machine/RunAhead.lean ====
section
/-! DEFINITION. Line run-ahead, line-scheduled writes and squash (spec 10 R186 to R203), with the base and per-line
values of R119 and R124. -/

namespace Sys2Proof.Machine

/-- The first address of beam n's region (R20). -/
def beamBase (n : Nat) : Nat := 0x100000 * (n + 1)

/-- A mask over bits hi to lo. -/
def maskOf (hi lo : Nat) : Word := BitVec.ofNat 32 ((2 ^ (hi + 1 - lo) - 1) * 2 ^ lo)

/-- The line-scheduled fields of a register, as masks (R123, R136, R156, R184; palette entry words); none for a register
that is no target. -/
def lsFields : RegName → Option (List Word)
  | .tmapScroll => some [maskOf 24 4, maskOf 3 0]
  | .tmapPal => some [maskOf 5 0]
  | .tmapMosaic => some [maskOf 3 0, maskOf 11 8]
  | .tmapWinX => some [maskOf 14 0, maskOf 30 16]
  | .tmapWinY => some [maskOf 13 0, maskOf 29 16, maskOf 31 31]
  | .tmapAffO => some [maskOf 31 0]
  | .tmapAffD => some [maskOf 31 0]
  | .paletteLow => some [maskOf 15 0, maskOf 31 16]
  | .paletteHigh => some [maskOf 15 0, maskOf 31 16]
  | .objOfsX => some [maskOf 15 0]
  | .objPal => some [maskOf 5 0]
  | .objAlpha => some [maskOf 11 0]
  | .objWinX => some [maskOf 14 0, maskOf 30 16]
  | .objWinY => some [maskOf 13 0, maskOf 29 16, maskOf 31 31]
  | .bmpSrc => some [maskOf 13 0, maskOf 28 16]
  | .bmpPos => some [maskOf 15 0, maskOf 31 16]
  | .bmpAlpha => some [maskOf 11 0]
  | .bmpWinX => some [maskOf 14 0, maskOf 30 16]
  | .bmpWinY => some [maskOf 13 0, maskOf 29 16, maskOf 31 31]
  | .cmpBgRg => some [maskOf 11 0, maskOf 27 16]
  | .cmpBgB => some [maskOf 11 0]
  | .cmpBlend => some [maskOf 27 16]
  | _ => none

/-- The field masks of the target word that a beam-region address names, with its register index j. -/
def lsTarget (a : Nat) : Option (RegName × Nat × List Word) :=
  match regAt a with
  | some (r, _, j, _) => (lsFields r).map (fun m => (r, j, m))
  | none => none

/-- The layout of an entry (R189): VALUE, MASK, OFFSET (as a byte offset), FRAME and LINE. -/
def entryOff (e : Rec4) : Nat := fld e.w2 19 2 * 4
def entryLine (e : Rec4) : Nat := fld e.w3 13 0
def entryFrame (e : Rec4) : Nat := fld e.w3 23 16

/-- A field lies wholly in the mask or wholly outside it, and every mask bit lies in a field. -/
def maskFits (mask : Word) (fs : List Word) : Bool :=
  fs.all (fun f => mask &&& f == 0 || mask &&& f == f) && fs.foldl (fun a f => a ||| f) 0 ||| mask == fs.foldl (fun a f => a ||| f) 0

/-- The checks of R190 in order, for beam n with `lines` active lines: 0, or the REASON of the first that fails. -/
def entryReason (n lines : Nat) (e : Rec4) : Nat :=
  if fld e.w2 1 0 ≠ 0 ∨ fld e.w2 31 20 ≠ 0 ∨ fld e.w3 15 14 ≠ 0 ∨ fld e.w3 31 24 ≠ 0 ∨ e.w1 = 0 then 1
  else match lsTarget (beamBase n + entryOff e) with
    | none => 2
    | some (r, j, fs) =>
      if !maskFits e.w1 fs then 3
      else if !valuesOk r j (e.w0 &&& e.w1) then 4
      else if lines ≤ entryLine e then 5
      else 0

/-- Active columns and lines of the image. -/
def Beam.cols (b : Beam) (n : Nat) : Nat := b.cf .beamActive 15 0 n
def Beam.lines (b : Beam) (n : Nat) : Nat := b.cf .beamActive 29 16 n

/-- Slots of the window (R187). -/
def Beam.slotsN (b : Beam) (n : Nat) : Nat := 1048576 / b.cols n

/-- Lines held (R186). -/
def Beam.heldLines (b : Beam) : Nat := (b.slots.filter (·.held)).length

/-- Slots in use: current versions, complete or still due, and superseded versions. -/
def Beam.slotsUsed (b : Beam) : Nat :=
  (b.slots.filter (fun x => x.held && (x.cur.isSome || b.dl ≤ x.line))).length + (b.slots.filter (·.sup.isSome)).length

/-- The lead limit (R187). -/
def Beam.leadLimit (b : Beam) (n : Nat) (ctrl : Word) : Nat :=
  let m := fld ctrl 14 0
  if m ≠ 0 ∧ m < b.slotsN n then m else b.slotsN n

/-- One write applied to the values in effect (R189). -/
def applyEntry (n : Nat) (live : RegFile) (eff : RegFile) (e : LqEntry) : RegFile :=
  let a := beamBase n + e.off
  let w := effAt live eff a
  kvSet a ((w &&& ~~~ e.mask) ||| (e.value &&& e.mask)) eff

/-- The entries of frame Fg that name a line up to L. -/
def Beam.entriesTo (b : Beam) (l : Nat) : List LqEntry := b.queue.filter (fun e => e.frame == b.fg && e.line ≤ l)

/-- The values in effect for line L (R124, R193): the line base, then the entries that name lines up to L. -/
def Beam.effFor (b : Beam) (n l : Nat) : RegFile := (b.entriesTo l).foldl (applyEntry n b.live) b.lineBase

/-- A write of an origin component of layer t names the line (R119). -/
def Beam.originSet (b : Beam) (n l t k : Nat) : Bool :=
  b.queue.any (fun e => e.frame == b.fg && e.line == l && beamBase n + e.off == addrOf .tmapAffO n t k)

/-- One origin component of line l from that of the line before (R119). -/
def Beam.originComp (b : Beam) (n l t k : Nat) (prev : Int) : Int :=
  let now := b.effFor n l
  if l = 0 ∨ b.originSet n l t k then sx 32 (effAt b.live now (addrOf .tmapAffO n t k)).toNat * 256
  else prev + sx 32 (effAt b.live (b.effFor n (l - 1)) (addrOf .tmapAffD n t (2 + k))).toNat

/-- The origins of the layers on line l. -/
def Beam.originLine (b : Beam) (n l : Nat) (prev : List (Int × Int)) : List (Int × Int) :=
  (List.range 8).map (fun t =>
    let p := prev.getD t (0, 0)
    (b.originComp n l t 0 p.1, b.originComp n l t 1 p.2))

/-- Origins known up to line l. -/
def Beam.extendOrigins (b : Beam) (n l : Nat) : Beam :=
  (List.range (l + 1 - b.origins.length)).foldl (fun b _ =>
    { b with origins := b.origins ++ [b.originLine n b.origins.length (b.origins.getLast?.getD [])] }) b

/-- An entry enters the queue after every entry that names the same or an earlier line (R191). -/
def lqInsert (x : LqEntry) : List LqEntry → List LqEntry
  | [] => [x]
  | a :: t => if x.frame < a.frame ∨ (x.frame = a.frame ∧ x.line < a.line) then x :: a :: t else a :: lqInsert x t

/-- An entry of the queue from its words, for a frame and a line. -/
def lqOf (e : Rec4) (frame line : Nat) : LqEntry := ⟨e.w0, e.w1, entryOff e, frame, line, false⟩

/-- Bump a run-ahead counter: 0 squashes, 1 squashed, 2 late, 3 superseded, 4 repeated, 5 idle, 6 rejects, 7 drops. -/
def State.raCount (s : State) (n k : Nat) : State := s.bump .lpRaCount n k

/-- The line and frame that a late entry is relabelled to (R198). -/
def Beam.lateTarget (b : Beam) (n : Nat) : Nat × Nat :=
  if b.generating ∧ b.nextGen < b.lines n then (b.fg, b.nextGen) else (b.fg + 1, 0)

/-- A late entry (R198): relabelled, counted, recorded. -/
def State.lateEntry (s : State) (n : Nat) (e : LqEntry) : State :=
  let b := s.beam n
  let (f, l) := b.lateTarget n
  let s1 := s.setBeam n { b with queue := lqInsert { e with frame := f, line := l, applied := false } b.queue }
  let rec_ := BitVec.ofNat 32 (e.line + l * 2 ^ 16 + 2 ^ 31)
  ((s1.raCount n 2).wr .lpLsqLateLast rec_ n).raise (16 * n + 8) (domBeam n)

/-- A rejected entry (R190). -/
def State.rejectEntry (s : State) (n off reason : Nat) : State :=
  let w := BitVec.ofNat 32 (off % 2 ^ 20 + reason * 2 ^ 20 + 2 ^ 31)
  ((s.wr .lpLsqReject w n).raCount n 6).raise (16 * n + 10) (domBeam n)

/-- No read window is open for the line in progress or the next one. -/
def Beam.closeWindows (b : Beam) : Beam := { b with window := none, objWindow := none, nextObj := none }

/-- What a squash at line `l` does to a window line from there on: its complete current version becomes the superseded one,
and the line is no longer held; a line before the restart line has been copied for emission and stays held (R194, R195). -/
def squashSlot (l restart : Nat) (x : Slot) : Option Slot :=
  if x.line < l then some x
  else
    let held := x.held && x.line < restart
    match x.cur with
    | some v => some { x with held := held, cur := none, sup := some v }
    | none => if x.sup.isSome || held then some { x with held := held } else none

/-- Current versions that a squash from line `from_` discards: complete ones and the one in progress. -/
def Beam.discards (b : Beam) (from_ : Nat) : Nat :=
  (b.slots.filter (fun x => from_ ≤ x.line && x.held &&
    (x.cur.isSome || (match b.gen with | some gl => gl.line == x.line | none => false)))).length

/-- The commit group of a beam (R29). -/
def State.groupOf (s : State) (n : Nat) : Nat := s.rf .sysCgMap (4 * (n % 8) + 3) (4 * (n % 8)) (n / 8)

/-- The address of an image's table word. -/
def tableAddr (key : Nat) : Option Nat :=
  let i := key % 2 ^ 32
  match key / 2 ^ 32 with
  | 0 => some (0x2000000 + 32 * i)
  | 1 => some (0x3000000 + 32 * i)
  | 2 => some (beamBase (i / 4096) + 0x80000 + 32 * (i % 4096))
  | 3 => some (beamBase (i / 4096) + 0x60000 + 32 * (i % 4096))
  | _ => none

/-- The wrong bits that a read of a table word delivers as though they were right (R103). -/
def Tables.wrong (t : Tables) (key : Nat) : List (Nat × Byte) :=
  let left := match kvGet key t.err with
    | none => []
    | some e => match rsDecode 36 e with
      | .clean => e
      | .fixed c => c.foldl addErr e
      | .uncorrectable => []
  (left.filter (fun p => p.1 < 32)).foldl addErr ((kvGet key t.off).getD [])

/-- An image as reads of its tables deliver it (R103). -/
def State.seen (s : State) (live : RegFile) : RegFile :=
  (s.tbl.err.map (·.1) ++ s.tbl.off.map (·.1)).eraseDups.foldl (fun img key =>
    match tableAddr key with
    | none => img
    | some a => (s.tbl.wrong key).foldl (fun img p =>
        let w := a + p.1 / 4 * 4
        kvSet w (rfGet img w ^^^ BitVec.ofNat 32 (p.2.toNat * 256 ^ (p.1 % 4))) img) img) live

/-- The composition of the line in progress. -/
def State.lineCtx (s : State) (n : Nat) (gl : GenLine) : LineCtx :=
  let b := s.beam n
  ⟨n, gl.line, s.seen b.live, gl.eff, s.rf .cmpLadderStatus 3 0 n, b.cols n, b.origins, b.fg⟩

/-- The band list that line l needs. -/
def Beam.bandOf (b : Beam) (l : Nat) : Option (List Nat) := (b.bands[l / 8]?).bind (·.objs)

/-- The line in progress is given up (R194, R197): its pattern reads in flight complete, and their data are discarded. How
far along the line its reads had come is open: up to a free column (log entry 99). -/
def State.dropReads (s : State) (n : Nat) : State :=
  let b := s.beam n
  match b.gen with
  | none => s
  | some gl =>
    let c := s.lineCtx n gl
    let (m, s0) := s.fresh (c.cols + 1)
    let s1 := (LineCtx.compose { c with cols := m } ((b.bandOf gl.line).getD []) (s.groupOf n) (b.window.getD 0)
      (b.objWindow.getD 0) b.imports s0).2
    (List.range 3).foldl (fun x k => x.wr .bmpImpStatus (s.rd .bmpImpStatus n k) n k) s1

/-- A squash at line L (R194): the line in progress is abandoned, current versions from L on are discarded and counted, and
generation begins again at the restart line. -/
def State.squash (s : State) (n l : Nat) : State :=
  let s0 := s.dropReads n
  let b := s0.beam n
  let r := max l b.dl
  let d := b.discards l
  let b1 := { b.closeWindows with
    gen := none, slots := b.slots.filterMap (squashSlot l r), g := r,
    restart := if r < b.lines n then some r else none, origins := b.origins.take l }
  ((s0.setBeam n b1).raCount n 0).bump .lpRaCount n 1 0 d

/-- An entry that reaches the queue (R190, R192). -/
def State.lsqArrive (s : State) (n : Nat) (e : Rec4) : State :=
  let b := s.beam n
  if b.run = .stopped then s.raCount n 7
  else
    let why := entryReason n (b.lines n) e
    if why ≠ 0 then s.rejectEntry n (entryOff e) why
    else
      let d := (entryFrame e + (256 - b.fg % 256)) % 256
      let l := entryLine e
      if 128 ≤ d then s.lateEntry n (lqOf e (b.fg + d) l)
      else if d = 0 ∧ l < b.emitted then s.lateEntry n (lqOf e b.fg l)
      else
        let s1 := s.setBeam n { b with queue := lqInsert (lqOf e (b.fg + d) l) b.queue }
        if d = 0 ∧ b.generating ∧ l < b.g then s1.squash n l else s1

/-- A window slot for a line that begins: the highest-numbered superseded version gives way when none is free (R195). -/
def Beam.takeSlot (b : Beam) (n l : Nat) : Beam :=
  let sups := (b.slots.filter (fun x => x.sup.isSome)).map (·.line)
  let b1 := if b.slotsUsed < b.slotsN n then b else
    match sups.getLast? with
    | some m => { b with slots := b.slots.filterMap (fun x =>
        if x.line = m then (if x.held then some { x with sup := none } else none) else some x) }
    | none => b
  let old := b1.slots.find? (fun x => x.line == l)
  let x : Slot := ⟨l, true, none, match old with | some o => o.sup | none => none⟩
  { b1 with slots := (b1.slots.filter (fun y => y.line < l)) ++ [x] ++ b1.slots.filter (fun y => l < y.line) }

/-- A line whose band list is not complete: counted once per band (R141). -/
def State.bandLate (s : State) (n l : Nat) : State :=
  let b := s.beam n
  match b.bands[l / 8]? with
  | some x =>
    if x.objs.isNone && !x.late then
      (s.setBeam n { b with bands := b.bands.set (l / 8) { x with late := true } }).bump .objLateBands n
    else s
  | none => s

/-- Generation of line L begins (R193): entries apply, the values are fixed, the read windows open (R101). -/
def State.beginLine (s : State) (n l : Nat) : State :=
  let b := s.beam n
  let eff := b.effFor n l
  let b1 := { b with origins := b.origins.take l }.extendOrigins n l
  let len := s.store.log.length
  let b2 := { b1.takeSlot n l with
    queue := b.queue.map (fun e => if e.frame == b.fg && e.line ≤ l then { e with applied := true } else e)
    gen := some ⟨l, eff⟩, restart := none, g := l + 1
    window := some len
    objWindow := some (b.nextObj.getD len)
    nextObj := if l + 1 < b.lines n then some len else none
    imports := b.imports.map (fun ip => { ip with missing := ip.missing.filter (· ≠ l) }) }
  (s.setBeam n b2).bandLate n l

/-- The generator may begin its next line now (R187). -/
def Beam.mayBegin (b : Beam) (n : Nat) (ctrl : Word) : Bool :=
  b.run == .running && b.generating && b.gen.isNone && b.restart.isNone && b.nextGen < b.lines n &&
    b.heldLines < b.leadLimit n ctrl && (b.slotsUsed < b.slotsN n || b.slots.any (·.sup.isSome))

/-- Earlier bytes are kept while some read window is open. -/
def State.pruneLog (s : State) : State :=
  if s.windowOpen then s else { s with store := { s.store with log := [] } }

/-- The line in progress can be finished: band list complete, imported rows present or missing (R141, R159). -/
def State.lineReady (s : State) (n : Nat) (gl : GenLine) : Bool :=
  ((s.beam n).bandOf gl.line).isSome &&
    (List.range 3).all (fun k => (s.lineCtx n gl).bmpReady k (vget (s.beam n).imports k {}))

/-- A line completes (R188): its pixels and version record are in its slot, and its superseded version is released. -/
def State.completeLine (s : State) (n : Nat) (gl : GenLine) (band : List Nat) : State :=
  let b := s.beam n
  let c := s.lineCtx n gl
  let (o, s1) := c.compose band (s.groupOf n) (b.window.getD 0) (b.objWindow.getD 0) b.imports s
  let v : Version := ⟨s.rd .sysBeamEpoch n, b.plBank, c.depth, gl.eff, o.pixels, o.counted, o.shed, o.lastKeep, false⟩
  let b1 := s1.beam n
  (s1.setBeam n { b1 with
    gen := none, window := none, objWindow := none
    slots := b1.slots.map (fun x => if x.line = gl.line then { x with cur := some v, sup := none } else x)
    imports := c.useSlots b1.imports }).pruneLog

/-- Words of one beam's window: 20 parts of 8,192 rows (R396). -/
def windowWords : Nat := 20 * 8192

/-- Upsets of window words, decoded as the copy reads them (R196): whether one is uncorrectable, and whether one is
delivered wrong (R103). A window word is written anew with its line, so no mark stays behind. -/
def State.copyCheck (s : State) (n : Nat) (ups : List (Nat × List (Nat × Byte))) : Bool × Bool × State :=
  ups.foldl (fun (acc, wrong, s) u =>
    let key := 5 * 2 ^ 32 + n * windowWords + u.1
    let (bad, s1) := State.readTable { s with tbl := { s.tbl with err := kvPut [] key (u.2.foldl addErr []) s.tbl.err } } key
    (acc || bad, wrong || !(s1.tbl.wrong key).isEmpty, s1.cleanTable key)) (false, false, s)

/-- A window word delivered wrong (R103): the spec does not say which pixels a window word holds, and a word holds at most
eight, so that many from a free column on have free components (log entry 15). -/
def State.wrongPixels (s : State) (v : Version) : Version × State :=
  let (at_, s0) := s.fresh (v.pixels.length + 1)
  let (px, s1) := (List.range (min 8 (v.pixels.length - at_))).foldl (fun ((acc, s) : List OutPixel × State) _ =>
    let (a, s) := s.fresh 4096
    let (b, s) := s.fresh 4096
    let (c, s) := s.fresh 4096
    let (f, s) := s.fresh 16
    (acc ++ [⟨a, b, c, f⟩], s)) ([], s0)
  ({ v with pixels := v.pixels.take at_ ++ px ++ v.pixels.drop (at_ + px.length) }, s1)

/-- The idle item as line l's version (R17, R196). -/
def State.idleVersion (s : State) (n : Nat) : Version :=
  let b := s.beam n
  ⟨s.rd .sysBeamEpoch n, b.plBank, s.rf .cmpLadderStatus 3 0 n, b.lineBase,
    List.replicate (b.cols n) (idlePixel n (s.seen b.live) s), 0, 0, 0, false⟩

/-- The version a line is emitted from, by the order of R196; bad tells that the copy meets a bad word. -/
def State.chooseSource (s : State) (n l : Nat) (bad : Bool) : Emit :=
  let b := s.beam n
  let x := (b.slots.find? (fun x => x.line == l)).getD ⟨l, false, none, none⟩
  let repeat_ : Emit := match b.last with
    | some e => if e.src = 4 then ⟨l, 4, true, s.idleVersion n⟩ else ⟨l, 3, true, e.ver⟩
    | none => ⟨l, 4, true, s.idleVersion n⟩
  match x.cur with
  | some v => if bad || v.bad then repeat_ else ⟨l, 1, false, v⟩
  | none => match x.sup with
    | some v => if bad || v.bad then repeat_ else ⟨l, 2, true, v⟩
    | none => repeat_

/-- The line being generated, or waited for, is abandoned (R197): generation begins again at the lowest line whose
deadline has not passed. -/
def Beam.abandon (b : Beam) (n : Nat) : Beam :=
  { b.closeWindows with gen := none, g := b.dl, restart := if b.dl < b.lines n then some b.dl else none }

/-- The deadline of a line may pass: its predecessor is the line now emitting. -/
def Beam.deadlineDue (b : Beam) (n : Nat) : Bool :=
  b.run == .running && b.generating && b.dl < b.lines n && b.dl == b.emitted &&
    (b.dl != 0 || b.atStart || b.nextLine == b.curLines)

/-- The emission deadline of the next line (R196, R197). -/
def State.deadline (s : State) (n : Nat) (ups : List (Nat × List (Nat × Byte))) : State :=
  let working := match (s.beam n).gen with
    | some gl => gl.line == (s.beam n).dl
    | none => false
  let (bad, wrong, sc) := (if working then s.dropReads n else s).copyCheck n ups
  let b := sc.beam n
  let l := b.dl
  let e0 := sc.chooseSource n l bad
  let (e, s0) := if wrong && e0.src < 3 then
      let (v, s1) := sc.wrongPixels e0.ver
      ({ e0 with ver := v }, s1)
    else (e0, sc)
  let b1 := { b with dl := l + 1, copied := some e }
  let b2 := match b1.gen with
    | some gl => if gl.line = l then b1.abandon n else b1
    | none => match b1.restart with
      | some r => if r ≤ l then b1.abandon n else b1
      | none => b1
  let s1 := s0.setBeam n { b2 with lastConRaised := b2.lastConRaised || e.lc }
  let s2 := if e.src = 1 then s1 else s1.raCount n (e.src + 1)
  if e.lc && !b.lastConRaised then s2.raise (16 * n + 9) (domBeam n) else s2

/-- The held line whose deadline is to come that a window word belongs to; the spec does not say which: a free one, or
none. -/
def State.wordLine (s : State) (n : Nat) : Option Nat × State :=
  let b := s.beam n
  let held := (b.slots.filter (fun x => x.held && b.dl ≤ x.line)).map (·.line)
  let (k, s1) := s.fresh (held.length + 1)
  (held[k]?, s1)

/-- A window word found uncorrectable before its line's deadline: squash at that line (R202); the version it belongs to is
bad. -/
def State.windowUe (s : State) (n : Nat) : State :=
  match s.wordLine n with
  | (none, s1) => s1
  | (some l, s1) =>
    let b := s1.beam n
    (s1.setBeam n { b with slots := b.slots.map (fun x =>
      if x.line = l then { x with cur := x.cur.map (fun v => { v with bad := true }) } else x) }).squash n l

/-- A window word that the scrubber rewrites wrong (R103): pixels of the line it belongs to are wrong. -/
def State.windowWrong (s : State) (n : Nat) : State :=
  match s.wordLine n with
  | (none, s1) => s1
  | (some l, s1) => match ((s1.beam n).slots.find? (fun x => x.line == l)).bind (·.cur) with
    | none => s1
    | some v =>
      let (v', s2) := s1.wrongPixels v
      let b := s2.beam n
      s2.setBeam n { b with slots := b.slots.map (fun x => if x.line = l then { x with cur := some v' } else x) }

/-- TBL_SCRUB_WORD (R107, R202). -/
def execTblScrubWord (table : Fin 6) (index : Fin 2621440) (upset : List (Fin 36 × Byte)) (s : State) :
    Host.Outcome State Fault Refusal :=
  .next (
    let key := table.val * 2 ^ 32 + index.val
    let (ue, s1) := tblScrub key (upset.map (fun p => (p.1.val, p.2))) s
    if table.val ≠ 5 then s1
    else if ue then (s1.cleanTable key).windowUe (index.val / windowWords)
    else if (s1.tbl.wrong key).isEmpty then s1
    else (s1.cleanTable key).windowWrong (index.val / windowWords))

/-- LINE_GENERATION_START (R187, R193). -/
def execLineGenerationStart (n : Fin 16) (s : State) : Host.Outcome State Fault Refusal :=
  .next (
    let b := s.beam n
    if b.mayBegin n (s.rd .lpRaCtrl n) then s.beginLine n (b.nextGen) else s)

/-- LINE_COMPLETE (R188). -/
def execLineComplete (n : Fin 16) (s : State) : Host.Outcome State Fault Refusal :=
  .next (
    match (s.beam n).gen with
    | none => s
    | some gl => match (s.beam n).bandOf gl.line with
      | none => s
      | some band => if s.lineReady n gl then s.completeLine n gl band else s)

/-- LINE_DEADLINE (R196): `upset` gives the window words that the copy finds in error. -/
def execLineDeadline (n : Fin 16) (upset : List (Fin 163840 × List (Fin 36 × Byte))) (s : State) :
    Host.Outcome State Fault Refusal :=
  .next (if (s.beam n).deadlineDue n then
    s.deadline n (upset.map (fun u => (u.1.val, u.2.map (fun p => (p.1.val, p.2))))) else s)

/-- GENERATION_RESTART (R194, R197): at the restart line, or the lowest later line whose deadline has not passed. -/
def execGenerationRestart (n : Fin 16) (s : State) : Host.Outcome State Fault Refusal :=
  .next (
    let b := s.beam n
    match b.restart with
    | none => s
    | some r =>
      if b.run == .running && b.generating && max r b.dl < b.lines n then s.beginLine n (max r b.dl)
      else s.setBeam n { b with restart := none })

/-- LSQ_ENTRY_ARRIVAL (R192): the oldest entry of the crossing reaches the queue. -/
def execLsqEntryArrival (n : Fin 16) (s : State) : Host.Outcome State Fault Refusal :=
  .next (
    let b := s.beam n
    match b.crossing with
    | [] => s
    | e :: t => (s.setBeam n { b with crossing := t }).lsqArrive n e)

/-- RA_MIN_HELD_CLEAR (R203). -/
def execRaMinHeldClear (n : Fin 16) (s : State) : Host.Outcome State Fault Refusal :=
  .next (s.wf .lpRaMinHeld 14 0 0x7FFF n)

end Sys2Proof.Machine
end

