-- ==== Sys2Proof/Machine/LinkTx.lean ====
section
/-! DEFINITION. What a link port sends (spec 12 R251 to R255, R259, R263, R265 to R268, R270): cells, routes, the
transmit queues, credits and Masquerade. -/

namespace Sys2Proof.Machine

/-- Port counters: 0 TX_LINES, 1 LINE_DROP, 2 TX_ABORT, 3 CREDIT_STARVE, 4 RENEGS, 5 RX_CRC, 6 RX_FEC, 7 RX_GAP,
8 RX_STALE, 9 RX_BADTYPE, 10 RX_UNUSED (R271). -/
def State.portCount (s : State) (p k n : Nat) : State := s.bump .lnkPCount p k 0 n

/-- Bytes padded with zeros to n. -/
def padTo (n : Nat) (bs : List Byte) : List Byte := (bs ++ List.replicate (n - bs.length) 0).take n

/-- A byte list with bytes laid over it at an offset. -/
def putBytes (l : List Byte) (at_ : Nat) (bs : List Byte) : List Byte :=
  l.take at_ ++ bs ++ l.drop (at_ + bs.length)

/-- A 240-byte payload from (offset, bytes) fields. -/
def payload (fields : List (Nat × List Byte)) : List Byte :=
  fields.foldl (fun l f => putBytes l f.1 f.2) (List.replicate 240 0)

/-- Header bytes 0 to 11 of a cell with a sequence number (R251). -/
def Cell.head (c : Cell) (seq : Nat) : List Byte :=
  [BitVec.ofNat 8 c.type, BitVec.ofNat 8 (c.beam + c.lc.toNat * 16 + c.eol.toNat * 32)] ++ bytesLE 2 c.line ++
    bytesLE 2 c.cidx ++ [BitVec.ofNat 8 c.count, BitVec.ofNat 8 (c.depth + c.ycc.toNat * 4)] ++
    bytesLE 2 c.epochLo ++ bytesLE 2 seq

/-- The 256 bytes of a cell (R251, R252). -/
def Cell.bytes (c : Cell) (seq : Nat) : List Byte :=
  let h := c.head seq
  let p := padTo 240 c.payload
  h ++ bytesLE 4 (crc32c (h ++ p)) ++ p

/-- The IDLE cell: every header field zero but the CRC (R253). -/
def idleCell : Cell := { type := 0 }

/-- Ports of a set, ascending. -/
def setPorts (w : Nat) : List Nat := (List.range 8).filter (nbit w)

/-- The ports that carry a beam under a route entry, with ROLE, K and INDEX (R266). -/
def carriers (w : Word) : List (Nat × Nat × Nat × Nat) :=
  let one (role : Nat) (l : List Nat) := l.zipIdx.map (fun p => (p.1, role, l.length, p.2))
  one 0 (setPorts (fld w 7 0)) ++ one 1 (setPorts (fld w 15 8))

/-- Ports that carry the beam now. -/
def State.carrierPorts (s : State) (n : Nat) : List Nat := (carriers (s.beam n).route).map (·.1)

/-- The fused serial number. -/
def State.serial (s : State) : Nat := (s.rd .sysSerialLo).toNat + (s.rd .sysSerialHi).toNat * 2 ^ 32

/-- BEAM_FRAME (R88). -/
def State.frameNo (s : State) (n : Nat) : Nat := (s.rd .beamFrameLo n).toNat + s.rf .beamFrameHi 15 0 n * 2 ^ 32

/-- A cell of this type names a beam. -/
def namesBeam (t : Nat) : Bool := t == 1 || t == 0x10 || t == 0x11 || t == 0x13

/-- Pixel cells of a beam that wait on a port. -/
def Port.beamCells (g : Port) (n : Nat) : Nat := (g.pixels.filter (fun x => x.2.beam == n)).length

/-- A control cell waits on an Active port, in the order raised (R255). A cell of a beam stays behind the beam's leave cell
that still waits for its last pixel cell, so that a join cell precedes the beam's next cell (R267). -/
def Port.addCtl (g : Port) (c : Cell) : Port :=
  match (if namesBeam c.type then (g.late.filter (fun x => x.1 == c.beam)).getLast? else none) with
  | some x => { g with late := g.late ++ [(c.beam, x.2.1, c)] }
  | none => { g with ctl := g.ctl ++ [c] }

/-- A leave cell follows the beam's last cell on the port (R267). -/
def Port.addLeave (g : Port) (c : Cell) : Port :=
  if g.beamCells c.beam = 0 then g.addCtl c else { g with late := g.late ++ [(c.beam, g.beamCells c.beam, c)] }

/-- A cell of beam n leaves: what has waited for it moves on. -/
def Port.cellGone (g : Port) (n : Nat) : Port :=
  let late := g.late.map (fun x => if x.1 == n then (x.1, x.2.1 - 1, x.2.2) else x)
  { g with ctl := g.ctl ++ (late.filter (fun x => x.2.1 == 0)).map (·.2.2), late := late.filter (fun x => x.2.1 != 0) }

/-- Domain `from_` raises a control cell on a port: an Active one takes it, and a Disabled one is fenced (R13, R256). -/
def State.raiseCtl (s : State) (from_ p : Nat) (c : Cell) (leave : Bool := false) : State :=
  if s.portState p = 5 then s.setPort p (if leave then (s.port p).addLeave c else (s.port p).addCtl c)
  else if s.fenced (domPort p) then s.fenceDrop from_
  else s

/-- A control cell on every port that carries the beam (R266). -/
def State.raiseAll (s : State) (n : Nat) (c : Cell) : State :=
  (s.carrierPorts n).foldl (fun s p => s.raiseCtl (domBeam n) p c) s

/-- A ROUTE cell (R253, R267): action 1 join, 2 leave. -/
def routeCell (n epoch action : Nat) (r : Nat × Nat × Nat) (line frame : Nat) : Cell :=
  { type := 0x13, beam := n, epochLo := epoch % 2 ^ 16
    payload := payload [(0, [BitVec.ofNat 8 action, BitVec.ofNat 8 r.1, BitVec.ofNat 8 r.2.1, BitVec.ofNat 8 r.2.2]),
      (4, bytesLE 2 line), (8, bytesLE 4 epoch), (16, bytesLE 6 frame)] }

/-- The beam is at a boundary before an active line of the frame now emitting. -/
def Beam.midFrame (b : Beam) (n : Nat) : Bool :=
  b.run == .running && !b.atStart && !b.calDone && b.nextLine < b.lines n && b.curKind != .repeated

/-- The line after the last line carried, and its frame, for a leave cell (R267). -/
def State.leaveAt (s : State) (n : Nat) : Nat × Nat :=
  let b := s.beam n
  (if b.run = .stopped then 0 else if b.midFrame n then b.nextLine else b.lines n, s.frameNo n)

/-- The first line that a port carries, and its frame, for a join cell (R267). -/
def State.joinAt (s : State) (n : Nat) : Nat × Nat :=
  let b := s.beam n
  if b.run = .stopped then (0, s.frameNo n)
  else if b.midFrame n then (b.nextLine, s.frameNo n)
  else (0, s.frameNo n + 1)

/-- A join cell of beam n on an Active port p that carries it, from a line of a frame on. -/
def State.joinPort (s : State) (n p : Nat) (at_ : Nat × Nat) : State :=
  match (carriers (s.beam n).route).find? (fun x => x.1 == p) with
  | none => s
  | some x =>
    if s.portState p = 5 then
      s.raiseCtl (domBeam n) p (routeCell n (s.rd .sysBeamEpoch n).toNat 1 x.2 at_.1 at_.2)
    else s

/-- Where a route that applies now changes the carriers: the leave cells' line and frame, and the join cells' (R267). -/
def State.routeAt (s : State) (n : Nat) : (Nat × Nat) × (Nat × Nat) := (s.leaveAt n, s.joinAt n)

/-- A route entry applies (R267): leave cells by the old sets, join cells by the new ones, where a port's part changes. -/
def State.applyRoute (s : State) (n : Nat) (w : Word) (at_ : (Nat × Nat) × (Nat × Nat)) : State :=
  let b := s.beam n
  let old := carriers b.route
  let new := carriers w
  let s1 := (old.filter (fun x => !new.contains x)).foldl (fun s x =>
    s.raiseCtl (domBeam n) x.1 (routeCell n (s.rd .sysBeamEpoch n).toNat 2 x.2 at_.1.1 at_.1.2) true) s
  let s2 := s1.setBeam n { s1.beam n with route := w, routePend := none }
  (new.filter (fun x => !old.contains x)).foldl (fun s x => s.joinPort n x.1 at_.2) s2

/-- Pixels per cell at an output depth (R254). -/
def cellPixels (depth : Nat) : Nat := if depth = 0 then 80 else if depth = 1 then 64 else 53

/-- Bits of one component. -/
def depthBits (depth : Nat) : Nat := if depth = 0 then 8 else if depth = 1 then 10 else 12

/-- The payload number of a cell's pixels (R254): c0 lowest. -/
def packPixels (bits : Nat) : List OutPixel → Nat
  | [] => 0
  | p :: t => p.c0 % 2 ^ bits + p.c1 % 2 ^ bits * 2 ^ bits + p.c2 % 2 ^ bits * 2 ^ (2 * bits) +
      packPixels bits t * 2 ^ (3 * bits)

/-- The pixel cells of an emitted line that a port of index i of K carries (R254, R266). -/
def lineCells (n : Nat) (e : Emit) (depth : Nat) (ycc : Bool) (k i : Nat) : List Cell :=
  let per := cellPixels depth
  let total := ceilDiv e.ver.pixels.length per
  ((List.range total).filter (fun c => c % k == i)).map (fun c =>
    let px := (e.ver.pixels.drop (c * per)).take per
    { type := 1, beam := n, lc := e.lc, eol := c + 1 == total, line := e.line, cidx := c, count := px.length
      depth := depth, ycc := ycc, epochLo := e.ver.epoch.toNat % 2 ^ 16
      payload := bytesLE 240 (packPixels (depthBits depth) px) })

/-- Insertion of a pixel cell in order of completion, a later one behind equals. -/
def pixelInsert (x : Nat × Cell) : List (Nat × Cell) → List (Nat × Cell)
  | [] => [x]
  | a :: t => if x.1 < a.1 then x :: a :: t else a :: pixelInsert x t

/-- Cells waiting in the transmit buffer of a port. -/
def Port.waiting (x : Port) : Nat :=
  x.cap.length + x.ctl.length + x.late.length + x.audio.length + x.pixels.length

/-- The partner's FORMATS has a depth and colour encoding (R259, R268). -/
def State.peerTakes (s : State) (p depth : Nat) (ycc : Bool) : Bool := s.rb .lnkPPeer (depth + 3 * ycc.toNat) p

/-- A lane by its number. -/
def Port.lane (g : Port) (k : Nat) : Lane := vget g.lanes k {}

/-- Lanes that the attempt trains. -/
def Port.mask (g : Port) : List Nat := (List.range 4).filter (fun k => bit g.ctl0 (4 + k))

/-- The status field that this side sends on a lane (R257). -/
def Port.statusWord (g : Port) (k : Nat) : Nat :=
  let x := g.lane k
  x.tapStatus + fld g.ctl0 3 1 * 2 ^ 8 + fld g.ctl0 9 8 * 2 ^ 11 + x.localGrade * 2 ^ 13 +
    (if x.localGrade = 0 then 0 else 2 ^ 15) + k * 2 ^ 16

/-- A port takes its share of an emitted line, or carries none of it (R265, R268). A cell completes when its last pixel
leaves the crossbar, two pixels per island clock; hz is the island clock in 1/65,536 Hz. -/
def State.portLine (s : State) (n : Nat) (e : Emit) (depth : Nat) (ycc : Bool) (hz : Nat) (x : Nat × Nat × Nat × Nat) :
    State :=
  let p := x.1
  let cells := lineCells n e depth ycc x.2.2.1 x.2.2.2
  let g := s.port p
  if s.portState p ≠ 5 || !s.peerTakes p depth ycc || 512 < g.waiting + cells.length then s.portCount p 1 1
  else
    let key (c : Cell) : Nat :=
      (s.now + (c.cidx * cellPixels depth + c.count) * 500000000 * 65536 / max hz 1) * 16 + n
    (s.setPort p { g with pixels := cells.foldl (fun l c => pixelInsert (key c, c) l) g.pixels }).portCount p 0 1

/-- Own REPEAT of a CAP (R160, R259): some plane imports from the port, and every one that does has REPEAT 1. -/
def State.ownRepeat (s : State) (p : Nat) : Bool :=
  let l := (List.range 16).flatMap (fun n => (List.range 3).filterMap (fun k =>
    let b := s.beam n
    if b.cf .bmpCtrl 0 0 n k == 1 && b.cf .bmpCtrl 4 1 n k == 12 && b.cf .bmpImp 2 0 n k == p
    then some (b.cf .bmpImp 7 7 n k == 1) else none))
  !l.isEmpty && l.all (· == true)

/-- Own FENCE of a CAP: the port is in FENCE_PORTS of a follower group. -/
def State.ownFence (s : State) (p : Nat) : Bool :=
  (List.range 16).any (fun g => s.rb .sysCgCtrl 1 g && s.rb .sysCgCtrl (2 + p) g)

/-- The CAP cell of a port (R259). -/
def State.capCell (s : State) (p : Nat) (ok update : Bool) : Cell :=
  { type := 0x20
    payload := payload [(0, bytesLE 2 1),
      (2, [BitVec.ofNat 8 (s.rf .lnkPStatus 4 3 p), BitVec.ofNat 8 (popCount 4 (s.rf .lnkPStatus 8 5 p)),
           BitVec.ofNat 8 (s.rf .lnkPStatus 9 9 p), 0x3F, 0,
           BitVec.ofNat 8 ((s.ownRepeat p).toNat + (s.ownFence p).toNat * 2 + ok.toNat * 4 + update.toNat * 8)]),
      (8, bytesLE 2 2048), (16, bytesLE 8 s.serial)] }

/-- A change of this side's own REPEAT or FENCE sends an update CAP while Active (R261). -/
def State.capUpdate (s : State) (p : Nat) : State :=
  let g := s.port p
  if s.portState p = 5 && (g.advRepeat != s.ownRepeat p || g.advFence != s.ownFence p) then
    s.setPort p { g with cap := g.cap ++ [s.capCell p g.capHeld true], advRepeat := s.ownRepeat p, advFence := s.ownFence p }
  else s

/-- Update CAPs of every port that needs one. -/
def State.capUpdates (s : State) : State := (List.range 8).foldl (fun s p => s.capUpdate p) s

/-- A CREDIT cell (R263, R264). -/
def creditCell (next : Nat) : Cell := { type := 0x21, payload := payload [(0, bytesLE 2 next)] }

/-- The port may send a cell that carries SEQ (R263). -/
def State.hasCredit (s : State) (p : Nat) : Bool :=
  let g := s.port p
  let d := s.rf .lnkPPeerDepth 15 0 p
  d == 0 || (g.txSeq + (2 ^ 16 - g.next)) % 2 ^ 16 < d

/-- Cells that may be sent now: LNK_CREDIT.AVAIL. -/
def State.creditAvail (s : State) (p : Nat) : Nat :=
  let g := s.port p
  s.rf .lnkPPeerDepth 15 0 p - (g.txSeq + (2 ^ 16 - g.next)) % 2 ^ 16

/-- The pixel cells that have completed in the crossbar by a time (R255). -/
def Port.completed (g : Port) (now : Nat) : List (Nat × Cell) := g.pixels.takeWhile (fun x => x.1 / 16 ≤ now)

/-- Ready cells that carry a SEQ. -/
def Port.readyCells (g : Port) (now : Nat) : Nat :=
  g.cap.length + g.ctl.length + g.audio.length + (g.completed now).length

/-- The ready cell of highest priority that carries a SEQ (R255). -/
def Port.headSeq (g : Port) (now : Nat) : Option Cell :=
  match g.cap with
  | c :: _ => some c
  | [] => match g.ctl with
    | c :: _ => some c
    | [] => match g.audio with
      | c :: _ => some c
      | [] => (g.completed now).head?.map (·.2)

/-- The queues without that cell. -/
def Port.popSeq (g : Port) : Port :=
  match g.cap with
  | _ :: t => { g with cap := t }
  | [] => match g.ctl with
    | _ :: t => { g with ctl := t }
    | [] => match g.audio with
      | _ :: t => { g with audio := t }
      | [] => match g.pixels with
        | (_, c) :: t =>
          let k := (c.beam, c.line)
          let more := t.any (fun x => x.2.beam == c.beam && x.2.line == c.line)
          { (g.cellGone c.beam) with
            pixels := t, started := if more then (if g.started.contains k then g.started else g.started ++ [k])
                                    else g.started.filter (· != k) }
        | [] => g

/-- The type class bit of MASQ_CTRL.TYPES for a cell type (R270); IDLE has none. -/
def masqClass (t : Nat) : Option Nat :=
  if t = 0 then none else if t = 1 then some 16 else if t = 2 then some 17 else if t = 0x21 then some 19 else some 18

/-- A cell is a Masquerade candidate (R270). -/
def State.masqCandidate (s : State) (p : Nat) (c : Cell) : Bool :=
  s.rf .lnkPMasqCtrl 2 0 p != 0 &&
    (match masqClass c.type with
      | some b => s.rb .lnkPMasqCtrl b p
      | none => false) &&
    (!namesBeam c.type || s.rb .lnkPMasqBeams c.beam p) &&
    (!s.rb .lnkPMasqLine 14 p || s.rf .lnkPMasqLine 13 0 p == c.line) &&
    (!s.rb .lnkPMasqLine 26 p || s.rf .lnkPMasqLine 25 16 p == c.cidx)

/-- Injection has stopped at its limit. -/
def State.masqSpent (s : State) (p : Nat) : Bool :=
  s.rf .lnkPMasqLimit 15 0 p != 0 && s.rf .lnkPMasqLimit 15 0 p ≤ s.rf .lnkPMasqStatus 15 0 p

/-- A candidate is taken: every PERIOD-th, or with probability 2^−PERIOD by a free value (R270). -/
def State.masqTake (s : State) (p : Nat) (c : Cell) : Bool × State :=
  if !s.masqCandidate p c || s.masqSpent p then (false, s)
  else
    let period := s.rf .lnkPMasqPeriod 23 0 p
    if s.rb .lnkPMasqCtrl 20 p then
      let (v, s1) := s.fresh (2 ^ period)
      (v == 0, s1)
    else
      let k := (s.port p).masqCount + 1
      (period ≤ k, s.setPort p { s.port p with masqCount := if period ≤ k then 0 else k })

/-- One injection is counted; at LIMIT, DONE and MASQ_DONE (R270). -/
def State.masqInjected (s : State) (p : Nat) : State :=
  let s1 := s.wf .lnkPMasqStatus 15 0 (min (s.rf .lnkPMasqStatus 15 0 p + 1) 0xFFFF) p
  if s1.masqSpent p then (s1.wb .lnkPMasqStatus 16 true p).raise (360 + p) (domPort p) else s1

/-- A cell has passed: held cells count it. -/
def Port.passed (g : Port) : Port := { g with held := g.held.map (fun h => (h.1 - 1, h.2)) }

/-- Cell bytes leave the port. -/
def State.sendBytes (s : State) (p : Nat) (bs : List Byte) : State := (s.setPort p (s.port p).passed).putCell p bs

/-- An IDLE cell leaves the port (R247). -/
def State.sendIdle (s : State) (p : Nat) : State := s.putCell p (idleCell.bytes 0)

/-- A cell goes out, or Masquerade takes it (R270); the slot of a cell that is not sent, or held, carries an IDLE cell. -/
def State.sendCell (s : State) (p : Nat) (c : Cell) (seq : Nat) : State :=
  let bs := c.bytes seq
  let (take, s1) := s.masqTake p c
  if !take then s1.sendBytes p bs
  else
    let arg := s1.rf .lnkPMasqCtrl 15 8 p
    match s1.rf .lnkPMasqCtrl 2 0 p with
    | 1 => (s1.masqInjected p).sendIdle p
    | 2 => (s1.masqInjected p).sendBytes p (bs.set arg (bs.getD arg 0 ^^^ 1))
    | 3 => if s1.rb .lnkPStatus 9 p then ((s1.masqInjected p).emit (.symbolErrors p arg)).sendBytes p bs
      else (s1.wb .lnkPMasqStatus 17 true p).sendBytes p bs
    | _ => ((s1.masqInjected p).setPort p
        { (s1.masqInjected p).port p with held := ((s1.masqInjected p).port p).held ++ [(arg, bs)] }).sendIdle p

/-- The next cell that carries a SEQ leaves, credit allowing; else an IDLE cell (R247, R263): every ready cell that credit
holds back counts once as starved. In Exchange the SEQ of a CAP is open. -/
def State.sendSeq (s : State) (p : Nat) : State :=
  let g := s.port p
  match g.headSeq s.now with
  | none => s.sendIdle p
  | some c =>
    if s.portState p ≠ 5 then
      let (v, s1) := s.fresh (2 ^ 16)
      (s1.setPort p g.popSeq).sendCell p c v
    else if s.hasCredit p then
      (s.setPort p { g.popSeq with txSeq := (g.txSeq + 1) % 2 ^ 16, starved := g.starved - 1 }).sendCell p c g.txSeq
    else
      let ready := g.readyCells s.now
      ((s.setPort p { g with starved := max g.starved ready }).portCount p 3 (ready - g.starved)).sendIdle p

/-- One transmit cell slot of a port in Align, Exchange or Active (R255, R256). A cell that Masquerade holds leaves as
soon as its number of cells has passed. A port that trains sends a training frame on every lane that it trains (R257). -/
def State.cellSlot (s : State) (p : Nat) : State :=
  let st := s.portState p
  let g := s.port p
  if st = 3 then s.sendIdle p
  else if (st = 1 ∨ st = 2) ∧ g.rate ≠ 0 then
    g.mask.foldl (fun s k => s.sendTraining p k (g.lane k).own (BitVec.ofNat 32 (g.statusWord k))) s
  else if st = 4 ∨ st = 5 then
    match g.held.find? (fun h => h.1 == 0) with
    | some h => (s.setPort p { g with held := g.held.filter (fun x => x != h) }).putCell p h.2
    | none => match g.credit with
      | c :: t => (s.setPort p { g with credit := t }).sendCell p c 0
      | [] => s.sendSeq p
  else s

/-- The load that the running beams routed to a port need, in cells per µs × 16 (LNK_LOAD.REQ), rounded down. -/
def State.loadReq (s : State) (p : Nat) : Nat :=
  min 0xFFFF ((((List.range 16).map (fun n =>
    let b := s.beam n
    match (if b.run = .stopped then none else (carriers b.route).find? (fun x => x.1 == p)) with
    | none => 0
    | some x =>
      let cells := ((List.range (ceilDiv (b.cols n) (cellPixels (b.cf .cmpCtrl 2 1 n)))).filter
        (fun c => c % x.2.2.1 == x.2.2.2)).length
      let hz := b.cf .beamClk 30 0 n * 65536 + b.cf .beamClkFrac 15 0 n
      cells * 32 * hz * 1000 / (65536 * max (b.cf .beamTotal 15 0 n) 1 * 1000000))).sum) / 1000)

/-- Cells per µs of the mode × 16 (LNK_LOAD.AVAIL), rounded down: lanes × rate × 3,999 in 4,000 blocks of eight per cell,
and 5,140 bits in 5,440 with FEC (R249, R250). -/
def State.loadAvail (s : State) (p : Nat) : Nat :=
  let lanes := popCount 4 (s.rf .lnkPStatus 8 5 p)
  let gbit := [0, 28, 56, 112].getD (s.rf .lnkPStatus 4 3 p) 0
  if s.rb .lnkPStatus 9 p then 16 * lanes * gbit * 1000 * 3999 * 514 / (4000 * 544 * 2056)
  else 16 * lanes * gbit * 1000 * 3999 / (4000 * 2056)

/-! Audio (R293). -/

/-- Channels that link port p carries (R293). -/
def State.linkChannels (s : State) (p : Nat) : Nat := min (s.rf .lnkPAudio 5 0 p) (s.rf .lnkPPeer 11 6 p)

/-- An AUDIO cell of gathered frames (R254, R293). -/
def State.audioCell (s : State) (p n : Nat) (frames : List (Word64 × List Int)) : Cell :=
  let base := s.rf .audLinkBase 5 0 p
  let bytes := frames.flatMap (fun f => (List.range n).flatMap (fun c =>
    bytesLE 3 (toTwos 32 (f.2.getD ((base + c) % 64) 0) / 256)))
  { type := 2
    payload := payload [(0, bytesLE 8 ((frames.headD (0, [])).1 : Word64).toNat), (8, bytesLE 4 (s.port p).audIndex),
      (12, [BitVec.ofNat 8 n, BitVec.ofNat 8 frames.length]), (16, bytes)] }

/-- AUDIO cells are raised as long as S sample frames are gathered (R255, R293). -/
def State.cutAudio (s : State) (p : Nat) : State :=
  let n := s.linkChannels p
  let need := 224 / (3 * n)
  if n = 0 || need = 0 then s
  else (List.range ((s.port p).audFrames.length / need)).foldl (fun s _ =>
    let g := s.port p
    s.setPort p { g with
      audio := g.audio ++ [s.audioCell p n (g.audFrames.take need)], audFrames := g.audFrames.drop need
      audIndex := (g.audIndex + need) % 2 ^ 32 }) s

/-- CELL_SLOT (R255). -/
def execCellSlot (p : Fin 8) (s : State) : Host.Outcome State Fault Refusal := .next (s.cellSlot p)

end Sys2Proof.Machine
end

