-- ==== Sys2Proof/Machine/Crypto.lean ====
section
/-! DEFINITION. SHA-384 and the verification of an ECDSA signature over the curve P-384, which the checks of packages,
images, tokens and programs name (spec 09 R173, 11 R243 and R244, 19 R392, 20 R405). PRESUMED (105): the two algorithms
are those of FIPS 180-4 and FIPS 186, to which the spec refers by name only. -/

namespace Sys2Proof.Machine

/-- f of n, with n computed first. -/
def forced {α : Type} (n : Nat) (f : Nat → α) : α :=
  match n with
  | 0 => f 0
  | k + 1 => f (k + 1)

/-! SHA-384: eight words of 64 bits, 80 rounds a block of 128 bytes. -/

/-- The round constants. -/
def shaK1 : List Nat :=
  [0x428a2f98d728ae22, 0x7137449123ef65cd, 0xb5c0fbcfec4d3b2f, 0xe9b5dba58189dbbc,
   0x3956c25bf348b538, 0x59f111f1b605d019, 0x923f82a4af194f9b, 0xab1c5ed5da6d8118,
   0xd807aa98a3030242, 0x12835b0145706fbe, 0x243185be4ee4b28c, 0x550c7dc3d5ffb4e2,
   0x72be5d74f27b896f, 0x80deb1fe3b1696b1, 0x9bdc06a725c71235, 0xc19bf174cf692694,
   0xe49b69c19ef14ad2, 0xefbe4786384f25e3, 0x0fc19dc68b8cd5b5, 0x240ca1cc77ac9c65,
   0x2de92c6f592b0275, 0x4a7484aa6ea6e483, 0x5cb0a9dcbd41fbd4, 0x76f988da831153b5,
   0x983e5152ee66dfab, 0xa831c66d2db43210, 0xb00327c898fb213f, 0xbf597fc7beef0ee4,
   0xc6e00bf33da88fc2, 0xd5a79147930aa725, 0x06ca6351e003826f, 0x142929670a0e6e70,
   0x27b70a8546d22ffc, 0x2e1b21385c26c926, 0x4d2c6dfc5ac42aed, 0x53380d139d95b3df,
   0x650a73548baf63de, 0x766a0abb3c77b2a8, 0x81c2c92e47edaee6, 0x92722c851482353b]
def shaK2 : List Nat :=
  [0xa2bfe8a14cf10364, 0xa81a664bbc423001, 0xc24b8b70d0f89791, 0xc76c51a30654be30,
   0xd192e819d6ef5218, 0xd69906245565a910, 0xf40e35855771202a, 0x106aa07032bbd1b8,
   0x19a4c116b8d2d0c8, 0x1e376c085141ab53, 0x2748774cdf8eeb99, 0x34b0bcb5e19b48a8,
   0x391c0cb3c5c95a63, 0x4ed8aa4ae3418acb, 0x5b9cca4f7763e373, 0x682e6ff3d6b2b8a3,
   0x748f82ee5defb2fc, 0x78a5636f43172f60, 0x84c87814a1f0ab72, 0x8cc702081a6439ec,
   0x90befffa23631e28, 0xa4506cebde82bde9, 0xbef9a3f7b2c67915, 0xc67178f2e372532b,
   0xca273eceea26619c, 0xd186b8c721c0c207, 0xeada7dd6cde0eb1e, 0xf57d4f7fee6ed178,
   0x06f067aa72176fba, 0x0a637dc5a2c898a6, 0x113f9804bef90dae, 0x1b710b35131c471b,
   0x28db77f523047d84, 0x32caab7b40c72493, 0x3c9ebe0a15c9bebc, 0x431d67c49c100d4c,
   0x4cc5d4becb3e42b6, 0x597f299cfc657e2a, 0x5fcb6fab3ad6faec, 0x6c44198c4a475817]
def shaK : List Nat := shaK1 ++ shaK2

/-- The eight words of the hash. -/
structure Sha where
  a : Nat
  b : Nat
  c : Nat
  d : Nat
  e : Nat
  f : Nat
  g : Nat
  h : Nat
  deriving DecidableEq, Repr

/-- The words at the start. -/
def Sha.first : Sha :=
  ⟨0xcbbb9d5dc1059ed8, 0x629a292a367cd507, 0x9159015a3070dd17, 0x152fecd8f70e5939,
   0x67332667ffc00b31, 0x8eb44a8768581511, 0xdb0c2e0d64f98fa7, 0x47b5481dbefa4fa4⟩

/-- A 64-bit word turned right, and three of its turns added without carry; the last may be a shift. -/
def ror64 (n x : Nat) : Nat := (x >>> n ||| x <<< (64 - n)) % 2 ^ 64
def turns (i j k x : Nat) : Nat := ror64 i x ^^^ (ror64 j x ^^^ ror64 k x)
def turnsShift (i j k x : Nat) : Nat := ror64 i x ^^^ (ror64 j x ^^^ x >>> k)

/-- One round, with its constant and its word of the schedule. -/
def Sha.round (v : Sha) (k w : Nat) : Sha :=
  forced (v.h + turns 14 18 41 v.e + (v.e &&& v.f ^^^ (2 ^ 64 - 1 - v.e) &&& v.g) + k + w) fun t =>
    forced ((t + turns 28 34 39 v.a + (v.a &&& v.b ^^^ (v.a &&& v.c ^^^ v.b &&& v.c))) % 2 ^ 64) fun a =>
      forced ((v.d + t) % 2 ^ 64) fun e => ⟨a, v.a, v.b, v.c, e, v.e, v.f, v.g⟩

/-- The next word of the schedule, from the sixteen before it, oldest first. -/
def shaNext (w : List Nat) : Nat :=
  (turnsShift 19 61 6 (w.getD 14 0) + w.getD 9 0 + turnsShift 1 8 7 (w.getD 1 0) + w.getD 0 0) % 2 ^ 64

/-- The rounds that the constants give, over the sixteen words next in the schedule. -/
def shaRounds : List Nat → List Nat → Sha → Sha
  | [], _, v => v
  | k :: ks, w, v => forced (shaNext w) fun x => shaRounds ks (w.drop 1 ++ [x]) (v.round k (w.headD 0))

/-- Two hashes added word by word. -/
def Sha.plus (u v : Sha) : Sha :=
  let add (x y : Nat) : Nat := (x + y) % 2 ^ 64
  ⟨add u.a v.a, add u.b v.b, add u.c v.c, add u.d v.d, add u.e v.e, add u.f v.f, add u.g v.g, add u.h v.h⟩

/-- The number that bytes spell, most significant first, and the n bytes of a number so. -/
def numberBE (bs : List Byte) : Nat := bs.foldl (fun n b => forced (n * 256 + b.toNat) id) 0
def bytesBE (n x : Nat) : List Byte := (bytesLE n x).reverse

/-- One block of 128 bytes. -/
def Sha.block (v : Sha) (bs : List Byte) : Sha :=
  v.plus (shaRounds shaK ((List.range 16).map (fun i => forced (numberBE ((bs.drop (8 * i)).take 8)) id)) v)

/-- The message with its padding: a one bit, zeros, and its length in bits. -/
def shaPad (m : List Byte) : List Byte :=
  m ++ 0x80 :: (List.replicate ((239 - m.length % 128) % 128) 0 ++ bytesBE 16 (8 * m.length))

/-- The hash of a message: 48 bytes, as they stand in a digest. -/
def sha384 (m : List Byte) : List Byte :=
  let p := shaPad m
  let v := (List.range (p.length / 128)).foldl (fun v i => v.block ((p.drop (128 * i)).take 128)) Sha.first
  [v.a, v.b, v.c, v.d, v.e, v.f].flatMap (bytesBE 8)

/-! The curve P-384: y² = x³ - 3x + b over the prime field, in Jacobian coordinates. -/

/-- The prime of the field, b, the order of the base point and the base point. -/
def p384 : Nat := 2 ^ 384 - 2 ^ 128 - 2 ^ 96 + 2 ^ 32 - 1
def p384b : Nat :=
  0xb3312fa7e23ee7e4988e056be3f82d19181d9c6efe8141120314088f5013875ac656398d8a2ed19d2a85c8edd3ec2aef
def p384n : Nat :=
  0xffffffffffffffffffffffffffffffffffffffffffffffffc7634d81f4372ddf581a0db248b0a77aecec196accc52973
def p384x : Nat :=
  0xaa87ca22be8b05378eb1c71ef320ad746e1d3b628ba79b9859f741e082542a385502f25dbf55296c3a545e3872760ab7
def p384y : Nat :=
  0x3617de4a96262c6f5d9e98bf9292dc29f8f41dbd289a147ce9da3113b5f0b8c00a60b1ce1d7e819d7a431d7c90ea0e5f

/-- A point: x / z² and y / z³, the point at infinity with z = 0. -/
structure Point where
  x : Nat
  y : Nat
  z : Nat
  deriving DecidableEq, Repr

def Point.base : Point := ⟨p384x, p384y, 1⟩
def Point.infinity : Point := ⟨1, 1, 0⟩

/-- A difference in the field. -/
def fieldSub (a b : Nat) : Nat := (a + (p384 - b % p384)) % p384

/-- A point from coordinates computed first. -/
def Point.made (x y z : Nat) : Point := forced x fun x => forced y fun y => forced z fun z => ⟨x, y, z⟩

/-- A point doubled. -/
def Point.double (p : Point) : Point :=
  forced (p.z * p.z % p384) fun d =>
    forced (p.y * p.y % p384) fun g =>
      forced (p.x * g % p384) fun b =>
        forced (3 * fieldSub p.x d * (p.x + d) % p384) fun a =>
          forced (fieldSub (a * a) (8 * b)) fun x =>
            Point.made x (fieldSub (a * fieldSub (4 * b) x) (8 * g * g)) (2 * p.y * p.z % p384)

/-- Two points added. -/
def Point.add (p q : Point) : Point :=
  if p.z = 0 then q
  else if q.z = 0 then p
  else
    forced (p.z * p.z % p384) fun s => forced (q.z * q.z % p384) fun t =>
      forced (p.x * t % p384) fun u => forced (fieldSub (q.x * s) u) fun h =>
        forced (p.y * t * q.z % p384) fun v => forced (fieldSub (q.y * s * p.z) v) fun r =>
          if h = 0 then (if r = 0 then p.double else Point.infinity)
          else
            forced (h * h % p384) fun h2 => forced (h * h2 % p384) fun h3 => forced (u * h2 % p384) fun w =>
              forced (fieldSub (r * r) (h3 + 2 * w)) fun x =>
                Point.made x (fieldSub (r * fieldSub w x) (v * h3)) (p.z * q.z * h % p384)

/-- j times p and k times q together, from bit n down. -/
def Point.sum (p q pq : Point) (j k : Nat) : Nat → Point → Point
  | 0, r => r
  | n + 1, r =>
    let d := r.double
    Point.sum p q pq j k n (match nbit j n, nbit k n with
      | true, true => d.add pq
      | true, false => d.add p
      | false, true => d.add q
      | false, false => d)

/-- A power modulo m, from bit n of the exponent down. -/
def powMod (m b e : Nat) : Nat → Nat → Nat
  | 0, r => r
  | n + 1, r => forced (r * r * (if nbit e n then b else 1) % m) fun r => powMod m b e n r

/-- A public key lies on the curve. -/
def onCurve (x y : Nat) : Bool := x < p384 && y < p384 && y * y % p384 == (x * x * x + (p384 - 3) * x + p384b) % p384

/-- The signature r, s of a message with hash e verifies under the key x, y. -/
def p384Verify (x y r s e : Nat) : Bool :=
  0 < r && r < p384n && 0 < s && s < p384n && onCurve x y &&
    forced (powMod p384n s (p384n - 2) 384 1) fun w =>
      let q : Point := ⟨x, y, 1⟩
      let t := Point.sum Point.base q (Point.base.add q) (e * w % p384n) (r * w % p384n) 384 Point.infinity
      forced (t.z * t.z % p384) fun zz =>
        t.z != 0 && (t.x == r * zz % p384 || (r + p384n < p384 && t.x == (r + p384n) * zz % p384))

/-! Fuses, and the digests sealed in them (R393). -/

/-- A fuse word: as programmed since, else as manufacture fused it. Words that a register loads are keyed by its address. -/
def State.fuse (s : State) (k : Nat) : Word := (kvGet k s.sys.fuses).getD (Config.fused k)
def State.setFuse (s : State) (k : Nat) (w : Word) : State :=
  { s with sys := { s.sys with fuses := kvSet k w s.sys.fuses } }

/-- Keys of the fuses of digest d (0 Kamnor, 1 customer steward, 2 PL owner) in slot j: 12 words, the valid marker, and a
mark that programming began. -/
def digestKey (d j k : Nat) : Nat := 0x4000100 + d * 64 + j * 16 + k

/-- A digest slot counts: its valid marker is programmed (R393). -/
def State.slotValid (s : State) (d j : Nat) : Bool := bit (s.fuse (digestKey d j 12)) 0

/-- The 48 bytes in a slot, and a hash is the sealed digest d. -/
def State.slotBytes (s : State) (d j : Nat) : List Byte :=
  (List.range 12).flatMap (fun k => bytesLE 4 (s.fuse (digestKey d j k)).toNat)
def State.digestIs (s : State) (d : Nat) (h : List Byte) : Bool :=
  [0, 1].any (fun j => s.slotValid d j && s.slotBytes d j == h)

/-! Keys and signatures as the spec lays them out. -/

/-- The digest of PUBKEY at a place of some bytes. -/
def keyDigest (p : List Byte) (at_ : Nat) : List Byte := sha384 (padTo 97 ((p.drop at_).take 97))

/-- PUBKEY at a place, with SIG behind it, signs every byte up to the end of PUBKEY (R174, R243, R392, R405): X, Y, r and s
are stored least significant byte first. -/
def signedAt (p : List Byte) (at_ : Nat) : Bool :=
  descField p at_ 1 == 4 &&
    p384Verify (descField p (at_ + 1) 48) (descField p (at_ + 49) 48) (descField p (at_ + 97) 48) (descField p (at_ + 145) 48)
      (numberBE (sha384 (p.take (at_ + 97))))

end Sys2Proof.Machine
end

