-- ==== Sys2Proof/Machine/Commit.lean ====
section
/-! DEFINITION. Coherent state (spec 02 R27 to R40): which words are shadowed, hand-over with the checks of R79 and R163,
readiness with epoch fences, adoption, and the completion of commits and of WAIT_EPOCH. -/

namespace Sys2Proof.Machine

/-- A commit group, and the state with one replaced. -/
def State.grp (s : State) (g : Nat) : Group := vget s.groups g {}
def State.setGrp (s : State) (g : Nat) (x : Group) : State := { s with groups := vset s.groups g x }

/-- Register families with shadowed fields (R27). -/
def shadowedName (r : RegName) : Bool :=
  (rowOf r).rw != 0 && (beamRegs.contains r || tmapRegs.contains r || objRegs.contains r || bmpRegs.contains r ||
    (cmpRegs.contains r && r != .cmpPleAddrLo && r != .cmpPleAddrHi) || r == .lutPlane || r == .lutOut ||
    r == .paletteLow || r == .paletteHigh || r == .lnkRoute || r == .oat || r == .tt)

/-- An address holds shadowed state. -/
def shadowed (a : Nat) : Bool :=
  match regAt a with
  | some (r, _) => shadowedName r
  | none => false

/-- OAT entry of an address, and Transform Table entry. -/
def oatIndex (a : Nat) : Option Nat := if 0x2000000 ≤ a ∧ a < 0x2400000 then some ((a - 0x2000000) / 32) else none
def ttIndex (a : Nat) : Option Nat := if 0x3000000 ≤ a ∧ a < 0x3040000 then some ((a - 0x3000000) / 32) else none

/-- BEAM of an OAT entry and GROUP of a Transform Table entry, in a table of words. -/
def oatBeam (f : RegFile) (i : Nat) : Nat := fld (oatW f i 0) 4 1
def ttGroup (f : RegFile) (t : Nat) : Nat := fld (rfGet f (addrOf .tt t 4 0)) 3 0

/-- The beam whose own shadowed words hold an address: its region, or its route entry. -/
def ownerBeam (a : Nat) : Option Nat :=
  if 0xA0100 ≤ a ∧ a < 0xA0140 then some ((a - 0xA0100) / 4) else beamOf a

/-- The commit group whose shadow an address belongs to now (R29). -/
def State.groupOfAddr (s : State) (a : Nat) : Option Nat :=
  if !shadowed a then none
  else match ttIndex a with
    | some t => some (ttGroup s.regs t)
    | none => match oatIndex a with
      | some i => some (s.groupOf (oatBeam s.regs i))
      | none => (ownerBeam a).map s.groupOf

/-- The members of a group (R30). -/
def State.members (s : State) (g : Nat) : List Nat := (List.range 16).filter (fun n => s.groupOf n == g)

/-- A word of the shadow belongs to one of these beams, or to group g's Transform Table entries. -/
def inSnapshot (f : RegFile) (g : Nat) (ms : List Nat) (a : Nat) : Bool :=
  shadowed a && (match ttIndex a with
    | some t => ttGroup f t == g
    | none => match oatIndex a with
      | some i => ms.contains (oatBeam f i)
      | none => match ownerBeam a with
        | some n => ms.contains n
        | none => false)

/-- The timing set of R79. -/
def timingSet : List RegName :=
  [.beamCtrl, .beamClk, .beamClkFrac, .beamActive, .beamTotal, .beamHsync, .beamVsync, .beamCalends, .beamGenlock]

/-- A field of beam n in a table of words. -/
def bf (f : RegFile) (n : Nat) (r : RegName) (hi lo : Nat) : Nat := fld (rfGet f (addrOf r n 0 0)) hi lo

/-- The programmed clock of beam n in 1/65,536 Hz. -/
def clkOf (f : RegFile) (n : Nat) : Nat := bf f n .beamClk 30 0 * 65536 + bf f n .beamClkFrac 15 0

/-- Following beam sources from beam `cur` returns to beam n, within k steps (check 7 of R79). -/
def genlockLoop (get : Nat → Word) (n : Nat) : Nat → Nat → Bool
  | 0, _ => false
  | k + 1, cur =>
    let w := get cur
    if fld w 2 0 ≠ 1 then false
    else if fld w 9 4 = n then true
    else genlockLoop get n k (fld w 9 4)

/-- The first timing check of R79 that beam n's set in the snapshot fails, or 0. `link` gives the BEAM_GENLOCK words
that check 7 follows. -/
def timingCheck (snap live : RegFile) (n : Nat) (running : Bool) (link : Nat → Word) : Nat :=
  let ac := bf snap n .beamActive 15 0
  let al := bf snap n .beamActive 29 16
  let tc := bf snap n .beamTotal 15 0
  let tl := bf snap n .beamTotal 30 16
  let lead := bf snap n .beamCalends 7 0
  let f := clkOf snap n
  let fl := clkOf live n
  if tc < ac ∨ tl < al then 1
  else if tc - ac < 64 then 2
  else if tl - al < lead ∨ 1048576 / ac < lead then 3
  else if 2 * f < 65536 * (tc * tl) ∨ 480 * 65536 * (tc * tl) < 2 * f then 4
  else if tc < bf snap n .beamHsync 15 0 + bf snap n .beamHsync 27 16 ∨
      tl < bf snap n .beamVsync 13 0 + bf snap n .beamVsync 23 16 then 5
  else if running ∧ 1000 * fl < (max f fl - min f fl) * 1000000 then 6
  else if genlockLoop link n 17 n then 7
  else 0

/-- Words of a table replaced by those of another, for registers of beam n. -/
def holdRegs (snap live : RegFile) (n : Nat) (rs : List RegName) : RegFile :=
  rs.foldl (fun f r => rfSet f (addrOf r n 0 0) (rfGet live (addrOf r n 0 0))) snap

/-- A member's timing set at hand-over: CHECK, and a set that fails is held (R79, R80). -/
def State.checkTiming (s : State) (snap : RegFile) (ms : List Nat) (n : Nat) : Nat :=
  let b := s.beam n
  timingCheck snap b.live n (b.run != .stopped) (fun k =>
    if ms.contains k then rfGet snap (addrOf .beamGenlock k 0 0) else (s.beam k).com .beamGenlock k)

/-- The result of a member's checks put in place: CHECK, TIMING_HELD with its event, ORDER_HELD (R80, R163). -/
def State.holdSets (s : State) (snap : RegFile) (n chk : Nat) : RegFile × State :=
  let b := s.beam n
  let s1 := s.wf .beamStatus 11 8 chk n
  let (snap1, s2) := if chk = 0 then (snap, s1) else
    (holdRegs snap b.live n timingSet, (s1.wb .beamStatus 4 true n).raise (16 * n + 6) (domBeam n))
  if orderOk (rfGet snap (addrOf .cmpOrder0 n 0 0)) (rfGet snap (addrOf .cmpOrder1 n 0 0)) then (snap1, s2)
  else (holdRegs snap1 b.live n [.cmpOrder0, .cmpOrder1], s2.wb .cmpStatus 0 true n)

/-- The words a hand-over sends a member: its own, and its OAT entries (R29, R35). -/
def memberImage (snap : RegFile) (g n : Nat) : RegFile :=
  snap.filter (fun e => (ttIndex e.1).isNone && inSnapshot snap g [n] e.1)

/-- The committed Transform Table after a hand-over of group g (R132): entries whose shadow names g are as in the shadow. -/
def ttCommit (shadow tt : RegFile) (g : Nat) : RegFile :=
  (shadow ++ tt).foldl (fun f e => match ttIndex e.1 with
    | some t => if ttGroup shadow t = g then rfSet f e.1 (rfGet shadow e.1) else f
    | none => f) tt

/-- The fields that carry one base value in R124; the two fields of a scroll register move together. -/
def baseFields (r : RegName) : List Word := if r = .tmapScroll then [maskOf 24 0] else (lsFields r).getD []

/-- A word with line-scheduled values across an adoption (R124): line-scheduled fields whose committed value changes take the
new one, and so does every bit that is in no such field. -/
def rebaseWord (old new : RegFile) (a : Nat) (w : Word) : Word :=
  match regAt a with
  | some (r, _) =>
    let kept := (baseFields r).foldl (fun k m => if (rfGet old a ^^^ rfGet new a) &&& m = 0 then k ||| m else k) 0
    (w &&& kept) ||| (rfGet new a &&& ~~~ kept)
  | none => w

/-- Layer t of beam n changes from normal to affine mode: its origin starts from the committed values. -/
def turnsAffine (old new : RegFile) (n a : Nat) : Bool :=
  (List.range 8).any (fun t =>
    (a == addrOf .tmapAffO n t 0 || a == addrOf .tmapAffO n t 1) &&
      !bit (rfGet old (addrOf .tmapCtrl n t 0)) 6 && bit (rfGet new (addrOf .tmapCtrl n t 0)) 6)

/-- The line base after an adoption. -/
def rebase (n : Nat) (old new base : RegFile) : RegFile :=
  (base.filter (fun e => !turnsAffine old new n e.1)).map (fun e => (e.1, rebaseWord old new e.1 e.2))

/-- A genlock state change raises LOCK_CHANGE (R89). -/
def State.setLock (s : State) (n st : Nat) : State :=
  if s.rf .beamStatus 3 2 n = st then s
  else (s.wf .beamStatus 3 2 st n).raise (16 * n + 5) (domBeam n)

/-- Genlock at an adoption: SRC 0 runs free; a change of SRC, INDEX or MULT enters Acquiring (R85). -/
def State.adoptGenlock (s : State) (n : Nat) (old new : Word) : State :=
  if fld new 2 0 = 0 then (s.setBeam n { s.beam n with genlock := {} }).setLock n 0
  else if fld old 2 0 ≠ fld new 2 0 ∨ fld old 9 4 ≠ fld new 9 4 ∨ fld old 13 10 ≠ fld new 13 10 ∨
      s.rf .beamStatus 3 2 n = 0 then
    (s.setBeam n { s.beam n with genlock := { (s.beam n).genlock with lastTaken := none, good := 0, jump := none } }).setLock n 1
  else s

/-- A ring's WAIT_EPOCH whose condition holds completes OK (R60, R66). -/
def State.settleWait (s : State) (r : Nat) : State :=
  match (s.ring r).hold with
  | some (.epoch i d) =>
    let e : Word := BitVec.ofNat 32 (descField d 12 4)
    if (s.members (descField d 8 1 % 16)).all (fun n => s.rd .sysBeamEpoch n == e || newer (s.rd .sysBeamEpoch n) e) then
      (s.setRing r { s.ring r with hold := none }).finish r i d 0 0 0
    else s
  | _ => s

/-- WAIT_EPOCH holds that are satisfied end. -/
def State.settleWaits (s : State) : State := (List.range 64).foldl (fun s r => s.settleWait r) s

/-- Commits of group g that every member has adopted complete (R33), with the epoch and the stamp of the last adoption. -/
def State.settleCommits (s : State) (g : Nat) : State :=
  let x := s.grp g
  let done := x.commits.filter (fun c => c.waiting.isEmpty)
  let s1 := s.setGrp g { x with commits := x.commits.filter (fun c => !c.waiting.isEmpty) }
  let s2 := s1.wb .sysCgStatus 1 (!(x.commits.all (fun c => c.waiting.isEmpty))) g
  done.foldl (fun s c =>
    let s1 := if c.skipped then s.bump .sysCgSuperseded g else s
    s1.finishAt c.ring c.index c.desc (if c.skipped then 3 else 0) c.epoch.toNat 0 c.stamp) s2

/-- Beam n has adopted an epoch of group g: every commit it was still to adopt notes it (R33). -/
def noteAdoption (n : Nat) (epoch : Word) (stamp : Word64) (same : Bool) (c : CommitRec) : CommitRec :=
  if c.waiting.contains n && same then
    if epoch = c.epoch then { c with waiting := setDel n c.waiting, stamp := stamp }
    else if newer epoch c.epoch then { c with waiting := setDel n c.waiting, skipped := true, stamp := stamp }
    else c
  else c

/-- A word differs between two images. -/
def differs (old new : RegFile) (a : Nat) : Bool := rfGet old a != rfGet new a

/-- The table word that the transfer of a changed image word rewrites in full (R35, R105): an entry of the OAT or of the
Transform Table, or a palette or colour-table word all of whose eight words change. -/
def rewritten (n : Nat) (old new : RegFile) (a : Nat) : Option Nat :=
  let base := beamBase n
  let whole := (List.range 8).all (fun k => differs old new (a / 32 * 32 + 4 * k))
  if !differs old new a then none
  else match oatIndex a with
    | some i => some (oatKey i)
    | none => match ttIndex a with
      | some t => some (ttKey t)
      | none =>
        if base + 0x80000 ≤ a ∧ a < base + 0xA0000 ∧ whole then some (palKey n ((a - (base + 0x80000)) / 8))
        else if base + 0x60000 ≤ a ∧ a < base + 0x78000 ∧ whole then some (lutKey n (a - (base + 0x60000)))
        else none

/-- The on-die words that an adoption rewrites lose their errors and poison (R105). -/
def State.cleanAdopted (s : State) (n : Nat) (old new : RegFile) : State :=
  ((old ++ new).filterMap (fun e => rewritten n old new e.1)).foldl (fun s k => s.cleanTable k) s

/-- Beam n takes an image and an epoch (R36): live words, with the Transform Table as committed now (R132), line base, OAT
slots (R130), commits and waits. -/
def State.adopt (s : State) (n g : Nat) (epoch : Word) (words : RegFile) : State :=
  let img := words ++ s.oat.tt
  let b := s.beam n
  let (v, s0) := s.stamp (domBeam n)
  let old := b.com .beamGenlock n
  let s1 := s0.setBeam n { b with live := img, pend := none, lineBase := rebase n b.live img b.lineBase }
  let freed := s1.oat.slots.filter (fun i => oatBeam s1.regs i == n && !s1.oat.dirty.contains i)
  let s1c := freed.foldl (fun s i => s.cleanTable (oatKey i)) (s1.cleanAdopted n b.live img)
  let s1' := s1c.wr .sysBeamEpoch epoch n
  let on := b.run != .stopped || bf img n .beamCtrl 0 0 == 1
  let s2 := if on then s1'.adoptGenlock n old (rfGet img (addrOf .beamGenlock n 0 0)) else s1'
  let s3 := { s2 with
    oat := { s2.oat with slots := s2.oat.slots.filter (fun i => oatBeam s2.regs i ≠ n || s2.oat.dirty.contains i) }
    groups := Vector.ofFn (fun k : Fin 16 => { s2.groups[k] with
      commits := s2.groups[k].commits.map (noteAdoption n epoch v (k.val == g)) }) }
  ((List.range 16).foldl (fun s g => s.settleCommits g) s3).settleWaits.railsSettle.capUpdates

/-- The depth in the ladder becomes d, with its event where that changes it (R180). -/
def State.setDepth (s : State) (n d : Nat) : State :=
  if s.rf .cmpLadderStatus 3 0 n = d then s else (s.wf .cmpLadderStatus 3 0 d n).raise (16 * n + 13) (domBeam n)

/-- An adopted ladder that is shorter than the depth cuts it (R180). -/
def State.cutLadder (s : State) (n : Nat) : State :=
  s.setDepth n (min (s.rf .cmpLadderStatus 3 0 n) (ladderSteps n (s.beam n).live).length)

/-- The emission timing taken from the image at a frame start (R81). -/
def emTiming (live : RegFile) (n : Nat) : List (Nat × Word) :=
  [RegName.beamClk, .beamClkFrac, .beamTotal, .beamHsync, .beamVsync, .beamCalends].foldl
    (fun l r => kvSet (addrOf r n 0 0) (rfGet live (addrOf r n 0 0)) l) []

/-- A stopped beam adopts at once: its route applies, and with RUN = 1 it starts (R35, R82, R267). -/
def State.stoppedAdopt (s : State) (n g : Nat) (epoch : Word) (img : RegFile) : State :=
  let s1 := s.adopt n g epoch img
  let s2 := (s1.cutLadder n).applyRoute n (rfGet img (addrOf .lnkRoute n 0 0)) (s1.routeAt n)
  if (s2.beam n).cf .beamCtrl 0 0 n = 1 then
    let b := s2.beam n
    ((s2.setBeam n { b with
      run := .starting, stopping := false, atStart := true, quiet := 0, generating := false, calDone := false
      gen := none, restart := none, slots := [], copied := none, last := none, queue := [], lineBase := []
      origins := [], em := emTiming b.live n }).wb .beamStatus 0 true n).followVigil.railsSettle
  else s2

/-- The group becomes ready with its newest epoch (R36). A line-granular route applies at the next line boundary, or at
once on a beam that emits nothing yet (R267). -/
def State.makeReady (s : State) (g : Nat) : State :=
  let x := s.grp g
  let s1 := s.setGrp g { x with ready := some (s.rd .sysCgEpoch g), want := false, moving := false, guard := false }
  (List.range 16).foldl (fun s n =>
    let b := s.beam n
    match b.pend with
    | some (pg, e, img) =>
      let w := rfGet img (addrOf .lnkRoute n 0 0)
      if pg = g && e = s.rd .sysCgEpoch g && bit w 16 then
        if b.run = .running then s.setBeam n { b with routePend := some w } else s.applyRoute n w (s.routeAt n)
      else s
    | none => s) s1

/-- The FENCE cell of a leader (R40, R253). -/
def State.fenceCell (s : State) (g : Nat) (stamp : Word64) : Cell :=
  { type := 0x12, epochLo := (s.rd .sysCgEpoch g).toNat % 2 ^ 16
    payload := payload [(0, bytesLE 4 (s.rd .sysCgEpoch g).toNat), (4, [BitVec.ofNat 8 g]), (8, bytesLE 8 stamp.toNat),
      (16, bytesLE 8 s.serial)] }

/-- The last member's transfer has arrived (R35, R40): ready, or a leader sends its fence and waits out its guard, or a
follower waits for its fence. -/
def State.transferred (s : State) (g : Nat) : State :=
  let x := s.grp g
  if !s.rb .sysCgCtrl 0 g then s.makeReady g
  else if !s.rb .sysCgCtrl 1 g then
    let (v, s1) := s.stamp domCentral
    let s2 := (setPorts (s1.rf .sysCgCtrl 9 2 g)).foldl (fun s p => s.raiseCtl domCentral p (s1.fenceCell g v)) s1
    s2.setGrp g { x with moving := false, guard := true }
  else if x.fence = some (s.rd .sysCgEpoch g) then
    (if x.fenceLate then s.wb .sysCgStatus 3 true g else s).makeReady g
  else if x.waived then s.makeReady g
  else s.setGrp g { x with moving := false }

/-- A fence cell reaches the commit logic (R40). -/
def State.fenceArrive (s : State) (g : Nat) (epoch : Word) : State :=
  let x := s.grp g
  let takes := match x.fence with
    | none => true
    | some e => newer epoch e
  let keep := if takes then epoch else x.fence.getD epoch
  let s1 := s.setGrp g { x with fence := some keep, fenceLate := if takes then x.want && x.moving else x.fenceLate }
  if x.want && !x.moving && keep == s.rd .sysCgEpoch g then s1.makeReady g else s1

/-- Beams that leave the unadopted commits of their old groups, because a hand-over of group g reaches them (R30). -/
def State.leaveOld (s : State) (g : Nat) (ms : List Nat) : State :=
  { s with groups := Vector.ofFn (fun k : Fin 16 =>
      if k.val = g then s.groups[k] else { s.groups[k] with
        commits := s.groups[k].commits.map (fun c => { c with waiting := c.waiting.filter (fun n => !ms.contains n) }) }) }

/-- The hand-over of a COMMIT (R32 to R37): a new epoch, the snapshot, the members' pending banks. `race` tells that a
shadow write to the group falls in the hand-over cycle. DESIGN CHOICE (log 111): a COMMIT that completes with no adoption,
as of an empty group, carries the stamp of its hand-over. -/
def State.handOver (s : State) (r index : Nat) (desc : List Byte) (race : Bool) : State :=
  let g := descField desc 8 1 % 16
  let explicit := nbit (descField desc 9 1) 0
  let given : Word := BitVec.ofNat 32 (descField desc 12 4)
  let last := s.rd .sysCgEpoch g
  if explicit && !newer given last then s.finish r index desc 2 given.toNat 0
  else
    let epoch := if explicit then given else last + 1
    let ms := s.members g
    let snap := s.regs.filter (fun e => inSnapshot s.regs g ms e.1)
    let chks := ms.map (fun n => (n, s.checkTiming snap ms n))
    let (snap1, s1) := chks.foldl (fun (f, s) c => s.holdSets f c.1 c.2) (snap, s)
    let s2 := (s1.wr .sysCgEpoch epoch g).leaveOld g ms
    let s3 := if race then s2.wb .sysCgStatus 0 true g else s2
    let (v, s4) := s3.stamp domCentral
    let x := s4.grp g
    let moving := ms.any (fun n => (s4.beam n).run != .stopped)
    let s5 := { s4 with
      oat := { s4.oat with
        dirty := s4.oat.dirty.filter (fun i => !ms.contains (oatBeam s4.regs i)), tt := ttCommit s4.regs s4.oat.tt g }
      groups := vset s4.groups g { x with
        image := snap1, want := true, moving := moving, ready := none, guard := false, fenceLate := false
        waived := false
        commits := x.commits ++ [⟨epoch, ms, false, r, desc, index, v⟩] } }
    let s6 := ms.foldl (fun s n =>
      let img := memberImage snap1 g n
      if (s.beam n).run = .stopped then s.stoppedAdopt n g epoch img
      else s.setBeam n { s.beam n with pend := some (g, epoch, img) }) s5
    let s7 := (List.range 16).foldl (fun s k => s.settleCommits k) s6
    if moving then s7 else s7.transferred g

/-- Hand-overs of group g are held by the census (R42). -/
def State.cenHolds (s : State) (g : Nat) : Bool := s.rb .sysCenStatus 8 && s.rf .sysCenStatus 7 4 == g

/-- The census releases group g: held hand-overs go ahead in order and their rings proceed (R42). -/
def State.releaseHeld (s : State) (g : Nat) : State :=
  let x := s.grp g
  x.held.foldl (fun s h =>
    (s.setRing h.1 { s.ring h.1 with hold := none }).handOver h.1 h.2.1 h.2.2 false)
    (s.setGrp g { x with held := [] })

/-- A new commit-group map (R30): it holds for later hand-overs. -/
def cgMapWrite (i : Nat) (w : Word) (s : State) : State := (s.wr .sysCgMap w i).settleWaits

/-- GROUP_READY (R35): the last member's transfer has arrived. -/
def execGroupReady (g : Fin 16) (s : State) : Host.Outcome State Fault Refusal :=
  .next (if (s.grp g).moving then s.transferred g else s)

/-- FENCE_GUARD_EXPIRY (R40). -/
def execFenceGuardExpiry (g : Fin 16) (s : State) : Host.Outcome State Fault Refusal :=
  .next (if (s.grp g).guard then s.makeReady g else s)

/-- FENCE_TIMEOUT (R40): a follower still without its fence is ready without it, once its transfer has arrived. -/
def execFenceTimeout (g : Fin 16) (s : State) : Host.Outcome State Fault Refusal :=
  .next (
    let x := s.grp g
    if s.rb .sysCgCtrl 0 g && s.rb .sysCgCtrl 1 g && x.want && x.fence != some (s.rd .sysCgEpoch g) then
      let s1 := s.wb .sysCgStatus 2 true g
      if x.moving then s1.setGrp g { x with waived := true } else s1.makeReady g
    else s)

/-- CG_MAP_WRITE (R30): the half of the map that holds beams 0 to 7, or 8 to 15. -/
def execCgMapWrite (half : Fin 2) (w : Word) (s : State) : Host.Outcome State Fault Refusal :=
  .next (cgMapWrite half w s)

end Sys2Proof.Machine
end

