-- ==== Sys2Proof/Machine/Beams.lean ====
section
/-! DEFINITION. Beams (spec 04 R77 to R93): Calends, Vigil, the ladder step (R180), frame starts, start and stop, genlock;
with the base values of R124 and R125 and the start of a binning pass (R137). -/

namespace Sys2Proof.Machine

/-- A field of the timing in effect for the frame now emitting (R81). -/
def Beam.emf (b : Beam) (r : RegName) (hi lo n : Nat) : Nat := fld ((kvGet (addrOf r n 0 0) b.em).getD 0) hi lo

/-- The island clock of the frame now emitting, in 1/65,536 Hz, without pull. -/
def Beam.clk (b : Beam) (n : Nat) : Nat := b.emf .beamClk 30 0 n * 65536 + b.emf .beamClkFrac 15 0 n

/-- The island clock in use at a time, without pull (R81): over the first ms of a frame, or from VDone of its rail (R369),
the PLL slews from the clock before, evenly (log entry 32). -/
def Beam.clkNow (b : Beam) (n now : Nat) : Int :=
  let t : Nat := (now + 2 ^ 64 - b.slewAt % 2 ^ 64) % 2 ^ 64
  if b.atStart then (b.clk n : Int)
  else if b.slewWait then (b.oldClk : Int)
  else if 1000000 ≤ t then (b.clk n : Int)
  else b.oldClk + ((b.clk n : Int) - b.oldClk) * t / 1000000

/-- The slew that a frame start begins from the clock in use (R81, R369): one to a higher clock waits for the rail; a clock
that stays leaves a slew as it is. -/
def Beam.slewTo (old new : Beam) (n now : Nat) (ready : Bool) : Beam :=
  if old.atStart then { new with oldClk := new.clk n, slewAt := now, slewWait := false }
  else if new.clk n = old.clk n then new
  else { new with oldClk := (old.clkNow n now).toNat, slewAt := now, slewWait := decide (old.clk n < new.clk n) && !ready }

/-- Every port that carries the beam is Active with a partner that repeats frames (R90). -/
def State.repeatOk (s : State) (n : Nat) : Bool :=
  (s.carrierPorts n).all (fun p => s.portState p == 5 && s.rb .lnkPPeer 12 p)

/-- A beam adopts its pending PL bank (R175). -/
def State.adoptPl (s : State) (n : Nat) : State :=
  match (s.beam n).plPend with
  | none => s
  | some (k, ws) =>
    let w (i : Nat) : Word := ws.getD i 0
    let s0 := (((s.wr .cmpPlCtrl (w 0) n).wr .cmpPlMap (w 1) n).wr .cmpPlTile (w 2) n).wr .cmpPlSize (w 3) n
    let s0' := ((s0.wr .cmpPlPos (w 4) n).wr .cmpPlFaultRg (w 5) n).wr .cmpPlFaultB (w 6) n
    let s1 := (List.range 32).foldl (fun s k => s.wr .cmpPlPal (w (7 + k)) n k) s0'
    let b := s1.beam n
    let s2 := s1.setBeam n { b with plPend := none, plBank := b.plBank + 1, plChanged := true }
    let old := (s2.ple.old.map (fun r => if r.pkg ≤ k then { r with beams := setDel n r.beams } else r)).filter
      (fun r => r.beams.any (fun m => s2.rb .cmpPlCtrl 0 m))
    { s2 with ple := { s2.ple with old } }

/-- The ladder target that a Calends sees: not one that changed in its cycle (R365). -/
def State.seenTarget (s : State) (n : Nat) : Nat :=
  match (s.beam n).tgtWas with
  | some (t, v) => if t = s.now then v else s.rf .cmpLadderStatus 7 4 n
  | none => s.rf .cmpLadderStatus 7 4 n

/-- The ladder at a Calends (R180): cut to an adopted ladder's length, else one step toward the target. -/
def State.ladderStep (s : State) (n : Nat) : State :=
  let len := (ladderSteps n (s.beam n).live).length
  let d := s.rf .cmpLadderStatus 3 0 n
  let goal := min (s.seenTarget n) len
  if len < d then s.cutLadder n
  else if d < goal then s.setDepth n (d + 1)
  else if goal < d then s.setDepth n (d - 1)
  else s

/-- What the Calends finds: an epoch was adopted, and what the quiet count and Vigil are told (R90, R92). -/
structure CalInfo where
  adopted : Bool
  first : Bool
  plChanged : Bool
  queued : Bool
  consumed : Bool

/-- Vigil ends at this Calends (R92). -/
def State.vigilEnds (s : State) (n : Nat) (c : CalInfo) : Bool :=
  c.adopted || c.queued || c.plChanged || (s.beam n).cf .beamVigil 0 0 n == 0 || !s.repeatOk n

/-- The quiet count after this Calends (R90, R91). -/
def State.quietAfter (s : State) (n : Nat) (c : CalInfo) (refresh : Bool) : Nat :=
  let q := (s.beam n).quiet
  if c.adopted || c.first || c.consumed || c.plChanged then 0 else if refresh then q else min (q + 1) 255

/-- The Vigil step of a Calends (R90 to R92): the new quiet count, whether the beam is in Vigil, the frame's number in
Vigil, and VIGIL_DENIED. -/
def State.vigilStep (s : State) (n : Nat) (c : CalInfo) : Nat × Bool × Nat × Bool :=
  let b := s.beam n
  let was := s.rb .beamStatus 1 n
  let stays := was && !s.vigilEnds n c
  let div := b.cf .beamVigil 31 16 n
  let vn := if stays then b.vigilN + 1 else 0
  let q := s.quietAfter n c (stays && div != 0 && vn % div == 0)
  let due := b.cf .beamVigil 0 0 n == 1 && b.cf .beamVigil 15 8 n ≤ q
  let enters := !was && due && !c.queued && s.repeatOk n
  (q, stays || enters, if enters then 1 else vn, !s.repeatOk n && (s.rb .beamStatus 5 n || due))

/-- The frame kind of a Vigil state (R91): frame vn of Vigil, the entry frame being frame 1, is a refresh frame when
REFRESH_DIV divides vn. DESIGN CHOICE (log 113): with REFRESH_DIV = 1 that holds for the entry frame too. -/
def frameKind (vigil : Bool) (vn div : Nat) : FrameKind :=
  if !vigil then .full else if div ≠ 0 ∧ vn % div = 0 then .refresh else .repeated

/-- Enter or leave Vigil with its event; the operating mode follows (R89, R382). -/
def State.setVigil (s : State) (n : Nat) (v : Bool) : State :=
  if s.rb .beamStatus 1 n = v then s
  else ((s.wb .beamStatus 1 v n).raise (16 * n + if v then 3 else 4) (domBeam n)).followVigil

/-- SCROLL of layer t moved by its velocity, component k (R124, R125). -/
def moveScroll (n : Nat) (live base : RegFile) (t k : Nat) : RegFile :=
  let v := rfGet live (addrOf .tmapVel n t 0)
  let d := sx 16 (if k = 0 then fld v 15 0 else fld v 31 16)
  let a := addrOf .tmapScroll n t k
  let w := effAt live base a
  if d = 0 then base
  else kvSet a (setFld w 24 0 (((fld w 24 0 : Nat) + d) % (2 ^ 25 : Nat)).toNat) base

/-- The base values of line 0 (R124): none from before a start; velocities of normal-mode layers whose committed scroll
the adoption leaves alone. -/
def lineZeroBase (n : Nat) (old live base : RegFile) (first still : Bool) : RegFile :=
  if first then []
  else if still then base
  else (List.range 8).foldl (fun base t =>
    if bit (rfGet live (addrOf .tmapCtrl n t 0)) 6 then base
    else (List.range 2).foldl (fun base k =>
      let a := addrOf .tmapScroll n t k
      if rfGet old a = rfGet live a then moveScroll n live base t k else base) base) base

/-- Entries older than the frame become late, and entries that name it are checked against its line count (R190, R192). -/
def State.recheckQueue (s : State) (n : Nat) : State :=
  let b := s.beam n
  let late := b.queue.filter (fun e => e.frame < b.fg)
  let bad := b.queue.filter (fun e => e.frame == b.fg && b.lines n ≤ e.line)
  let keep := b.queue.filter (fun e => !(e.frame < b.fg) && !(e.frame == b.fg && b.lines n ≤ e.line))
  let s1 := s.setBeam n { b with queue := keep }
  let s2 := bad.foldl (fun s e => s.rejectEntry n e.off 5) s1
  late.foldl (fun s e => s.lateEntry n e) s2

/-- The lines of the next frame: TOTAL_LINES, or a jump frame's (R86). -/
def jumpLines (total active lead : Nat) (j : Int) : Nat :=
  (clampInt (min (active + lead) total : Nat) (max 16384 total : Nat) (total + j)).toNat

/-- The line count of the frame that starts, with the jump it takes: it is fixed at the frame's start (R86, log entry 102). -/
def State.planFrame (s : State) (n : Nat) : State :=
  let b := s.beam n
  let total := b.cf .beamTotal 30 16 n
  match b.genlock.jump with
  | none => s.setBeam n { b with curLines := total, curJump := false }
  | some j =>
    let l := jumpLines total (b.lines n) (b.cf .beamCalends 7 0 n) j
    let left := j - ((l : Int) - total)
    let s1 := s.setBeam n { b with
      curLines := l, curJump := l != total
      genlock := { b.genlock with jump := if left = 0 then none else some left } }
    if l = total then s1 else (s1.bump .beamJumps n).wb .beamStatus 6 true n

/-- The binning unit starts a pass (R137): the sort stage runs, and no band list of the frame is complete. -/
def State.startPass (s : State) (n : Nat) : State :=
  let b := s.beam n
  let s1 := s.setBeam n { b with
    sorting := true, sorted := [], bands := List.replicate (ceilDiv (b.lines n) 8) ⟨none, false⟩ }
  { s1 with bin := {
      lists := Vector.ofFn (fun i => s1.bin.lists[i].filter (fun x => x.1 != n))
      work := Vector.ofFn (fun i => match s1.bin.work[i] with
        | some x => if x.1 = n then none else some x
        | none => none) } }

/-- The beam takes what is ready at its Calends: a ready epoch with its route, and a PL bank (R36, R175, R267). -/
def State.takeReady (s : State) (n : Nat) : Bool × State :=
  match (s.beam n).pend with
  | some (g, e, img) =>
    if (s.grp g).ready = some e then
      let s1 := s.adopt n g e img
      let w := rfGet img (addrOf .lnkRoute n 0 0)
      (true, if bit w 16 then s1 else s1.applyRoute n w (s.routeAt n))
    else (false, s)
  | none => (false, s)

/-- The generator's state for the frame that a Calends begins. -/
def Beam.newFrame (b : Beam) (kind : FrameKind) (fg : Nat) (stamp : Word64) (base : RegFile) : Beam :=
  { b.closeWindows with
    fg := fg, nextKind := kind, calDone := true, calStamp := stamp, generating := kind != .repeated
    gen := none, restart := none, g := 0, slots := [], dl := 0, emitted := 0, lineBase := base, origins := []
    lsqUsed := false, plChanged := false, lastConRaised := false
    imports := b.imports.map (fun ip => { ip with missing := [], missRaised := false }) }

/-- A Calends (R78) of a beam that runs on: adoption, Vigil, ladder, queue, and line 0. -/
def State.calends (s : State) (n : Nat) : State :=
  let b0 := s.beam n
  let first := b0.atStart
  let queued := !b0.queue.isEmpty
  let (adopted, s1) := s.takeReady n
  let s2 := s1.adoptPl n
  let (v, s3) := s2.stamp (domBeam n)
  let s4 := s3.raise (16 * n) (domBeam n)
  let b := s4.beam n
  let c : CalInfo := ⟨adopted, first, b.plChanged, queued, b.lsqUsed⟩
  let (q, vig, vn, denied) := s4.vigilStep n c
  if b.cf .beamCtrl 0 0 n = 0 then
    let stopped : Beam := { b.newFrame .full b.fg v b.lineBase with
      quiet := q, vigilN := vn, stopping := true, generating := false, g := b.lines n, dl := b.lines n, emitted := b.lines n }
    (((s4.setBeam n stopped).wb .beamStatus 5 denied n).setVigil n vig).cutLadder n
  else
    let kind := frameKind vig vn (b.cf .beamVigil 31 16 n)
    let fg := min (s4.frameNo n + 1) (2 ^ 48 - 1)
    let base := lineZeroBase n b0.live b.live b.lineBase first vig
    let s5 := s4.setBeam n { b.newFrame kind fg v base with quiet := q, vigilN := vn }
    let s6 := ((s5.wb .beamStatus 5 denied n).setVigil n vig).ladderStep n
    let s7 := s6.recheckQueue n
    if kind = .repeated then s7
    else
      let s8 := if s7.rf .cmpLadderStatus 3 0 n = 0 then s7 else s7.bump .cmpShedFrames n
      (s8.startPass n).beginLine n 0

/-- The Calends may fall now: the line before it has begun to emit (R78). -/
def Beam.calendsDue (b : Beam) (n : Nat) : Bool :=
  b.run == .running && !b.calDone && !b.atStart && b.curLines ≤ b.nextLine + b.emf .beamCalends 7 0 n

/-! Genlock (R85, R86). -/

/-- A signed distance reduced to the range of ± half a period. -/
def reduceHalf (x : Int) (p : Nat) : Int :=
  if p = 0 then 0 else
  let r := x % p
  if p < 2 * r then r - p else r

/-- The nearest integer to a rational. -/
def nearest (x : Int) (d : Nat) : Int := if d = 0 then 0 else (2 * x + d) / (2 * d : Nat)

/-- An event taken: the phase error, lock, jump and pull that follow (R85, R86). Times are scaled by twice the clock, so
that a line period is the whole number `lp`. While the PLL still locks, the beam's own frame start is not known: the phase
error is a free value (log entry 102). -/
def State.takeReference (s : State) (n t : Nat) : State :=
  let b := s.beam n
  let f2 := 2 * b.clk n
  let lp := b.emf .beamTotal 15 0 n * 65536 * 1000000000
  let tf := lp * b.emf .beamTotal 30 16 n
  let lines := if b.atStart then b.emf .beamCalends 7 0 n else b.curLines
  let waited : Nat := ((if b.slewWait then t else b.slewAt) + 2 ^ 64 - b.startAt) % 2 ^ 64
  let slewed : Int := if b.atStart then 0 else (1000000 + 2 * (waited : Int)) * ((b.clk n : Int) - b.oldClk)
  let next : Int := (b.startAt : Int) * f2 + lines * lp + slewed
  let (v, s) := if b.run = .starting then s.fresh (tf + 1) else (0, s)
  let x := if b.run = .starting then (v : Int) - tf / 2
    else reduceHalf (next - (t + sx 32 (b.com .beamGenlockOfs n).toNat) * f2) tf
  let ae := x.natAbs
  let lock := b.cf .beamGenlockWin 15 0 n * f2
  let st := s.rf .beamStatus 3 2 n
  let good := if ae ≤ lock then b.genlock.good + 1 else 0
  let st' := if st = 2 ∧ 4 * lock < ae then 1 else if st = 1 ∧ 4 ≤ good then 2 else st
  let jump := if st' = 1 && b.cf .beamGenlock 15 15 n == 1 && decide (lp < ae) then some (-(nearest x lp)) else none
  let cap := b.clk n * b.cf .beamGenlock 25 16 n / 1000000
  let (d, s1) := s.fresh (cap + 1)
  let pull : Int := if x = 0 then 0 else if 0 < x then d else -(d : Int)
  let s2 := s1.setBeam n { b with genlock :=
    { lastTaken := if st = 2 ∧ st' = 1 then none else some t
      good := if st' = 2 ∧ st = 1 then 0 else good, jump := jump, pull := pull } }
  (s2.wr .beamPhaseErr (BitVec.ofInt 32 (nearest x f2)) n).setLock n st'

/-- A reference event of source `src` and index `ix` reaches beam n at time t: one in MULT + 1 frames is taken (R85). -/
def State.reference (s : State) (src ix t n : Nat) : State :=
  let b := s.beam n
  if b.run = .stopped ∨ s.rf .beamStatus 3 2 n = 0 ∨ b.cf .beamGenlock 2 0 n ≠ src ∨ b.cf .beamGenlock 9 4 n ≠ ix then s
  else
    let s1 := if s.rf .beamStatus 3 2 n = 3 then
        (s.setBeam n { b with genlock := { b.genlock with lastTaken := none, good := 0, jump := none } }).setLock n 1
      else s
    let tf := b.emf .beamTotal 15 0 n * 65536 * 1000000000 * b.emf .beamTotal 30 16 n
    match (s1.beam n).genlock.lastTaken with
    | some l =>
      if 2 * ((t - l) * (2 * b.clk n)) < (2 * b.cf .beamGenlock 13 10 n + 1) * tf then s1 else s1.takeReference n t
    | none => s1.takeReference n t

/-- A reference event reaches every beam that follows it. -/
def State.references (s : State) (src ix t : Nat) : State := (List.range 16).foldl (fun s n => s.reference src ix t n) s

/-- A beam enters Holdover: LOST is set and the clock held (R85). -/
def State.holdover (s : State) (n : Nat) : State :=
  let st := s.rf .beamStatus 3 2 n
  if st = 1 ∨ st = 2 then
    ((s.setBeam n { s.beam n with genlock := { (s.beam n).genlock with jump := none } }).wb .beamStatus 7 true n).setLock n 3
  else s

/-- Beams that follow beam n lose their reference (R83). -/
def State.dropDependents (s : State) (n : Nat) : State :=
  (List.range 16).foldl (fun s m =>
    if (s.beam m).cf .beamGenlock 2 0 m = 1 ∧ (s.beam m).cf .beamGenlock 9 4 m = n then s.holdover m else s) s

/-- LOCK of the audio clock. -/
def State.setAudLock (s : State) (st : Nat) : State :=
  if s.rf .audStatus 1 0 = st then s else (s.wf .audStatus 1 0 st).raise 370 domAudio

/-- The audio clock that follows beam n loses its reference: Holdover, as in the state table of R85 (R273). -/
def State.audSourceStops (s : State) (n : Nat) : State :=
  let st := s.rf .audStatus 1 0
  if s.rf .audClk 1 0 = 1 ∧ s.rf .audClk 7 2 = n ∧ (st = 1 ∨ st = 2) then s.setAudLock 3 else s

/-- WAIT_LINE holds on a beam that has stopped complete NOT_RUNNING (R66). -/
def State.stopWaits (s : State) (n : Nat) : State :=
  (List.range 64).foldl (fun s r =>
    match (s.ring r).hold with
    | some (.line i d) =>
      if descField d 8 1 % 16 = n then (s.setRing r { s.ring r with hold := none }).finish r i d 8 0 0 else s
    | _ => s) s

/-- What a stopped beam's generator, window and queue hold: nothing (R202). -/
def Beam.cleared (b : Beam) : Beam :=
  { b.closeWindows with
    run := .stopped, stopping := false, atStart := true, calDone := false, generating := false, gen := none
    restart := none, slots := [], copied := none, last := none, queue := [], lineBase := [], origins := []
    sorting := false, sorted := [], bands := [], vigilN := 0, quiet := 0, genlock := {}, em := [], g := 0, dl := 0
    emitted := 0, routePend := none }

/-- A beam stops (R83). -/
def State.stopBeam (s : State) (n : Nat) : State :=
  let s1 := s.setBeam n (s.beam n).cleared
  let s2 := (s1.wb .beamStatus 0 false n).wb .beamStatus 1 false n
  ((((s2.setLock n 0).dropDependents n).audSourceStops n).stopWaits n).followVigil.railsSettle

/-- A stopped beam takes what was still pending (R35, R175). -/
def State.settleStopped (s : State) (n : Nat) : State :=
  let s1 := s.adoptPl n
  match (s1.beam n).pend with
  | some (g, e, img) => s1.stoppedAdopt n g e img
  | none => s1

/-- The frame counter after one more frame start (R88). -/
def State.countFrame (s : State) (n : Nat) : State :=
  let f := s.frameNo n + 1
  if f < 2 ^ 48 then (s.wr .beamFrameLo (BitVec.ofNat 32 f) n).wf .beamFrameHi 15 0 (f / 2 ^ 32) n
  else s.wb .beamFrameHi 31 true n

/-- The FRAME_START cell of the frame now starting (R38, R253). -/
def State.frameStartCell (s : State) (n : Nat) : Cell :=
  let b := s.beam n
  let epoch := match b.copied with
    | some e => if b.curKind != .repeated && e.line == 0 then e.ver.epoch.toNat else (s.rd .sysBeamEpoch n).toNat
    | none => (s.rd .sysBeamEpoch n).toNat
  { type := 0x10, beam := n, epochLo := epoch % 2 ^ 16
    payload := payload [(0, bytesLE 4 epoch),
      (4, [BitVec.ofNat 8 (s.groupOf n), BitVec.ofNat 8 (b.curJump.toNat + (b.curKind == .repeated).toNat * 2)]),
      (8, bytesLE 8 b.calStamp.toNat), (16, bytesLE 6 (s.frameNo n)),
      (24, bytesLE 2 (b.cols n) ++ bytesLE 2 (b.lines n) ++ bytesLE 2 b.curLines),
      (32, bytesLE 4 (s.rd .cmpPleSeqLo).toNat ++ bytesLE 4 (s.rd .cmpPleSeqHi).toNat)] }

/-- The REPEAT cell (R91, R253). -/
def State.repeatCell (s : State) (n : Nat) : Cell :=
  let b := s.beam n
  let epoch := (s.rd .sysBeamEpoch n).toNat
  { type := 0x11, beam := n, epochLo := epoch % 2 ^ 16
    payload := payload [(0, bytesLE 4 epoch), (4, [BitVec.ofNat 8 (s.groupOf n)]), (8, bytesLE 8 b.calStamp.toNat),
      (16, bytesLE 6 (s.frameNo n)), (24, bytesLE 6 b.lastFull)] }

/-- The island takes up the frame that starts (R77, R81): its counter, its line count, its timing, its clock. -/
def State.frameTaken (s : State) (n : Nat) : State :=
  let s1 := (s.countFrame n).planFrame n
  let b := s1.beam n
  let b1 : Beam := { b with
    atStart := false, calDone := false, em := emTiming b.live n, startAt := s.now, lineAt := s.now, curKind := b.nextKind
    nextLine := 0, shedFrame := 0, shedRaised := false
    lastFull := if b.nextKind = .repeated then b.lastFull else s1.frameNo n }
  s1.setBeam n (b.slewTo b1 n s.now (s.rail (n / 8)).ready)

/-- A frame starts (R77, R81, R88, R91, R144): counters, event, cells, and the reference event it is to others. -/
def State.frameStart (s : State) (n : Nat) : State :=
  let shed := (s.beam n).shedFrame
  let s2 := s.frameTaken n
  let s3 := if shed = 0 then s2 else s2.wr .objFrameShed (BitVec.ofNat 32 (min shed (2 ^ 31 - 1))) n
  let s4 := s3.wr .beamPos (BitVec.ofNat 32 (s3.frameNo n % 2 ^ 16 * 2 ^ 16)) n
  let s5 := (s4.raise (16 * n + 1) (domBeam n)).raiseAll n (s4.frameStartCell n)
  let s6 := if (s5.beam n).curKind = .repeated then (s5.raiseAll n (s5.repeatCell n)).bump .beamVigilFrames n else s5
  s6.railsSettle.references 1 n s.now

/-- The frame may start: its Calends has passed and every line before it has begun to emit. -/
def Beam.frameDue (b : Beam) : Bool := b.run == .running && b.calDone && (b.atStart || b.nextLine == b.curLines)

/-- CALENDS (R78). -/
def execCalends (n : Fin 16) (s : State) : Host.Outcome State Fault Refusal :=
  .next (if (s.beam n).calendsDue n then s.calends n else s)

/-- BEAM_PLL_LOCK (R82, R369): once the rail is ready, the generator begins at the Calends of frame 0. -/
def execBeamPllLock (n : Fin 16) (s : State) : Host.Outcome State Fault Refusal :=
  .next (if (s.beam n).run = .starting && (s.rail (n / 8)).ready then
    let b := s.beam n
    (s.setBeam n { b with run := .running, em := emTiming b.live n, startAt := s.now, curLines := 0, nextLine := 0 }).calends n
  else s)

/-- GENLOCK_HOLDOVER (R85). -/
def execGenlockHoldover (n : Fin 16) (s : State) : Host.Outcome State Fault Refusal := .next (s.holdover n)

/-- A 32-bit read of BEAM_FRAME_LO: the low half, with the high half latched (R88). -/
def frameLoRead (n : Nat) (s : State) : Word × State :=
  (s.rd .beamFrameLo n, s.setBeam n { s.beam n with frameLatch := some (s.rd .beamFrameHi n) })

/-- A 32-bit read of BEAM_FRAME_HI: the latched half once, else the register. -/
def frameHiRead (n : Nat) (s : State) : Word × State :=
  match (s.beam n).frameLatch with
  | some w => (w, s.setBeam n { s.beam n with frameLatch := none })
  | none => (s.rd .beamFrameHi n, s)

end Sys2Proof.Machine
end

