-- ==== Sys2Proof/Machine/ObjOps.lean ====
section
/-! DEFINITION. Commands of the object unit and of the bitmap planes: the OAT change store (spec 07 R129, R130), the sort
stage and the binning workers (R137 to R141), the peak counter (R144) and missing import lines (spec 08 R159). -/

namespace Sys2Proof.Machine

/-- How a word written to a register fared (R5, R29, R61). -/
inductive WriteRes where
  | ok
  | rejected
  | crossGroup
deriving DecidableEq, Repr

/-- The words of beam n that were committed last: handed over, or adopted where nothing is pending. -/
def State.committedOf (s : State) (n : Nat) : RegFile :=
  match (s.beam n).pend with
  | some (_, _, img) => img
  | none => (s.beam n).live

/-- The groups that an entry belongs to as an enabled one (R29): that of its beam in the shadow, and that of the beam for which
it was committed last; none while it is disabled in both. -/
def State.oatGroups (s : State) (i : Nat) : List Nat :=
  (if bit (oatW s.regs i 0) 0 then [s.groupOf (oatBeam s.regs i)] else []) ++
    ((List.range 16).filter (fun n => bit (oatW (s.committedOf n) i 0) 0 && oatBeam (s.committedOf n) i == n)).map s.groupOf

/-- Word j of OAT entry i is written (R5, R29, R129, R130); a write that moves an enabled entry to another group does not
take effect: a descriptor's has a status of its own, any other is recorded. -/
def oatWrite (desc : Bool) (i j : Nat) (w : Word) (s : State) : WriteRes × State :=
  if !wordOk .oat j w then (.rejected, s.reject (addrOf .oat i j 0))
  else if j == 0 && (s.oatGroups i).any (· != s.groupOf (fld w 4 1)) then
    (if desc then (.crossGroup, s) else (.rejected, s.reject (addrOf .oat i j 0)))
  else if !s.oat.slots.contains i && 32768 ≤ s.oat.slots.length then
    (.rejected, (s.reject (addrOf .oat i j 0)).wb .objBinStatus 16 true)
  else
    let s1 := s.wr .oat w i j
    (.ok, { s1 with oat := { s1.oat with slots := setAdd i s.oat.slots, dirty := setAdd i s.oat.dirty } })

/-- The first band of a worker's own list, in ascending order. -/
def State.takeOwn (s : State) (k : Nat) : State :=
  match vget s.bin.work k none, vget s.bin.lists k [] with
  | none, x :: t => { s with bin := { lists := vset s.bin.lists k t, work := vset s.bin.work k (some x) } }
  | _, _ => s

/-- The lowest-numbered band not yet started, of any list but the worker's own: the list it is on, and the band. -/
def State.lowestBand (s : State) (k : Nat) : Option (Nat × Nat × Nat) :=
  ((List.range 16).filter (· ≠ k)).foldl (fun acc j =>
    (vget s.bin.lists j []).foldl (fun acc x => match acc with
      | none => some (j, x)
      | some y => if x.2 < y.2.2 then some (j, x) else acc) acc) none

/-- A worker with an empty list takes the lowest-numbered band of another list (R138). -/
def State.takeOther (s : State) (k : Nat) : State :=
  match vget s.bin.work k none with
  | some _ => s
  | none => match s.lowestBand k with
    | none => s
    | some (j, x) =>
      let l := (vget s.bin.lists j []).filter (· != x)
      ({ s with bin := { lists := vset s.bin.lists j l, work := vset s.bin.work k (some x) } }).bump .objBinSteals k

/-- Idle workers take their next bands: from their own lists first. -/
def State.dealWork (s : State) : State :=
  let s1 := (List.range 16).foldl (fun s k => s.takeOwn k) s
  (List.range 16).foldl (fun s k => s.takeOther k) s1

/-- A band dealt to a worker stands behind the bands of its list with the same or a lower number (R137). -/
def bandInsert (x : Nat × Nat) : List (Nat × Nat) → List (Nat × Nat)
  | [] => [x]
  | a :: t => if x.2 < a.2 then x :: a :: t else a :: bandInsert x t

/-- The sort stage of beam n ends (R137): the entries it kept, and every band dealt. -/
def State.endSort (s : State) (n : Nat) : State :=
  let b := s.beam n
  let live := s.seen b.live
  let (kept, s1) := (oatListed b.live).foldl (sortRead n live (b.lines n)) ([], s)
  let s2 := s1.bump .objXgroup n 0 0 (kept.filter (xGroup live (s1.groupOf n))).length
  let s3 := s2.setBeam n { s2.beam n with sorting := false, sorted := kept }
  let bands := List.range (s3.beam n).bands.length
  let lists := Vector.ofFn (fun k : Fin 16 =>
    (bands.filter (fun x => x % 16 == k.val)).foldl (fun l x => bandInsert (n, x) l) s3.bin.lists[k])
  ({ s3 with bin := { s3.bin with lists } }).dealWork

/-- Objects in the band store of beam n: complete lists whose last line has not been emitted (R140). -/
def Beam.bandStore (b : Beam) (n : Nat) : Nat :=
  (b.bands.zipIdx.map (fun x =>
    if b.emitted < min (8 * x.2 + 8) (b.lines n) then (x.1.objs.getD []).length else 0)).sum

/-- A worker completes its band list, if the band store has room for it (R138 to R140). -/
def State.bandComplete (s : State) (k : Nat) : State :=
  match vget s.bin.work k none with
  | none => s
  | some (n, x) =>
    let b := s.beam n
    let all := bandAll n (s.seen b.live) b.sorted x
    let kept := all.take 16384
    if 131072 < b.bandStore n + kept.length then s
    else
      let late := (b.bands[x]?.map (·.late)).getD false
      let s1 := s.setBeam n { b with bands := b.bands.set x ⟨some kept, late⟩ }
      let s2 := (s1.bump .objBandDrop n 0 0 (all.length - kept.length)).bump .objBinBands k
      ({ s2 with bin := { s2.bin with work := vset s2.bin.work k none } }).dealWork

/-- OBJ_PEAK.CLEAR (R144). -/
def peakClear (n : Nat) (s : State) : State := s.wf .objPeak 14 0 0 n

/-- Emission of line y − GRACE has begun (R159); before the frame's start its lines count back from it. -/
def Beam.graceOver (b : Beam) (y grace : Nat) : Bool :=
  if b.atStart then false
  else if b.calDone then b.curLines + y < b.nextLine + grace
  else y < b.nextLine + grace

/-- Line y is missing on plane k (R159). -/
def State.importMissing (s : State) (n k : Nat) : State :=
  let b := s.beam n
  match b.gen with
  | none => s
  | some gl =>
    let c := s.lineCtx n gl
    let ip := vget b.imports k {}
    if c.bmpReady k ip || !b.graceOver gl.line (c.f .bmpImp 11 8 k) then s
    else
      let ip' := { ip with missing := ip.missing ++ [gl.line], missRaised := true }
      let s1 := (s.setBeam n { b with imports := vset b.imports k ip' }).bump .bmpImpMiss n k
      if b.imports.toList.any (·.missRaised) then s1 else s1.raise (16 * n + 11) (domBeam n)

/-- OAT_WRITE (R130). -/
def execOatWrite (entry : Fin 131072) (word : Fin 8) (w : Word) (byDescriptor : Bool) (s : State) :
    Host.Outcome State Fault Refusal := .next (oatWrite byDescriptor entry word w s).2

/-- SORT_STAGE_END (R137). -/
def execSortStageEnd (n : Fin 16) (s : State) : Host.Outcome State Fault Refusal :=
  .next (if (s.beam n).sorting then s.endSort n else s)

/-- BAND_LIST_COMPLETE (R138). -/
def execBandListComplete (k : Fin 16) (s : State) : Host.Outcome State Fault Refusal := .next (s.bandComplete k)

/-- OBJ_PEAK_CLEAR (R144). -/
def execObjPeakClear (n : Fin 16) (s : State) : Host.Outcome State Fault Refusal := .next (peakClear n s)

/-- IMPORT_LINE_MISSING (R159). -/
def execImportLineMissing (n : Fin 16) (k : Fin 3) (s : State) : Host.Outcome State Fault Refusal :=
  .next (s.importMissing n k)

end Sys2Proof.Machine
end

