-- ==== Sys2Proof/Machine/PlEngine.lean ====
section
/-! DEFINITION. The PL engine (spec 09 R172 to R176): the package of R174, the checks of R173, and how an accepted
package takes effect (R175). -/

namespace Sys2Proof.Machine

/-- A field of n bytes of a package. -/
abbrev pkgField := descField

/-- Beams a package names, ascending. -/
def pkgBeams (p : List Byte) : List Nat := (List.range 16).filter (nbit (pkgField p 2 2))

/-- The bytes of beam image j. -/
def pkgImage (p : List Byte) (j : Nat) : List Byte := (p.drop (64 + 192 * j)).take 192

/-- The package sets the region. -/
def pkgSets (p : List Byte) : Bool := nbit (pkgField p 20 1) 1

/-- The PL registers that bytes 0 to 27 of a beam image hold, in order. -/
def plRegs : List RegName :=
  [.cmpPlCtrl, .cmpPlMap, .cmpPlTile, .cmpPlSize, .cmpPlPos, .cmpPlFaultRg, .cmpPlFaultB]

/-- The words of a beam image: those of the PL registers in order, then the palette's. -/
def plWords (im : List Byte) : List Word :=
  (List.range 7).map (fun k => BitVec.ofNat 32 (pkgField im (4 * k) 4)) ++
    (List.range 32).map (fun k => BitVec.ofNat 32 (pkgField im (64 + 4 * k) 4))

/-- No reserved field value in a beam image (R173). -/
def plImageOk (im : List Byte) : Bool :=
  plRegs.zipIdx.all (fun x => !reservedBits x.1 (BitVec.ofNat 32 (pkgField im (4 * x.2) 4))) &&
    nfld (pkgField im 12 4) 3 0 ≤ 10 && nfld (pkgField im 12 4) 11 8 ≤ 10 && pkgField im 28 36 == 0

/-- Check 2 of R173 holds. -/
def pkgFormatOk (p : List Byte) : Bool :=
  pkgField p 0 2 == 1 && pkgField p 2 2 != 0 && pkgField p 20 1 < 4 && pkgField p 21 3 == 0 && pkgField p 40 24 == 0 &&
    (pkgSets p || (pkgField p 32 4 == 0 && pkgField p 36 4 == 0)) &&
    (List.range (pkgBeams p).length).all (fun j => plImageOk (pkgImage p j))

/-- The region in MiB once the package is accepted. -/
def State.newRegion (s : State) (p : List Byte) : Nat × Nat :=
  if pkgSets p then (pkgField p 32 4, pkgField p 36 4)
  else (s.rf .cmpPleRegionBase 15 0, s.rf .cmpPleRegionSize 11 0)

/-- A byte area lies inside a region given in MiB. -/
def inRegion (r : Nat × Nat) (a n : Nat) : Bool := r.1 * 2 ^ 20 ≤ a && a + n ≤ (r.1 + r.2) * 2 ^ 20

/-- The map area of a beam image, and the least and the greatest extent of its tile area: the spec gives the tile area
no size, beyond the 2^20 tiles that a map entry can name. -/
def imageAreaOk (r : Nat × Nat) (open_ : Bool) (im : List Byte) : Bool :=
  let size := pkgField im 12 4
  let tile := pkgField im 8 4 * 4096
  inRegion r (pkgField im 4 4 * 4096) (4 * 2 ^ (nfld size 3 0 + nfld size 11 8)) &&
    inRegion r tile 128 && (inRegion r tile (128 * 2 ^ 20) || open_)

/-- Check 8 of R173 holds; `open_` says how the tile areas of open size fare. -/
def State.regionOk (s : State) (p : List Byte) (open_ : Bool) : Bool :=
  let r := s.newRegion p
  (!pkgSets p || (1 ≤ r.2 && r.2 ≤ 4095)) && r.1 + r.2 < 49152 &&
    pkgField p 28 4 * 64 + pkgField p 24 4 ≤ r.2 * 2 ^ 20 &&
    (List.range (pkgBeams p).length).all (fun j => imageAreaOk r open_ (pkgImage p j))

/-- SEQ of the last accepted package. -/
def State.pleSeq (s : State) : Nat := s.addr64 .cmpPleSeqLo .cmpPleSeqHi

/-- Where a package's PUBKEY stands (R174). -/
def pkgKeyAt (p : List Byte) : Nat := 64 + 192 * (pkgBeams p).length + pkgField p 24 4

/-- The first check of R173 from 2 on that a package fails, or 0. -/
def State.pkgResult (s : State) (p : List Byte) (open_ : Bool) : Nat :=
  let sealed := s.rb .cmpPleStatus 3
  if !pkgFormatOk p then 2
  else if 16777216 < pkgField p 24 4 ∨ pkgField p 24 4 % 64 ≠ 0 then 3
  else if sealed && !s.digestIs 2 (keyDigest p (pkgKeyAt p)) then 4
  else if sealed && !signedAt p (pkgKeyAt p) then 5
  else if pkgField p 8 8 ≤ s.pleSeq then 6
  else if nbit (pkgField p 20 1) 0 && pkgField p 16 4 != (s.rd .cmpPleNonce).toNat then 7
  else if !s.regionOk p open_ then 8
  else 0

/-- CMP_PLE_STATUS.STATE. -/
def State.pleState (s : State) : Nat := s.rf .cmpPleStatus 2 0

/-- The package ends: STATE Done with a RESULT, and PL_DONE (R173). -/
def State.pleEnd (s : State) (result : Nat) : State :=
  ((({ s with ple := { s.ple with pkg := [], sent := false } }).wf .cmpPleStatus 2 0 5).wf .cmpPleStatus 7 4 result).raise
    322 domCentral

/-- The engine asks the host for the package. -/
def State.pleFetch (s : State) : State :=
  (s.wf .cmpPleStatus 2 0 2).askHost (s.addr64 .cmpPleAddrLo .cmpPleAddrHi) 64

/-- GO through beam n's CMP_ block (R173): it waits in Sleep and from the beginning of its entry (R383); in Retired it does not
take effect. -/
def pleGo (n : Nat) (s : State) : State :=
  if (2 ≤ s.pleState ∧ s.pleState ≤ 4) ∨ s.lcState = 5 then
    s.wr .beamReject (BitVec.ofNat 32 ((beamBase n + 0x40C08) % 2 ^ 26 + 2 ^ 31)) n
  else if s.asleep then s.wf .cmpPleStatus 2 0 1
  else s.pleFetch

/-- Sleep has ended: a GO that waited starts the engine (R173). -/
def State.pleWake (s : State) : State := if s.pleState = 1 then s.pleFetch else s

/-- The package is fetched, or a read of it failed: none is made without Bus Master Enable (R48). -/
def pleFetched (pkg : Option (List Byte)) (s : State) : State :=
  if s.pleState ≠ 2 then s
  else match (if s.pci.busMaster then pkg else none) with
    | none => s.pleEnd 1
    | some p => ({ s with ple := { s.ple with pkg := p } }).wf .cmpPleStatus 2 0 3

/-- An accepted package: SEQ, KEYID and the region; the old region stays protected while a beam draws by it (R175). -/
def State.pleAccept (s : State) (p : List Byte) : State :=
  let old : OldRegion := ⟨s.rf .cmpPleRegionBase 15 0, s.rf .cmpPleRegionSize 11 0, s.ple.accepted + 1, List.range 16⟩
  let r := s.newRegion p
  let keep := pkgSets p && old.size != 0 && old.beams.any (fun n => s.rb .cmpPlCtrl 0 n)
  let s1 := { s with ple := { s.ple with
    accepted := s.ple.accepted + 1, old := if keep then s.ple.old ++ [old] else s.ple.old } }
  let s2 := (s1.wr .cmpPleSeqLo (BitVec.ofNat 32 (pkgField p 8 4))).wr .cmpPleSeqHi (BitVec.ofNat 32 (pkgField p 12 4))
  let s3 := s2.wr .cmpPleKeyid (BitVec.ofNat 32 (pkgField p 4 4))
  ((s3.wf .cmpPleRegionBase 15 0 r.1).wf .cmpPleRegionSize 11 0 r.2).wf .cmpPleStatus 2 0 4

/-- Verification ends (R173). -/
def pleVerified (s : State) : State :=
  if s.pleState ≠ 3 then s
  else
    let (v, s1) := s.fresh 2
    let k := s1.pkgResult s1.ple.pkg (v == 1)
    if k = 0 then s1.pleAccept s1.ple.pkg else s1.pleEnd k

/-- The data are in the region and the banks are on their way (R175). Every line written is whole. -/
def pleWritten (s : State) : State :=
  if s.pleState ≠ 4 || s.ple.sent then s
  else
    let p := s.ple.pkg
    let data := (p.drop (64 + 192 * (pkgBeams p).length)).take (pkgField p 24 4)
    let a := s.rf .cmpPleRegionBase 15 0 * 2 ^ 20 + pkgField p 28 4 * 64
    let s1 := s.psWrite 16 a ((padTo (pkgField p 24 4) data).map some)
    { s1 with ple := { s1.ple with sent := true } }

/-- The banks reach the beams: a beam that runs or starts keeps its bank for the Calends, a stopped one adopts at once (R175). -/
def bankArrival (s : State) : State :=
  if s.pleState ≠ 4 || !s.ple.sent then s
  else
    let p := s.ple.pkg
    let s1 := (pkgBeams p).zipIdx.foldl (fun s x =>
      let n := x.1
      let s1 := s.setBeam n { s.beam n with plPend := some (s.ple.accepted, plWords (pkgImage p x.2)) }
      if (s1.beam n).run = .stopped then s1.adoptPl n else s1) s
    s1.pleEnd 0

/-- PLE_GO (R173). -/
def execPleGo (n : Fin 16) (s : State) : Host.Outcome State Fault Refusal := .next (pleGo n s)

/-- PLE_FETCH_DONE (R173). -/
def execPleFetchDone (pkg : Option (List Byte)) (s : State) : Host.Outcome State Fault Refusal := .next (pleFetched pkg s)

/-- PLE_VERIFY_DONE (R173). -/
def execPleVerifyDone (s : State) : Host.Outcome State Fault Refusal := .next (pleVerified s)

/-- PLE_WRITE_DONE (R175). -/
def execPleWriteDone (s : State) : Host.Outcome State Fault Refusal := .next (pleWritten s)

/-- PL_BANK_ARRIVAL (R175). -/
def execPlBankArrival (s : State) : Host.Outcome State Fault Refusal := .next (bankArrival s)

end Sys2Proof.Machine
end

