-- ==== Sys2Proof/Machine/LinkRx.lean ====
section
/-! DEFINITION. Link ports: training and negotiation (spec 12 R256 to R262), alignment and FEC (R249, R250), credits
(R263, R264), received cells (R252, R269) and the import rings they fill (spec 08 R158, R160). -/

namespace Sys2Proof.Machine

/-- Port state written (R256). -/
def State.setPortState (s : State) (p st : Nat) : State := s.wf .lnkPStatus 2 0 st p

/-- Partly received lines and waiting cells are gone: the port holds what it holds outside Active. -/
def Port.emptied (g : Port) : Port :=
  { g with credit := [], cap := [], ctl := [], audio := [], pixels := [], late := [], started := [], starved := 0
           rxLines := [], rxTrack := [], held := [], capHeld := false, okSent := false, okGot := false
           ucw := [[], [], [], []], crcBad := [], audFrames := [] }

/-- RATE, LANES and FEC of the status: no mode is in use. -/
def State.noMode (s : State) (p : Nat) : State := s.wf .lnkPStatus 9 3 0 p

/-- Every exit from Active raises LINK_CHANGE (R256). -/
def State.exitActive (s : State) (p : Nat) : State :=
  if s.portState p = 5 then s.raise (352 + p) (domPort p) else s

/-- Training begins at a rate: no grades yet (R257). -/
def State.trainAt (s : State) (p rate : Nat) : State :=
  let g := s.port p
  let s1 := s.setPort p { g with rate := rate, lastRate := rate, lanes := Vector.replicate 4 {} }
  s1.wr .lnkPGrade (BitVec.ofNat 32 (rate * 2 ^ 16)) p

/-- A port enters Base: the attempt reads LNK_CTRL and trains at code 1 (R256, R258, R260). -/
def State.enterBase (s : State) (p : Nat) : State :=
  let g := (s.port p).emptied
  let s1 := s.setPort p { g with
    ctl0 := s.rd .lnkPCtrl p, common := 0, fec := false, fecBad := false, trained := [], base := [], final := false
    mode := [] }
  ((s1.noMode p).setPortState p 1).trainAt p 1

/-- A failed attempt (R256). -/
def State.failPort (s : State) (p : Nat) : State :=
  let n := min (s.rf .lnkPStatus 19 16 p + 1) 15
  let s1 := s.setPort p { (s.port p).emptied with longWait := 3 ≤ n, rate := 0 }
  ((s1.noMode p).wf .lnkPStatus 19 16 n p).setPortState p 6

/-- A renegotiation of an Active port (R260): lines partly sent are counted, the cause kept, and Base begins. -/
def State.renegotiate (s : State) (p cause : Nat) : State :=
  if s.portState p ≠ 5 then s
  else
    let s1 := (s.portCount p 2 (s.port p).started.length).portCount p 4 1
    ((s1.wf .lnkPStatus 15 13 cause p).exitActive p).enterBase p

/-- A port goes to Disabled (R256, R262). -/
def State.disablePort (s : State) (p : Nat) : State :=
  let s1 := (s.exitActive p).noMode p
  (s1.setPort p { (s1.port p).emptied with rate := 0, lanes := Vector.replicate 4 {} }).setPortState p 0

/-- A port with EN leaves Disabled outside Sleep (R256). -/
def State.startPort (s : State) (p : Nat) : State :=
  if s.rb .lnkPCtrl 0 p && s.portState p == 0 && s.mode != 4 then s.enterBase p else s

/-- A write of LNK_CTRL (R256, R260): EN, and RENEG. -/
def lnkCtrlWrite (p : Nat) (w : Word) (s : State) : State :=
  let s1 := s.wr .lnkPCtrl (setBit w 11 false) p
  if bit w 0 then (if bit w 11 then s1.renegotiate p 4 else s1).startPort p
  else if s1.portState p = 0 then s1 else s1.disablePort p

/-- The state with a lane of a port replaced. -/
def State.setLane (s : State) (p k : Nat) (x : Lane) : State :=
  s.setPort p { s.port p with lanes := vset (s.port p).lanes k x }

/-- A lane graded in both directions. -/
def Lane.graded (x : Lane) : Bool := x.localGrade != 0 && x.remoteGrade != 0

/-- Every lane trained is graded in both directions. -/
def Port.allGraded (g : Port) : Bool := g.mask.all (fun k => (g.lane k).graded)

/-- A lane is usable at the rate being trained (R258). -/
def Port.laneUsable (g : Port) (k : Nat) : Bool :=
  let least := if g.fec then 2 else 3
  least ≤ (g.lane k).localGrade && least ≤ (g.lane k).remoteGrade

/-- Usable lanes, ascending. -/
def Port.usable (g : Port) : List Nat := g.mask.filter g.laneUsable

/-- Gbit/s of a rate code. -/
def rateGbit (c : Nat) : Nat := [0, 28, 56, 112].getD c 0

/-- Modes in order of preference (R258): rate code and lanes. -/
def modeOrder : List (Nat × Nat) :=
  [(3, 4), (3, 3), (2, 4), (3, 2), (2, 3), (1, 4), (2, 2), (3, 1), (1, 3), (1, 2), (2, 1), (1, 1)]

/-- The highest rate code below c that both sides allow, or 0. -/
def Port.lowerRate (g : Port) (c : Nat) : Nat :=
  if 3 < c ∧ nbit g.common 2 then 3 else if 2 < c ∧ nbit g.common 1 then 2 else if 1 < c ∧ nbit g.common 0 then 1 else 0

/-- The mode is selected (R258): training is over, or goes on once more at the selected rate. -/
def State.selectMode (s : State) (p : Nat) : State :=
  let g := s.port p
  match modeOrder.find? (fun m => g.trained.any (fun t => t.1 == m.1 && m.2 ≤ t.2.length)) with
  | none => s.failPort p
  | some (r, k) =>
    let lanes := ((g.trained.find? (fun t => t.1 == r)).map (fun t => t.2.take k)).getD []
    if r = g.lastRate then s.setPort p { g with rate := 0, lastRate := r, mode := lanes }
    else (s.setPort p { g with final := true }).trainAt p r

/-- The result at a rate is known (R258): Descent stops or steps down. -/
def State.descend (s : State) (p r : Nat) (lanes : List Nat) : State :=
  let g := s.port p
  let s1 := s.setPort p { g with trained := g.trained ++ [(r, lanes)] }
  let l := g.lowerRate r
  if lanes.length = 4 ∨ l = 0 ∨ rateGbit l * 4 < rateGbit r * lanes.length then s1.selectMode p
  else if l = 1 then
    (s1.setPort p { s1.port p with trained := (s1.port p).trained ++ [(1, g.base)] }).selectMode p
  else s1.trainAt p l

/-- In Descent, all grades at the rate being trained are in. -/
def State.progress (s : State) (p : Nat) : State :=
  let g := s.port p
  if s.portState p = 2 && g.rate != 0 && g.allGraded then
    if g.final then
      if g.usable.isEmpty then s.failPort p
      else s.setPort p { g with rate := 0, mode := g.usable }
    else s.descend p g.rate g.usable
  else s

/-- GRADE shows a lane's grades. -/
def State.showGrades (s : State) (p k : Nat) : State :=
  let x := (s.port p).lane k
  (s.wf .lnkPGrade (2 * k + 1) (2 * k) x.localGrade p).wf .lnkPGrade (2 * k + 9) (2 * k + 8) x.remoteGrade p

/-- One tap's request and what this side answers (R257): the limits of the taps are the part's. -/
def State.tapRequest (s : State) (x : Lane) (t req : Nat) : Lane × State :=
  let set (v : Nat) (d : Int) : Lane :=
    { x with tapStatus := x.tapStatus - nfld x.tapStatus (2 * t + 1) (2 * t) * 4 ^ t + v * 4 ^ t
             taps := x.taps.set t (x.taps.getD t 0 + d) }
  if req = 0 then (set 0 0, s)
  else if nfld x.tapStatus (2 * t + 1) (2 * t) ≠ 0 then (x, s)
  else if req = 3 then (set 3 0, s)
  else
    let (v, s1) := s.fresh 2
    (if v = 1 then set 2 0 else set 1 (if req = 1 then 1 else -1), s1)

/-- The control field of a lane is acted on: a preset, then the taps (R257). -/
def State.actControl (s : State) (p k : Nat) : State :=
  let x := (s.port p).lane k
  let (x1, s1) := if fld x.ctl 9 8 = 0 then (x, s) else
    (List.range 4).foldl (fun (x, s) t =>
      let (v, s1) := s.fresh 64
      ({ x with taps := x.taps.set t ((v : Int) - 32) }, s1)) (x, s)
  let (x2, s2) := (List.range 4).foldl (fun (x, s) t => s.tapRequest x t (fld x.ctl (2 * t + 1) (2 * t))) (x1, s1)
  s2.setLane p k x2

/-- The status field of a lane is acted on: rates, FEC, the grade at the partner (R257, R258). -/
def State.actStatus (s : State) (p k : Nat) : State :=
  let g := s.port p
  let x := g.lane k
  let w := x.status
  let cap := bit w 11
  let own := bit g.ctl0 8
  let s1 := s.setPort p { g with
    common := fld g.ctl0 3 1 &&& fld w 10 8
    fec := cap && own
    fecBad := (bit w 12 && !own) || (bit g.ctl0 9 && !cap)
    lanes := vset g.lanes k { x with
      remoteGrade := if bit w 15 then fld w 14 13 else x.remoteGrade, peerLane := fld w 17 16 } }
  s1.showGrades p k

/-- This side's own control field after the partner's status (R257): a tap request is held until the matching status is
updated or at limit, and then holds. Which taps this receiver asks to move, and when it has converged, the spec leaves to
it: free values (log entry 101). -/
def State.ownControl (s : State) (p k : Nat) : State :=
  let x := (s.port p).lane k
  let (taps, s1) := (List.range 4).foldl (fun ((acc, s) : Nat × State) t =>
    let r := fld x.own (2 * t + 1) (2 * t)
    let ack := fld x.status (2 * t + 1) (2 * t)
    if r ≠ 0 then (acc + (if ack = 1 ∨ ack = 2 then 0 else r) * 4 ^ t, s)
    else if x.rxReady || ack != 0 then (acc, s)
    else
      let (v, s) := s.fresh 3
      (acc + v * 4 ^ t, s)) (0, s)
  let (done, s2) := s1.fresh 2
  let ready := x.rxReady || done == 1
  s2.setLane p k { x with rxReady := ready, own := BitVec.ofNat 32 (taps + ready.toNat * 2 ^ 10) }

/-- A training frame is received (R257): a field's value is acted on once it was received alike in three frames in a row; the
frame's marker shows the polarity of the pair (R246). An Active port renegotiates (R260). -/
def trainingFrame (p k : Nat) (control status : Word) (inverted : Bool) (s : State) : State :=
  let st := s.portState p
  if st = 5 then s.renegotiate p 6
  else if st ≠ 1 ∧ st ≠ 2 then s
  else
    let x := (s.port p).lane k
    let c := if x.ctl = control then min (x.ctlSame + 1) 3 else 1
    let t := if x.status = status then min (x.statusSame + 1) 3 else 1
    let s1 := s.setLane p k { x with
      ctl := control, status := status, ctlSame := c, statusSame := t, inverted := inverted }
    let s2 := if c < 3 then s1 else s1.actControl p k
    let s3 := if t < 3 then s2 else (s2.actStatus p k).ownControl p k
    s3.progress p

/-- A lane graded here (R257): errors in 10^9 bits. -/
def laneGraded (p k errors : Nat) (s : State) : State :=
  let g := s.port p
  let x := g.lane k
  if (s.portState p = 1 ∨ s.portState p = 2) ∧ g.rate ≠ 0 ∧ g.mask.contains k ∧ x.localGrade = 0 then
    let v := if errors = 0 then 3 else if errors ≤ 200000 then 2 else 1
    ((s.setLane p k { x with localGrade := v, rxReady := true, own := setBit x.own 10 true }).showGrades p k).progress p
  else s

/-- A lane not graded in both directions in 100 ms counts as failed (R257). -/
def gradeTimeout (p k : Nat) (s : State) : State :=
  let g := s.port p
  let x := g.lane k
  if (s.portState p = 1 ∨ s.portState p = 2) ∧ g.rate ≠ 0 ∧ g.mask.contains k ∧ !x.graded then
    ((s.setLane p k { x with localGrade := 1, remoteGrade := 1 }).showGrades p k).progress p
  else s

/-- Base is complete (R258): Descent trains at the highest common rate, or reuses Base's result. -/
def baseComplete (p : Nat) (s : State) : State :=
  let g := s.port p
  if s.portState p ≠ 1 || !g.allGraded then s
  else if g.fecBad || g.common == 0 then s.failPort p
  else if g.usable.isEmpty then s
  else
    let s1 := (s.setPort p { g with base := g.usable }).setPortState p 2
    let h := g.lowerRate 4
    if h = 1 then s1.descend p 1 g.usable else s1.trainAt p h

/-- Descent is complete (R256): the port enters Align in the mode selected. -/
def descentComplete (p : Nat) (s : State) : State :=
  let g := s.port p
  if s.portState p ≠ 2 || g.rate != 0 then s
  else if g.fecBad || g.mode.isEmpty then s.failPort p
  else
    let lanes := g.mode.foldl (fun a k => a + 2 ^ k) 0
    let s1 := ((s.wf .lnkPStatus 4 3 g.lastRate p).wf .lnkPStatus 8 5 lanes p).wb .lnkPStatus 9 g.fec p
    let kept := Vector.ofFn (fun k : Fin 4 => ({ inverted := (g.lane k).inverted, peerLane := (g.lane k).peerLane } : Lane))
    ((s1.setPort p { g with lanes := kept }).lanesBegin p).setPortState p 3

/-- The lanes of the mode can be deskewed (R250): no two are more than 32 block times apart. -/
def State.deskewed (s : State) (p : Nat) : Bool :=
  (s.modeLanes p).all (fun j => (s.modeLanes p).all (fun k => ((s.port p).lane j).skew ≤ ((s.port p).lane k).skew + 32))

/-- All mode lanes are locked and deskewed: Align ends (R256). -/
def State.alignDone (s : State) (p : Nat) : State :=
  if s.portState p = 3 && (s.modeLanes p).all (fun k => ((s.port p).lane k).locked) && s.deskewed p then s.setPortState p 4
  else s

/-- The slot of an alignment marker passes without a valid one (R250); the third in a row loses lock. -/
def markerBad (p k : Nat) (s : State) : State :=
  if s.portState p < 3 ∨ 5 < s.portState p || !(s.modeLanes p).contains k then s
  else
    let x := (s.port p).lane k
    let n := x.amBad + 1
    let s1 := s.setLane p k { x with amGood := 0, amBad := n, locked := x.locked && n < 3 }
    if x.locked && 3 ≤ n then s1.renegotiate p 1 else s1

/-- An alignment marker is received (R250): valid when its CRC checks. It tells the partner's port, lane, INDEX and COUNT
(R246), and it came `skew` block times after the first lane's. -/
def markerRx (p k : Nat) (bs : List Byte) (skew : Nat) (s : State) : State :=
  if crc32c (bs.take 28) ≠ leNat ((bs.drop 28).take 4) then markerBad p k s
  else if s.portState p < 3 ∨ 5 < s.portState p || !(s.modeLanes p).contains k then s
  else
    let x := (s.port p).lane k
    let at_ (i : Nat) : Nat := (bs.getD i 0).toNat
    (s.setLane p k { x with
      amGood := x.amGood + 1, amBad := 0, locked := x.locked || 2 ≤ x.amGood + 1, skew := skew, peerLane := at_ 5
      marker := some (at_ 4, at_ 5, at_ 6, at_ 7) }).alignDone p

/-- Times of errors, with the one now, that lie within 1 ms (R260). -/
def State.lastMs (s : State) (ts : List Nat) : List Nat := ts.filter (fun t => (s.now + 2 ^ 64 - t) % 2 ^ 64 ≤ 1000000) ++ [s.now]

/-- Planes that import a beam from a port: beam and plane. -/
def State.importers (s : State) (p beam : Nat) : List (Nat × Nat) :=
  (List.range 16).flatMap (fun n => (List.range 3).filterMap (fun k =>
    let b := s.beam n
    if b.cf .bmpCtrl 0 0 n k == 1 && b.cf .bmpCtrl 4 1 n k == 12 && b.cf .bmpImp 2 0 n k == p &&
      b.cf .bmpImp 6 3 n k == beam then some (n, k) else none))

/-- Lines of an imported beam are lost (R158). -/
def State.lineLost (s : State) (p beam : Nat) (count : Nat := 1) : State :=
  if count = 0 then s else (s.importers p beam).foldl (fun s x => s.bump .bmpImpLost x.1 x.2 0 count) s

/-- A line marked as broken expects no cell. -/
def brokenIdx : Nat := 65536

/-- The lines being received that have lost no cell so far are lost (R158). -/
def State.losePartial (s : State) (p : Nat) : State :=
  ((s.port p).rxLines.filter (fun l => l.next != brokenIdx)).foldl (fun s l => s.lineLost p l.beam) s

/-- A cause-2 renegotiation (R260): the lines of which received cells were lost are counted (R158). -/
def State.tooManyErrors (s : State) (p : Nat) : State := (s.losePartial p).renegotiate p 2

/-- An FEC codeword is decoded (R249): `cells` of the cells it holds bytes of are lost when it is uncorrectable. -/
def codewordRx (p k errors : Nat) (miscorrected : Bool) (cells : Nat) (s : State) : State :=
  if !s.rb .lnkPStatus 9 p || s.portState p < 3 || 5 < s.portState p then s
  else if errors ≤ 15 then s.bump .lnkPFecCe p k 0 errors
  else if miscorrected then
    let (v, s1) := s.fresh 16
    s1.bump .lnkPFecCe p k 0 v
  else
    let s1 := (s.bump .lnkPFecUe p k).portCount p 6 cells
    let g := s1.port p
    let ts := s1.lastMs (g.ucw.getD k [])
    let s2 := s1.setPort p { g with ucw := g.ucw.set k ts }
    if s2.rf .lnkPCtrl 23 16 p < ts.length then s2.tooManyErrors p else s2

/-- A received cell fails its CRC, or carries a reserved TYPE or header bit (R252, R260). -/
def cellBad (p : Nat) (badType : Bool) (s : State) : State :=
  if s.portState p ≠ 4 ∧ s.portState p ≠ 5 then s
  else if badType then s.portCount p 9 1
  else
    let s1 := s.portCount p 5 1
    if s1.rb .lnkPStatus 9 p then s1
    else
      let ts := s1.lastMs (s1.port p).crcBad
      let s2 := s1.setPort p { s1.port p with crcBad := ts }
      if s2.rf .lnkPCtrl 23 16 p < ts.length then s2.tooManyErrors p else s2

/-- A time limit of Base, Align or Exchange passes (R256). -/
def portTimeout (p : Nat) (s : State) : State :=
  let st := s.portState p
  if (st = 1 && (s.port p).usable.isEmpty) || st = 3 || st = 4 then s.failPort p else s

/-! Received cells. -/

/-- A sequence gap (R264): partly received lines of every beam are discarded, and the next cell of each beam tells which
whole lines fell into it. -/
def State.dropPartial (s : State) (p : Nat) : State :=
  let g := s.port p
  (s.losePartial p).setPort p { g with
    rxLines := g.rxLines.map (fun l => { l with next := brokenIdx })
    rxTrack := g.rxTrack.map (fun t => { t with gap := true }) }

/-- What a port knows of a beam's lines is replaced. -/
def State.setTrack (s : State) (p : Nat) (t : RxTrack) : State :=
  let g := s.port p
  s.setPort p { g with rxTrack := g.rxTrack.filter (fun x => x.beam != t.beam) ++ [t] }

/-- A cell of line l of a beam arrives: the lines between it and the line before, if a gap swallowed them whole, are lost
(R158). -/
def State.trackLine (s : State) (p beam l : Nat) : State :=
  match (s.port p).rxTrack.find? (fun t => t.beam == beam) with
  | none => s.setTrack p ⟨beam, l + 1, 0, false⟩
  | some t =>
    let lost := if !t.gap || l + 1 = t.next then 0
      else if t.next ≤ l then l - t.next
      else t.lines - t.next + l
    (s.lineLost p beam lost).setTrack p { t with next := l + 1, gap := false }

/-- A FRAME_START of a beam arrives: so with the last lines of the frame before. -/
def State.trackFrame (s : State) (p beam lines : Nat) : State :=
  let lost := match (s.port p).rxTrack.find? (fun t => t.beam == beam) with
    | some t => if t.gap then t.lines - t.next else 0
    | none => 0
  (s.lineLost p beam lost).setTrack p ⟨beam, 0, lines, false⟩

/-- A CREDIT cell with NEXT = e waits to leave (R264). -/
def State.sendCredit (s : State) (p : Nat) : State :=
  let g := s.port p
  s.setPort p { g with credit := g.credit ++ [creditCell g.rxSeq], freed := g.rxSeq }

/-- A cell that carries SEQ arrives on an Active port (R264): whether it is accepted. -/
def State.rxAccept (s : State) (p seq : Nat) : Bool × State :=
  let d := (seq + 2 ^ 16 - (s.port p).rxSeq) % 2 ^ 16
  if s.portState p ≠ 5 then (false, s)
  else if 32768 ≤ d then (false, s.portCount p 8 1)
  else
    let s1 := if d = 0 then s else (s.portCount p 7 d).dropPartial p
    let s2 := s1.setPort p { s1.port p with rxSeq := (seq + 1) % 2 ^ 16 }
    let g := s2.port p
    (true, if 64 ≤ (g.rxSeq + 2 ^ 16 - g.freed) % 2 ^ 16 then s2.sendCredit p else s2)

/-- An accepted cell that nothing uses (R269). -/
def State.unusedCell (s : State) (p : Nat) : State := s.portCount p 10 1

/-- A component of a received cell widened to 12 bits (R158). -/
def widenRx (depth : Nat) (ycc : Bool) (v : Nat) : Nat :=
  let b := depthBits depth
  if ycc then v * 2 ^ (12 - b) else widen b v

/-- The pixels of a received payload (R254). -/
def unpackPixels (depth : Nat) (ycc : Bool) (v : Nat) : Nat → List OutPixel
  | 0 => []
  | n + 1 =>
    let b := 2 ^ depthBits depth
    ⟨widenRx depth ycc (v % b), widenRx depth ycc (v / b % b), widenRx depth ycc (v / (b * b) % b), 0⟩ ::
      unpackPixels depth ycc (v / (b * b * b)) n

/-- A pixel in an import ring (R158). -/
def ringBytes (x : OutPixel) : List Byte := bytesLE 2 (x.c0 * 16) ++ bytesLE 2 (x.c1 * 16) ++ bytesLE 2 (x.c2 * 16) ++ [0, 0]

/-- A whole line is stored in plane k's ring of beam n, or lost to the PL region (R158, R172). -/
def State.storeLine (s : State) (l : RxLine) (x : Nat × Nat) : State :=
  let (n, k) := x
  let b := s.beam n
  let slot := l.line % b.cf .bmpImp 26 13 n k
  let a := b.cf .bmpBaseY 27 0 n k * 256 + slot * (b.cf .bmpPitch 11 0 n k * 256)
  let px := l.pixels.take (b.cf .bmpSize 13 0 n k + 1)
  let ip := vget b.imports k {}
  if s.inPlRegion a (8 * px.length) then (s.deny a (8 * px.length)).bump .bmpImpLost n k
  else
    let s1 := s.psWrite n a ((px.flatMap ringBytes).map some)
    let ip' := { ip with slots := kvSet slot ⟨l.line, l.epochLo, px.length, none⟩ ip.slots }
    (s1.setBeam n { s1.beam n with imports := vset (s1.beam n).imports k ip' }).wb .bmpImpStatus 16 true n k

/-- The line being received of a beam becomes another, or none. -/
def State.setRxLine (s : State) (p beam : Nat) (l : Option RxLine) : State :=
  let g := s.port p
  s.setPort p { g with rxLines := g.rxLines.filter (fun x => x.beam != beam) ++ l.toList }

/-- An accepted PIXEL cell joins its line, which is stored at its EOL cell (R158, R264). -/
def State.pixelCell (s : State) (p : Nat) (c : Cell) : State :=
  let ims := s.importers p c.beam
  if ims.isEmpty then s.unusedCell p
  else
    let st := s.trackLine p c.beam c.line
    let px := unpackPixels c.depth c.ycc (leNat (padTo 240 c.payload)) c.count
    let old := (st.port p).rxLines.find? (fun l => l.beam == c.beam)
    let same := old.filter (fun l => l.line == c.line && l.epochLo == c.epochLo && c.cidx != 0)
    let s1 := match old, same with
      | some l, none => if l.next = brokenIdx then st else st.lineLost p c.beam
      | _, _ => st
    let broken (lost : Bool) : State :=
      let s2 := if lost then s1.lineLost p c.beam else s1
      s2.setRxLine p c.beam (if c.eol then none else some ⟨c.beam, c.line, brokenIdx, c.epochLo, []⟩)
    let grown (l : RxLine) : State :=
      if c.eol then ims.foldl (fun s x => s.storeLine l x) (s1.setRxLine p c.beam none)
      else s1.setRxLine p c.beam (some l)
    match same with
    | some l =>
      if l.next = c.cidx then grown { l with next := c.cidx + 1, pixels := l.pixels ++ px }
      else broken (l.next != brokenIdx)
    | none => if c.cidx = 0 then grown ⟨c.beam, c.line, 1, c.epochLo, px⟩ else broken true

/-- An accepted FRAME_START (R269): the reference event of REF_BEAM; a full frame after repeat frames is fresh (R160). -/
def State.frameStartRx (s : State) (p beam : Nat) (repeated : Bool) (lines : Nat) : State :=
  let s0 := if (s.importers p beam).isEmpty then s else s.trackFrame p beam lines
  let s1 := if s.rf .lnkPRxCtrl 3 0 p = beam then s0.references 2 p s.now else s0.unusedCell p
  if repeated then s1
  else (s1.importers p beam).foldl (fun s x =>
    let b := s.beam x.1
    let ip := vget b.imports x.2 {}
    if ip.repeating then
      ((s.setBeam x.1 { b with imports := vset b.imports x.2 { ip with repeating := false } }).wb .bmpImpStatus 17 true
        x.1 x.2).raise (16 * x.1 + 12) (domBeam x.1)
    else s) s1

/-- An accepted REPEAT (R160): every slot counts as newly arrived, with what it holds. -/
def State.repeatRx (s : State) (p beam : Nat) : State :=
  let ims := s.importers p beam
  if ims.isEmpty then s.unusedCell p
  else ims.foldl (fun s x =>
    let b := s.beam x.1
    let ip := vget b.imports x.2 {}
    let slots := ip.slots.map (fun t => (t.1, { t.2 with used := none }))
    (s.setBeam x.1 { b with imports := vset b.imports x.2 { ip with repeating := true, slots } }).wb .bmpImpStatus 16 true
      x.1 x.2) s

/-- An accepted FENCE (R40, R269): to the group that it names, where that is a follower that lists the port. -/
def State.fenceRx (s : State) (p g : Nat) (epoch : Word) : State :=
  if s.rb .sysCgCtrl 0 g && s.rb .sysCgCtrl 1 g && s.rb .sysCgCtrl (2 + p) g then s.fenceArrive g epoch
  else s.unusedCell p

/-- What a CAP cell says (R259). -/
def State.keepPeer (s : State) (p : Nat) (c : CapFields) : State :=
  s.wr .lnkPPeer (BitVec.ofNat 32 (c.formats.toNat + c.audio.toNat % 64 * 2 ^ 6 + c.flags.toNat % 4 * 2 ^ 12)) p

/-- Depth and serial number of the partner. -/
def State.keepPeerId (s : State) (p : Nat) (c : CapFields) : State :=
  ((s.wf .lnkPPeerDepth 15 0 c.depth.toNat p).wr .lnkPPeerIdLo (BitVec.ofNat 32 c.device.toNat) p).wr .lnkPPeerIdHi
    (BitVec.ofNat 32 (c.device.toNat / 2 ^ 32)) p

/-- RATE, LANES and FEC of a CAP are this side's own. -/
def State.capMatches (s : State) (p : Nat) (c : CapFields) : Bool :=
  c.rate.toNat == s.rf .lnkPStatus 4 3 p && c.lanes.toNat == (s.modeLanes p).length &&
    c.fec == s.rb .lnkPStatus 9 p

/-- Exchange is complete when PEER_OK was sent and received (R259): the port enters Active (R256, R263, R264, R267). -/
def State.exchangeDone (s : State) (p : Nat) : State :=
  let g := s.port p
  if s.portState p = 4 && g.okSent && g.okGot then
    let s1 := s.setPort p { g with
      txSeq := 0, next := 0, gotCredit := false, rxSeq := 0, freed := 0, rxLines := [], rxTrack := [], longWait := false
      ucw := [[], [], [], []], crcBad := [], audIndex := 0, audFrames := [] }
    let s2 := ((s1.wf .lnkPStatus 19 16 0 p).setPortState p 5).raise (352 + p) (domPort p)
    ((List.range 16).foldl (fun s n => s.joinPort n p (s.joinAt n)) s2).capUpdate p
  else s

/-- A CAP cell (R259 to R261). -/
def capRx (p seq : Nat) (c : CapFields) (s : State) : State :=
  if s.portState p = 4 then
    if s.capMatches p c then
      let s1 := (s.keepPeer p c).keepPeerId p c
      let g := s1.port p
      (s1.setPort p { g with capHeld := true, okGot := g.okGot || c.flags.getLsbD 2 }).exchangeDone p
    else (s.wf .lnkPStatus 15 13 5 p).failPort p
  else
    let (ok, s1) := s.rxAccept p seq
    if !ok || !c.flags.getLsbD 3 then s1
    else if s1.capMatches p c && c.depth.toNat == s1.rf .lnkPPeerDepth 15 0 p &&
        c.device.toNat == s1.addr64 .lnkPPeerIdLo .lnkPPeerIdHi p then (s1.keepPeer p c).cutAudio p
    else s1.renegotiate p 5

/-- In Exchange a CAP leaves, with PEER_OK once a matching one is held (R259); its SEQ is open. -/
def capTimer (p : Nat) (s : State) : State :=
  if s.portState p ≠ 4 then s
  else
    let (v, s1) := s.fresh (2 ^ 16)
    let ok := (s1.port p).capHeld
    let s2 := s1.sendCell p (s1.capCell p ok false) v
    let g := s2.port p
    (s2.setPort p { g with
      okSent := g.okSent || ok, advRepeat := s2.ownRepeat p, advFence := s2.ownFence p }).exchangeDone p

/-- A CREDIT cell (R263). -/
def creditRx (p next : Nat) (s : State) : State :=
  let g := s.port p
  if s.portState p = 5 && (next + 2 ^ 16 - g.next) % 2 ^ 16 < 32768 then
    s.setPort p { g with next := next, gotCredit := true }
  else s

/-- A cell that carries SEQ, with what an accepted one does. -/
def cellRx (p seq : Nat) (act : State → State) (s : State) : State :=
  let (ok, s1) := s.rxAccept p seq
  if ok then act s1 else s1

/-- LNK_PORT_ENABLE (R256). -/
def execLnkPortEnable (p : Fin 8) (s : State) : Host.Outcome State Fault Refusal :=
  .next (lnkCtrlWrite p (setBit (s.rd .lnkPCtrl p) 0 true) s)

/-- LNK_PORT_DISABLE (R256). -/
def execLnkPortDisable (p : Fin 8) (s : State) : Host.Outcome State Fault Refusal :=
  .next (lnkCtrlWrite p (setBit (s.rd .lnkPCtrl p) 0 false) s)

/-- TRAINING_FRAME_RX (R257). -/
def execTrainingFrameRx (p : Fin 8) (lane : Fin 4) (control status : Word) (inverted : Bool) (s : State) :
    Host.Outcome State Fault Refusal := .next (trainingFrame p lane control status inverted s)

/-- LANE_GRADED (R257). -/
def execLaneGraded (p : Fin 8) (lane : Fin 4) (errors : Fin 1000000001) (s : State) : Host.Outcome State Fault Refusal :=
  .next (laneGraded p lane errors s)

/-- BASE_COMPLETE (R258). -/
def execBaseComplete (p : Fin 8) (s : State) : Host.Outcome State Fault Refusal := .next (baseComplete p s)

/-- DESCENT_COMPLETE (R258). -/
def execDescentComplete (p : Fin 8) (s : State) : Host.Outcome State Fault Refusal := .next (descentComplete p s)

/-- ALIGNMENT_MARKER_RX (R250). -/
def execAlignmentMarkerRx (p : Fin 8) (lane : Fin 4) (payload : List Byte) (skew : Fin 4000) (s : State) :
    Host.Outcome State Fault Refusal := .next (markerRx p lane payload skew s)

/-- FEC_CODEWORD_RX (R249). -/
def execFecCodewordRx (p : Fin 8) (lane : Fin 4) (errors : Fin 545) (miscorrected : Bool) (cells : Fin 5) (s : State) :
    Host.Outcome State Fault Refusal := .next (codewordRx p lane errors miscorrected cells s)

/-- PORT_STATE_TIMEOUT (R256). -/
def execPortStateTimeout (p : Fin 8) (s : State) : Host.Outcome State Fault Refusal := .next (portTimeout p s)

/-- FAULT_WAIT_EXPIRY (R256). -/
def execFaultWaitExpiry (p : Fin 8) (s : State) : Host.Outcome State Fault Refusal :=
  .next (if s.portState p = 6 then s.enterBase p else s)

/-- CELL_IDLE_RX (R247): discarded. -/
def execCellIdleRx (_p : Fin 8) (s : State) : Host.Outcome State Fault Refusal := .next s

/-- CELL_PIXEL_RX (R264, R269). -/
def execCellPixelRx (p : Fin 8) (seq : BitVec 16) (c : PixelCell) (s : State) : Host.Outcome State Fault Refusal :=
  .next (cellRx p seq.toNat (fun s => s.pixelCell p
    { type := 1, beam := c.beam, lc := c.lc, eol := c.eol, line := c.line, cidx := c.cidx, count := c.count
      depth := c.depth, ycc := c.ycc, epochLo := c.epochLo.toNat, payload := c.payload }) s)

/-- CELL_AUDIO_RX (R269). -/
def execCellAudioRx (p : Fin 8) (seq : BitVec 16) (s : State) : Host.Outcome State Fault Refusal :=
  .next (cellRx p seq.toNat (fun s => s.unusedCell p) s)

/-- CELL_FRAME_START_RX (R85, R269). -/
def execCellFrameStartRx (p : Fin 8) (seq : BitVec 16) (beam : Fin 16) (repeated : Bool) (lines : Fin 8193) (s : State) :
    Host.Outcome State Fault Refusal := .next (cellRx p seq.toNat (fun s => s.frameStartRx p beam repeated lines) s)

/-- CELL_REPEAT_RX (R160). -/
def execCellRepeatRx (p : Fin 8) (seq : BitVec 16) (beam : Fin 16) (s : State) : Host.Outcome State Fault Refusal :=
  .next (cellRx p seq.toNat (fun s => s.repeatRx p beam) s)

/-- CELL_FENCE_RX (R40). -/
def execCellFenceRx (p : Fin 8) (seq : BitVec 16) (group : Fin 16) (epoch : Word) (s : State) :
    Host.Outcome State Fault Refusal := .next (cellRx p seq.toNat (fun s => s.fenceRx p group epoch) s)

/-- CELL_ROUTE_RX (R269): discarded without count. -/
def execCellRouteRx (p : Fin 8) (seq : BitVec 16) (s : State) : Host.Outcome State Fault Refusal :=
  .next (cellRx p seq.toNat id s)

/-- CELL_CAP_RX (R259 to R261). -/
def execCellCapRx (p : Fin 8) (seq : BitVec 16) (c : CapFields) (s : State) : Host.Outcome State Fault Refusal :=
  .next (capRx p seq.toNat c s)

/-- CELL_CREDIT_RX (R263). -/
def execCellCreditRx (p : Fin 8) (next : BitVec 16) (s : State) : Host.Outcome State Fault Refusal :=
  .next (creditRx p next.toNat s)

/-- CREDIT_SEND_TIMER (R264). -/
def execCreditSendTimer (p : Fin 8) (s : State) : Host.Outcome State Fault Refusal :=
  .next (if s.portState p = 5 then s.sendCredit p else s)

/-- CAP_SEND_TIMER (R259). -/
def execCapSendTimer (p : Fin 8) (s : State) : Host.Outcome State Fault Refusal := .next (capTimer p s)

/-- CREDIT_TIMEOUT (R260). -/
def execCreditTimeout (p : Fin 8) (s : State) : Host.Outcome State Fault Refusal :=
  .next (if s.rf .lnkPPeerDepth 15 0 p = 0 then s else s.renegotiate p 3)

/-- RENEG (R260). -/
def execReneg (p : Fin 8) (s : State) : Host.Outcome State Fault Refusal := .next (s.renegotiate p 4)

/-- ALIGNMENT_MARKER_MISSING (R250). -/
def execAlignmentMarkerMissing (p : Fin 8) (lane : Fin 4) (s : State) : Host.Outcome State Fault Refusal :=
  .next (markerBad p lane s)

/-- CELL_CRC_FAIL_RX (R252). -/
def execCellCrcFailRx (p : Fin 8) (badType : Bool) (s : State) : Host.Outcome State Fault Refusal :=
  .next (cellBad p badType s)

/-- LANE_GRADE_TIMEOUT (R257). -/
def execLaneGradeTimeout (p : Fin 8) (lane : Fin 4) (s : State) : Host.Outcome State Fault Refusal :=
  .next (gradeTimeout p lane s)

/-- ARRIVING_LAPSE (R161). -/
def execArrivingLapse (n : Fin 16) (k : Fin 3) (s : State) : Host.Outcome State Fault Refusal :=
  .next (s.wb .bmpImpStatus 16 false n k)

end Sys2Proof.Machine
end

