-- ==== Sys2Proof/Machine/AudioMath.lean ====
section
/-! DEFINITION. Arithmetic of the audio core: rounding, saturation, the converter's table (spec 13 R278), ADPCM (R276),
and the compressor's gain (R287). Samples are integers that count units of 2^−31. -/

namespace Sys2Proof.Machine

/-- n / d rounded to the nearest integer; a tie is open. -/
def roundRat (n : Int) (d : Nat) : Int :=
  let r := (2 * n + d) / (2 * d : Nat)
  if (2 * n + d) % (2 * d : Nat) = 0 && !Config.tieUp n d then r - 1 else r

/-- n / d brought to an integer where the spec states no rounding. -/
def roundOpen (n : Int) (d : Nat) : Int :=
  if n % (d : Int) = 0 then n / (d : Int) else if Config.roundUp n d then n / (d : Int) + 1 else n / (d : Int)

/-- Saturation to Q1.31. -/
def sat31 (v : Int) : Int := clampInt (-2147483648) 2147483647 v

/-- The signed Q1.31 value of a word. -/
def q31 (w : Word) : Int := sx 32 w.toNat

/-- One, in the fixed point used for the converter's table. -/
def tblOne : Nat := 2 ^ 160

/-- π in that fixed point. -/
def tblPi : Nat := 4591442807048218921384805199743311128454155024418

/-- Terms of the sine series: x²/2^160 in z, the current term, the next odd index; n terms. -/
def sinTerms (z : Int) (term : Int) (k : Nat) : Nat → Int
  | 0 => 0
  | n + 1 => term + sinTerms z (-(term * z / (tblOne : Int)) / (((k + 1) * (k + 2) : Nat) : Int)) (k + 2) n

/-- sin(π r / 2,560) for an integer r, in fixed point. -/
def sinPi (r : Int) : Int :=
  let m := r % 5120
  let s : Int := if 2560 < m then m - 5120 else m
  let x := s * tblPi / 2560
  sinTerms (x * x / (tblOne : Int)) x 1 40

/-- sinc(0.9 u) at u = j / 256: sin(πq) / (πq) with q = 9j / 2,560. -/
def sincAt (j : Nat) : Int :=
  if j = 0 then tblOne else sinPi (9 * j) * (tblOne : Int) / ((9 * j * tblPi / 2560 : Nat) : Int)

/-- Terms of the series of the modified Bessel function I0, with z = (x/2)² in fixed point. -/
def besselTerms (z : Nat) (term : Nat) (k : Nat) : Nat → Nat
  | 0 => 0
  | n + 1 => term + besselTerms z (term * z / tblOne / (k * k)) (k + 1) n

/-- I0(7 sqrt(1 − (j/4,096)²)). -/
def besselAt (j : Nat) : Nat := besselTerms (49 * (4096 * 4096 - j * j) * tblOne / (4 * 4096 * 4096)) tblOne 1 50

/-- The converter's table c(j / 256), Q1.23 (R278); zero from 4,096 on. -/
def convTable (j : Nat) : Int :=
  if 4096 ≤ j then 0
  else roundRat (sincAt j * (besselAt j : Int) * 8388608) (besselAt 0 * tblOne)

/-- The nearest table point to |k − t| / s, with d = |65,536 k − p| and S = 65,536 s. -/
def tableIndex (d sC : Nat) : Nat := (roundRat (256 * d : Nat) sC).toNat

/-- IMA ADPCM step sizes. -/
def imaSteps : List Nat :=
  [7, 8, 9, 10, 11, 12, 13, 14, 16, 17, 19, 21, 23, 25, 28, 31, 34, 37, 41, 45, 50, 55, 60, 66, 73, 80, 88, 97, 107, 118] ++
  [130, 143, 157, 173, 190, 209, 230, 253, 279, 307, 337, 371, 408, 449, 494, 544, 598, 658, 724, 796, 876, 963, 1060] ++
  [1166, 1282, 1411, 1552, 1707, 1878, 2066, 2272, 2499, 2749, 3024, 3327, 3660, 4026, 4428, 4871, 5358, 5894, 6484] ++
  [7132, 7845, 8630, 9493, 10442, 11487, 12635, 13899, 15289, 16818, 18500, 20350, 22385, 24623, 27086, 29794, 32767]

/-- IMA ADPCM index adjustment of a code. -/
def imaAdjust (code : Nat) : Int := [-1, -1, -1, -1, 2, 4, 6, 8].getD (code % 8) 0

/-- One code: the predictor and the step index after it. -/
def imaStep (st : Int × Nat) (code : Nat) : Int × Nat :=
  let step := imaSteps.getD st.2 0
  let d := step / 8 + (if nbit code 2 then step else 0) + (if nbit code 1 then step / 2 else 0) +
    (if nbit code 0 then step / 4 else 0)
  (clampInt (-32768) 32767 (if nbit code 3 then st.1 - d else st.1 + d),
    (clampInt 0 88 (st.2 + imaAdjust code)).toNat)

/-- Code i of an ADPCM block, low nibble first. -/
def adpcmCode (bs : List Byte) (i : Nat) : Nat := (bs.getD (4 + i / 2) 0).toNat / (if i % 2 = 0 then 1 else 16) % 16

/-- An ADPCM block with a bad header (R276). -/
def adpcmBad (bs : List Byte) : Bool := 88 < (bs.getD 2 0).toNat || (bs.getD 3 0) != 0

/-- Sample i of an ADPCM block as a 16-bit value (R276). -/
def adpcmSample (bs : List Byte) (i : Nat) : Int :=
  if adpcmBad bs then 0
  else ((List.range (i + 1)).foldl (fun st k => imaStep st (adpcmCode bs k))
    (sx 16 (leNat (bs.take 2)), (bs.getD 2 0).toNat)).1

/-- The greatest g ≤ 2^40 with g^n · e^m ≤ t^m · 2^(40 n), by bits from 2^k down. -/
def rootBits (n m t e : Nat) : Nat → Nat → Nat
  | 0, g => g
  | k + 1, g =>
    let h := g + 2 ^ k
    if h ≤ 2 ^ 40 ∧ h ^ n * e ^ m ≤ t ^ m * 2 ^ (40 * n) then rootBits n m t e k h else rootBits n m t e k g

/-- The compressor's gain in units of 2^−40 (R287): within 2^−20 of its value, and open within that. -/
def compGain (t e ratio : Nat) : Nat :=
  if e ≤ t then 2 ^ 40
  else
    let g := if ratio = 0 then t * 2 ^ 40 / e else rootBits ratio (ratio - 4) t e 41 0
    let w := g / 2 ^ 20
    g - w + Config.gainDev t e ratio % (2 * w + 1)

/-- A 64-bit accumulator. -/
def acc64 (v : Int) : Int :=
  if -(2 ^ 63 : Nat) ≤ v ∧ v < (2 ^ 63 : Nat) then v else (Config.accOverflow v).toInt

end Sys2Proof.Machine
end

