-- ==== Sys2Proof/Machine/Voices.lean ====
section
/-! DEFINITION. Voices (spec 13 R275 to R283, R286): sources, the converter, fades, gains in change, feeds and voice
events. -/

namespace Sys2Proof.Machine

/-- Samples that are late at a boundary: voice and source sample index; and buses whose delay read is late (R279, R287). -/
structure LateSamples where
  voices : List (Nat × Nat)
  buses : List Nat

/-! Sources. -/

/-- A one-shot voice has reached its end (R277). -/
def AudSrc.ended (a : AudSrc) : Bool := a.fmt ≤ 3 && !a.loop && a.len ≤ a.p / 65536

/-- The position after a frame (R277). -/
def AudSrc.advance (a : AudSrc) (pitch : Nat) : AudSrc :=
  let p := a.p + pitch
  if a.fmt = 4 then { a with p := p % (2 ^ a.tlog * 65536) }
  else if a.fmt ≤ 3 ∧ a.loop = true ∧ a.len * 65536 ≤ p then
    { a with p := a.ls * 65536 + (p - a.len * 65536) % ((a.len - a.ls) * 65536) }
  else { a with p := p }

/-- The stored sample that index k stands for, or none where it reads as zero (R277). -/
def AudSrc.index (a : AudSrc) (k : Int) : Option Nat :=
  if a.fmt = 4 then some (k % (2 ^ a.tlog : Nat)).toNat
  else if a.fmt = 5 then (if k < 0 then none else some k.toNat)
  else if 0 ≤ k ∧ k < a.len then some k.toNat
  else if a.loop then some (a.ls + ((k - a.len) % ((a.len - a.ls : Nat) : Int)).toNat)
  else none

/-- Bytes of a stored sample. -/
def sampleBytes (fmt : Nat) : Nat := if fmt = 0 then 1 else if fmt = 2 then 3 else 2

/-- Pattern-store lines of a stored sample. -/
def AudSrc.sampleLines (a : AudSrc) (i : Nat) : List Nat :=
  if a.fmt = 3 then [a.data + i / 120]
  else
    let b := sampleBytes a.fmt
    let lo := a.data * 64 + i * b
    if lo / 64 = (lo + b - 1) / 64 then [lo / 64] else [lo / 64, (lo + b - 1) / 64]

/-- A stored sample as a Q1.31 value, from the lines fetched; silent where one is poisoned (R106, R276). -/
def AudSrc.value (a : AudSrc) (i : Nat) : Int :=
  let line (ln : Nat) : List Byte × Bool := (kvGet ln a.buf).getD (List.replicate 64 0, false)
  if (a.sampleLines i).any (fun ln => (line ln).2) then 0
  else if a.fmt = 3 then adpcmSample (line (a.data + i / 120)).1 (i % 120) * 65536
  else
    let b := sampleBytes a.fmt
    let lo := a.data * 64 + i * b
    let v := leNat ((List.range b).map (fun k => (line ((lo + k) / 64)).1.getD ((lo + k) % 64) 0))
    sx (8 * b) v * 2 ^ (32 - 8 * b)

/-- The lines that the needed samples lie in are fetched (R279); others are let go. -/
def AudSrc.fetch (a : AudSrc) (needed : List Nat) (s : State) : AudSrc × State :=
  let lns := (needed.flatMap a.sampleLines).foldl (fun acc l => setAdd l acc) []
  let (buf, s1) := lns.foldl (fun (acc : List (Nat × List Byte × Bool) × State) ln =>
    match kvGet ln a.buf with
    | some x => (acc.1 ++ [(ln, x)], acc.2)
    | none =>
      let (bs, bad, s1) := acc.2.psRead 19 (64 * ln) 64
      (acc.1 ++ [(ln, bs, bad)], if a.fmt = 3 ∧ adpcmBad bs ∧ bad = false then s1.bump .audDataBad else s1)) ([], s)
  ({ a with buf }, s1)

/-- The sample a feed gives, or the silent sample with the empty feed counted (R283). -/
def State.feedTake (s : State) (f : Nat) : Word × State :=
  match (kvGet f s.aud.feeds).getD [] with
  | x :: t => (x, { s with aud := { s.aud with feeds := kvPut [] f t s.aud.feeds } })
  | [] => (0, (s.bump .audFeedUnder f).raise 371 domAudio)

/-- Feed samples up to index k are taken, n at most. -/
def AudSrc.takeTo (k : Nat) : Nat → AudSrc → State → AudSrc × State
  | 0, a, s => (a, s)
  | n + 1, a, s =>
    if k < a.taken then (a, s)
    else
      let (w, s1) := s.feedTake a.feed
      AudSrc.takeTo k n { a with hist := a.hist ++ [(a.taken, w)], taken := a.taken + 1 } s1

/-- The indices that the converter reads at position p, with S = 65,536 s: |k − t| < 16 s (R278). -/
def tapIndices (p sC : Nat) : List Int :=
  let lo : Int := ((p : Int) - (16 * sC : Nat)) / 65536
  (List.range (32 * sC / 65536 + 3)).map (fun i => lo + (i : Nat)) |>.filter
    (fun k => (k * 65536 - p).natAbs < 16 * sC)

/-- The products of a converter's taps accumulated in 48 bits (R278). Their sum reaches 2^58 in units of 2^−54, so that the
accumulator's unit is at most 2^11 of these, and each product that is not zero loses less than one: the low bits are open
(log entry 64). -/
def accumulate (ps : List Int) : Int :=
  let n := (ps.countP (· != 0)) * 2048
  let sum := ps.foldl (· + ·) 0
  sum - n + (Config.convDev sum n % (2 * n + 1) : Nat)

/-- The value of a source for this frame (R278, R279), before its position moves. A feed's samples are kept as far back as
the widest window, at a pitch of 8, reaches. -/
def AudSrc.frame (a : AudSrc) (v pitch : Nat) (late : LateSamples) (s : State) : Int × AudSrc × State :=
  let sC := max 65536 pitch
  let ks := tapIndices a.p sC
  let (a1, s1) :=
    if a.fmt = 5 then
      let top := (ks.getLast?.getD 0).toNat
      let (a1, s1) := AudSrc.takeTo top (top + 1 - a.taken) a s
      ({ a1 with hist := a1.hist.filter (fun h => a.p / 65536 ≤ h.1 + 128) }, s1)
    else a.fetch (ks.filterMap a.index) s
  let isLate (i : Nat) : Bool := a.fmt != 5 && late.voices.contains (v, i)
  let used := (ks.filterMap a1.index).foldl (fun acc i => setAdd i acc) []
  let s2 := s1.bump .audFetchLate 0 0 0 (used.filter isLate).length
  let x (k : Int) : Int := match a1.index k with
    | none => 0
    | some i => if isLate i then 0 else if a.fmt = 5 then q31 ((kvGet i a1.hist).getD 0) else a1.value i
  let sum := accumulate (ks.map (fun k => x k * convTable (tableIndex (k * 65536 - a.p).natAbs sC)))
  (sat31 (roundRat (sum * 65536) (sC * 8388608)), a1.advance pitch, s2)

/-! Gains in change (R286). -/

/-- The value that a gain is set to: voice GAIN, TRIM or zero by MUTE, OUT_GAIN of the live set. -/
def State.gainTarget (s : State) (i : Nat) : Nat :=
  if i < 1024 then s.rf .audV5 13 0 i
  else if i < 1088 then (if s.rb .audOc 14 (i - 1024) then 0 else s.rf .audOc 13 0 (i - 1024))
  else
    let b := i - 1088
    s.rf .audBusGain 13 0 ((s.rb .audBusLive (b % 32) (b / 32)).toNat * 64 + b)

/-- The value in use is kept, before a change of what a gain is set to. -/
def State.touchGain (s : State) (i : Nat) : State :=
  match kvGet i s.aud.gains with
  | some _ => s
  | none => { s with aud := { s.aud with gains := kvSet i { cur := ((s.gainTarget i : Nat), 0) } s.aud.gains } }

/-- A ramp's value after k of its 64 frames. -/
def rampAt (f : Int × Nat) (t k : Nat) : Int × Nat := (f.1 * (64 - k : Nat) + (t * 2 ^ f.2 * k : Nat), f.2 + 6)

/-- A gain at a boundary: a changed value waits for a zero crossing; a ramp under way ends where it is. -/
def AudGain.settle (g : AudGain) (t now : Nat) : Option AudGain :=
  match g.wait, g.ramp with
  | some _, _ => some { g with wait := some t }
  | none, some (f, r, k) => some (if r = t then g else { cur := rampAt f r k, wait := some t, since := now })
  | none, none => if g.cur = ((t : Int), 0) then none else some { g with wait := some t, since := now }

/-- Gains take up the changes of a boundary. -/
def State.settleGains (s : State) : State :=
  { s with aud := { s.aud with gains := s.aud.gains.filterMap (fun g => (g.2.settle (s.gainTarget g.1) s.now).map (g.1, ·)) } }

/-- The gain to use on signal x this frame, and what is left of its change (R286). -/
def AudGain.frame (g : AudGain) (x prev : Int) : (Int × Nat) × Option AudGain :=
  match g.wait, g.ramp with
  | some t, _ => if x = 0 ∨ (x < 0) ≠ (prev < 0) then ((t, 0), none) else (g.cur, some g)
  | none, some (f, t, k) =>
    (rampAt f t (k + 1), if k + 1 = 64 then none else some { g with ramp := some (f, t, k + 1) })
  | none, none => (g.cur, none)

/-- A signal times its gain, Q1.31 (R286). -/
def State.gained (s : State) (i : Nat) (x : Int) : Int × State :=
  let (g, left) : (Int × Nat) × Option AudGain := match kvGet i s.aud.gains with
    | none => (((s.gainTarget i : Nat), 0), none)
    | some g => g.frame x ((kvGet i s.aud.prev).getD 0)
  let gains := match left with
    | some y => kvSet i y s.aud.gains
    | none => kvDel i s.aud.gains
  (sat31 (roundOpen (x * g.1) (2 ^ (13 + g.2))), { s with aud := { s.aud with gains } })

/-- ZC_TIMEOUT (R286): a gain that has waited that long begins its ramp. -/
def zcTimeout (i : Nat) (s : State) : State :=
  match kvGet i s.aud.gains with
  | some g => match g.wait with
    | some t =>
      if !s.passed g.since (s.rf .audCtrl 15 8 * 1000000) then s
      else { s with aud := { s.aud with gains := kvSet i { cur := g.cur, ramp := some (g.cur, t, 0) } s.aud.gains } }
    | none => s
  | none => s

/-! Voices. -/

/-- A voice, if it is not Idle, and the state with it replaced. -/
def State.voice (s : State) (v : Nat) : Option AudVoice := kvGet v s.aud.voices
def State.setVoice (s : State) (v : Nat) (x : Option AudVoice) : State :=
  let s1 := { s with aud := { s.aud with voices := match x with
    | some y => kvSet v y s.aud.voices
    | none => kvDel v s.aud.voices } }
  match x with
  | some y => (s1.wr .audV6 (BitVec.ofNat 32 (y.src.p / 65536)) v).wf .audV7 1 0 (if y.stop.isSome then 2 else 1) v
  | none => s1.wf .audV7 1 0 0 v

/-- A level in 64ths after k + 1 frames of a fade from full. -/
def fadeLevel (k : Nat) : Nat := 64 - (k + 1)

/-- The value of voice v for this frame, before its gain, and the voice after it (R277, R280, R282). -/
def State.voiceFrame (s : State) (v : Nat) (late : LateSamples) : Int × State :=
  match s.voice v with
  | none => (0, s)
  | some x =>
    let pitch := s.rf .audV4 19 0 v
    if x.src.ended then
      (0, ((s.setVoice v none).wb .audVend (v % 32) true (v / 32)).raise 368 domAudio)
    else
      let (y, src, s1) := x.src.frame v pitch late s
      let lvl := match x.stop with
        | some k => fadeLevel k
        | none => 64
      let (yo, old, s2) : Int × Option (AudSrc × Nat × Nat) × State := match x.old with
        | none => (0, none, s1)
        | some (o, l, k) =>
          if o.ended then (0, none, s1)
          else
            let (z, o1, s2) := o.frame v pitch late s1
            (z * (l * fadeLevel k : Nat), if k + 1 = 64 then none else some (o1, l, k + 1), s2)
      let sum := sat31 (roundOpen (y * (lvl * 64 : Nat) + yo) 4096)
      let next : Option AudVoice := match x.stop with
        | some k => if k + 1 = 64 then none else some { src, stop := some (k + 1), old }
        | none => some { src, old }
      (sum, s2.setVoice v next)

/-! Voice events (R280 to R282). -/

/-- START: the voice's entry is latched; a voice that sounds fades as the old sound (R282). -/
def State.startVoice (s : State) (v : Nat) (arg : Nat) : State :=
  let w0 := s.rd .audV0 v
  let src : AudSrc := {
    fmt := fld w0 3 0, loop := bit w0 4, feed := fld w0 7 5, tlog := fld w0 11 8, data := s.rf .audV1 29 0 v
    len := (s.rd .audV2 v).toNat, ls := (s.rd .audV3 v).toNat, p := arg * 65536, taken := arg }
  let src := if src.fmt = 4 then { src with p := src.p % (2 ^ src.tlog * 65536) } else src
  let old := (s.voice v).map (fun x => (x.src, match x.stop with | some k => 64 - k | none => 64, 0))
  s.setVoice v (some { src, old })

/-- Why a due record is discarded (R281). -/
def State.eventBad (s : State) (g : Nat) (r : Rec4) : Bool :=
  let v := fld r.w0 25 16
  let w0 := s.rd .audV0 v
  let fmt := fld w0 3 0
  let len := (s.rd .audV2 v).toNat
  let ls := (s.rd .audV3 v).toNat
  let arg := r.w2.toNat
  v / 64 != g || (match fld r.w0 7 0 with
    | 1 =>
      (fmt ≤ 3 && (len == 0 || len ≤ arg)) ||
      (bit w0 4 && (len ≤ ls || (fmt == 3 && ls % 120 != 0))) ||
      (fmt == 5 && s.aud.voices.any (fun x => x.1 != v && x.2.src.fmt == 5 && x.2.src.feed == fld w0 7 5))
    | 3 => arg < 0x2000 || 0x80000 < arg
    | 4 => 0x3FFF < arg
    | _ => false)

/-- A due record takes effect (R280, R282). -/
def State.applyEvent (s : State) (r : Rec4) : State :=
  let v := fld r.w0 25 16
  match fld r.w0 7 0 with
  | 1 => s.startVoice v r.w2.toNat
  | 2 => match s.voice v with
    | some x => if x.stop.isSome then s else s.setVoice v (some { x with stop := some 0 })
    | none => s
  | 3 => s.wf .audV4 19 0 r.w2.toNat v
  | _ => (s.touchGain v).wf .audV5 13 0 r.w2.toNat v

/-- A record is due at boundary n. -/
def eventDue (r : Rec4) (n : Word) : Bool := !bit r.w0 8 || !newer r.w1 n

/-- Up to k due records of queue g at boundary n (R281). -/
def State.applyEvents (n : Word) (g : Nat) : Nat → State → State
  | 0, s => s
  | k + 1, s =>
    match s.queue (veqQueue g) with
    | [] => s
    | r :: _ =>
      if !eventDue r n then s
      else
        let s1 := s.dropHead (veqQueue g)
        let s2 := if s1.eventBad g r then s1.bump .audVevBad
          else (if bit r.w0 8 && r.w1 != n then s1.bump .audVevLate else s1).applyEvent r
        State.applyEvents n g k s2

/-- A word of the staging registers is valid (R280): word 0 holds TYPE, TIMED, VALID and VOICE, word 3 is zero. -/
def veqWordOk (j : Nat) (w : Word) : Bool :=
  if j = 0 then inR 1 4 (fld w 7 0) && fld w 14 9 == 0 && fld w 31 26 == 0 else j != 3 || w == 0

/-- A staging write; W3 pushes the record (R280). -/
def veqWrite (g j : Nat) (w : Word) (s : State) : State :=
  if !veqWordOk j w then s.reject (addrOf .audVeqW g j 0)
  else
    let s1 := s.wr .audVeqW w g j
    if j ≠ 3 then s1
    else if !s1.rb .audVeqW 15 g 0 then s1.bump .audVevBad
    else
      let r : Rec4 := ⟨s1.rd .audVeqW g 0, s1.rd .audVeqW g 1, s1.rd .audVeqW g 2, w⟩
      let full := !s1.canPush (veqQueue g)
      let s2 := s1.pushRec (veqQueue g) .audVeqStatus g r
      if full then s2.raise 372 domAudio else s2

/-- A sample is pushed into feed f, or ignored when it is full (R283). -/
def feedPush (f : Nat) (w : Word) (s : State) : State :=
  let q := (kvGet f s.aud.feeds).getD []
  if 4096 ≤ q.length then s.wb .audFeedStatus 14 true f
  else { s with aud := { s.aud with feeds := kvSet f (q ++ [w]) s.aud.feeds } }

/-- VEQ_PUSH (R280): the write of W3. -/
def execVeqPush (g : Fin 16) (w3 : Word) (s : State) : Host.Outcome State Fault Refusal := .next (veqWrite g 3 w3 s)

/-- FEED_PUSH (R283). -/
def execFeedPush (f : Fin 8) (w : Word) (s : State) : Host.Outcome State Fault Refusal := .next (feedPush f w s)

/-- ZC_TIMEOUT (R286). -/
def execZcTimeout (gain : Fin 1152) (s : State) : Host.Outcome State Fault Refusal := .next (zcTimeout gain s)

end Sys2Proof.Machine
end

