-- ==== Sys2Proof/Machine/Audio.lean ====
section
/-! DEFINITION. The audio core (spec 13): the sample clock (R272 to R274), routing (R284, R285), buses (R287 to R289),
outputs (R290 to R293) and its modes (R294). -/

namespace Sys2Proof.Machine

/-! Routing. -/

/-- A crosspoint entry is written (R285). -/
def crosspointWrite (x : Nat) (w : Word) (s : State) : State :=
  let s1 := if (kvGet x s.aud.fades).isSome then s.bump .audXfadeCut else s
  let dirty := if (kvGet x s1.aud.xpDirty).isSome then s1.aud.xpDirty else kvSet x (s1.rd .audXp x) s1.aud.xpDirty
  ({ s1 with aud := { s1.aud with xpDirty := dirty } }).wr .audXp w x

/-- Entries written since the last boundary begin to crossfade; one that crossfades takes a new incoming entry (R285). -/
def State.settleRoutes (s : State) : State :=
  let fades := s.aud.xpDirty.foldl (fun fs d =>
    let w := s.rd .audXp d.1
    kvSet d.1 (match kvGet d.1 fs with
      | some f => { f with cur := w, inDone := 0 }
      | none => { old := d.2, outDone := 0, cur := w, inDone := 0 }) fs) s.aud.fades
  { s with aud := { s.aud with xpDirty := [], fades } }

/-- The terms of this frame: entry word and its level in 64ths, in ascending entry number. -/
def State.terms (s : State) : List (Word × Nat) :=
  (List.range 2048).flatMap (fun x =>
    match kvGet x s.aud.fades with
    | some f => [(f.old, 64 - min 64 (f.outDone + 1)), (f.cur, min 64 (f.inDone + 1))]
    | none => [(s.rd .audXp x, 64)]) |>.filter (fun t => fld t.1 31 18 != 0 && t.2 != 0)

/-- Crossfades one frame on. -/
def State.stepFades (s : State) : State :=
  let fades := (s.aud.fades.map (fun f => (f.1, { f.2 with outDone := f.2.outDone + 1, inDone := f.2.inDone + 1 }))).filter
    (fun f => f.2.outDone < 64 || f.2.inDone < 64)
  { s with aud := { s.aud with fades } }

/-- A destination's sum (R284): products rounded to Q9.31, a 40-bit accumulator that saturates, then Q1.31. -/
def destination (ts : List (Word × Nat)) (source : Nat → Int) (d : Nat) : Int :=
  sat31 ((ts.filter (fun t => fld t.1 17 11 == d)).foldl (fun acc t =>
    clampInt (-549755813888) 549755813887
      (acc + roundRat (source (fld t.1 10 0) * (fld t.1 31 18 * t.2 : Nat)) 524288)) 0)

/-! Buses. -/

/-- A bus, and the state with it replaced. -/
def State.bus (s : State) (b : Nat) : AudBus := (kvGet b s.aud.buses).getD {}
def State.setBus (s : State) (b : Nat) (x : AudBus) : State :=
  { s with aud := { s.aud with buses := kvPut {} b x s.aud.buses } }

/-- The parameter set of a bus that is live: its index in the registers (R288). -/
def State.liveSet (s : State) (b : Nat) : Nat := (s.rb .audBusLive (b % 32) (b / 32)).toNat * 64 + b

/-- One biquad stage (R287). -/
def biquad (s : State) (set k : Nat) (st : Int × Int × Int × Int) (x : Int) : Int × (Int × Int × Int × Int) :=
  if !s.rb .audBusBqen k set then (x, (0, 0, 0, 0))
  else
    let (x1, x2, y1, y2) := st
    let c (i : Nat) : Int := q31 (s.rd .audBusBq set k i)
    let acc := acc64 (q31 (s.rd .audBusBq0 set k) * x + c 0 * x1 + c 1 * x2 - c 2 * y1 - c 3 * y2)
    let y := sat31 (roundRat acc (2 ^ 29))
    (y, (x, x1, y, y1))

/-- The four biquads of a bus. -/
def biquads (s : State) (set : Nat) (sts : List (Int × Int × Int × Int)) (x : Int) :
    Int × List (Int × Int × Int × Int) :=
  (List.range 4).foldl (fun acc k =>
    let (y, st) := biquad s set k (sts.getD k (0, 0, 0, 0)) acc.1
    (y, acc.2 ++ [st])) (x, [])

/-- The compressor: output and envelope (R287). -/
def compressor (s : State) (set env : Nat) (x : Int) : Int × Nat :=
  if !s.rb .audBusComp 0 set then (x, env)
  else
    let a := x.natAbs
    let k := (s.rd .audBusTime set (if env < a then 0 else 1)).toNat
    let e := (clampInt 0 2147483647 (env + roundOpen ((k : Int) * ((a : Int) - env)) (2 ^ 31))).toNat
    let g := compGain (s.rd .audBusThresh set).toNat e (s.rf .audBusComp 15 8 set)
    (sat31 (roundOpen (x * (g * s.rf .audBusComp 31 16 set : Nat)) (2 ^ 52)), e)

/-- The delay line's word that is due, of the line fetched when its first frame comes (R287). -/
def State.delayRead (s : State) (set : Nat) (u : AudBus) : AudBus × State :=
  if u.pos % 16 ≠ 0 then (u, s)
  else
    let (bs, bad, s1) := s.psRead 19 (s.rf .audBusDlyBase 29 0 set * 64 + u.pos * 4) 64
    ({ u with rbuf := if bad then List.replicate 16 0 else (leWords 16 bs).map q31 }, s1)

/-- A sample joins its line of the delay line, which is written whole; not into the PL region (R172, R287). -/
def State.delayWrite (s : State) (set : Nat) (u : AudBus) (v : Int) : AudBus × State :=
  let w := u.wbuf ++ [v]
  let u1 := { u with pos := (u.pos + 1) % max 1 (s.rf .audBusDlyLen 17 0 set), mute := u.mute - 1 }
  if w.length < 16 then ({ u1 with wbuf := w }, s)
  else
    let a := s.rf .audBusDlyBase 29 0 set * 64 + u.pos / 16 * 64
    let bs := w.flatMap (fun x => bytesLE 4 (toTwos 32 x))
    ({ u1 with wbuf := [] }, if s.inPlRegion a 64 then s.deny a 64 else s.psWrite 19 a (bs.map some))

/-- The delay stage (R287). -/
def State.delayStage (s : State) (set : Nat) (u : AudBus) (late : Bool) (x : Int) : Int × AudBus × State :=
  if s.rf .audBusDlyLen 17 0 set = 0 then (x, u, s)
  else
    let (u1, s1) := s.delayRead set u
    let d := if u1.mute ≠ 0 ∨ late then 0 else u1.rbuf.getD (u1.pos % 16) 0
    let s2 := if late then s1.bump .audFetchLate else s1
    let c (r : RegName) (hi lo : Nat) : Int := sx 16 (s.rf r hi lo set)
    let y := sat31 (roundOpen (c .audBusDry 15 0 * x + c .audBusFbwet 31 16 * d) (2 ^ 14))
    let (u2, s3) := s2.delayWrite set u1 (sat31 (roundOpen (x * 2 ^ 14 + c .audBusFbwet 15 0 * d) (2 ^ 14)))
    (y, u2, s3)

/-- The ledger is Scarce (R364). -/
def State.scarce (s : State) : Bool := s.rf .pwrStatus 1 0 == 2

/-- A delay line starts again: position zero, and the wet path muted for its length. -/
def State.restartDelay (s : State) (set : Nat) (u : AudBus) : AudBus :=
  { u with pos := 0, rbuf := [], wbuf := [], mute := s.rf .audBusDlyLen 17 0 set }

/-- Bus b for one frame (R287, R289): stages 1 to 3 or their bypass, then OUT_GAIN. -/
def State.busFrame (s : State) (b : Nat) (x : Int) (late : Bool) : State :=
  let set := s.liveSet b
  let opt := s.scarce && s.rb .audBusOpt (b % 32) (b / 32)
  let u := s.bus b
  let u0 := if u.byp = 64 && !opt then s.restartDelay set u else u
  let lvl := if opt then min 64 (u.byp + 1) else u.byp - 1
  let (z, u1, s1) : Int × AudBus × State :=
    if u.byp = 64 && opt then (x, u0, s)
    else
      let (y1, sts) := biquads s set u0.bq x
      let (y2, e) := compressor s set u0.env y1
      let (y3, u1, s1) := s.delayStage set { u0 with bq := sts, env := e } late y2
      (if lvl = 0 then y3 else sat31 (roundOpen (y3 * (64 - lvl : Nat) + x * (lvl : Nat)) 64), u1, s1)
  let (r, s2) := s1.gained (1088 + b) z
  { s2.setBus b { u1 with byp := lvl, ret := r } with aud := { (s2.setBus b { u1 with byp := lvl, ret := r }).aud with
    prev := if z = 0 then kvDel (1088 + b) s2.aud.prev else kvSet (1088 + b) z s2.aud.prev } }

/-- Pending swaps flip the live sets (R288): SWAP_DONE for each; a changed delay geometry mutes the wet path. -/
def State.doSwaps (s : State) : State :=
  let bs := (List.range 64).filter (fun b => s.aud.swaps.getLsbD b)
  let s1 := bs.foldl (fun s b =>
    let old := s.liveSet b
    let s1 := s.touchGain (1088 + b)
    let s2 := s1.wb .audBusLive (b % 32) (!s1.rb .audBusLive (b % 32) (b / 32)) (b / 32)
    let new := s2.liveSet b
    if s2.rd .audBusDlyBase old = s2.rd .audBusDlyBase new ∧ s2.rd .audBusDlyLen old = s2.rd .audBusDlyLen new then s2
    else s2.setBus b (s2.restartDelay new (s2.bus b))) s
  let s2 := { s1 with aud := { s1.aud with swaps := 0 } }
  if bs.isEmpty then s2 else s2.raiseN 369 domAudio bs.length

/-- AUD_SWAP0 or AUD_SWAP1 is written (R288). -/
def busSwap (i : Nat) (w : Word) (s : State) : State :=
  { s with aud := { s.aud with swaps := s.aud.swaps ||| (w.zeroExtend 64 <<< (32 * i)) } }

/-! Outputs. -/

/-- A frame is handed to link port p (R293). -/
def State.handLink (s : State) (p : Nat) (f : List Int) (stamp : Word64) : State :=
  if s.fenced (domPort p) && s.rf .lnkPAudio 5 0 p != 0 then s.fenceDrop domAudio
  else if s.portState p ≠ 5 || s.linkChannels p == 0 then s
  else (s.setPort p { s.port p with audFrames := (s.port p).audFrames ++ [(stamp, f)] }).cutAudio p

/-- A frame is handed to TDM port a: buffered, or dropped with SLIP when sixteen wait (R292). -/
def State.handTdm (s : State) (a : Nat) (f : List Int) : State :=
  let q := (kvGet a s.aud.tdm).getD []
  if !s.rb .audTdmCtrl 0 a then s
  else if 16 ≤ q.length then s.bump .audTdmSlip a
  else { s with aud := { s.aud with tdm := kvSet a (q ++ [f]) s.aud.tdm } }

/-- The frame of the last boundary goes to the ports (R272). -/
def State.handFrame (s : State) : State :=
  match s.aud.frame with
  | none => s
  | some f =>
    let (v, s1) := s.stamp domAudio
    let s2 := (List.range 4).foldl (fun s a => s.handTdm a f) s1
    (List.range 8).foldl (fun s p => s.handLink p f v) s2

/-- The slot words of a TDM frame: the most significant bits of each channel (R290, R291). -/
def State.tdmSlots (s : State) (a : Nat) (f : List Int) : List Word :=
  let w := s.rd .audTdmCtrl a
  let width := 16 + 8 * fld w 6 5
  (List.range (fld w 4 1 + 1)).map (fun k =>
    BitVec.ofNat 32 (toTwos 32 (f.getD ((fld w 21 16 + k) % 64) 0) / 2 ^ (32 - width)))

/-- The bits of slot words, most significant first (R291). -/
def tdmBits (w : Word) (slots : List Word) : List Bool :=
  let width := 16 + 8 * fld w 6 5
  slots.flatMap (fun x => (List.range width).map (fun i => nbit x.toNat (width - 1 - i)))

/-- The levels of a frame sync that the port drives, over a frame of n bit clocks (R291): in I²S mode low for slot 0 and high
for slot 1; in TDM mode the edge at the frame's beginning that FS_POL selects, whose return is open but comes within it. -/
def tdmSync (w : Word) (n : Nat) : List (Option Bool) :=
  if !bit w 8 then []
  else (List.range n).map (fun i =>
    if bit w 7 then some (n / 2 ≤ i)
    else if i = 0 then some (!bit w 10) else if i + 1 = n then some (bit w 10) else none)

/-- A frame is sent by port a: its slots, and the pins (R291). It lasts n bit clocks at most, and bits that find none are not
sent. In I²S mode the data lag the frame sync by one bit clock. -/
def State.tdmSend (s : State) (a : Nat) (f : List Int) (n : Nat) : State :=
  let w := s.rd .audTdmCtrl a
  let bits := (tdmBits w (s.tdmSlots a f)).take n
  let s1 := s.emit (.tdm a (s.tdmSlots a f))
  if bit w 7 then
    let sent := (kvGet a s.aud.tdmLast).getD false :: bits.dropLast
    { s1.emit (.tdmPins a (bit w 9) sent (tdmSync w bits.length)) with
      aud := { s.aud with tdmLast := kvPut false a (bits.getLast?.getD false) s.aud.tdmLast } }
  else s1.emit (.tdmPins a (bit w 9) bits (tdmSync w bits.length))

/-! The sample clock (R273). -/

/-- An event taken at time t: phase error and lock. A reference outside ± 1,000 ppm never locks. -/
def State.takeAudRef (s : State) (t : Nat) : State :=
  let d := t - s.aud.lastBound
  let e : Int := if 192 * d ≤ 1000000 then -(d : Int) else roundRat (1000000 - 96 * (d : Int)) 96
  let inRange := match s.aud.lastTaken with
    | none => true
    | some l =>
      let n := s.rf .audClkSpf 16 0 * 1000000000
      let m := 96000 * (t - l)
      1000 * (max n m - min n m) ≤ m
  let st := s.rf .audStatus 1 0
  let good := if e.natAbs ≤ 1000 && inRange then s.aud.good + 1 else 0
  let st' := if st = 2 ∧ 4000 < e.natAbs then 1 else if st = 1 ∧ 4 ≤ good then 2 else st
  let s1 := { s with aud := { s.aud with
    good := if st' = 2 ∧ st = 1 then 0 else good, lastTaken := some t, since := some 0 } }
  (s1.wr .audPhaseErr (BitVec.ofInt 32 e)).setAudLock st'

/-- A reference event of source `src` and index `ix` at time t (R273, R274): one in FRAMES_M1 + 1 is taken. -/
def State.audReference (s : State) (src ix t : Nat) : State :=
  let w := s.rd .audClk
  if fld w 1 0 ≠ src ∨ fld w 7 2 ≠ ix ∨ !s.rb .audCtrl 0 ∨ s.mode = 4 then s
  else
    let s1 := if s.rf .audStatus 1 0 = 3 then
        ({ s with aud := { s.aud with since := none, good := 0, lastTaken := none } }).setAudLock 1 else s
    let s2 := if src = 1 then { s1 with aud := { s1.aud with refSeen := true } } else s1
    match s2.aud.since with
    | none => s2.takeAudRef t
    | some k =>
      if fld w 11 8 ≤ k then s2.takeAudRef t else { s2 with aud := { s2.aud with since := some (k + 1) } }

/-- No reference event for two reference periods (R273). -/
def audRefLost (s : State) : State :=
  let st := s.rf .audStatus 1 0
  if st = 1 ∨ st = 2 then s.setAudLock 3 else s

/-- AUD_CLK is written: SRC 0 runs free; a change enters Acquiring (R273). -/
def audClkWrite (w : Word) (s : State) : State :=
  let old := s.rd .audClk
  let s1 := s.wr .audClk w
  if fld w 1 0 = 0 then s1.setAudLock 0
  else if w = old then s1
  else ({ s1 with aud := { s1.aud with since := none, good := 0, lastTaken := none } }).setAudLock 1

/-! The sample boundary (R272). -/

/-- Voices sound for one frame: their values after gain, in voice order; idle voices' gains settle at once. -/
def State.voicesFrame (s : State) (late : LateSamples) : List (Nat × Int) × State :=
  let vs := s.aud.voices.map (·.1)
  let gains := s.aud.gains.filter (fun g => 1024 ≤ g.1 || vs.contains g.1)
  let s0 := { s with aud := { s.aud with gains, prev := s.aud.prev.filter (fun g => 1024 ≤ g.1 || vs.contains g.1) } }
  vs.foldl (fun (acc, s) v =>
    let (x, s1) := s.voiceFrame v late
    let (y, s2) := s1.gained v x
    (acc ++ [(v, y)],
      { s2 with aud := { s2.aud with prev := if x = 0 then kvDel v s2.aud.prev else kvSet v x s2.aud.prev } })) ([], s0)

/-- Output channel c: its sum times TRIM (R290). -/
def State.channelFrame (s : State) (c : Nat) (x : Int) : Int × State :=
  let i := 1024 + c
  let (y, s1) := s.gained i x
  (y, { s1 with aud := { s1.aud with prev := if x = 0 then kvDel i s1.aud.prev else kvSet i x s1.aud.prev } })

/-- Output frame n (R284, R287, R290). -/
def State.audFrame (s : State) (late : LateSamples) : State :=
  let (vs, s1) := s.voicesFrame late
  let ts := s1.terms
  let before := s1.aud.buses.map (fun u => (u.1, u.2.ret))
  let source (rets : List (Nat × Int)) (k : Nat) : Int :=
    if k < 1024 then (kvGet k vs).getD 0 else (kvGet (k - 1024) rets).getD 0
  let s2 := (List.range 64).foldl (fun s b => s.busFrame b (destination ts (source before) b) (late.buses.contains b)) s1
  let after := s2.aud.buses.map (fun u => (u.1, u.2.ret))
  let (f, s3) := (List.range 64).foldl (fun (acc, s) c =>
    let (y, s1) := s.channelFrame c (destination ts (source after) (64 + c))
    (acc ++ [y], s1)) ([], s2)
  let s4 := s3.stepFades
  { s4 with aud := { s4.aud with frame := some f } }

/-- A sample boundary: the frame before is handed over; writes, events and swaps take effect; the frame is computed. -/
def sampleBoundary (late : LateSamples) (s : State) : State :=
  if !s.rb .audCtrl 0 || s.mode == 4 then s
  else
    let n := s.rd .audSample + 1
    let s1 := s.handFrame.wr .audSample n
    let s2 := (List.range 16).foldl (fun s g => State.applyEvents n g 4 s) s1.settleRoutes
    let s3 := s2.doSwaps.settleGains
    let opt := s3.scarce && (s3.rd .audBusOpt 0 != 0 || s3.rd .audBusOpt 1 != 0)
    let s4 := (s3.wb .audStatus 2 opt).audFrame late
    let s5 := if s4.aud.refSeen && s4.rf .audClk 1 0 == 1 then s4.wr .audFrameSample n else s4
    { s5 with aud := { s5.aud with refSeen := false, lastBound := s5.now } }

/-- The core is off (R294): every voice is Idle, queues and feeds are empty. -/
def State.audOff (s : State) : State :=
  let s1 := s.aud.voices.foldl (fun s v => s.setVoice v.1 none) s
  { s1 with
    aud := { s1.aud with voices := [], feeds := [], frame := none, tdm := [], tdmLast := [] }
    evt := { s1.evt with queues := s1.evt.queues.filter (fun q => q.1 < 276) } }

/-- AUD_CTRL is written. -/
def audCtrlWrite (w : Word) (s : State) : State :=
  let s1 := s.wr .audCtrl w
  if bit w 0 then s1 else s1.audOff

/-- A write of voice GAIN, of an output channel, or of another word that R286 governs. -/
def gainWrite (i : Nat) (r : RegName) (k : Nat) (w : Word) (s : State) : State := (s.touchGain i).wr r w k

/-- A TDM port frame begins (R291, R292); one that follows its pin lasts `clocks` bit clocks. In Sleep the data pins stay low
(R294). -/
def tdmFrameStart (a clocks : Nat) (s : State) : State :=
  let w := s.rd .audTdmCtrl a
  let need := (fld w 4 1 + 1) * (16 + 8 * fld w 6 5)
  let n := if bit w 8 then need else min need clocks
  if !bit w 0 || s.mode == 4 then s
  else
    let s0 := if bit w 8 then s else (if n < need then s.bump .audTdmFrameErr a else s).audReference 3 a s.now
    if !s0.rb .audCtrl 0 then s0.tdmSend a [] n
    else match (kvGet a s0.aud.tdm).getD [] with
      | f :: t => State.tdmSend { s0 with aud := { s0.aud with tdm := kvPut [] a t s0.aud.tdm } } a f n
      | [] => (s0.bump .audTdmSlip a).tdmSend a [] n

/-- AUDIO_SAMPLE_BOUNDARY (R272). -/
def execAudioSampleBoundary (late : List (Fin 1024 × Fin 4294967296)) (lateBuses : List (Fin 64)) (s : State) :
    Host.Outcome State Fault Refusal :=
  .next (sampleBoundary ⟨late.map (fun x => (x.1.val, x.2.val)), lateBuses.map (·.val)⟩ s)

/-- AUD_REF_LOST (R273). -/
def execAudRefLost (s : State) : Host.Outcome State Fault Refusal := .next (audRefLost s)

/-- CROSSPOINT_WRITE (R285): a word with a reserved source is rejected (R5). -/
def execCrosspointWrite (x : Fin 2048) (w : Word) (s : State) : Host.Outcome State Fault Refusal :=
  .next (if wordOk .audXp 0 w then crosspointWrite x w s else s.reject (addrOf .audXp x 0 0))

/-- GAIN_CHANGE (R286): a write of voice v's GAIN, of output channel c, or of OUT_GAIN of a set of bus b that is not
live. -/
def execGainChange (g : GainReg) (w : Word) (s : State) : Host.Outcome State Fault Refusal :=
  .next (match g with
    | .voice v => if wordOk .audV5 0 w then gainWrite v .audV5 v w s else s.reject (addrOf .audV5 v 0 0)
    | .channel c => if wordOk .audOc 0 w then gainWrite (1024 + c) .audOc c w s else s.reject (addrOf .audOc c 0 0)
    | .bus b set =>
      let k := set.val * 64 + b.val
      if wordOk .audBusGain 0 w && s.liveSet b != k then s.wr .audBusGain w k else s.reject (addrOf .audBusGain k 0 0))

/-- BUS_SWAP (R288). -/
def execBusSwap (i : Fin 2) (w : Word) (s : State) : Host.Outcome State Fault Refusal := .next (busSwap i w s)

/-- TDM_FRAME_START (R292). -/
def execTdmFrameStart (a : Fin 4) (clocks : BitVec 10) (s : State) : Host.Outcome State Fault Refusal :=
  .next (tdmFrameStart a clocks.toNat s)

end Sys2Proof.Machine
end

