-- ==== Sys2Proof/Machine/Flags.lean ====
section
/-! DEFINITION. Results and flags of the Fanel arithmetic (spec 11 R212 to R216). Flags are given as bit numbers of st
with their new values: 0 N, 1 Z, 2 C, 3 V, 4 DZ. -/

namespace Sys2Proof.Machine

/-- A result with the flags it sets. -/
abbrev AluOut := Word × List (Nat × Bool)

/-- N and Z of a result. -/
def flagsNZ (r : Word) : List (Nat × Bool) := [(0, r.msb), (1, r == 0)]

/-- A result that sets N and Z only. -/
def withNZ (r : Word) : AluOut := (r, flagsNZ r)

/-- ADD and ADDI (R214): C is the carry out, V signed overflow. -/
def aluAdd (a b : Word) : AluOut :=
  let r := a + b
  (r, flagsNZ r ++ [(2, decide (2 ^ 32 ≤ a.toNat + b.toNat)), (3, decide (a.toInt + b.toInt ≠ r.toInt))])

/-- SUB (R214): C is 1 when a ≥ b unsigned, V signed overflow. -/
def aluSub (a b : Word) : AluOut :=
  let r := a - b
  (r, flagsNZ r ++ [(2, decide (b.toNat ≤ a.toNat)), (3, decide (a.toInt - b.toInt ≠ r.toInt))])

/-- NEG (R214): V only for 0x8000_0000; C unchanged. -/
def aluNeg (a : Word) : AluOut := (0 - a, flagsNZ (0 - a) ++ [(3, a == 0x80000000)])

def aluAnd (a b : Word) : AluOut := withNZ (a &&& b)
def aluOr (a b : Word) : AluOut := withNZ (a ||| b)
def aluXor (a b : Word) : AluOut := withNZ (a ^^^ b)
def aluNor (a b : Word) : AluOut := withNZ (~~~(a ||| b))

/-- SLT and SLTI. -/
def aluSlt (a b : Word) : AluOut := withNZ (if a.slt b then 1 else 0)

/-- SLTU and SLTIU. -/
def aluSltu (a b : Word) : AluOut := withNZ (if a.ult b then 1 else 0)

/-- SLL: amounts 32 to 63 give 0 (R215). -/
def aluSll (a b : Word) : AluOut := withNZ (a <<< (b.toNat % 64))

/-- SRL: amounts 32 to 63 give 0 (R215). -/
def aluSrl (a b : Word) : AluOut := withNZ (a >>> (b.toNat % 64))

/-- SRA: amounts 32 to 63 give the sign (R215). -/
def aluSra (a b : Word) : AluOut := withNZ (a.sshiftRight (b.toNat % 64))

/-- ROR: amount modulo 32 (R215). -/
def aluRor (a b : Word) : AluOut := withNZ (a.rotateRight (b.toNat % 32))

/-- ROL: amount modulo 32 (R215). -/
def aluRol (a b : Word) : AluOut := withNZ (a.rotateLeft (b.toNat % 32))

def aluMin (a b : Word) : AluOut := withNZ (if a.slt b then a else b)
def aluMax (a b : Word) : AluOut := withNZ (if a.slt b then b else a)
def aluMinu (a b : Word) : AluOut := withNZ (if a.ult b then a else b)
def aluMaxu (a b : Word) : AluOut := withNZ (if a.ult b then b else a)

/-- The 64-bit product of a MUL-class operation, signed or unsigned (R221). -/
def product (signed : Bool) (a b : Word) : Word64 :=
  if signed then BitVec.ofInt 64 (a.toInt * b.toInt) else BitVec.ofNat 64 (a.toNat * b.toNat)

/-- Quotient and remainder of a division (R216). -/
def divide (signed : Bool) (a b : Word) : Word × Word :=
  if b = 0 then
    if signed then (if a.msb then 0x80000000 else 0x7FFFFFFF, a) else (0xFFFFFFFF, a)
  else if signed then (BitVec.ofInt 32 (a.toInt.tdiv b.toInt), BitVec.ofInt 32 (a.toInt.tmod b.toInt))
  else (BitVec.ofNat 32 (a.toNat / b.toNat), BitVec.ofNat 32 (a.toNat % b.toNat))

/-- The flags a division sets at issue (R216): DZ for a zero divisor, else V, 1 only for 0x8000_0000 by −1. -/
def divFlags (signed : Bool) (a b : Word) : List (Nat × Bool) :=
  if b = 0 then [(4, true)] else [(3, signed && a == 0x80000000 && b == 0xFFFFFFFF)]

end Sys2Proof.Machine
end

