-- ==== Sys2Proof/Machine/Operands.lean ====
section
/-! DEFINITION. Operand forms of the Fanel instructions: immediates and targets (spec 11 R212), and the 32-bit words of
the six formats, in both directions. -/

namespace Sys2Proof.Machine

/-- sext() of a 14-bit immediate. -/
def sext14 (i : BitVec 14) : Word := i.signExtend 32

/-- zext() of a 14-bit immediate. -/
def zext14 (i : BitVec 14) : Word := i.zeroExtend 32

/-- The target pc + 4 + 4 × offset, taken modulo 65,536 (R212). -/
def jumpTarget (pc : Word) (off : Int) : Word := BitVec.ofNat 32 ((pc.toNat + 4 + 4 * off) % 65536).toNat

/-- The target of a 14-bit offset. -/
def target14 (pc : Word) (o : BitVec 14) : Word := jumpTarget pc o.toInt

/-- The target of a 24-bit offset. -/
def target24 (pc : Word) (o : BitVec 24) : Word := jumpTarget pc o.toInt

/-- The value with bits [1:0] cleared (R212). -/
def align4 (w : Word) : Word := BitVec.ofNat 32 (w.toNat / 4 * 4)

/-- The word of a Reg-format instruction with opcode op. -/
def wordReg (op : Nat) (o : FmtReg) : Word :=
  BitVec.ofNat 32 (op + o.rd * 2 ^ 8 + o.ra * 2 ^ 13 + o.rb * 2 ^ 18 + o.sh * 2 ^ 23 + o.top * 2 ^ 28)

def wordImm (op : Nat) (o : FmtImm) : Word :=
  BitVec.ofNat 32 (op + o.rd * 2 ^ 8 + o.ra * 2 ^ 13 + o.imm.toNat * 2 ^ 18)

def wordCmp (op : Nat) (o : FmtCmp) : Word :=
  BitVec.ofNat 32 (op + o.ra * 2 ^ 8 + o.rb * 2 ^ 13 + o.off.toNat * 2 ^ 18)

def wordHigh (op : Nat) (o : FmtHigh) : Word := BitVec.ofNat 32 (op + o.rd * 2 ^ 8 + o.imm.toNat * 2 ^ 13)

def wordLong (op : Nat) (o : BitVec 24) : Word := BitVec.ofNat 32 (op + o.toNat * 2 ^ 8)

def wordSpec (op : Nat) (o : FmtSpec) : Word :=
  BitVec.ofNat 32 (op + o.rd * 2 ^ 8 + o.ra * 2 ^ 13 + o.s * 2 ^ 18 + o.top * 2 ^ 23)

def wordLoopi (o : FmtLoopi) : Word :=
  BitVec.ofNat 32 (0x64 + o.bodyHi + o.count.toNat * 2 ^ 8 + o.bodyLo.toNat * 2 ^ 22)

def wordCallm (o : FmtCallm) : Word := BitVec.ofNat 32 (0x70 + o.mask.toNat * 2 ^ 8 + o.off.toNat * 2 ^ 18)

/-- A register number from five bits of a word. -/
def fin5 (w : Word) (lo : Nat) : Fin 32 := ⟨w.toNat / 2 ^ lo % 32, Nat.mod_lt _ (by decide)⟩

def fmtReg (w : Word) : FmtReg :=
  ⟨⟨w.toNat / 2 ^ 28 % 16, Nat.mod_lt _ (by decide)⟩, fin5 w 23, fin5 w 18, fin5 w 13, fin5 w 8⟩

def fmtImm (w : Word) : FmtImm := ⟨BitVec.ofNat 14 (w.toNat / 2 ^ 18), fin5 w 13, fin5 w 8⟩

def fmtCmp (w : Word) : FmtCmp := ⟨BitVec.ofNat 14 (w.toNat / 2 ^ 18), fin5 w 13, fin5 w 8⟩

def fmtHigh (w : Word) : FmtHigh := ⟨BitVec.ofNat 19 (w.toNat / 2 ^ 13), fin5 w 8⟩

def fmtLong (w : Word) : BitVec 24 := BitVec.ofNat 24 (w.toNat / 2 ^ 8)

def fmtSpec (w : Word) : FmtSpec :=
  ⟨⟨w.toNat / 2 ^ 23 % 512, Nat.mod_lt _ (by decide)⟩, fin5 w 18, fin5 w 13, fin5 w 8⟩

def fmtLoopi (w : Word) : FmtLoopi :=
  ⟨BitVec.ofNat 10 (w.toNat / 2 ^ 22), BitVec.ofNat 14 (w.toNat / 2 ^ 8), ⟨w.toNat % 4, Nat.mod_lt _ (by decide)⟩⟩

def fmtCallm (w : Word) : FmtCallm := ⟨BitVec.ofNat 14 (w.toNat / 2 ^ 18), BitVec.ofNat 10 (w.toNat / 2 ^ 8)⟩

/-- The command that a Fanel instruction word stands for on core c, or none for a reserved opcode (R212). -/
def decodeFanel (c : Fin 20) (w : Word) : Option Instr :=
  match w.toNat % 256 with
  | 0x01 => some (.add c (fmtReg w))
  | 0x02 => some (.sub c (fmtReg w))
  | 0x03 => some (.and c (fmtReg w))
  | 0x04 => some (.or c (fmtReg w))
  | 0x05 => some (.xor c (fmtReg w))
  | 0x06 => some (.nor c (fmtReg w))
  | 0x07 => some (.slt c (fmtReg w))
  | 0x08 => some (.sltu c (fmtReg w))
  | 0x09 => some (.sll c (fmtReg w))
  | 0x0A => some (.srl c (fmtReg w))
  | 0x0B => some (.sra c (fmtReg w))
  | 0x0C => some (.ror c (fmtReg w))
  | 0x0D => some (.rol c (fmtReg w))
  | 0x0E => some (.neg c (fmtReg w))
  | 0x0F => some (.min c (fmtReg w))
  | 0x10 => some (.max c (fmtReg w))
  | 0x11 => some (.minu c (fmtReg w))
  | 0x12 => some (.maxu c (fmtReg w))
  | 0x13 => some (.slli c (fmtReg w))
  | 0x14 => some (.srli c (fmtReg w))
  | 0x15 => some (.srai c (fmtReg w))
  | 0x16 => some (.rori c (fmtReg w))
  | 0x20 => some (.addi c (fmtImm w))
  | 0x21 => some (.andi c (fmtImm w))
  | 0x22 => some (.ori c (fmtImm w))
  | 0x23 => some (.xori c (fmtImm w))
  | 0x24 => some (.slti c (fmtImm w))
  | 0x25 => some (.sltiu c (fmtImm w))
  | 0x26 => some (.movu c (fmtHigh w))
  | 0x30 => some (.mul c (fmtReg w))
  | 0x31 => some (.mulu c (fmtReg w))
  | 0x32 => some (.mac c (fmtReg w))
  | 0x33 => some (.macu c (fmtReg w))
  | 0x34 => some (.div c (fmtReg w))
  | 0x35 => some (.divu c (fmtReg w))
  | 0x40 => some (.ldw c (fmtImm w))
  | 0x41 => some (.ldh c (fmtImm w))
  | 0x42 => some (.ldhu c (fmtImm w))
  | 0x43 => some (.ldb c (fmtImm w))
  | 0x44 => some (.ldbu c (fmtImm w))
  | 0x48 => some (.stw c (fmtImm w))
  | 0x49 => some (.sth c (fmtImm w))
  | 0x4A => some (.stb c (fmtImm w))
  | 0x50 => some (.beq c (fmtCmp w))
  | 0x51 => some (.bne c (fmtCmp w))
  | 0x52 => some (.blt c (fmtCmp w))
  | 0x53 => some (.bge c (fmtCmp w))
  | 0x54 => some (.bltu c (fmtCmp w))
  | 0x55 => some (.bgeu c (fmtCmp w))
  | 0x58 => some (.j c (fmtLong w))
  | 0x59 => some (.jal c (fmtLong w))
  | 0x5A => some (.jr c (fmtReg w))
  | 0x5B => some (.jalr c (fmtReg w))
  | 0x60 => some (.loop c (fmtCmp w))
  | 0x64 => some (.loopi c (fmtLoopi w))
  | 0x65 => some (.loopi c (fmtLoopi w))
  | 0x66 => some (.loopi c (fmtLoopi w))
  | 0x67 => some (.loopi c (fmtLoopi w))
  | 0x70 => some (.callm c (fmtCallm w))
  | 0x71 => some (.retm c (fmtLong w))
  | 0x78 => some (.lsw c (fmtHigh w))
  | 0xE0 => some (.fanelNop c (fmtSpec w))
  | 0xE1 => some (.mfs c (fmtSpec w))
  | 0xE2 => some (.mts c (fmtSpec w))
  | 0xE3 => some (.wfe c (fmtSpec w))
  | 0xE4 => some (.sev c (fmtSpec w))
  | 0xE5 => some (.waitt c (fmtSpec w))
  | 0xE6 => some (.waitl c (fmtSpec w))
  | 0xE7 => some (.msync c (fmtSpec w))
  | 0xE8 => some (.reti c (fmtSpec w) [])
  | 0xE9 => some (.leave c (fmtSpec w))
  | 0xEA => some (.brk c (fmtSpec w))
  | 0xEB => some (.sysc c (fmtSpec w))
  | _ => none

/-- The word of a Fanel instruction command, with its core; none for a command that is no instruction word. -/
def encodeFanel : Instr → Option (Fin 20 × Word)
  | .add c o => some (c, wordReg 0x01 o)
  | .sub c o => some (c, wordReg 0x02 o)
  | .and c o => some (c, wordReg 0x03 o)
  | .or c o => some (c, wordReg 0x04 o)
  | .xor c o => some (c, wordReg 0x05 o)
  | .nor c o => some (c, wordReg 0x06 o)
  | .slt c o => some (c, wordReg 0x07 o)
  | .sltu c o => some (c, wordReg 0x08 o)
  | .sll c o => some (c, wordReg 0x09 o)
  | .srl c o => some (c, wordReg 0x0A o)
  | .sra c o => some (c, wordReg 0x0B o)
  | .ror c o => some (c, wordReg 0x0C o)
  | .rol c o => some (c, wordReg 0x0D o)
  | .neg c o => some (c, wordReg 0x0E o)
  | .min c o => some (c, wordReg 0x0F o)
  | .max c o => some (c, wordReg 0x10 o)
  | .minu c o => some (c, wordReg 0x11 o)
  | .maxu c o => some (c, wordReg 0x12 o)
  | .slli c o => some (c, wordReg 0x13 o)
  | .srli c o => some (c, wordReg 0x14 o)
  | .srai c o => some (c, wordReg 0x15 o)
  | .rori c o => some (c, wordReg 0x16 o)
  | .addi c o => some (c, wordImm 0x20 o)
  | .andi c o => some (c, wordImm 0x21 o)
  | .ori c o => some (c, wordImm 0x22 o)
  | .xori c o => some (c, wordImm 0x23 o)
  | .slti c o => some (c, wordImm 0x24 o)
  | .sltiu c o => some (c, wordImm 0x25 o)
  | .movu c o => some (c, wordHigh 0x26 o)
  | .mul c o => some (c, wordReg 0x30 o)
  | .mulu c o => some (c, wordReg 0x31 o)
  | .mac c o => some (c, wordReg 0x32 o)
  | .macu c o => some (c, wordReg 0x33 o)
  | .div c o => some (c, wordReg 0x34 o)
  | .divu c o => some (c, wordReg 0x35 o)
  | .ldw c o => some (c, wordImm 0x40 o)
  | .ldh c o => some (c, wordImm 0x41 o)
  | .ldhu c o => some (c, wordImm 0x42 o)
  | .ldb c o => some (c, wordImm 0x43 o)
  | .ldbu c o => some (c, wordImm 0x44 o)
  | .stw c o => some (c, wordImm 0x48 o)
  | .sth c o => some (c, wordImm 0x49 o)
  | .stb c o => some (c, wordImm 0x4A o)
  | .beq c o => some (c, wordCmp 0x50 o)
  | .bne c o => some (c, wordCmp 0x51 o)
  | .blt c o => some (c, wordCmp 0x52 o)
  | .bge c o => some (c, wordCmp 0x53 o)
  | .bltu c o => some (c, wordCmp 0x54 o)
  | .bgeu c o => some (c, wordCmp 0x55 o)
  | .j c o => some (c, wordLong 0x58 o)
  | .jal c o => some (c, wordLong 0x59 o)
  | .jr c o => some (c, wordReg 0x5A o)
  | .jalr c o => some (c, wordReg 0x5B o)
  | .loop c o => some (c, wordCmp 0x60 o)
  | .loopi c o => some (c, wordLoopi o)
  | .callm c o => some (c, wordCallm o)
  | .retm c o => some (c, wordLong 0x71 o)
  | .lsw c o => some (c, wordHigh 0x78 o)
  | .fanelNop c o => some (c, wordSpec 0xE0 o)
  | .mfs c o => some (c, wordSpec 0xE1 o)
  | .mts c o => some (c, wordSpec 0xE2 o)
  | .wfe c o => some (c, wordSpec 0xE3 o)
  | .sev c o => some (c, wordSpec 0xE4 o)
  | .waitt c o => some (c, wordSpec 0xE5 o)
  | .waitl c o => some (c, wordSpec 0xE6 o)
  | .msync c o => some (c, wordSpec 0xE7 o)
  | .reti c o during => if during = [] then some (c, wordSpec 0xE8 o) else none
  | .leave c o => some (c, wordSpec 0xE9 o)
  | .brk c o => some (c, wordSpec 0xEA o)
  | .sysc c o => some (c, wordSpec 0xEB o)
  | _ => none

end Sys2Proof.Machine
end

