-- ==== Sys2Proof/Machine/Timers.lean ====
section
/-! DEFINITION. The 64-bit time base, compare channels, capture reads and interval timers (spec 16 R336 to R344). -/

namespace Sys2Proof.Machine

/-- How often a value that recurs every `period` is met within a step of k, when it is first met at distance d
(period 0: once) (R339). -/
def meetings (k d period : Nat) : Nat := if k < d then 0 else if period = 0 then 1 else 1 + (k - d) / period

/-- The compare output of a channel after n firings: unchanged, high, low or toggled (R340). -/
def State.driveCmp (s : State) (c n : Nat) : State :=
  let o := s.tmr.cmpOut
  let b := nbit o.toNat c
  let v := match s.rf .tmrCmpCtrl 3 2 c with
    | 0 => b
    | 1 => true
    | 2 => false
    | _ => if n % 2 = 1 then !b else b
  let keep := if b then o.toNat - 2 ^ c else o.toNat
  { s with tmr := { s.tmr with cmpOut := BitVec.ofNat 64 (keep + (if v then 2 ^ c else 0)) } }

/-- The firing effects of n firings: FIRED, the output and source 512 + c (R340). -/
def State.cmpFired (s : State) (c n : Nat) : State :=
  ((s.wb .tmrCmpStatus 2 true c).driveCmp c n).record (512 + c) domCentral n

/-- The period rule after n firings: VALUE + n × PERIOD, or disarmed with PERIOD 0 (R340). -/
def State.cmpPeriod (s : State) (c n : Nat) : State :=
  let p := (s.rd .tmrCmpPeriod c).toNat
  if p = 0 then s.wb .tmrCmpStatus 0 false c
  else s.wr .tmrCmpValue (BitVec.ofNat 32 ((s.rd .tmrCmpValue c).toNat + n * p)) c

/-- Compare channel c over a step of k ns from count t (R339, R340). -/
def State.cmpStep (s : State) (t k c : Nat) : State :=
  if s.rb .tmrCmpStatus 0 c then
    let gap := ((s.rd .tmrCmpValue c).toNat + (2 ^ 32 - t % 2 ^ 32)) % 2 ^ 32
    let d := if gap = 0 then 2 ^ 32 else gap
    let n := meetings k d (s.rd .tmrCmpPeriod c).toNat
    if n = 0 then s else (s.cmpPeriod c n).cmpFired c n
  else s

/-- Interval timer i over a step of k ns (R344). A stopped one-shot timer has EN 0. -/
def State.itStep (s : State) (k i : Nat) : State :=
  if s.rb .tmrItCtrl 0 i then
    let cnt := (s.rd .tmrItCount i).toNat
    let r := (s.rd .tmrItReload i).toNat
    if k < cnt then s.wr .tmrItCount (BitVec.ofNat 32 (cnt - k)) i
    else if s.rb .tmrItCtrl 1 i then
      (((s.wb .tmrItCtrl 0 false i).wr .tmrItCount 0 i).bump .tmrItExp i).record (608 + i) domCentral 1
    else
      let n := meetings k cnt r
      ((s.wr .tmrItCount (BitVec.ofNat 32 (r - (k - cnt) % r)) i).bump .tmrItExp i 0 0 n).record (608 + i) domCentral n
  else s

/-- The count advances by k ns, and every compare channel and interval timer behaves as though each of the k ns had
elapsed (R336, R339). Passing all ones raises TB_WRAP. Arrivals of one step are arbitrated together (R331). -/
def State.advance (s : State) (k : Nat) : State :=
  let t := s.now
  let s1 := { s with tmr := { s.tmr with tb := BitVec.ofNat 64 (t + k) } }
  let s2 := if 2 ^ 64 ≤ t + k then s1.record 325 domCentral 1 else s1
  let s3 := (List.range 64).foldl (fun s c => s.cmpStep t k c) s2
  ((List.range 32).foldl (fun s i => s.itStep k i) s3).arbitrate

/-- The always-on tick of R338: the new accumulator and the ns it adds. -/
def aonTick (acc : Nat) : Nat × Nat := if 64 ≤ acc + 37 then (acc + 37 - 64, 30518) else (acc + 37, 30517)

/-- A 32-bit read of TMR_TB_LO: the low half, with the high half latched for TMR_TB_HI (R336). -/
def tbLoRead (s : State) : Word × State :=
  (BitVec.ofNat 32 s.now, { s with tmr := { s.tmr with tbLatch := some (BitVec.ofNat 32 (s.now / 2 ^ 32)) } })

/-- A 32-bit read of TMR_TB_HI: the latched half once, else the high half as it stands. -/
def tbHiRead (s : State) : Word × State :=
  match s.tmr.tbLatch with
  | some w => (w, { s with tmr := { s.tmr with tbLatch := none } })
  | none => (BitVec.ofNat 32 (s.now / 2 ^ 32), s)

/-- TMR_TB_CTRL.LOAD: in Provisioning (1) and Ember (5) the count takes TMR_TB_SET when that lies above it, as an
advance by the difference; otherwise TMR_REJECT records the write (R337). -/
def tbLoad (s : State) : State :=
  let v := (s.rd .tmrTbSetLo).toNat + (s.rd .tmrTbSetHi).toNat * 2 ^ 32
  let m := s.rf .sysMode 2 0
  if (m = 1 ∨ m = 5) ∧ s.now < v then s.advance (v - s.now) else s.reject (addrOf .tmrTbCtrl 0 0 0)

/-- Arm a compare channel: BEHIND tells a VALUE that is not within the next half lap (R340, R341). -/
def State.armCmp (s : State) (c : Nat) : State :=
  let behind := (s.now + (2 ^ 32 - (s.rd .tmrCmpValue c).toNat)) % 2 ^ 32 < 2 ^ 31
  let s1 := s.wb .tmrCmpStatus 0 true c
  if behind then s1.wb .tmrCmpStatus 1 true c else s1

/-- A write of TMR_CMPc_VALUE: arms while EN is 1 (R340). -/
def cmpValueWrite (c : Nat) (v : Word) (s : State) : State :=
  let s1 := s.wr .tmrCmpValue v c
  if s1.rb .tmrCmpCtrl 0 c then s1.armCmp c else s1

/-- FIRE: an armed channel fires as at a match; an unarmed one has the firing effects only (R340). -/
def cmpFire (c : Nat) (s : State) : State :=
  (if s.rb .tmrCmpStatus 0 c then (s.cmpPeriod c 1).cmpFired c 1 else s.cmpFired c 1).arbitrate

/-- A write of TMR_CMPc_CTRL: setting EN arms, clearing EN disarms, FIRE fires (R340). -/
def cmpCtrlWrite (c : Nat) (w : Word) (s : State) : State :=
  let was := s.rb .tmrCmpCtrl 0 c
  let s1 := s.wr .tmrCmpCtrl (setBit w 1 false) c
  let s2 := if bit w 0 then (if was then s1 else s1.armCmp c) else s1.wb .tmrCmpStatus 0 false c
  if bit w 1 then cmpFire c s2 else s2

/-- A capture of channel k has taken effect in the present cycle of the central fabric (R343). -/
def State.capNow (s : State) (k : Nat) : Bool := match kvGet k s.tmr.capOld with
  | some o => o.at_ == s.tmr.tb
  | none => false

/-- A consuming read of a capture register clears VALID (R342). One in the cycle of a capture leaves the new stamp valid,
and OVR as it was before that cycle (R343). -/
def capTake (k : Nat) (s : State) : State :=
  if s.capNow k then s.wb .tmrCapStatus 1 (s.capBefore k).ovr k else s.wb .tmrCapStatus 0 false k

/-- A 32-bit read of TMR_CAPk_LO: the low half of the stamp held before the present cycle; VALID clears and the high half
is latched (R342, R343). -/
def capLoRead (k : Nat) (s : State) : Word × State :=
  let s1 := capTake k s
  ((s.capBefore k).lo, { s1 with tmr := { s1.tmr with capHi := kvSet k (s.capBefore k).hi s1.tmr.capHi } })

/-- A 32-bit read of TMR_CAPk_HI: the latched half once, else the register. -/
def capHiRead (k : Nat) (s : State) : Word × State :=
  match kvGet k s.tmr.capHi with
  | some w => (w, { s with tmr := { s.tmr with capHi := kvDel k s.tmr.capHi } })
  | none => (s.rd .tmrCapHi k, s)

/-- The words of a capture log record: the stamp, and VALID in byte 8 bit 0 (R342). -/
def capRecord (v : Word64) : Rec4 := ⟨BitVec.ofNat 32 v.toNat, BitVec.ofNat 32 (v.toNat / 2 ^ 32), 1, 0⟩

/-- The record at the head of a capture log, or the idle item (R17). -/
def State.capHead (s : State) (k : Nat) : Rec4 :=
  match s.capLogOf k with
  | [] => idleRec
  | v :: _ => capRecord v

/-- A read of LOG0 pops the log and latches words 1 to 3 (R342). -/
def capLogPop (k : Nat) (s : State) : Rec4 × State :=
  (s.capHead k, { s with tmr := { s.tmr with capLog := kvPut [] k (s.capLogOf k).tail s.tmr.capLog,
                                             capLatch := kvSet k (s.capHead k) s.tmr.capLatch } })

/-- A write of TMR_ITk_CTRL: setting EN loads the count from RELOAD; clearing it freezes the count (R344). -/
def itCtrlWrite (k : Nat) (w : Word) (s : State) : State :=
  let was := s.rb .tmrItCtrl 0 k
  let s1 := s.wr .tmrItCtrl w k
  if bit w 0 && !was then s1.wr .tmrItCount (s1.rd .tmrItReload k) k else s1

/-- A write of TMR_ITk_LOAD: the count is set now; with EN 0 or the reserved value 0 the write is rejected (R344). -/
def itLoadWrite (k : Nat) (v : Word) (s : State) : State :=
  if v = 0 ∨ !s.rb .tmrItCtrl 0 k then s.reject (addrOf .tmrItLoad k 0 0) else s.wr .tmrItCount v k

/-- The central fabric advances the count: not in Sleep (4) or Debug Halt (7), where the always-on domain does, and
not while the device is held in Reset (0) (R338, R387). -/
def State.fabricRuns (s : State) : Bool :=
  !s.tmr.slow && s.rf .sysMode 2 0 != 0

/-- The 1 ns tick of the central fabric (R336): what the block does while no command waits. -/
def fabricTick (s : State) : State := if s.fabricRuns then s.advance 1 else s

/-- TB_WRAP (R336): the tick at which the count wraps from all ones to zero. -/
def execTbWrap (s : State) : Host.Outcome State Fault Refusal :=
  .next (if s.fabricRuns ∧ s.now = 2 ^ 64 - 1 then s.advance 1 else s)

/-- TB_LOAD (R337). -/
def execTbLoad (s : State) : Host.Outcome State Fault Refusal := .next (tbLoad s)

/-- CMP_VALUE_WRITE (R341). -/
def execCmpValueWrite (c : Fin 64) (v : Word) (s : State) : Host.Outcome State Fault Refusal :=
  .next (cmpValueWrite c v s)

/-- CMP_MATCH (R340): the tick at which the low half of the count becomes VALUE of an armed channel. -/
def execCmpMatch (c : Fin 64) (s : State) : Host.Outcome State Fault Refusal :=
  .next (if s.fabricRuns ∧ s.rb .tmrCmpStatus 0 c ∧ (s.now + 1) % 2 ^ 32 = (s.rd .tmrCmpValue c).toNat
    then s.advance 1 else s)

/-- CMP_FIRE (R340). -/
def execCmpFire (c : Fin 64) (s : State) : Host.Outcome State Fault Refusal := .next (cmpFire c s)

/-- IT_ENABLE (R344): EN set, the mode ONESHOT as given. -/
def execItEnable (k : Fin 32) (oneshot : Bool) (s : State) : Host.Outcome State Fault Refusal :=
  .next (itCtrlWrite k (BitVec.ofNat 32 (1 + 2 * oneshot.toNat)) s)

/-- IT_EXPIRY (R344): the tick at which a running timer's count reaches zero. -/
def execItExpiry (k : Fin 32) (s : State) : Host.Outcome State Fault Refusal :=
  .next (if s.fabricRuns ∧ s.rb .tmrItCtrl 0 k ∧ (s.rd .tmrItCount k).toNat = 1 then s.advance 1 else s)

/-- IT_LOAD (R344). -/
def execItLoad (k : Fin 32) (v : Word) (s : State) : Host.Outcome State Fault Refusal := .next (itLoadWrite k v s)

end Sys2Proof.Machine
end

