-- ==== Sys2Proof/Machine/FanelOps.lean ====
section
/-! DEFINITION. The shared operations of the Fanel cores (spec 11): registers and the pipeline distances of R219 and
R220, memories (R208, R239), loop ends (R224), exception entry (R233, R238) and halting (R241, R242). -/

namespace Sys2Proof.Machine

/-- Apply a result to its register (g0 is discarded, R206). -/
def Core.apply (k : Core) (r : PReg) (v : Word) : Core :=
  match r with
  | .g i => if i = 0 then k else { k with g := vset k.g i v }
  | .flag i => { k with st := setBit k.st i (bit v 0) }
  | .sp 0 => { k with st := setFld (setFld k.st 6 5 (fld v 6 5)) 12 8 (fld v 12 8) }
  | .sp 1 => { k with ml := v }
  | .sp 2 => { k with mh := v }
  | .sp 3 => { k with ev := v }
  | .sp 16 => { k with xcause := v }
  | .sp 18 => { k with vbase := v }
  | .sp 24 => { k with pswin := v }
  | .sp 27 => { k with st := setFld k.st 15 13 (fld v 15 13) }
  | .sp n =>
    if n < 8 then { k with ls := vset k.ls (n - 4) v }
    else if n < 12 then { k with le := vset k.le (n - 8) v }
    else { k with lc := vset k.lc (n - 12) v }

/-- Results due by cycle t become visible, and a division that has ended writes ml and mh (R219). -/
def Core.land (k : Core) : Core :=
  let k1 := (k.pend.filter (fun p => p.at_ ≤ k.t)).foldl (fun k p => k.apply p.reg p.val) k
  let k2 := { k1 with pend := k.pend.filter (fun p => k.t < p.at_) }
  match k2.div with
  | some d => if d.endAt ≤ k2.t then { k2 with ml := d.quo, mh := d.rem, div := none } else k2
  | none => k2

/-- n core cycles pass. -/
def Core.pass (k : Core) (n : Nat) : Core := { k with t := k.t + n, cyc := k.cyc + BitVec.ofNat 32 n }.land

/-- The cycle by which every listed register holds its latest result. -/
def Core.dueAt (k : Core) (rs : List PReg) : Nat :=
  (k.pend.filter (fun p => rs.contains p.reg)).foldl (fun m p => max m p.at_) k.t

/-- Reading registers: M stalls until their results are there, X reads what is visible (R219). -/
def Core.need (k : Core) (rs : List PReg) : Core :=
  if k.pipeX then k else k.pass (k.dueAt rs - k.t)

/-- A result written n cycles from now; an earlier result that would come with it or after it is discarded (R220). -/
def Core.later (k : Core) (r : PReg) (v : Word) (n : Nat) : Core :=
  let at1 := k.t + n
  { k with pend := k.pend.filter (fun p => p.reg ≠ r || p.at_ < at1) ++ [PendWrite.mk r v at1] }

/-- A result written at once, which discards every earlier one still to come (R220). -/
def Core.now (k : Core) (r : PReg) (v : Word) : Core :=
  { k with pend := k.pend.filter (fun p => p.reg ≠ r) }.apply r v

/-- A result at its distance: x in configuration X, m in M (R219). -/
def Core.result (k : Core) (r : PReg) (v : Word) (x m : Nat) : Core :=
  if r = .g 0 then k else k.later r v (if k.pipeX then x else m)

/-- Flag results at their distance (R219). -/
def Core.flags (k : Core) (fs : List (Nat × Bool)) : Core :=
  fs.foldl (fun k f => k.result (.flag f.1) (BitVec.ofNat 32 f.2.toNat) 2 1) k

/-- The visible value of a general register; g0 reads zero (R206). -/
def Core.gr (k : Core) (i : Nat) : Word := if i = 0 then 0 else vget k.g i 0

/-- st with PIPE (R205). -/
def Core.stWord (k : Core) : Word := setBit k.st 16 k.pipeX

/-- Fields of st. -/
def Core.ie (k : Core) : Bool := bit k.st 6
def Core.ipl (k : Core) : Nat := fld k.st 12 8
def Core.ld (k : Core) : Nat := fld k.st 15 13
def Core.setLd (k : Core) (n : Nat) : Core :=
  { k with st := setFld k.st 15 13 n, pend := k.pend.filter (fun p => p.reg ≠ .sp 27) }
def Core.setIpl (k : Core) (n : Nat) : Core :=
  { k with st := setFld k.st 12 8 n, pend := k.pend.filter (fun p => p.reg ≠ .sp 0) }

/-- The core is a line processor. -/
def isLp (c : Nat) : Bool := c < 16

/-- The table key of the 32-byte word that holds a TCM byte address (0 to 0x1FFFF) of a core. -/
def tcmKey (c a : Nat) : Nat := 4 * 2 ^ 32 + c * 4096 + a / 32

/-- The 32-byte word of a TCM address is poisoned, or holds more errors than can be corrected (R239). -/
def State.tcmBad (s : State) (c a : Nat) : Bool :=
  s.tbl.poison.contains (tcmKey c a) || 2 < ((kvGet (tcmKey c a) s.tbl.err).getD []).length

/-- A core access reads the 32-byte words of n words from a TCM address (R239, R104): a correctable word is rewritten, an
uncorrectable one is poisoned, and a rewriting of it in ascending order is broken. -/
def State.tcmTouch (s : State) (c a n : Nat) : State :=
  ((List.range n).map (fun i => tcmKey c (a + 4 * i))).eraseDups.foldl (fun s k =>
    let s1 := (s.readTable k).2
    { s1 with tbl := { s1.tbl with clear := kvDel k s1.tbl.clear } }) s

/-- The two words below a stack pointer are accessed, where they lie in D-TCM (R238). -/
def State.touchPush (s : State) (c : Nat) (sp : Word) : State :=
  if sp.toNat % 4 = 0 ∧ 0x10008 ≤ sp.toNat ∧ sp.toNat ≤ 0x20000 then s.tcmTouch c (sp.toNat - 8) 2 else s

/-- `size` bytes of a word at byte offset `a` mod 4, zero- or sign-extended. -/
def extract (w : Word) (a size : Nat) (signed : Bool) : Word :=
  let v := w.toNat / 2 ^ (8 * (a % 4)) % 2 ^ (8 * size)
  if signed then BitVec.ofInt 32 (sx (8 * size) v) else BitVec.ofNat 32 v

/-- A word with `size` bytes at byte offset `a` mod 4 replaced by the low bytes of v. -/
def insertBytes (w : Word) (a size : Nat) (v : Word) : Word :=
  setFld w (8 * (a % 4) + 8 * size - 1) (8 * (a % 4)) v.toNat

/-- Where an address of a core lies (R208). -/
inductive CoreAddr where
  | tcm (a : Nat)
  | device (off : Nat)
  | pattern (a : Nat)
  | none
deriving DecidableEq, Repr

/-- An access raises Alignment: a misaligned address, or a byte or halfword access to the device window, before any address is
decoded further (R209, R211, R232). -/
def misaligned (size : Nat) (a : Word) : Bool :=
  a.toNat % size != 0 || (size != 4 && decide (0x40000000 ≤ a.toNat ∧ a.toNat < 0x44000000))

/-- The address decode of R208: line processors load from their beam's region only; only stewards store to a window. -/
def Core.place (k : Core) (c : Nat) (a : Word) (store : Bool) : CoreAddr :=
  let n := a.toNat
  if n < 0x20000 then .tcm n
  else if 0x40000000 ≤ n ∧ n < 0x44000000 then
    let o := n - 0x40000000
    if isLp c then (if !store && beamOf o == some c then .device o else .none) else .device o
  else if 0x80000000 ≤ n ∧ n < 0xC0000000 ∧ !isLp c then .pattern (n - 0x80000000 + k.pswin.toNat * 2 ^ 30)
  else .none

/-- LP_RA_POS of beam n (R203): the generation point, Fg, and whether the generator waits for the Calends. -/
def State.raPos (s : State) (n : Nat) : Word :=
  let b := vget s.beams n {}
  let lines := fld (rfGet b.live (addrOf .beamActive n 0 0)) 29 16
  let waits := b.run == .running && b.gen.isNone && b.restart.isNone && (!b.generating || lines ≤ b.nextGen)
  BitVec.ofNat 32 (b.nextGen % 2 ^ 14 + b.fg % 256 * 2 ^ 16 + waits.toNat * 2 ^ 31)

/-- LP_STATUS.STATE and SYS_SC_STATUS code of a run state. -/
def runCode : CoreRun → Nat
  | .reset => 0
  | .running => 1
  | .waiting => 2
  | .halted => 3
  | .lockup => 4
  | .gated => 5

/-- LP_STATUS.WAIT of a wait. -/
def waitCode : CoreWait → Nat
  | .none => 0
  | .wfe _ _ => 1
  | .waitt _ => 2
  | .waitl _ _ => 3
  | .msync => 4
  | .lsw => 5
  | .load _ _ _ _ => 6
  | .store _ _ _ => 6

/-- The core is in the middle of a window access. -/
def Core.inWindow (k : Core) : Bool :=
  match k.wait with
  | .load _ _ _ _ => true
  | .store _ _ _ => true
  | _ => false

/-- The core cycles of a wait or a freeze that ends (R207, R217): their number is left open. A freeze holds the pipeline and
the multiply-divide unit, and cyc counts on. -/
def State.waited (s : State) (c : Nat) : State :=
  let k := s.core c
  if k.run ≠ .waiting then s
  else
    let (n, s1) := s.fresh (2 ^ 32)
    s1.setCore c (if k.wait.frozen then { k with cyc := k.cyc + BitVec.ofNat 32 n } else k.pass n)

/-- A halted core: issued instructions complete, the unit runs to idle, a wait or LSW freeze is abandoned (R242). -/
def Core.halt (k : Core) (why : Nat) : Core :=
  let idle := match k.div with | some d => d.endAt | none => k.t
  let k1 := k.pass (max (k.dueAt (k.pend.map (·.reg))) idle - k.t)
  { k1 with run := .halted, wait := .none, why := why }

/-- Stop in Lockup and raise CORE_LOCKUP; the core's claimed sources are no longer ACTIVE (R238, R330). -/
def lockup (c : Nat) (s : State) : State :=
  let s1 := s.setCore c { s.core c with run := .lockup, wait := .none }
  ((s1.endActive c 0).raise (328 + c) domSteward).arbitrate

/-- The two words pushed below sp can be written: sp aligned, both words in D-TCM and not poisoned (R238). -/
def State.canPushAt (s : State) (c : Nat) (sp : Word) : Bool :=
  let a := sp.toNat
  a % 4 = 0 && 0x10008 ≤ a && a ≤ 0x20000 && !s.tcmBad c (a - 8) && !s.tcmBad c (a - 4)

/-- Push return pc and st: sp ← sp − 8, pc at sp + 4, st at sp (R233). -/
def Core.push (k : Core) (ret : Word) : Core :=
  let a := (k.gr 30).toNat - 8
  ((k.setTcm (a + 4) ret).setTcm a k.stWord).now (.g 30) (BitVec.ofNat 32 a)

/-- The handler address in entry e of the vector table, bits [15:2] (R233). -/
def Core.vector (k : Core) (e : Nat) : Word :=
  BitVec.ofNat 32 ((k.tcmWord (k.vbase.toNat + 4 * e)).toNat / 4 % 16384 * 4)

/-- Entry to a handler once the words can be pushed: five cycles, sp read and the state pushed in the second, xcause, xaddr, IPL and
pc set; IE and loop state stay (R233, R236). Interrupts leave xaddr. -/
def Core.enter (k : Core) (ret cause : Word) (xaddr : Option Word) (ipl entry : Nat) : Core :=
  let k1 := (k.need [.g 30]).pass 1
  let k2 := (k1.push ret).pass 1
  let k3 := (k2.now (.sp 16) cause).setIpl ipl
  let k4 := { k3 with xaddr := xaddr.getD k3.xaddr, run := .running, wait := .none, skipBp := false }
  let k5 := k4.pass 3
  { k5 with pc := k5.vector entry }

/-- The I-TCM address of entry e of a core's vector table (R233). -/
def Core.vectorAt (k : Core) (e : Nat) : Nat := k.vbase.toNat + 4 * e

/-- A core has read vector entry e as part of an entry: a correctable word is rewritten, and with a poisoned or uncorrectable
one `bad` follows (R239, log entry 49). -/
def State.readVector (s : State) (c e : Nat) (bad : State → State) : State :=
  let a := (s.core c).vectorAt e
  let s1 := s.tcmTouch c a 1
  if s1.tcmBad c a then bad s1 else s1

/-- Take exception `code` with its saved pc and fault address (R232, R233, R238), where `bad` follows a bad vector entry. A
line processor with EXC_HALT halts before the entry (R241); an entry that cannot push stops in Lockup. -/
def exceptionOr (bad : State → State) (c code : Nat) (saved xaddr : Word) (s : State) : State :=
  let k := s.core c
  if isLp c && s.rb .lpDbgCtrl 1 c then s.setCore c (k.halt 6)
  else
    let k1 := (k.need [.g 30]).pass 1
    let s1 := State.touchPush (if isLp c then s.bump .lpExc c else s) c (k1.gr 30)
    if s1.canPushAt c (k1.gr 30) then
      (s1.setCore c (k.enter saved (BitVec.ofNat 32 (0x80000000 + code)) (some xaddr) 17 code)).readVector c code bad
    else lockup c (s1.setCore c k1)

/-- Memory Error at the bad entry e of the vector table, for an entry whose return pc is `saved`; a bad entry of Memory Error
itself, which no further entry could pass, stops the core in Lockup (log entry 49). -/
def vectorFault (c e : Nat) (saved : Word) (s : State) : State :=
  exceptionOr (lockup c) c 2 saved (BitVec.ofNat 32 ((s.core c).vectorAt e)) s

/-- Take exception `code` with its saved pc and fault address (R232, R233, R238). -/
def takeException (c code : Nat) (saved xaddr : Word) (s : State) : State :=
  exceptionOr (vectorFault c code saved) c code saved xaddr s

/-- The levels that end at an instruction address: the checks of R224 from the innermost out. -/
def Core.loopCheck : Nat → Word → Core → Core × Word
  | 0, a, k => (k, a + 4)
  | n + 1, a, k =>
    if k.ld = 0 then (k, a + 4)
    else
      let d := k.ld - 1
      if vget k.le d 0 ≠ a then (k, a + 4)
      else if 1 < (vget k.lc d 0).toNat then
        ({ k with lc := vset k.lc d (vget k.lc d 0 - 1) }, vget k.ls d 0)
      else Core.loopCheck n a { k with lc := vset k.lc d 0, st := setFld k.st 15 13 d }

/-- An instruction completes without a taken control transfer, after n cycles (R218, R224): the loops that end at it are checked
with the results that have landed by then, and a result of its own that is still to come stays to come (log entry 96). -/
def Core.finish (k : Core) (n : Nat) : Core :=
  let (k1, next) := Core.loopCheck 4 k.pc (k.pass n)
  { k1 with pc := next, skipBp := false }

/-- A taken control transfer: two cycles, loop registers unchanged (R218, R224). -/
def Core.jump (k : Core) (target : Word) : Core := { k with pc := target, skipBp := false }.pass 2

/-- An armed breakpoint of a line processor lies at an address (R241). -/
def State.breakAt (s : State) (c : Nat) (pc : Word) : Bool :=
  isLp c && (List.range 4).any (fun i => s.rb .lpBkpt 0 c i && s.rf .lpBkpt 15 2 c i * 4 == pc.toNat)

/-- An armed watchpoint of a line processor watches a D-TCM access (R241). -/
def State.watchAt (s : State) (c a : Nat) (store : Bool) : Bool :=
  isLp c && 0x10000 ≤ a && a < 0x20000 &&
    (List.range 2).any (fun i => s.rb .lpWatch 0 c i && s.rf .lpWatch 15 2 c i == (a - 0x10000) / 4 &&
      s.rb .lpWatch (if store then 17 else 16) c i)

/-- The issue of an instruction on core c: nothing unless the core runs; an armed breakpoint halts before it (R241); a
fetch outside I-TCM or of a poisoned word raises Memory Error (R208, R239); else the body runs on the core with its due
results landed. -/
def issue (c : Nat) (body : Core → State → State) (s : State) : State :=
  let k := (s.core c).land
  if k.run ≠ .running then s
  else if !k.skipBp && s.breakAt c k.pc then s.setCore c (k.halt 2)
  else if 0x10000 ≤ k.pc.toNat then takeException c 2 k.pc k.pc (s.setCore c k)
  else
    let s1 := (s.tcmTouch c k.pc.toNat 1).setCore c k
    if s1.tcmBad c k.pc.toNat then takeException c 2 k.pc k.pc s1 else body k s1

/-- Illegal Instruction at the instruction (R207, R213). -/
def illegal (c : Nat) (k : Core) (s : State) : State := takeException c 1 k.pc k.pc s

/-- Run a body unless a reserved field or form makes the instruction illegal (R213). -/
def issueIf (c : Nat) (ok : Core → Bool) (body : Core → State → State) (s : State) : State :=
  issue c (fun k s => if ok k then body k s else illegal c k s) s

/-- A register result with flags, at the ALU distances, in one cycle (R219). -/
def aluDone (c rd : Nat) (k : Core) (r : AluOut) (s : State) : State :=
  s.setCore c (((k.result (.g rd) r.1 2 1).flags r.2).finish 1)

/-- A Reg-format operation on ra and rb; sh and [31:28] must be zero (R212, R213). -/
def aluRR (f : Word → Word → AluOut) (c : Nat) (o : FmtReg) (s : State) : State :=
  issueIf c (fun _ => o.top = 0 && o.sh = 0) (fun k s =>
    let k := k.need [.g o.ra, .g o.rb]
    aluDone c o.rd k (f (k.gr o.ra) (k.gr o.rb)) s) s

/-- A Reg-format operation on ra alone; rb, sh and [31:28] must be zero. -/
def aluR (f : Word → AluOut) (c : Nat) (o : FmtReg) (s : State) : State :=
  issueIf c (fun _ => o.top = 0 && o.sh = 0 && o.rb = 0) (fun k s =>
    let k := k.need [.g o.ra]
    aluDone c o.rd k (f (k.gr o.ra)) s) s

/-- A shift of ra by sh; rb and [31:28] must be zero (R215). -/
def aluSh (f : Word → Word → AluOut) (c : Nat) (o : FmtReg) (s : State) : State :=
  issueIf c (fun _ => o.top = 0 && o.rb = 0) (fun k s =>
    let k := k.need [.g o.ra]
    aluDone c o.rd k (f (k.gr o.ra) (BitVec.ofNat 32 o.sh)) s) s

/-- An Imm-format operation on ra and an extended immediate. -/
def aluImm (f : Word → Word → AluOut) (imm : Word) (c : Nat) (o : FmtImm) (s : State) : State :=
  issue c (fun k s =>
    let k := k.need [.g o.ra]
    aluDone c o.rd k (f (k.gr o.ra) imm) s) s

/-- The cycle from which the multiply-divide unit is idle: a division occupies it for 18 cycles, and its results are there one
cycle later (R219, R221). -/
def Core.unitIdle (k : Core) : Nat := match k.div with | some d => d.endAt - 1 | none => k.t

/-- Before an operation of the unit, or a write of ml or mh, M waits for a division and X abandons it; a division that no longer
occupies the unit leaves its results to come (R221). -/
def Core.freeUnit (k : Core) : Core :=
  match k.div with
  | none => k
  | some d =>
    if k.pipeX ∧ k.t < k.unitIdle then { k with div := none }
    else
      let k1 := k.pass (k.unitIdle - k.t)
      { k1 with div := none, pend := k1.pend ++ [PendWrite.mk (.sp 1) d.quo d.endAt, PendWrite.mk (.sp 2) d.rem d.endAt] }

/-- M stalls until the unit is idle (R221). -/
def Core.toIdle (k : Core) : Core := if k.pipeX then k else k.pass (k.unitIdle - k.t)

/-- M stalls a reader of ml or mh until the results of a division are there; X reads on (R219, R221). -/
def Core.awaitUnit (k : Core) : Core :=
  match k.div with
  | none => k
  | some d => if k.pipeX then k else k.pass (d.endAt - k.t)

/-- The latest value of ml or mh in program order, landed or not (R221). -/
def Core.latest (k : Core) (r : PReg) (v : Word) : Word :=
  ((k.pend.filter (fun p => p.reg = r)).getLast?.map (·.val)).getD v

/-- A MUL-class operation: the product, added to mh:ml as the unit last left it for MAC and MACU, at distance 4. -/
def mulOp (signed acc : Bool) (c : Nat) (o : FmtReg) (s : State) : State :=
  issueIf c (fun _ => o.top = 0 && o.sh = 0 && o.rd = 0) (fun k s =>
    let k := (k.freeUnit).need [.g o.ra, .g o.rb]
    let p := product signed (k.gr o.ra) (k.gr o.rb)
    let v : Word64 := if acc then p + ((k.latest (.sp 2) k.mh) ++ (k.latest (.sp 1) k.ml)) else p
    let k1 := (k.result (.sp 1) (v.truncate 32) 4 4).result (.sp 2) ((v >>> 32).truncate 32) 4 4
    s.setCore c (k1.finish 1)) s

/-- DIV and DIVU: V and DZ at issue; the results 19 cycles on; a zero divisor with DZE raises Divide by Zero (R216). -/
def divOp (signed : Bool) (c : Nat) (o : FmtReg) (s : State) : State :=
  issueIf c (fun _ => o.top = 0 && o.sh = 0 && o.rd = 0) (fun k s =>
    let k := (k.freeUnit).need [.g o.ra, .g o.rb]
    let a := k.gr o.ra
    let b := k.gr o.rb
    if b = 0 && bit k.st 5 then
      takeException c 4 k.pc k.pc (s.setCore c (k.now (.flag 4) 1))
    else
      let q := divide signed a b
      let k1 := { k.flags (divFlags signed a b) with div := some ⟨k.t + 19, q.1, q.2⟩ }
      s.setCore c (k1.finish 1)) s

/-- A division that was not abandoned writes its quotient and remainder (R221); not during a freeze, which stops the unit
too (R217). -/
def divComplete (c : Nat) (s : State) : State :=
  let k := s.core c
  if k.run = .waiting && k.wait.frozen then s else
  match k.div with
  | none => s
  | some d => s.setCore c (k.pass (d.endAt - k.t))

end Sys2Proof.Machine
end

