-- ==== Sys2Proof/Machine/Fanel.lean ====
section
/-! DEFINITION. The Fanel instructions that need no other unit: arithmetic, branches, loops, CALLM and RETM, special
registers, waits, loads and stores up to their window, exceptions and interrupts (spec 11 R204 to R239). -/

namespace Sys2Proof.Machine

/-- A load once its address is aligned and decoded: TCM at once, a window freezes the core (R208 to R211, R219). -/
def loadOp (size : Nat) (signed : Bool) (c : Nat) (o : FmtImm) (s : State) : State :=
  issue c (fun k s =>
    let k := k.need [.g o.ra]
    let a := k.gr o.ra + sext14 o.imm
    if misaligned size a then takeException c 3 k.pc a (s.setCore c k)
    else match k.place c a false with
      | .tcm n =>
        let s := s.tcmTouch c n 1
        if s.tcmBad c n then takeException c 2 k.pc a (s.setCore c k)
        else
          let v := extract (k.tcmWord (n / 4 * 4)) n size signed
          let k1 := (k.result (.g o.rd) v 3 2).finish 1
          s.setCore c (if s.watchAt c n false then k1.halt 5 else k1)
      | .device _ => s.setCore c { k with run := .waiting, wait := .load a size signed o.rd }
      | .pattern _ => s.setCore c { k with run := .waiting, wait := .load a size signed o.rd }
      | .none => takeException c 2 k.pc a (s.setCore c k)) s

/-- A store: TCM at once; a steward's device-window store is posted while fewer than 16 are; a pattern-window store, or
a seventeenth posted one, freezes the core (R208 to R211). -/
def storeOp (size : Nat) (c : Nat) (o : FmtImm) (s : State) : State :=
  issue c (fun k s =>
    let k := k.need [.g o.ra, .g o.rd]
    let a := k.gr o.ra + sext14 o.imm
    let v := k.gr o.rd
    if misaligned size a then takeException c 3 k.pc a (s.setCore c k)
    else match k.place c a true with
      | .tcm n =>
        let s := s.tcmTouch c n 1
        if s.tcmBad c n then takeException c 2 k.pc a (s.setCore c k)
        else
          let k1 := (k.setTcm (n / 4 * 4) (insertBytes (k.tcmWord (n / 4 * 4)) n size v)).finish 1
          s.setCore c (if s.watchAt c n true then k1.halt 5 else k1)
      | .device _ =>
        if k.posted.length < 16 then s.setCore c ({ k with posted := k.posted ++ [(a, v)] }.finish 1)
        else s.setCore c { k with run := .waiting, wait := .store a size v }
      | .pattern _ => s.setCore c { k with run := .waiting, wait := .store a size v }
      | .none => takeException c 2 k.pc a (s.setCore c k)) s

/-- A conditional branch on ra and rb (R212). -/
def branchOp (p : Word → Word → Bool) (c : Nat) (o : FmtCmp) (s : State) : State :=
  issue c (fun k s =>
    let k := k.need [.g o.ra, .g o.rb]
    s.setCore c (if p (k.gr o.ra) (k.gr o.rb) then k.jump (target14 k.pc o.off) else k.finish 1)) s

/-- J and JAL. -/
def jOp (link : Bool) (c : Nat) (off : BitVec 24) (s : State) : State :=
  issue c (fun k s =>
    let k1 := if link then k.result (.g 31) (k.pc + 4) 2 1 else k
    s.setCore c (k1.jump (target24 k.pc off))) s

/-- JR and JALR: ra as read before the link is written (R222). -/
def jrOp (link : Bool) (c : Nat) (o : FmtReg) (s : State) : State :=
  issueIf c (fun _ => o.top = 0 && o.sh = 0 && o.rb = 0 && o.rd = 0) (fun k s =>
    let k := k.need [.g o.ra]
    let t := align4 (k.gr o.ra)
    let k1 := if link then k.result (.g 31) (k.pc + 4) 2 1 else k
    s.setCore c (k1.jump t)) s

/-- A loop instruction with its count and body (R223). A count of zero skips the body in two cycles; where the skipped
body ends at the innermost active loop's end, the check of R224 gives the next pc. -/
def loopStart (c count body : Nat) (k : Core) (s : State) : State :=
  let last := k.pc + BitVec.ofNat 32 (4 * body)
  if count = 0 then
    let (k1, next) := Core.loopCheck 4 last (k.pass 2)
    s.setCore c { k1 with pc := next, skipBp := false }
  else
    let d := k.ld
    let k1 := { k with ls := vset k.ls d (k.pc + 4), le := vset k.le d last,
                       lc := vset k.lc d (BitVec.ofNat 32 count),
                       pend := k.pend.filter (fun p => p.reg ≠ PReg.sp (4 + d) && p.reg ≠ PReg.sp (8 + d) &&
                         p.reg ≠ PReg.sp (12 + d)) }.setLd (d + 1)
    s.setCore c ({ k1 with pc := k1.pc + 4, skipBp := false }.pass 1)

/-- LOOP: count in ra, BODY not zero, bits [17:13] zero, depth below 4 (R213, R223). -/
def loopOp (c : Nat) (o : FmtCmp) (s : State) : State :=
  issueIf c (fun k => o.rb = 0 && o.off ≠ 0 && k.ld < 4) (fun k s =>
    let k := k.need [.g o.ra]
    loopStart c (k.gr o.ra).toNat o.off.toNat k s) s

/-- LOOPI: immediate count (R223). -/
def loopiOp (c : Nat) (o : FmtLoopi) (s : State) : State :=
  issueIf c (fun k => o.bodyLo.toNat + 1024 * o.bodyHi ≠ 0 && k.ld < 4) (fun k s =>
    loopStart c o.count.toNat (o.bodyLo.toNat + 1024 * o.bodyHi) k s) s

/-- LEAVE: the innermost loop ends; Illegal Instruction at depth 0 (R213, R225). -/
def leaveOp (c : Nat) (o : FmtSpec) (s : State) : State :=
  issueIf c (fun k => o.top = 0 && o.s = 0 && o.ra = 0 && o.rd = 0 && k.ld ≠ 0) (fun k s =>
    let d := k.ld - 1
    let k1 := { k with lc := vset k.lc d 0, pend := k.pend.filter (fun p => p.reg ≠ PReg.sp (12 + d)) }.setLd d
    s.setCore c (k1.finish 1)) s

/-- The register groups of the CALLM mask in frame order (R226): 27 stands for the word that holds LD. -/
def maskRegs (mask : Nat) : List PReg :=
  (if nbit mask 0 then [.g 1, .g 2, .g 3] else []) ++
  ((List.range 6).flatMap (fun b => if nbit mask (b + 1) then
    (List.range 4).map (fun i => .g (4 + 4 * b + i)) else [])) ++
  (if nbit mask 7 then [.g 28, .g 29] else []) ++
  (if nbit mask 8 then [.sp 1, .sp 2] else []) ++
  (if nbit mask 9 then .sp 27 :: (List.range 4).flatMap (fun i => [.sp (4 + i), .sp (8 + i), .sp (12 + i)]) else [])

/-- The visible value of a register as CALLM and MFS read it. -/
def Core.readReg (k : Core) : PReg → Word
  | .g i => k.gr i
  | .flag i => BitVec.ofNat 32 (bit k.st i).toNat
  | .sp 1 => k.ml
  | .sp 2 => k.mh
  | .sp 3 => k.ev
  | .sp 27 => BitVec.ofNat 32 k.ld
  | .sp n =>
    if 4 ≤ n ∧ n < 8 then vget k.ls (n - 4) 0
    else if 8 ≤ n ∧ n < 12 then vget k.le (n - 8) 0
    else if 12 ≤ n ∧ n < 16 then vget k.lc (n - 12) 0
    else 0

/-- A frame of n words at an address lies wholly in D-TCM. -/
def frameOk (a n : Nat) : Bool := 0x10000 ≤ a && a + 4 * n ≤ 0x20000

/-- The first word of a frame that is poisoned, counted from its base. -/
def State.frameBad (s : State) (c a n : Nat) : Option Nat :=
  ((List.range n).map (fun i => a + 4 * i)).find? (fun x => s.tcmBad c x)

/-- The first address of a frame outside D-TCM. -/
def frameFault (a n : Nat) : Word :=
  BitVec.ofNat 32 ((((List.range n).map (fun i => a + 4 * i)).find? (fun x => x < 0x10000 || 0x20000 ≤ x)).getD a)

/-- Store consecutive words from an address. -/
def Core.storeFrame (k : Core) (a : Nat) : List Word → Core
  | [] => k
  | w :: ws => Core.storeFrame (k.setTcm a w) (a + 4) ws

/-- Words from an address up that a CALLM which raises an exception may have written (R226): which of them is left open, and
so is the word where no value is given. -/
def State.partFrame (s : State) (c a : Nat) (ws : List (Option Word)) : State :=
  ws.zipIdx.foldl (fun s p =>
    let x := a + 4 * p.2
    let (v, s1) := s.fresh 2
    let (w, s2) := match p.1 with
      | some w => (w, s1)
      | none => s1.freshWord
    if v = 1 && 0x10000 ≤ x && x < 0x20000 && !s.tcmBad c x then s2.setCore c ((s2.core c).setTcm x w) else s2) s

/-- CALLM (R226). -/
def callmOp (c : Nat) (o : FmtCallm) (s : State) : State :=
  issue c (fun k s =>
    let mask := o.mask.toNat
    let rs := maskRegs mask
    let k := (if nbit mask 8 then k.awaitUnit else k).need (.g 30 :: .g 31 :: rs)
    let n := rs.length + 2
    let sp := k.gr 30
    let base := (sp - BitVec.ofNat 32 (4 * n)).toNat
    let ws := BitVec.ofNat 32 mask :: k.gr 31 :: rs.map k.readReg
    if sp.toNat % 4 ≠ 0 then takeException c 3 k.pc sp ((s.setCore c k).partFrame c (base / 4 * 4) (ws.map (fun _ => none)))
    else if !frameOk base n then takeException c 2 k.pc (frameFault base n) ((s.setCore c k).partFrame c base (ws.map some))
    else
      let s := s.tcmTouch c base n
      match s.frameBad c base n with
      | some a => takeException c 2 k.pc (BitVec.ofNat 32 a) ((s.setCore c k).partFrame c base (ws.map some))
      | none =>
        let k1 := (k.storeFrame base ws).now (.g 30) (BitVec.ofNat 32 base)
        let k2 := k1.result (.g 31) (k.pc + 4) 2 1
        let k3 := if nbit mask 9 then k2.setLd 0 else k2
        s.setCore c (({ k3 with pc := target14 k.pc o.off, skipBp := false }).pass (2 + n))) s

/-- The words of a frame. -/
def Core.loadFrame (k : Core) (a n : Nat) : List Word := (List.range n).map (fun i => k.tcmWord (a + 4 * i))

/-- RETM (R227): the mask comes from the word at sp. -/
def retmOp (c : Nat) (z : BitVec 24) (s : State) : State :=
  issueIf c (fun _ => z = 0) (fun k s =>
    let k := k.need [.g 30, .g 31]
    let sp := k.gr 30
    let a := sp.toNat
    if a % 4 ≠ 0 then takeException c 3 k.pc sp (s.setCore c k)
    else if !frameOk a 1 then takeException c 2 k.pc sp (s.setCore c k)
    else
      let s := s.tcmTouch c a 1
      if s.tcmBad c a then takeException c 2 k.pc sp (s.setCore c k) else
      let mask := (k.tcmWord a).toNat % 1024
      let rs := maskRegs mask
      let n := rs.length + 2
      let k := if nbit mask 8 then k.toIdle else k
      if !frameOk a n then takeException c 2 k.pc (frameFault a n) (s.setCore c k)
      else
        let s := s.tcmTouch c a n
        match s.frameBad c a n with
        | some x => takeException c 2 k.pc (BitVec.ofNat 32 x) (s.setCore c k)
        | none =>
          let ws := k.loadFrame a n
          let target := align4 (k.gr 31)
          let k1 := if nbit mask 8 then { k with div := none } else k
          let k2 := (rs.zip (ws.drop 2)).foldl (fun k p => match p.1 with
            | .sp 27 => k.setLd (p.2.toNat % 8)
            | r => k.now r p.2) k1
          let k3 := (k2.now (.g 31) (ws.getD 1 0)).now (.g 30) (sp + BitVec.ofNat 32 (4 * n))
          s.setCore c ({ k3 with pc := target, skipBp := false }.pass (2 + n))) s

/-- Fields of a Spec-format instruction other than the listed ones are zero. -/
def specOk (o : FmtSpec) (s ra rd : Bool) : Bool :=
  o.top = 0 && (s || o.s = 0) && (ra || o.ra = 0) && (rd || o.rd = 0)

/-- Special register s exists for the core's class (R207). -/
def spExists (c s : Nat) : Bool :=
  if s = 22 ∨ s = 23 then isLp c else if s = 24 then !isLp c else decide (s < 26)

/-- The value MFS reads, with tbl latching tbh (R207). bpos and gpos read the beam's position registers. -/
def readSpecial (c n : Nat) (k : Core) (s : State) : Word × Core × State :=
  match n with
  | 0 => (k.stWord, k, s)
  | 16 => (k.xcause, k, s)
  | 17 => (k.xaddr, k, s)
  | 18 => (k.vbase, k, s)
  | 19 => (k.cyc, k, s)
  | 20 =>
    let (v, s1) := s.stamp domSteward
    (BitVec.ofNat 32 v.toNat, { k with tbh := BitVec.ofNat 32 (v.toNat / 2 ^ 32) }, s1)
  | 21 => (k.tbh, k, s)
  | 22 => (BitVec.ofNat 32 (s.rf .beamPos 13 0 c + s.rf .beamPos 31 16 c % 256 * 2 ^ 16), k, s)
  | 23 => (s.raPos c, k, s)
  | 24 => (k.pswin, k, s)
  | 25 => (BitVec.ofNat 32 c, k, s)
  | n => (k.readReg (.sp n), k, s)

/-- The pending results an MFS or MTS of special register n meets. -/
def spDeps (n : Nat) : List PReg :=
  if n = 0 then [.flag 0, .flag 1, .flag 2, .flag 3, .flag 4, .sp 0, .sp 27] else [.sp n]

/-- MFS (R207, R221). -/
def mfsOp (c : Nat) (o : FmtSpec) (s : State) : State :=
  issueIf c (fun _ => specOk o true false true && spExists c o.s) (fun k s =>
    let n := o.s.val
    let k := (if n = 1 ∨ n = 2 then k.awaitUnit else k).need (spDeps n)
    let (v, k1, s1) := readSpecial c n k s
    s1.setCore c ((k1.result (.g o.rd) v 2 1).finish 1)) s

/-- A value MTS may write to special register n: no reserved bit and no reserved field value (R207). -/
def mtsOk (n : Nat) (v : Word) : Bool :=
  match n with
  | 0 => fld v 7 7 = 0 && fld v 31 17 = 0 && fld v 12 8 ≤ 17 && fld v 15 13 ≤ 4
  | 3 => fld v 31 20 = 0
  | 18 => fld v 9 0 = 0 && fld v 31 16 = 0
  | 24 => v.toNat < 48
  | n => if 4 ≤ n ∧ n < 12 then fld v 1 0 = 0 else true

/-- A special register MTS may name (R207). -/
def mtsWritable (n : Nat) : Bool := n < 16 || n = 18 || n = 24

/-- The result of MTS s, v: st is written flag by flag, PIPE is ignored (R207). -/
def Core.mtsWrite (k : Core) (n : Nat) (v : Word) : Core :=
  if n = 0 then
    ((k.flags ((List.range 5).map (fun i => (i, bit v i)))).result (.sp 0) v 2 1).result (.sp 27) v 2 1
  else k.result (.sp n) v 2 1

/-- MTS (R207, R221): MTS ml or mh stalls in M and abandons a division in X. -/
def mtsOp (c : Nat) (o : FmtSpec) (s : State) : State :=
  issueIf c (fun _ => specOk o true true false && spExists c o.s && mtsWritable o.s) (fun k s =>
    let n := o.s.val
    let k := (if n = 1 ∨ n = 2 then k.freeUnit else k).need [.g o.ra]
    let v := k.gr o.ra
    if mtsOk n v then s.setCore c ((k.mtsWrite n v).finish 1) else illegal c k (s.setCore c k)) s

/-- WFE ends with the matching event bits, which clear (R229); a value of ev that an earlier MTS has yet to land is discarded
(R220). -/
def Core.wfeEnd (k : Core) (rd : Nat) (mask : Word) : Core :=
  let hit := k.ev &&& mask
  ({ k.now (.sp 3) (k.ev ^^^ hit) with run := .running, wait := .none }.result (.g rd) hit 2 1).finish 1

/-- WFE (R229): takes matching bits at once, or waits. -/
def wfeOp (c : Nat) (o : FmtSpec) (s : State) : State :=
  issueIf c (fun _ => specOk o false true true) (fun k s =>
    let k := k.need [.g o.ra, .sp 3]
    let m := k.gr o.ra &&& 0xFFFFF
    if k.ev &&& m ≠ 0 then s.setCore c (k.wfeEnd o.rd m)
    else s.setCore c { k with run := .waiting, wait := .wfe o.rd m }) s

/-- An arriving event in the mask ends a waiting WFE (R229). -/
def wfeWake (c : Nat) (s : State) : State :=
  let s1 := s.waited c
  let k := s1.core c
  match k.run, k.wait with
  | .waiting, .wfe rd m => if k.ev &&& m ≠ 0 then s1.setCore c (k.wfeEnd rd m) else s
  | _, _ => s

/-- An event sets its bit in ev, and in a value of ev that an MTS has yet to land (R228, R229). -/
def Core.hear (k : Core) (from_ : Nat) : Core :=
  let b : Word := BitVec.ofNat 32 (2 ^ from_)
  { k with ev := k.ev ||| b
           pend := k.pend.map (fun p => if p.reg = .sp 3 then { p with val := p.val ||| b } else p) }

/-- An event for a core held in reset, in Lockup or gated is discarded (R228). -/
def hearEvent (from_ c : Nat) (s : State) : State :=
  if s.coreAway c then s else s.setCore c ((s.core c).hear from_)

/-- SEV (R228). -/
def sevOp (c : Nat) (o : FmtSpec) (s : State) : State :=
  issueIf c (fun _ => specOk o false true false) (fun k s =>
    let k := k.need [.g o.ra]
    let m := k.gr o.ra
    let s1 := s.setCore c (k.finish 1)
    (List.range 20).foldl (fun s i => if bit m i then hearEvent c i s else s) s1) s

/-- The core's replica of the time base has not reached a WAITT target: (tbl − ra) is negative (R230). -/
def beforeTarget (tbl target : Word) : Bool := (tbl - target).msb

/-- WAITT (R230). -/
def waittOp (c : Nat) (o : FmtSpec) (s : State) : State :=
  issueIf c (fun _ => specOk o false true false) (fun k s =>
    let k := k.need [.g o.ra]
    let (v, s1) := s.stamp domSteward
    if beforeTarget (BitVec.ofNat 32 v.toNat) (k.gr o.ra) then
      s1.setCore c { k with run := .waiting, wait := .waitt (k.gr o.ra) }
    else s1.setCore c (k.finish 1)) s

/-- The time-base replica reaches the target of a WAITT and the wait ends (R230). -/
def waittEnd (c : Nat) (s : State) : State :=
  let k := s.core c
  match k.run, k.wait with
  | .waiting, .waitt t =>
    let (v, s1) := s.stamp domSteward
    if beforeTarget (BitVec.ofNat 32 v.toNat) t then s1
    else
      let s2 := s1.waited c
      s2.setCore c ({ s2.core c with run := .running, wait := .none }.finish 1)
  | _, _ => s

/-- The outcome of a WAITL against beam c's emission position, or none while it waits (R231). -/
def waitlOutcome (c : Nat) (pos : Word) (total : Nat) (running : Bool) (s : State) : Option Word :=
  let line := fld pos 13 0
  let d := (fld pos 23 16 + 256 - s.rf .beamPos 31 16 c % 256) % 256
  if !running then some 1
  else if total ≤ line then some 2
  else if 128 ≤ d ∨ (d = 0 ∧ line ≤ s.rf .beamPos 13 0 c) then some 0
  else none

/-- The cycle MSYNC waits for: every operation of the unit has left it, one cycle before its results are there (R219, R221). -/
def Core.unitDone (k : Core) : Nat := max k.unitIdle (k.dueAt [.sp 1, .sp 2] - 1)

/-- MSYNC (R221): waits until the unit is idle. -/
def msyncOp (c : Nat) (o : FmtSpec) (s : State) : State :=
  issueIf c (fun _ => specOk o false false false) (fun k s =>
    if k.t < k.unitDone then s.setCore c { k with run := .waiting, wait := .msync }
    else s.setCore c (k.finish 1)) s

/-- The unit becomes idle and MSYNC ends (R221). -/
def msyncEnd (c : Nat) (s : State) : State :=
  let k := s.core c
  match k.run, k.wait with
  | .waiting, .msync =>
    s.setCore c ({ k.pass (k.unitDone - k.t) with run := .running, wait := .none }.finish 1)
  | _, _ => s

/-- BRK (R232, R241): Breakpoint, or a halt while BRK_HALT is 1. -/
def brkOp (c : Nat) (o : FmtSpec) (s : State) : State :=
  issueIf c (fun _ => specOk o false false false) (fun k s =>
    if isLp c && s.rb .lpDbgCtrl 0 c then s.setCore c ((k.finish 1).halt 3)
    else takeException c 5 (k.pc + 4) k.pc s) s

/-- SYSC (R232). -/
def syscOp (c : Nat) (o : FmtSpec) (s : State) : State :=
  issueIf c (fun _ => specOk o false false false) (fun k s => takeException c 6 (k.pc + 4) k.pc s) s

/-- NOP (R212). -/
def nopOp (c : Nat) (o : FmtSpec) (s : State) : State :=
  issueIf c (fun _ => specOk o false false false) (fun k s => s.setCore c (k.finish 1)) s

/-- The level presented to a core now, when it can be taken over an interrupt priority level (R235). -/
def State.takeable (s : State) (c : Nat) (ie : Bool) (ipl : Nat) : Option Nat :=
  match s.presented c with
  | some n => if ie && ipl < s.srcLevel n + 1 then some (s.srcLevel n) else none
  | none => none

/-- A change in the event controller during the entry cycles before the claim (R333, R236). -/
def irqChange : IrqChange → State → State
  | .arrive n, s => arrival n s
  | .withdraw n, s => (withdraw n s).arbitrate
  | .retarget n t, s => retarget n t s

/-- The changes during the cycles before the claim, over an IE and IPL: the level selected first, and the highest presented
since, which selects the vector; none while no request has been takeable (R236, R237). -/
def entryChanges (c : Nat) (ie : Bool) (ipl : Nat) :
    List IrqChange → Option (Nat × Nat) → State → Option (Nat × Nat) × State
  | [], L, s => (L, s)
  | x :: t, L, s =>
    let s1 := irqChange x s
    let L1 := match L, s1.takeable c ie ipl with
      | some (a, b), some m => some (a, max b m)
      | none, some m => some (m, m)
      | _, none => L
    entryChanges c ie ipl t L1 s1

/-- The claim at level L, where L1 is the level selected last: the source's own level's vector, or for the spurious number
that of L1 (R236). -/
def claimFor (c L L1 : Nat) (s : State) : Nat × Nat × State :=
  let (n, s2) := s.claim c L
  (n, if n = 1023 then L1 else s.srcLevel n, s2)

/-- The core at the boundary where an interrupt meets it, and its return pc: WFE ends with rd 0; the other waits and an
LSW freeze return to their instruction (R235). -/
def Core.boundary (k : Core) : Core :=
  match k.run, k.wait with
  | .waiting, .wfe rd _ => ({ k with run := .running, wait := .none }.result (.g rd) 0 2 1).finish 1
  | .waiting, _ => { k with run := .running, wait := .none }
  | _, _ => k

/-- An interrupt at level L enters from a core at its boundary in five cycles and claims its source (R236). -/
def enterInterrupt (c L : Nat) (during : List IrqChange) (k0 : Core) (s : State) : State :=
  let k1 := (k0.need [.g 30]).pass 1
  let s := s.touchPush c (k1.gr 30)
  if s.canPushAt c (k1.gr 30) then
    let (Ls, s0) := entryChanges c k0.ie k0.ipl during (some (L, L)) (s.setCore c k0)
    let (n, lv, s1) := claimFor c L (Ls.getD (L, L)).2 s0
    (s1.setCore c (k0.enter k0.pc (BitVec.ofNat 32 n) none (lv + 1) (16 + lv))).readVector c (16 + lv)
      (vectorFault c (16 + lv) k0.pc)
  else lockup c (s.setCore c k1)

/-- INTERRUPT_ENTRY (R235, R236): a level that can be taken is entered at the next boundary. A fetch Memory Error due there
is entered first. -/
def interruptEntry (c : Nat) (during : List IrqChange) (s : State) : State :=
  let w := s.waited c
  let k := (w.core c).land
  if k.inWindow then s else
  match w.takeable c k.ie k.ipl with
  | none => s
  | some L =>
    let k0 := k.boundary
    let w1 := if 0x10000 ≤ k0.pc.toNat then w else w.tcmTouch c k0.pc.toNat 1
    if 0x10000 ≤ k0.pc.toNat || w1.tcmBad c k0.pc.toNat then takeException c 2 k0.pc k0.pc (w1.setCore c k0)
    else enterInterrupt c L during k0 w

/-- RETI (R234, R237): st and pc are restored and sp rises by 8; a request takeable at the restored level, pending or
arriving in its cycles, turns it into a new handler entry, which leaves sp and the stacked words and changes st in IPL only.
A step takes no interrupt (R242). -/
def retiOp (c : Nat) (o : FmtSpec) (during : List IrqChange) (step : Bool) (s : State) : State :=
  issueIf c (fun k => specOk o false false false && k.ipl ≠ 0) (fun k s =>
    let k := k.need [.g 30]
    let sp := k.gr 30
    let a := sp.toNat
    if a % 4 ≠ 0 then takeException c 3 k.pc sp (s.setCore c k)
    else if !frameOk a 2 then takeException c 2 k.pc (frameFault a 2) (s.setCore c k)
    else
      let s := s.tcmTouch c a 2
      match s.frameBad c a 2 with
      | some x => takeException c 2 k.pc (BitVec.ofNat 32 x) (s.setCore c k)
      | none =>
        let st1 := k.tcmWord a
        let s1 := ((s.setCore c k).endActive c (fld st1 12 8)).arbitrate
        let ie := bit st1 6 && !step
        let (Ls, s2) := entryChanges c ie (fld st1 12 8) during
          ((s1.takeable c ie (fld st1 12 8)).map (fun L => (L, L))) s1
        match Ls with
        | some (L, L1) =>
          let (n, lv, s3) := claimFor c L L1 s2
          let k1 := ((s3.core c).now (.sp 16) (BitVec.ofNat 32 n)).setIpl (lv + 1)
          let k2 := k1.pass 5
          (s3.setCore c { k2 with pc := k2.vector (16 + lv), skipBp := false }).readVector c (16 + lv)
            (vectorFault c (16 + lv) (align4 (k.tcmWord (a + 4))))
        | none =>
          let k1 := (s2.core c).now (.g 30) (sp + 8)
          let k2 := { k1 with st := setBit (setBit (setFld st1 31 17 0) 16 false) 7 false, pc := align4 (k.tcmWord (a + 4)),
                              pend := k1.pend.filter (fun p => !((spDeps 0).contains p.reg)), skipBp := false }
          s2.setCore c (k2.pass 4)) s

/-- ADD (R212). -/
def execAdd (c : Fin 20) (o : FmtReg) (s : State) : Host.Outcome State Fault Refusal := .next (aluRR aluAdd c o s)

/-- SUB (R212). -/
def execSub (c : Fin 20) (o : FmtReg) (s : State) : Host.Outcome State Fault Refusal := .next (aluRR aluSub c o s)

/-- AND (R212). -/
def execAnd (c : Fin 20) (o : FmtReg) (s : State) : Host.Outcome State Fault Refusal := .next (aluRR aluAnd c o s)

/-- OR (R212). -/
def execOr (c : Fin 20) (o : FmtReg) (s : State) : Host.Outcome State Fault Refusal := .next (aluRR aluOr c o s)

/-- XOR (R212). -/
def execXor (c : Fin 20) (o : FmtReg) (s : State) : Host.Outcome State Fault Refusal := .next (aluRR aluXor c o s)

/-- NOR (R212). -/
def execNor (c : Fin 20) (o : FmtReg) (s : State) : Host.Outcome State Fault Refusal := .next (aluRR aluNor c o s)

/-- SLT (R212). -/
def execSlt (c : Fin 20) (o : FmtReg) (s : State) : Host.Outcome State Fault Refusal := .next (aluRR aluSlt c o s)

/-- SLTU (R212). -/
def execSltu (c : Fin 20) (o : FmtReg) (s : State) : Host.Outcome State Fault Refusal := .next (aluRR aluSltu c o s)

/-- SLL (R212). -/
def execSll (c : Fin 20) (o : FmtReg) (s : State) : Host.Outcome State Fault Refusal := .next (aluRR aluSll c o s)

/-- SRL (R212). -/
def execSrl (c : Fin 20) (o : FmtReg) (s : State) : Host.Outcome State Fault Refusal := .next (aluRR aluSrl c o s)

/-- SRA (R212). -/
def execSra (c : Fin 20) (o : FmtReg) (s : State) : Host.Outcome State Fault Refusal := .next (aluRR aluSra c o s)

/-- ROR (R212). -/
def execRor (c : Fin 20) (o : FmtReg) (s : State) : Host.Outcome State Fault Refusal := .next (aluRR aluRor c o s)

/-- ROL (R212). -/
def execRol (c : Fin 20) (o : FmtReg) (s : State) : Host.Outcome State Fault Refusal := .next (aluRR aluRol c o s)

/-- MIN (R212). -/
def execMin (c : Fin 20) (o : FmtReg) (s : State) : Host.Outcome State Fault Refusal := .next (aluRR aluMin c o s)

/-- MAX (R212). -/
def execMax (c : Fin 20) (o : FmtReg) (s : State) : Host.Outcome State Fault Refusal := .next (aluRR aluMax c o s)

/-- MINU (R212). -/
def execMinu (c : Fin 20) (o : FmtReg) (s : State) : Host.Outcome State Fault Refusal := .next (aluRR aluMinu c o s)

/-- MAXU (R212). -/
def execMaxu (c : Fin 20) (o : FmtReg) (s : State) : Host.Outcome State Fault Refusal := .next (aluRR aluMaxu c o s)

/-- NEG (R214). -/
def execNeg (c : Fin 20) (o : FmtReg) (s : State) : Host.Outcome State Fault Refusal := .next (aluR aluNeg c o s)

/-- SLLI (R215). -/
def execSlli (c : Fin 20) (o : FmtReg) (s : State) : Host.Outcome State Fault Refusal := .next (aluSh aluSll c o s)

/-- SRLI (R215). -/
def execSrli (c : Fin 20) (o : FmtReg) (s : State) : Host.Outcome State Fault Refusal := .next (aluSh aluSrl c o s)

/-- SRAI (R215). -/
def execSrai (c : Fin 20) (o : FmtReg) (s : State) : Host.Outcome State Fault Refusal := .next (aluSh aluSra c o s)

/-- RORI (R215). -/
def execRori (c : Fin 20) (o : FmtReg) (s : State) : Host.Outcome State Fault Refusal := .next (aluSh aluRor c o s)

/-- ADDI (R212). -/
def execAddi (c : Fin 20) (o : FmtImm) (s : State) : Host.Outcome State Fault Refusal := .next (aluImm aluAdd (sext14 o.imm) c o s)

/-- ANDI (R212). -/
def execAndi (c : Fin 20) (o : FmtImm) (s : State) : Host.Outcome State Fault Refusal := .next (aluImm aluAnd (zext14 o.imm) c o s)

/-- ORI (R212). -/
def execOri (c : Fin 20) (o : FmtImm) (s : State) : Host.Outcome State Fault Refusal := .next (aluImm aluOr (zext14 o.imm) c o s)

/-- XORI (R212). -/
def execXori (c : Fin 20) (o : FmtImm) (s : State) : Host.Outcome State Fault Refusal := .next (aluImm aluXor (zext14 o.imm) c o s)

/-- SLTI (R212). -/
def execSlti (c : Fin 20) (o : FmtImm) (s : State) : Host.Outcome State Fault Refusal := .next (aluImm aluSlt (sext14 o.imm) c o s)

/-- SLTIU (R212). -/
def execSltiu (c : Fin 20) (o : FmtImm) (s : State) : Host.Outcome State Fault Refusal := .next (aluImm aluSltu (sext14 o.imm) c o s)

/-- MOVU (R212). -/
def execMovu (c : Fin 20) (o : FmtHigh) (s : State) : Host.Outcome State Fault Refusal := .next (issue c (fun k s => aluDone c o.rd k (withNZ (BitVec.ofNat 32 (o.imm.toNat * 2 ^ 13))) s) s)

/-- MUL (R221). -/
def execMul (c : Fin 20) (o : FmtReg) (s : State) : Host.Outcome State Fault Refusal := .next (mulOp true false c o s)

/-- MULU (R221). -/
def execMulu (c : Fin 20) (o : FmtReg) (s : State) : Host.Outcome State Fault Refusal := .next (mulOp false false c o s)

/-- MAC (R221). -/
def execMac (c : Fin 20) (o : FmtReg) (s : State) : Host.Outcome State Fault Refusal := .next (mulOp true true c o s)

/-- MACU (R221). -/
def execMacu (c : Fin 20) (o : FmtReg) (s : State) : Host.Outcome State Fault Refusal := .next (mulOp false true c o s)

/-- DIV (R216). -/
def execDiv (c : Fin 20) (o : FmtReg) (s : State) : Host.Outcome State Fault Refusal := .next (divOp true c o s)

/-- DIVU (R216). -/
def execDivu (c : Fin 20) (o : FmtReg) (s : State) : Host.Outcome State Fault Refusal := .next (divOp false c o s)

/-- DIV_COMPLETE (R221). -/
def execDivComplete (c : Fin 20) (s : State) : Host.Outcome State Fault Refusal := .next (divComplete c s)

/-- LDW (R208). -/
def execLdw (c : Fin 20) (o : FmtImm) (s : State) : Host.Outcome State Fault Refusal := .next (loadOp 4 false c o s)

/-- LDH (R208). -/
def execLdh (c : Fin 20) (o : FmtImm) (s : State) : Host.Outcome State Fault Refusal := .next (loadOp 2 true c o s)

/-- LDHU (R208). -/
def execLdhu (c : Fin 20) (o : FmtImm) (s : State) : Host.Outcome State Fault Refusal := .next (loadOp 2 false c o s)

/-- LDB (R208). -/
def execLdb (c : Fin 20) (o : FmtImm) (s : State) : Host.Outcome State Fault Refusal := .next (loadOp 1 true c o s)

/-- LDBU (R208). -/
def execLdbu (c : Fin 20) (o : FmtImm) (s : State) : Host.Outcome State Fault Refusal := .next (loadOp 1 false c o s)

/-- STW (R208). -/
def execStw (c : Fin 20) (o : FmtImm) (s : State) : Host.Outcome State Fault Refusal := .next (storeOp 4 c o s)

/-- STH (R208). -/
def execSth (c : Fin 20) (o : FmtImm) (s : State) : Host.Outcome State Fault Refusal := .next (storeOp 2 c o s)

/-- STB (R208). -/
def execStb (c : Fin 20) (o : FmtImm) (s : State) : Host.Outcome State Fault Refusal := .next (storeOp 1 c o s)

/-- BEQ (R212). -/
def execBeq (c : Fin 20) (o : FmtCmp) (s : State) : Host.Outcome State Fault Refusal := .next (branchOp (fun a b => a == b) c o s)

/-- BNE (R212). -/
def execBne (c : Fin 20) (o : FmtCmp) (s : State) : Host.Outcome State Fault Refusal := .next (branchOp (fun a b => a != b) c o s)

/-- BLT (R212). -/
def execBlt (c : Fin 20) (o : FmtCmp) (s : State) : Host.Outcome State Fault Refusal := .next (branchOp (fun a b => a.slt b) c o s)

/-- BGE (R212). -/
def execBge (c : Fin 20) (o : FmtCmp) (s : State) : Host.Outcome State Fault Refusal := .next (branchOp (fun a b => !a.slt b) c o s)

/-- BLTU (R212). -/
def execBltu (c : Fin 20) (o : FmtCmp) (s : State) : Host.Outcome State Fault Refusal := .next (branchOp (fun a b => a.ult b) c o s)

/-- BGEU (R212). -/
def execBgeu (c : Fin 20) (o : FmtCmp) (s : State) : Host.Outcome State Fault Refusal := .next (branchOp (fun a b => !a.ult b) c o s)

/-- J (R212). -/
def execJ (c : Fin 20) (off : BitVec 24) (s : State) : Host.Outcome State Fault Refusal := .next (jOp false c off s)

/-- JAL (R212). -/
def execJal (c : Fin 20) (off : BitVec 24) (s : State) : Host.Outcome State Fault Refusal := .next (jOp true c off s)

/-- JR (R222). -/
def execJr (c : Fin 20) (o : FmtReg) (s : State) : Host.Outcome State Fault Refusal := .next (jrOp false c o s)

/-- JALR (R222). -/
def execJalr (c : Fin 20) (o : FmtReg) (s : State) : Host.Outcome State Fault Refusal := .next (jrOp true c o s)

/-- LOOP (R223). -/
def execLoop (c : Fin 20) (o : FmtCmp) (s : State) : Host.Outcome State Fault Refusal := .next (loopOp c o s)

/-- LOOPI (R223). -/
def execLoopi (c : Fin 20) (o : FmtLoopi) (s : State) : Host.Outcome State Fault Refusal := .next (loopiOp c o s)

/-- CALLM (R226). -/
def execCallm (c : Fin 20) (o : FmtCallm) (s : State) : Host.Outcome State Fault Refusal := .next (callmOp c o s)

/-- RETM (R227). -/
def execRetm (c : Fin 20) (z : BitVec 24) (s : State) : Host.Outcome State Fault Refusal := .next (retmOp c z s)

/-- NOP (R212). -/
def execFanelNop (c : Fin 20) (o : FmtSpec) (s : State) : Host.Outcome State Fault Refusal := .next (nopOp c o s)

/-- MFS (R207). -/
def execMfs (c : Fin 20) (o : FmtSpec) (s : State) : Host.Outcome State Fault Refusal := .next (mfsOp c o s)

/-- MTS (R207). -/
def execMts (c : Fin 20) (o : FmtSpec) (s : State) : Host.Outcome State Fault Refusal := .next (mtsOp c o s)

/-- WFE (R229). -/
def execWfe (c : Fin 20) (o : FmtSpec) (s : State) : Host.Outcome State Fault Refusal := .next (wfeOp c o s)

/-- SEV (R228). -/
def execSev (c : Fin 20) (o : FmtSpec) (s : State) : Host.Outcome State Fault Refusal := .next (sevOp c o s)

/-- WAITT (R230). -/
def execWaitt (c : Fin 20) (o : FmtSpec) (s : State) : Host.Outcome State Fault Refusal := .next (waittOp c o s)

/-- MSYNC (R221). -/
def execMsync (c : Fin 20) (o : FmtSpec) (s : State) : Host.Outcome State Fault Refusal := .next (msyncOp c o s)

/-- LEAVE (R225). -/
def execLeave (c : Fin 20) (o : FmtSpec) (s : State) : Host.Outcome State Fault Refusal := .next (leaveOp c o s)

/-- BRK (R232). -/
def execBrk (c : Fin 20) (o : FmtSpec) (s : State) : Host.Outcome State Fault Refusal := .next (brkOp c o s)

/-- SYSC (R232). -/
def execSysc (c : Fin 20) (o : FmtSpec) (s : State) : Host.Outcome State Fault Refusal := .next (syscOp c o s)

/-- WFE_WAKE (R229). -/
def execWfeWake (c : Fin 20) (s : State) : Host.Outcome State Fault Refusal := .next (wfeWake c s)

/-- WAITT_END (R230). -/
def execWaittEnd (c : Fin 20) (s : State) : Host.Outcome State Fault Refusal := .next (waittEnd c s)

/-- MSYNC_END (R221). -/
def execMsyncEnd (c : Fin 20) (s : State) : Host.Outcome State Fault Refusal := .next (msyncEnd c s)

/-- RETI (R234). -/
def execReti (c : Fin 20) (o : FmtSpec) (during : List IrqChange) (s : State) : Host.Outcome State Fault Refusal := .next (retiOp c o during false s)

/-- INTERRUPT_ENTRY (R236). -/
def execInterruptEntry (c : Fin 20) (during : List IrqChange) (s : State) : Host.Outcome State Fault Refusal := .next (interruptEntry c during s)

end Sys2Proof.Machine
end

