-- ==== Sys2Proof/Machine/Blitter.lean ====
section
/-! DEFINITION. The blitter (spec 14): formats, checks, overlap, rows, completion and direct submission. -/

namespace Sys2Proof.Machine

/-- Fields of a BLIT descriptor (R297). -/
def bltOp (d : List Byte) : Nat := descField d 8 1 % 8
def bltSrcFmt (d : List Byte) : Nat := descField d 9 1 % 16
def bltDstFmt (d : List Byte) : Nat := descField d 9 1 / 16
def bltBeam (d : List Byte) : Nat := descField d 10 1 % 16
def bltSync (d : List Byte) : Bool := nbit (descField d 10 1) 4
def bltLine (d : List Byte) : Nat := descField d 12 2
def bltSrc (d : List Byte) : Nat := descField d 16 8
def bltDst (d : List Byte) : Nat := descField d 24 8
def bltSrcPitch (d : List Byte) : Nat := descField d 32 4
def bltDstPitch (d : List Byte) : Nat := descField d 36 4
def bltWidth (d : List Byte) : Nat := descField d 40 2 + 1
def bltHeight (d : List Byte) : Nat := descField d 42 2 + 1

/-- Bytes per pixel of a format (R298). -/
def bltSize (f : Nat) : Nat := [1, 2, 4, 8, 2, 4, 4, 8].getD f 1

/-- A colour format. -/
def bltColour (f : Nat) : Bool := 4 ≤ f && f ≤ 7

/-- Formats fit the operation (R298). -/
def bltPairOk (op sf df : Nat) : Bool :=
  df ≤ 7 && (if op = 0 then sf == 0 else if op = 1 then sf == df
    else sf ≤ 7 && bltColour sf && bltColour df && (op == 3 || sf != df))

/-- The lowest byte that fails check 1 of R300, if any. -/
def bltBadByte (d : List Byte) : Option Nat :=
  let op := bltOp d
  let fill := op == 0
  let ss := bltSize (bltSrcFmt d)
  let ds := bltSize (bltDstFmt d)
  let b (i : Nat) : Nat := descField d i 1
  let one (i : Nat) (bad : Bool) : List Nat := if bad then [i] else []
  let zero (lo n : Nat) : List Nat := ((List.range n).map (lo + ·)).filter (fun i => b i != 0)
  (one 1 (4 ≤ b 1) ++ zero 2 2 ++ one 8 (4 ≤ b 8) ++ one 9 (!bltPairOk op (bltSrcFmt d) (bltDstFmt d)) ++
    one 10 (32 ≤ b 10) ++ zero 11 1 ++
    (if bltSync d then one 13 (64 ≤ b 13) else zero 12 2) ++
    (if fill then zero 16 8 else one 16 (bltSrc d % ss != 0) ++ one 20 (16 ≤ b 20) ++ zero 21 3) ++
    one 24 (bltDst d % ds != 0) ++ one 28 (16 ≤ b 28) ++ zero 29 3 ++
    (if fill then zero 32 4 else one 32 (bltSrcPitch d % ss != 0) ++ zero 35 1) ++
    one 36 (bltDstPitch d % ds != 0) ++ zero 39 1 ++
    (if op = 3 then one 45 (16 ≤ b 45) else zero 44 2) ++ zero 46 2 ++
    (if fill then zero (48 + ds) (8 - ds) else zero 48 8) ++ zero 56 8).head?

/-- An operand's extent in bytes (R300). -/
def bltLen (d : List Byte) (pitch s : Nat) : Nat := (bltHeight d - 1) * pitch + bltWidth d * s
def bltSrcLen (d : List Byte) : Nat := bltLen d (bltSrcPitch d) (bltSize (bltSrcFmt d))
def bltDstLen (d : List Byte) : Nat := bltLen d (bltDstPitch d) (bltSize (bltDstFmt d))

/-- The extents of a blit that has a source intersect. -/
def bltMeets (d : List Byte) : Bool :=
  bltOp d != 0 && bltSrc d < bltDst d + bltDstLen d && bltDst d < bltSrc d + bltSrcLen d

/-- The staging area, and an engine's share of it (R302). -/
def State.stageBase (s : State) : Nat := s.rf .bltStageBase 19 0 * 65536
def State.stageSize (s : State) : Nat := s.rf .bltStageSize 15 0 * 65536
def State.stageShare (s : State) : Nat := s.stageSize / 4

/-- The status with which a blit fails the checks of R300, or 0; with the offending byte of check 1. -/
def State.bltCheck (s : State) (d : List Byte) : Nat × Option Nat :=
  let n := bltBeam d
  match bltBadByte d with
  | some i => (1, some i)
  | none =>
    if bltOp d = 3 ∧ s.runMode ≠ 1 ∧ s.runMode ≠ 5 ∧ s.runMode ≠ 6 then (0x0E, none)
    else if psEnd < bltDst d + bltDstLen d ∨ (bltOp d ≠ 0 ∧ psEnd < bltSrc d + bltSrcLen d) ∨
        s.inPlRegion (bltDst d) (bltDstLen d) ∨
        (s.stageSize ≠ 0 ∧ bltDst d < s.stageBase + s.stageSize ∧ s.stageBase < bltDst d + bltDstLen d) ∨
        (bltSync d ∧ s.fenced (domBeam n)) then (1, none)
    else if bltSync d ∧ (s.beam n).cf .beamTotal 30 16 n ≤ bltLine d then (9, none)
    else if bltSync d ∧ (s.beam n).run = .stopped then (8, none)
    else if bltMeets d ∧ bltSize (bltSrcFmt d) ≠ bltSize (bltDstFmt d) then (0x0D, none)
    else if bltMeets d ∧ bltSrcPitch d ≠ bltDstPitch d ∧ s.stageShare < bltSrcLen d then (1, none)
    else (0, none)

/-! Pixels. -/

/-- Widths of R, G, B and A in a colour format. -/
def bltBits (f : Nat) : Nat × Nat := if f = 4 then (5, 1) else if f = 5 then (8, 8) else if f = 6 then (10, 2) else (12, 12)

/-- Bit positions of R, G, B and A in a colour format. -/
def bltPos (f : Nat) : List Nat :=
  if f = 4 then [10, 5, 0, 15] else if f = 5 then [0, 8, 16, 24] else if f = 6 then [0, 10, 20, 30] else [4, 20, 36, 52]

/-- R, G, B and A of a pixel, widened to 12 bits (R298). -/
def bltWiden (f v : Nat) : List Nat :=
  let (n, m) := bltBits f
  (bltPos f).zipIdx.map (fun p =>
    let b := if p.2 = 3 then m else n
    widen b (v / 2 ^ p.1 % 2 ^ b))

/-- A component reduced to n bits (R298). -/
def bltReduce (n v : Nat) : Nat :=
  if n = 12 then v else if n = 1 then (if 2048 ≤ v then 1 else 0)
  else min ((v + 2 ^ (11 - n)) / 2 ^ (12 - n)) (2 ^ n - 1)

/-- A pixel of a colour format from R, G, B and A. -/
def bltPack (f : Nat) (c : List Nat) : Nat :=
  let (n, m) := bltBits f
  ((bltPos f).zipIdx.map (fun p => bltReduce (if p.2 = 3 then m else n) (c.getD p.2 0) * 2 ^ p.1)).sum

/-- The destination pixel of an operation, from the source pixel and the destination pixel before it (R298). -/
def bltPixel (d : List Byte) (src dst : Nat) : Nat :=
  let sf := bltSrcFmt d
  let df := bltDstFmt d
  match bltOp d with
  | 0 => descField d 48 8
  | 1 => src
  | 2 => bltPack df (bltWiden sf src)
  | _ =>
    let s := bltWiden sf src
    let t := bltWiden df dst
    let a := mulFrac (s.getD 3 0) (descField d 44 2)
    let mix (i : Nat) : Nat := min 4095 (mulFrac (s.getD i 0) a + mulFrac (t.getD i 0) (4095 - a))
    bltPack df [mix 0, mix 1, mix 2, min 4095 (a + mulFrac (t.getD 3 0) (4095 - a))]

/-! Rows. -/

/-- Bytes read by an engine, each with whether its line is poisoned. -/
def State.bltRead (s : State) (a n : Nat) : List (Byte × Bool) × State :=
  (linePieces a n).foldl (fun (acc : List (Byte × Bool) × State) p =>
    let (bs, bad, s1) := acc.2.psRead 18 p.1 p.2
    (acc.1 ++ bs.map (·, bad), s1)) ([], s)

/-- The bytes that an engine has kept from before its own writes, for which it makes no read (R301). -/
def State.bltKept (s : State) (a n : Nat) : List (Byte × Bool) := (s.bltRead a n).1

/-- Bytes written by an engine: pieces in the PL region are refused and counted; a line that takes a poisoned byte is
written poisoned, and counted when `count` is set (R307). -/
def State.bltWrite (s : State) (a : Nat) (bs : List (Byte × Bool)) (count : Bool) : State :=
  (linePieces a bs.length).foldl (fun s p =>
    let piece := (bs.drop (p.1 - a)).take p.2
    if s.inPlRegion p.1 p.2 then (s.bump .bltDeny).deny p.1 p.2
    else
      let s1 := s.psWrite 18 p.1 (piece.map (fun x => some x.1))
      if piece.any (·.2) && p.1 < psEnd then
        (if count then s1.bump .bltPoison else s1).poisonLine (p.1 / 64)
      else s1) s

/-- Source bytes as they were before the blit's own writes (R301). -/
def asBefore (saved : List (Nat × Byte × Bool)) (a : Nat) (bs : List (Byte × Bool)) : List (Byte × Bool) :=
  bs.zipIdx.map (fun x => (kvGet (a + x.2) saved).getD x.1)

/-- Pixel i of a byte list, and whether a byte of it is poisoned. -/
def bltPixelAt (bs : List (Byte × Bool)) (size i : Nat) : Nat × Bool :=
  let p := (bs.drop (i * size)).take size
  (leNat (p.map (·.1)), p.any (·.2))

/-- The rectangle is walked bottom to top (R301): the extents intersect, equal pitches, and the source lies lower. -/
def bltUpward (d : List Byte) : Bool := bltMeets d && bltSrcPitch d == bltDstPitch d && bltSrc d < bltDst d

/-- An engine, and the state with it replaced. -/
def State.eng (s : State) (k : Nat) : Engine := vget s.blt.engines k {}
def State.setEng (s : State) (k : Nat) (e : Engine) : State :=
  { s with blt := { s.blt with engines := vset s.blt.engines k e } }

/-- The registers that show the queue and the engines. -/
def State.showBlt (s : State) : State :=
  let busy := (List.range 4).foldl (fun a k => a + if (s.eng k).job.isSome then 2 ^ k else 0) 0
  s.wr .bltStatus (BitVec.ofNat 32 (s.blt.queue.length + busy * 64))

/-- STATE of an engine: 0 idle, 1 waiting, 2 running, 3 staging. -/
def State.engState (s : State) (k : Nat) : Nat := s.rf .bltEStatus 1 0 k

/-- A blit's completion is posted (R305), or shown by the direct registers (R308). -/
def State.bltFinish (s : State) (j : Blit) (status info2 : Nat) : State :=
  match j.ring with
  | some (r, i) => s.finish r i j.desc status 0 info2
  | none => (s.wr .bltDirectStatus (BitVec.ofNat 32 status)).raise 380 36

/-- Engine k ends its blit. -/
def State.engEnd (s : State) (k status info2 : Nat) : State :=
  match (s.eng k).job with
  | none => s
  | some j => (((s.setEng k {}).wf .bltEStatus 1 0 0 k).showBlt).bltFinish j status info2

/-- Engine k begins its blit: at once, or by staging the source first (R302). -/
def State.engBegin (s : State) (k : Nat) (d : List Byte) : State :=
  let staged := bltMeets d && bltSrcPitch d != bltDstPitch d
  (s.setEng k { s.eng k with staged }).wf .bltEStatus 1 0 (if staged then 3 else 2) k

/-- Engines that may take a blit (R306). -/
def State.bltEngines (s : State) : Nat :=
  match s.rf .pwrStatus 1 0 with
  | 0 => 4
  | 1 => 2
  | _ => if s.runMode = 6 then 1 else 0

/-- The lowest-numbered engine that is idle, enabled and permitted takes the next blit and checks it (R296, R300). -/
def blitDispatch (s : State) : State :=
  match s.blt.queue, (List.range s.bltEngines).find? (fun k => (s.eng k).job.isNone && s.rb .bltCtrl k) with
  | j :: t, some k =>
    if s.asleep then s
    else
      let ring := match j.ring with
        | some (r, _) => r
        | none => 0xFF
      let s1 := { s with blt := { s.blt with queue := t } }
      let s2 := ((s1.setEng k { job := some j }).wr .bltEStatus (BitVec.ofNat 32 (ring * 256)) k).wr .bltEProgress 0 k
      let (st, bad) := s2.bltCheck j.desc
      let s3 := s2.showBlt
      if st = 1 then
        match bad with
        | some i => s3.engEnd k 1 i
        | none =>
          let (v, s4) := s3.fresh 64
          s4.engEnd k 1 v
      else if st ≠ 0 then s3.engEnd k st 0
      else if bltSync j.desc then s3.wf .bltEStatus 1 0 1 k
      else s3.engBegin k j.desc
  | _, _ => s

/-- Engines that wait for the line that beam n begins to emit observe it (R303). -/
def State.bltLineSeen (s : State) (n line : Nat) : State :=
  (List.range 4).foldl (fun s k =>
    match (s.eng k).job with
    | some j => if s.engState k = 1 ∧ bltBeam j.desc = n ∧ bltLine j.desc = line then
        s.setEng k { s.eng k with seen := true } else s
    | none => s) s

/-- A beam that stops ends the waits for its lines NOT_RUNNING (R303). -/
def State.bltBeamStopped (s : State) (n : Nat) : State :=
  (List.range 4).foldl (fun s k =>
    match (s.eng k).job with
    | some j => if s.engState k = 1 ∧ bltBeam j.desc = n then s.engEnd k 8 0 else s
    | none => s) s

/-- The engine observes SYNC_LINE and begins (R303). -/
def syncStart (k : Nat) (s : State) : State :=
  match (s.eng k).job with
  | some j => if s.engState k = 1 && (s.eng k).seen then s.engBegin k j.desc else s
  | none => s

/-- The staged copy of a source byte lies at its offset in the engine's share (R302). -/
def State.stageAt (s : State) (k off : Nat) : Nat := s.stageBase + k * s.stageShare + off

/-- The whole source is read into the engine's share (R302). -/
def stageDone (k : Nat) (s : State) : State :=
  match (s.eng k).job with
  | none => s
  | some j =>
    if s.engState k ≠ 3 then s
    else
      let d := j.desc
      let w := bltWidth d * bltSize (bltSrcFmt d)
      let rows := (List.range (bltHeight d)).map (· * bltSrcPitch d)
      let (data, s1) := rows.foldl (fun (acc : List (Nat × List (Byte × Bool)) × State) o =>
        let (bs, s1) := acc.2.bltRead (bltSrc d + o) w
        (acc.1 ++ [(o, bs)], s1)) ([], s)
      (data.foldl (fun s x => s.bltWrite (s.stageAt k x.1) x.2 false) s1).wf .bltEStatus 1 0 2 k

/-- The next row of engine k's blit becomes visible (R301, R304, R307). -/
def rowVisible (k : Nat) (s : State) : State :=
  match (s.eng k).job with
  | none => s
  | some j =>
    let d := j.desc
    let done := s.rf .bltEProgress 16 0 k
    if s.engState k ≠ 2 || bltHeight d ≤ done then s
    else
      let e := s.eng k
      let r := if bltUpward d then bltHeight d - 1 - done else done
      let sz := bltSize (bltSrcFmt d)
      let dz := bltSize (bltDstFmt d)
      let w := bltWidth d
      let sa := bltSrc d + r * bltSrcPitch d
      let da := bltDst d + r * bltDstPitch d
      let (src, s1) := if bltOp d = 0 then ([], s)
        else
          let (bs, s1) := s.bltRead (if e.staged then s.stageAt k (r * bltSrcPitch d) else sa) (w * sz)
          (if e.staged then bs else asBefore e.saved sa bs, s1)
      let keeps := bltMeets d && !e.staged
      let (old, s2) := if bltOp d = 3 then s1.bltRead da (w * dz)
        else (if keeps then s1.bltKept da (w * dz) else [], s1)
      let out := (List.range w).flatMap (fun i =>
        let (p, bad) := bltPixelAt src sz i
        let (q, bad2) := bltPixelAt (if bltOp d = 3 then asBefore e.saved da old else []) dz i
        (bytesLE dz (bltPixel d p q)).map (·, bad || bad2))
      let saved := if keeps then
          old.zipIdx.foldl (fun acc x => if (kvGet (da + x.2) acc).isSome then acc else kvSet (da + x.2) x.1 acc) e.saved
        else e.saved
      let s3 := (s2.bltWrite da out true).setEng k { e with saved }
      let s4 := s3.wf .bltEProgress 16 0 (done + 1) k
      if descField d 14 2 = done + 1 then s4.raise (376 + k) 36 else s4

/-- A blit whose last row is visible completes (R305). -/
def blitComplete (k : Nat) (s : State) : State :=
  match (s.eng k).job with
  | none => s
  | some j => if s.engState k = 2 && s.rf .bltEProgress 16 0 k == bltHeight j.desc then s.engEnd k 0 0 else s

/-- A blit is accepted into the queue, which has room (R296). -/
def State.bltAccept (s : State) (j : Blit) : State := { s with blt := { s.blt with queue := s.blt.queue ++ [j] } }.showBlt

/-- Every engine is idle (R309). -/
def State.bltIdle (s : State) : Bool := (List.range 4).all (fun k => (s.eng k).job.isNone)

/-- GO of the direct registers (R308). -/
def directGo (s : State) : State :=
  if s.mode = 4 || s.rb .bltDirectStatus 8 || 32 ≤ s.blt.queue.length then s.reject (addrOf .bltDirectCtrl 0 0 0)
  else
    let body := (List.range 14).flatMap (fun i => bytesLE 4 (s.rd .bltDirect i).toNat)
    (s.wb .bltDirectStatus 8 true).bltAccept ⟨List.replicate 8 0 ++ body, none⟩

/-- BLIT_DISPATCH (R296). -/
def execBlitDispatch (s : State) : Host.Outcome State Fault Refusal := .next (blitDispatch s)

/-- BLIT_SYNC_START (R303). -/
def execBlitSyncStart (k : Fin 4) (s : State) : Host.Outcome State Fault Refusal := .next (syncStart k s)

/-- BLIT_STAGE_DONE (R302). -/
def execBlitStageDone (k : Fin 4) (s : State) : Host.Outcome State Fault Refusal := .next (stageDone k s)

/-- BLIT_ROW_VISIBLE (R304). -/
def execBlitRowVisible (k : Fin 4) (s : State) : Host.Outcome State Fault Refusal := .next (rowVisible k s)

/-- BLIT_COMPLETE (R305). -/
def execBlitComplete (k : Fin 4) (s : State) : Host.Outcome State Fault Refusal := .next (blitComplete k s)

/-- BLT_DIRECT_GO (R308). -/
def execBltDirectGo (s : State) : Host.Outcome State Fault Refusal := .next (directGo s)

end Sys2Proof.Machine
end

