-- ==== Sys2Proof/Machine/Dma.lean ====
section
/-! DEFINITION. The DMA program engine (spec 15 R310 to R323): instruction checks, loops, blocks and their requests,
signals, waits and endings. What a response does is in DmaOps.lean. -/

namespace Sys2Proof.Machine

/-- A range lies inside one non-reserved row of R20 and, within a beam region, of R21. -/
def rowRange (a n : Nat) : Bool :=
  let inside (lo size : Nat) : Bool := lo ≤ a && a + n ≤ lo + size
  ((List.range 11).any (fun i => inside (i * 0x10000) 0x10000)) ||
    inside 0x2000000 0x400000 || inside 0x3000000 0x100000 || inside 0x3100000 0x100000 ||
    (match beamOf a with
     | some b =>
       [(0, 0x10000), (0x10000, 0x10000), (0x20000, 0x10000), (0x30000, 0x10000), (0x40000, 0x10000), (0x50000, 0x10000),
         (0x60000, 0x20000), (0x80000, 0x20000), (0xC0000, 0x10000), (0xD0000, 0x10000)].any
         (fun r => inside (beamBase b + r.1) r.2)
     | none => false)

/-- A channel, and the state with one replaced. -/
def State.chan (s : State) (c : Nat) : DmaChan := vget s.dma c {}
def State.setChan (s : State) (c : Nat) (x : DmaChan) : State := { s with dma := vset s.dma c x }

/-- The clock domain of the DMA island. -/
def domDma : Nat := 37

/-- The address of instruction i of a program, and of the 64-byte line that holds it. -/
def DmaChan.addr (x : DmaChan) (i : Int) : Nat := toTwos 64 (x.prog + 32 * i)
def DmaChan.line (x : DmaChan) (i : Int) : Nat := x.addr i / 64

/-- The execution goes on after the instruction `last` has been executed (R314): passes rise and loops end. -/
def dmaNext (last : Int) : List DmaLoop → Int × List DmaLoop
  | [] => (last + 1, [])
  | l :: t =>
    if l.last = last then
      if l.pass + 1 = l.count then dmaNext last t else (l.first, { l with pass := l.pass + 1 } :: t)
    else (last + 1, l :: t)

/-- An effective address (R314). -/
def DmaChan.eff (x : DmaChan) (base : Nat) (step : DmaLoop → Int) : Nat :=
  toTwos 64 (base + (x.loops.map (fun l => (l.pass : Int) * step l)).sum)

/-- Effective source and destination of a MOVE. -/
def DmaChan.src (x : DmaChan) (d : List Byte) : Nat := x.eff (descField d 8 8) (·.sstep)
def DmaChan.dst (x : DmaChan) (d : List Byte) : Nat := x.eff (descField d 16 8) (·.dstep)

/-- The body of a LOOP at instruction i fits the enclosing body, and the target of a JUMP lies in it. -/
def DmaChan.inBody (x : DmaChan) (lo hi : Int) : Bool :=
  match x.loops with
  | [] => true
  | l :: _ => l.first ≤ lo && hi ≤ l.last

/-- The first byte that makes the instruction illegal (R312, R314, R320), if any. -/
def DmaChan.badByte (x : DmaChan) (d : List Byte) : Option Nat :=
  let b (i : Nat) : Nat := descField d i 1
  let one (i : Nat) (bad : Bool) : List Nat := if bad then [i] else []
  let zero (lo n : Nat) : List Nat := ((List.range n).map (lo + ·)).filter (fun i => b i != 0)
  let len := descField d 4 4
  let dev (space : Nat) : Bool := b 1 / space % 4 == 2
  (match b 0 with
   | 1 => one 1 (16 ≤ b 1 || b 1 % 4 == 3 || b 1 / 4 == 3) ++ zero 2 2 ++
      one 4 (len == 0 || 16777216 < len || ((dev 1 || dev 4) && len % 4 != 0)) ++
      one 8 (dev 1 && x.src d % 4 != 0) ++ one 16 (dev 4 && x.dst d % 4 != 0) ++ zero 24 8
   | 2 => one 0 (3 ≤ x.loops.length) ++ one 1 (b 1 == 0 || !x.inBody x.pc (x.pc + b 1)) ++ zero 2 2 ++ zero 24 8
   | 3 => one 1 (3 ≤ b 1) ++ (if b 1 = 1 then one 2 (16 ≤ b 2) else zero 2 1) ++ zero 3 1 ++
      (if b 1 = 1 then one 5 (64 ≤ b 5) else zero 4 2) ++ zero 6 2 ++ (if b 1 = 2 then [] else zero 8 8) ++ zero 16 16
   | 4 => one 1 (8 ≤ b 1) ++ zero 2 2 ++ (if nbit (b 1) 1 then one 8 (b 8 % 16 != 0) else zero 8 8) ++ zero 16 16
   | 5 =>
      let t := x.pc + 1 + sx 32 len
      zero 1 3 ++ one 4 (!x.inBody t t) ++ zero 8 24
   | 6 => zero 1 31
   | _ => [0]).head?

/-- The instruction at the program counter once its line is read. -/
def DmaChan.fetched (x : DmaChan) : Option (Option (List Byte)) :=
  (kvGet (x.line x.pc) x.lines).map (fun l => l.map (fun bs => (bs.drop (x.addr x.pc % 64)).take 32))

/-- A MOVE is issuing: reads of the newest block are still to be issued. -/
def DmaChan.issuing (x : DmaChan) : Bool :=
  match x.blocks.getLast? with
  | some k => !k.bad && k.next < k.len
  | none => false

/-- The channel is at an instruction boundary. -/
def DmaChan.boundary (x : DmaChan) : Bool := x.active && x.ending.isNone && x.wait.isNone && !x.issuing

/-- Every block has completed and every signal has fired. -/
def DmaChan.drained (x : DmaChan) : Bool := x.blocks.isEmpty && x.signals.isEmpty

/-- The error of a block is recorded (R316): the first error of the program gives ERR. -/
def State.dmaError (s : State) (c kind : Nat) (host : Bool) (addr : Nat) : State :=
  if s.rf .dmaChErr 2 0 c = 0 then
    ((s.wr .dmaChErr (BitVec.ofNat 32 (kind + host.toNat * 8)) c).wr .dmaChErrAddrLo (BitVec.ofNat 32 addr) c).wr
      .dmaChErrAddrHi (BitVec.ofNat 32 (addr / 2 ^ 32)) c
  else s

/-- A BAD block is counted by its number (R316). -/
def State.dmaCountBad (s : State) (c num : Nat) : State :=
  let w := BitVec.ofNat 32 num
  let s1 := if s.rf .dmaChBad 30 0 c = 0 then s.wr .dmaChBadFirst w c else s
  (s1.wr .dmaChBadLast w c).bump .dmaChBad c

/-- Block `num` meets an error: the first one marks it BAD (R316), with the signals tagged to it. -/
def State.dmaMark (s : State) (c num kind : Nat) (host : Bool) (addr : Nat) : State :=
  let x := s.chan c
  match x.blocks.find? (fun k => k.num == num) with
  | none => s
  | some k =>
    if k.bad then s
    else
      let s1 := s.setChan c { x with
        blocks := x.blocks.map (fun k => if k.num = num then { k with bad := true } else k)
        lastBad := x.lastBad || num + 1 == x.next
        signals := x.signals.map (fun g => if g.block = some num then { g with bad := true } else g) }
      (s1.dmaCountBad c num).dmaError c kind host addr

/-- A signal's record is written, or fails and is counted as a BAD block of the tagged number (R317). -/
def State.dmaRecord (s : State) (c : Nat) (g : DmaSignal) (num : Nat) : State :=
  let bs := bytesLE 4 g.tag.toNat ++ bytesLE 4 num ++ [BitVec.ofNat 8 g.bad.toNat] ++ List.replicate 7 0
  if g.host then
    if s.pci.busMaster then s.emit (.hostWrite (BitVec.ofNat 64 g.addr) bs s.pci.relaxed)
    else (s.dmaCountBad c num).dmaError c 4 true g.addr
  else if s.inPlRegion g.addr 16 then ((s.deny g.addr 16).dmaCountBad c num).dmaError c 3 false g.addr
  else s.psWrite 17 g.addr (bs.map some)

/-- A signal fires (R317): record, register, event. -/
def State.dmaFire (s : State) (c : Nat) (g : DmaSignal) : State :=
  let num := (g.block.getD 0xFFFFFFFF) % 2 ^ 32
  let s1 := if g.write then s.dmaRecord c g num else s
  let s2 := s1.wr .dmaChSigLast (BitVec.ofNat 32 (num % 2 ^ 31 + g.bad.toNat * 2 ^ 31)) c
  if g.irq then s2.raise (448 + c) domDma else s2

/-- A signal may fire: its block and every earlier one have completed. -/
def DmaChan.ready (x : DmaChan) (g : DmaSignal) : Bool :=
  match g.block with
  | none => true
  | some n => x.blocks.all (fun k => n < k.num)

/-- Signals fire in program order as far as they may. -/
def State.dmaFireDue : Nat → State → Nat → State
  | 0, s, _ => s
  | k + 1, s, c =>
    match (s.chan c).signals with
    | [] => s
    | g :: t =>
      if (s.chan c).ready g then State.dmaFireDue k ((s.setChan c { s.chan c with signals := t }).dmaFire c g) c else s

/-- The program completes (R310, R319). -/
def State.dmaComplete (s : State) (c st info2 : Nat) : State :=
  let x := s.chan c
  let bad := s.rd .dmaChBad c != 0
  let code := if st ≠ 0 then st else if bad then 0x0B else 0
  let info := if code = 0x0B then (s.rd .dmaChBadFirst c).toNat else 0
  let s1 := (s.setChan c {}).wf .dmaChStatus 10 3 code c
  let s2 := if x.stop then s1.wb .dmaChStatus 11 true c else s1
  match x.ring with
  | some (r, i, d) => s2.finish r i d code info info2
  | none => s2.raise (384 + c) domDma

/-- The program lines wanted: that of the program counter and the three after it (R311). -/
def DmaChan.wanted (x : DmaChan) : List Nat :=
  (List.range 4).map (fun i => (x.line x.pc + i) % 2 ^ 58)

/-- Lines wanted are asked for, and the others let go. -/
def State.dmaRefill (s : State) (c : Nat) : State :=
  let x := s.chan c
  let w := x.wanted
  let ask := w.filter (fun l => !x.fetching.any (·.1 == l) && (kvGet l x.lines).isNone)
  let s1 := s.setChan c { x with
    lines := x.lines.filter (fun e => w.contains e.1)
    fetching := x.fetching.filter (fun e => w.contains e.1) ++ ask.map (·, x.host && !s.pci.busMaster) }
  if x.host then ask.foldl (fun s l => s.askHost (l * 64) 64) s1 else s1

/-- Blocks that are complete leave, signals fire, and an ending program completes. -/
def State.dmaSettle (s : State) (c : Nat) : State :=
  let x := s.chan c
  let s1 := s.setChan c { x with blocks := x.blocks.filter (fun k => !(k.reqs.isEmpty && (k.bad || k.len ≤ k.next))) }
  let s2 := State.dmaFireDue x.signals.length s1 c
  let y := s2.chan c
  match y.ending with
  | some (st, i) => if y.drained then s2.dmaComplete c st i else s2
  | none => if y.wait = some .drain && y.drained then s2.setChan c { y with wait := none } else s2

/-- The program ends with a status so far and INFO2 (R319). -/
def State.dmaEnd (s : State) (c st info2 : Nat) : State :=
  (s.setChan c { s.chan c with ending := some (st, info2), wait := none, fetching := [] }).dmaSettle c

/-- What happens at an instruction boundary before an instruction executes: a STOP, a failed read of the instruction, an
illegal one; in Sleep nothing (R319, R320, R323). -/
def State.dmaLook (s : State) (c : Nat) : State :=
  let x := s.chan c
  if !x.boundary then s
  else if x.stop then s.dmaEnd c 0 0
  else if s.asleep then s
  else
    let s1 := s.dmaRefill c
    match x.fetched with
    | none => s1
    | some none => s1.dmaEnd c 6 (x.line x.pc * 64)
    | some (some d) => match x.badByte d with
      | some i => s1.dmaEnd c 1 (toTwos 64 (32 * x.pc + i))
      | none => s1

/-- The instruction that channel c executes next, when it may: legal, read, and the device not in Sleep. -/
def State.dmaAt (s : State) (c op : Nat) : Option (List Byte) :=
  let x := s.chan c
  if x.boundary && !x.stop && !s.asleep then
    match x.fetched with
    | some (some d) => if descOp d = op && (x.badByte d).isNone then some d else none
    | _ => none
  else none

/-- A program starts (R310). -/
def State.dmaStart (s : State) (c : Nat) (host : Bool) (prog : Nat) (ring : Option (Nat × Nat × List Byte)) : State :=
  let s0 := (((s.wr .dmaChBlock 0 c).wr .dmaChBad 0 c).wr .dmaChBadFirst 0 c).wr .dmaChBadLast 0 c
  let s1 := ((s0.wr .dmaChErr 0 c).wr .dmaChErrAddrLo 0 c).wr .dmaChErrAddrHi 0 c
  let s2 := s1.wb .dmaChStatus 13 ring.isNone c
  (s2.setChan c { active := true, host, prog, ring }).dmaLook c

/-- A write of DMA_CHc_CTRL (R310, R319): SPACE and PRIO are kept; GO starts, STOP ends at the next boundary: that of a MOVE
which is issuing comes with the last read of its block (R315). -/
def dmaCtrlWrite (c : Nat) (w : Word) (s : State) : State :=
  let s1 := s.wr .dmaChCtrl (setFld w 1 0 0) c
  let s2 := if bit w 0 then
      if (s1.chan c).active then s1.reject (addrOf .dmaChCtrl c 0 0)
      else s1.dmaStart c (bit w 2) (s1.addr64 .dmaChProgLo .dmaChProgHi c) none
    else s1
  let x := s2.chan c
  if bit w 1 && x.active && x.ending.isNone then
    ((s2.setChan c { x with stop := true, wait := none }).dmaSettle c).dmaLook c
  else s2

/-- Execution goes on at an instruction. Where it does not move forward, the lines held are read anew, so that an instruction
is executed once for each read of its line (R311, log entry 115). -/
def DmaChan.goto (x : DmaChan) (at_ : Int × List DmaLoop) : DmaChan :=
  { x with pc := at_.1, loops := at_.2, lines := if at_.1 ≤ x.pc then [] else x.lines }

/-- Execution goes on after the instruction `last`, and the next one is looked at. -/
def State.dmaStep (s : State) (c : Nat) (last : Int) : State :=
  let x := s.chan c
  (s.setChan c (x.goto (dmaNext last x.loops))).dmaLook c

/-- The length of the request at an offset of a block's source: a word of device space, the rest of a 64-byte line of the
pattern store, or of a block of the Maximum Read Request Size. -/
def State.dmaPiece (s : State) (k : DmaBlock) : Nat :=
  let a := (k.src + k.next) % 2 ^ 64
  let unit := if k.sspace = 2 then 4 else if k.sspace = 0 then 64 else s.pci.readSize
  min (k.len - k.next) (unit - a % unit)

/-- Up to n read requests of the issuing block go out while fewer than 32 are in flight (R315). -/
def State.dmaIssue : Nat → State → Nat → State
  | 0, s, _ => s
  | n + 1, s, c =>
    let x := s.chan c
    match x.blocks.getLast? with
    | none => s
    | some k =>
      if !x.issuing || 32 ≤ (x.blocks.map (fun k => k.reqs.length)).sum then s
      else
        let m := s.dmaPiece k
        let off := k.sspace == 1 && !s.pci.busMaster
        let k1 := { k with next := k.next + m, reqs := k.reqs ++ [{ off := k.next, len := m, refused := off }] }
        let s1 := s.setChan c { x with blocks := x.blocks.dropLast ++ [k1] }
        State.dmaIssue n (if k.sspace = 1 && !off
          then s1.askHost (k.src + k.next) m else s1) c

/-- Requests go out as far as they may; with the last one the MOVE is executed (R315). -/
def State.dmaGo (s : State) (c : Nat) : State :=
  if !(s.chan c).issuing then s
  else
    let s1 := State.dmaIssue 32 s c
    if (s1.chan c).issuing then s1 else s1.dmaStep c (s1.chan c).pc

/-- A MOVE begins its block (R313, R315): not while Scarce outside Recovery, nor as the fifth incomplete block. -/
def dmaMove (c : Nat) (s : State) : State :=
  match s.dmaAt c 1 with
  | none => s
  | some d =>
    let x := s.chan c
    if (s.scarce && s.runMode != 6) || 4 ≤ x.blocks.length then s
    else
      let ss := descField d 1 1 % 4
      let ds := descField d 1 1 / 4
      let len := descField d 4 4
      let k : DmaBlock := ⟨x.next, ss, ds, x.src d, x.dst d, len, 0, [], false⟩
      let s1 := (s.setChan c { x with blocks := x.blocks ++ [k], next := x.next + 1, lastBad := false }).wr .dmaChBlock
        (BitVec.ofNat 32 (x.next + 1)) c
      let bad := if ss = 2 && !rowRange k.src len then some k.src else if ds = 2 && !rowRange k.dst len then some k.dst else none
      match bad with
      | some a => ((s1.dmaMark c x.next 5 false a).dmaSettle c).dmaStep c x.pc
      | none => s1.dmaGo c

/-- LOOP (R314). -/
def dmaLoop (c : Nat) (s : State) : State :=
  match s.dmaAt c 2 with
  | none => s
  | some d =>
    let x := s.chan c
    let body := descField d 1 1
    let count := descField d 4 4
    if count = 0 then s.dmaStep c (x.pc + body)
    else
      let l : DmaLoop := ⟨x.pc + 1, x.pc + body, count, 0, sx 64 (descField d 8 8), sx 64 (descField d 16 8)⟩
      (s.setChan c { x with pc := x.pc + 1, loops := l :: x.loops }).dmaLook c

/-- A LINE wait that ends at once sets WAIT_SKIP (R318). -/
def State.dmaSkip (s : State) (c : Nat) : State := s.wb .dmaChStatus 12 true c

/-- WAIT (R318). The program counter moves on when the wait begins; execution does when it ends. -/
def dmaWait (c : Nat) (s : State) : State :=
  match s.dmaAt c 3 with
  | none => s
  | some d =>
    let x := s.chan c
    let hold (w : DmaWait) : State := s.setChan c { x.goto (dmaNext x.pc x.loops) with wait := some w }
    match descField d 1 1 with
    | 0 => if x.drained then s.dmaStep c x.pc else hold .drain
    | 1 =>
      let n := descField d 2 1
      let l := descField d 4 2
      if (s.beam n).run = .stopped ∨ (s.beam n).cf .beamTotal 30 16 n ≤ l then (s.dmaSkip c).dmaStep c x.pc
      else hold (.line n l)
    | _ => if descField d 8 8 = 0 then s.dmaStep c x.pc else hold (.time s.now (descField d 8 8))

/-- A wait of channel c ends. -/
def State.dmaWake (s : State) (c : Nat) : State := (s.setChan c { s.chan c with wait := none }).dmaLook c

/-- Beam n begins to emit a line: LINE waits for it end (R318). -/
def State.dmaLineSeen (s : State) (n line : Nat) : State :=
  (List.range 64).foldl (fun s c => if (s.chan c).wait = some (.line n line) then s.dmaWake c else s) s

/-- Beam n has stopped: LINE waits for it end with WAIT_SKIP. -/
def State.dmaBeamStopped (s : State) (n : Nat) : State :=
  (List.range 64).foldl (fun s c =>
    match (s.chan c).wait with
    | some (.line m _) => if m = n then (s.dmaSkip c).dmaWake c else s
    | _ => s) s

/-- The time of a TIME wait has passed (R318), counted across the wrap of the time base. -/
def dmaTimeExpiry (c : Nat) (s : State) : State :=
  match (s.chan c).wait with
  | some (.time t ns) => if ns ≤ (s.now + 2 ^ 64 - t % 2 ^ 64) % 2 ^ 64 then s.dmaWake c else s
  | _ => s

/-- SIGNAL (R317): tagged to the most recent block begun. -/
def dmaSignal (c : Nat) (s : State) : State :=
  match s.dmaAt c 4 with
  | none => s
  | some d =>
    let x := s.chan c
    let f := descField d 1 1
    let g : DmaSignal := ⟨if x.next = 0 then none else some (x.next - 1), x.lastBad, nbit f 0, nbit f 1, nbit f 2,
      BitVec.ofNat 32 (descField d 4 4), descField d 8 8⟩
    ((s.setChan c { x with signals := x.signals ++ [g] }).dmaSettle c).dmaStep c x.pc

/-- JUMP (R312). -/
def dmaJump (c : Nat) (s : State) : State :=
  match s.dmaAt c 5 with
  | none => s
  | some d =>
    let x := s.chan c
    (s.setChan c (x.goto (x.pc + 1 + sx 32 (descField d 4 4), x.loops))).dmaLook c

/-- END (R319). -/
def dmaEnd (c : Nat) (s : State) : State :=
  match s.dmaAt c 6 with
  | none => s
  | some _ => s.dmaEnd c 0 0

/-- A program line arrives or fails (R311): the i-th of those being read. A line of the pattern store is read now; data
of a host line, or its failure, are the command's, and a read issued while Bus Master Enable was clear fails. -/
def dmaLineDone (c i : Nat) (data : Option (List Byte)) (s : State) : State :=
  let x := s.chan c
  match x.fetching[i]? with
  | none => s
  | some (l, refused) =>
    let (got, s1) := if x.host then (if refused then none else data.map (padTo 64), s)
      else
        let (bs, bad, s1) := s.psRead 17 (l * 64) 64
        (if bad then none else some bs, s1)
    let y := s1.chan c
    (s1.setChan c { y with fetching := y.fetching.filter (·.1 ≠ l), lines := kvSet l got y.lines }).dmaLook c

/-- DMA_CHc_STATUS.STATE: 0 Idle, 1 Running, 2 Waiting, 3 Gated, 4 Ending, 5 Paused. -/
def State.dmaState (s : State) (c : Nat) : Nat :=
  let x := s.chan c
  if !x.active then 0
  else if x.ending.isSome then 4
  else if s.asleep && x.boundary && x.blocks.isEmpty then 5
  else if x.wait.isSome then 2
  else if s.scarce && s.runMode != 6 && (s.dmaAt c 1).isSome then 3
  else 1

/-- Sleep has ended: paused channels resume (R323). -/
def State.dmaResume (s : State) : State := (List.range 64).foldl (fun s c => s.dmaLook c) s

/-- DMA_GO (R310): SPACE and PRIO as they stand. -/
def execDmaGo (c : Fin 64) (s : State) : Host.Outcome State Fault Refusal :=
  .next (dmaCtrlWrite c (setFld (s.rd .dmaChCtrl c) 1 0 1) s)

/-- DMA_STOP (R319). -/
def execDmaStop (c : Fin 64) (s : State) : Host.Outcome State Fault Refusal :=
  .next (dmaCtrlWrite c (setFld (s.rd .dmaChCtrl c) 1 0 2) s)

/-- DMA_PROG_FETCH_DONE (R311). -/
def execDmaProgFetchDone (c : Fin 64) (i : Fin 4) (data : Option (List Byte)) (s : State) :
    Host.Outcome State Fault Refusal := .next (dmaLineDone c i data s)

/-- DMA_MOVE (R315). -/
def execDmaMove (c : Fin 64) (s : State) : Host.Outcome State Fault Refusal := .next (dmaMove c s)

/-- DMA_LOOP (R314). -/
def execDmaLoop (c : Fin 64) (s : State) : Host.Outcome State Fault Refusal := .next (dmaLoop c s)

/-- DMA_WAIT (R318). -/
def execDmaWait (c : Fin 64) (s : State) : Host.Outcome State Fault Refusal := .next (dmaWait c s)

/-- DMA_WAIT_TIME_EXPIRY (R318). -/
def execDmaWaitTimeExpiry (c : Fin 64) (s : State) : Host.Outcome State Fault Refusal := .next (dmaTimeExpiry c s)

/-- DMA_SIGNAL (R317). -/
def execDmaSignal (c : Fin 64) (s : State) : Host.Outcome State Fault Refusal := .next (dmaSignal c s)

/-- DMA_JUMP (R312). -/
def execDmaJump (c : Fin 64) (s : State) : Host.Outcome State Fault Refusal := .next (dmaJump c s)

/-- DMA_END (R319). -/
def execDmaEnd (c : Fin 64) (s : State) : Host.Outcome State Fault Refusal := .next (dmaEnd c s)

end Sys2Proof.Machine
end

