-- ==== Sys2Proof/Machine/Gpio.lean ====
section
/-! DEFINITION. GPIO (spec 17 R347 to R356): pad levels, pin functions, output bits, filtering, pin interrupts and the
reference events of HOUSE_SYNC and AUD_WCLK pins. -/

namespace Sys2Proof.Machine

/-- A bit of a pair of registers that hold one bit per pin. -/
def State.pinBit (s : State) (r : RegName) (p : Nat) : Bool := s.rb r (p % 32) (p / 32)
def State.setPinBit (s : State) (r : RegName) (p : Nat) (v : Bool) : State := s.wb r (p % 32) v (p / 32)

/-- The supply of the pin's bank is present (R347). -/
def State.pinPowered (s : State) (p : Nat) : Bool := s.rb .gpioBank (p / 16)

/-- A bit the spec leaves open. -/
def State.freshBit (s : State) : Bool × State :=
  let (v, s1) := s.fresh 2
  (v == 1, s1)

/-- The beam emits frames: it runs, and its first frame has begun. -/
def Beam.emits (b : Beam) : Bool := b.run == .running && !b.atStart

/-- A field of a beam's sync timing: of the frame now emitting, or of the image while the beam is stopped. -/
def Beam.sync (b : Beam) (r : RegName) (hi lo n : Nat) : Nat :=
  if b.emits then b.emf r hi lo n else b.cf r hi lo n

/-- The line and the column that beam n emitted so many ns ago, from the start of its latest line: two columns a cycle of the
island clock (R79, R349). -/
def State.beamAt (s : State) (n ago : Nat) : Nat × Nat :=
  let b := s.beam n
  let cols := b.emf .beamTotal 15 0 n
  let y := s.rf .beamPos 13 0 n
  let since : Int := ((s.now + 2 ^ 64 - b.lineAt % 2 ^ 64) % 2 ^ 64 : Nat) - (ago : Int)
  let x := since * (b.clkNow n s.now + b.genlock.pull) * 2 / (65536 * 1000000000 : Nat)
  (if 0 ≤ x then y else (y + b.curLines - 1) % b.curLines, (x % (cols : Int)).toNat)

/-- A sync function is at its active level at a line and a column (R349). -/
def Beam.syncActive (b : Beam) (n : Nat) (vertical : Bool) (at_ : Nat × Nat) : Bool :=
  let r := if vertical then RegName.beamVsync else .beamHsync
  let pos := if vertical then at_.1 else at_.2
  let first := if vertical then b.sync r 13 0 n else b.sync r 15 0 n
  let width := if vertical then b.sync r 23 16 n else b.sync r 27 16 n
  first ≤ pos && pos < first + width

/-- The level of a sync function on its pad (R349): inactive while the beam is stopped or has not begun its first frame. An edge
reaches the pad 20 to 30 ns after its column: in between, the level is open. -/
def State.syncLevel (s : State) (n : Nat) (vertical : Bool) : Bool × State :=
  let b := s.beam n
  let idle := b.sync (if vertical then .beamVsync else .beamHsync) 31 31 n == 1
  if !b.emits then (idle, s)
  else
    let late := b.syncActive n vertical (s.beamAt n 30)
    if late = b.syncActive n vertical (s.beamAt n 20) then (idle != late, s) else s.freshBit

/-- What pin p drives onto its pad: a level, or nothing (R348, R352). The master clock's level is open. -/
def State.pinDrives (s : State) (p : Nat) : Option Bool × State :=
  let sel := s.rf .gpioPCtrl 9 4 p
  let out (v : Bool × State) : Option Bool × State :=
    (if !s.pinPowered p || (v.1 && s.rb .gpioPCtrl 11 p) then none else some v.1, v.2)
  match s.rf .gpioPCtrl 3 0 p with
  | 0 => if s.rb .gpioPCtrl 10 p then out (s.pinBit .gpioOut p, s) else (none, s)
  | 3 => out s.freshBit
  | 4 => out (s.syncLevel sel false)
  | 5 => out (s.syncLevel sel true)
  | 6 => out (nbit s.tmr.cmpOut.toNat sel, s)
  | _ => (none, s)

/-- The level of pad p from what drives it (R352); two drivers that differ leave it open. -/
def State.padLevel (s : State) (p : Nat) (drive : Option Bool) : Bool × State :=
  if !s.pinPowered p then (false, s)
  else match drive, kvGet p s.gpio.outside with
    | some d, some e => if d = e then (d, s) else s.freshBit
    | some d, none => (d, s)
    | none, some e => (e, s)
    | none, none => (match s.rf .gpioPCtrl 13 12 p with
      | 1 => true
      | 2 => false
      | _ => s.gpio.high.contains p, s)

/-- Pad p follows what drives it; in Sleep its own driver keeps its state and GPIO_PAD is not updated (R355). -/
def State.refreshPin (s : State) (p : Nat) : State :=
  let (d, s1) := if s.mode = 4 then (kvGet p s.gpio.driven, s) else s.pinDrives p
  let (v, s2) := s1.padLevel p d
  let s3 := { s2 with gpio := { s2.gpio with
    driven := match d with
      | some x => kvSet p x s2.gpio.driven
      | none => kvDel p s2.gpio.driven
    high := if v then setAdd p s2.gpio.high else setDel p s2.gpio.high } }
  if s.mode = 4 then s3 else s3.setPinBit .gpioPad p v

/-- The pads of one register of 32 pins. -/
def State.refreshPads (s : State) (x : Nat) : State := (List.range 32).foldl (fun s i => s.refreshPin (32 * x + i)) s

/-- An accepted edge on a reference pin (R351): HOUSE_SYNC for beams that select its direction, AUD_WCLK when it rises. -/
def State.pinReference (s : State) (p : Nat) (rising : Bool) : State :=
  match s.rf .gpioPCtrl 3 0 p with
  | 1 => (List.range 16).foldl (fun s n =>
      if ((s.beam n).cf .beamGenlock 3 3 n == 0) == rising then s.reference 3 p s.now n else s) s
  | 2 => if rising then s.audReference 2 p s.now else s
  | _ => s

/-- The clock domain of the GPIO island. -/
def domGpio : Nat := 38

/-- An accepted edge (R351, R356). -/
def State.pinEdge (s : State) (p : Nat) (rising : Bool) : State :=
  let m := s.rf .gpioPIn 2 0 p
  let s1 := if m = 3 || (m = 1 && rising) || (m = 2 && !rising) then s.raise (640 + p) domGpio else s
  s1.pinReference p rising

/-- The level modes of R356. -/
def State.pinLevel (s : State) (p : Nat) : State :=
  let v := s.pinBit .gpioFilt p
  let m := s.rf .gpioPIn 2 0 p
  if ((m = 4 && v) || (m = 5 && !v)) && !s.rb .evtSrcStatus 0 (640 + p) && !s.rb .evtSrcStatus 1 (640 + p) then
    s.raise (640 + p) domGpio
  else s

/-- One filter sample of pin p (R355): not in Sleep, where the island's clock stands, nor without the bank's supply. -/
def filterSample (p : Nat) (s : State) : State :=
  if s.mode = 4 || !s.pinPowered p then s
  else
    let s1 := s.refreshPin p
    let v := s1.pinBit .gpioPad p
    let n := (kvGet p s1.gpio.samples).getD 0 + 1
    let s2 :=
      if v = s1.pinBit .gpioFilt p then { s1 with gpio := { s1.gpio with samples := kvDel p s1.gpio.samples } }
      else if s1.rf .gpioPIn 11 4 p ≤ n then
        (State.setPinBit { s1 with gpio := { s1.gpio with samples := kvDel p s1.gpio.samples } } .gpioFilt p v).pinEdge p v
      else { s1 with gpio := { s1.gpio with samples := kvSet p n s1.gpio.samples } }
    s2.pinLevel p

/-- The outside driver of a pad changes, or is released. -/
def padChange (p : Nat) (level : Option Bool) (s : State) : State :=
  State.refreshPin { s with gpio := { s.gpio with outside := match level with
    | some v => kvSet p v s.gpio.outside
    | none => kvDel p s.gpio.outside } } p

/-- Output bits of 32 pins are set to a word (R353). -/
def gpioOutWrite (x : Nat) (w : Word) (s : State) : State := (s.wr .gpioOut w x).refreshPads x
def gpioSet (x : Nat) (w : Word) (s : State) : State := gpioOutWrite x (s.rd .gpioOut x ||| w) s
def gpioClr (x : Nat) (w : Word) (s : State) : State := gpioOutWrite x (s.rd .gpioOut x &&& ~~~ w) s

/-- A write of GPIO_Pp_CTRL (R354): the pad is as the old settings drove it till now, and the new ones drive it. -/
def gpioCtrlWrite (p : Nat) (w : Word) (s : State) : State := ((s.refreshPin p).wr .gpioPCtrl w p).refreshPin p

/-- A write of GPIO_Pp_IN: a change of FILT or DIV restarts the count of equal samples (R355); a level mode raises its
arrival from the next GPIO cycle on (R356). -/
def gpioInWrite (p : Nat) (w : Word) (s : State) : State :=
  let s1 := if fld w 14 4 = s.rf .gpioPIn 14 4 p then s else { s with gpio := { s.gpio with samples := kvDel p s.gpio.samples } }
  let s2 := s1.wr .gpioPIn w p
  if s2.mode = 4 || !s2.pinPowered p then s2 else s2.pinLevel p

/-- A bank supply appears with its level, or disappears (R347): the pins of a bank without supply read 0. -/
def bankSupply (b : Nat) (supply : Option Bool) (s : State) : State :=
  let s1 := (s.wb .gpioBank b supply.isSome).wb .gpioBank (4 + b) (supply.getD false)
  (List.range 16).foldl (fun s i =>
    let p := 16 * b + i
    let s1 := { s with gpio := { s.gpio with samples := kvDel p s.gpio.samples } }
    let s2 := if supply.isSome then s1 else (s1.setPinBit .gpioPad p false).setPinBit .gpioFilt p false
    s2.refreshPin p) s1

/-- GPIO_PAD_CHANGE (R355). -/
def execGpioPadChange (p : Fin 64) (level : Option Bool) (s : State) : Host.Outcome State Fault Refusal :=
  .next (padChange p level s)

/-- GPIO_FILTER_SAMPLE (R355). -/
def execGpioFilterSample (p : Fin 64) (s : State) : Host.Outcome State Fault Refusal := .next (filterSample p s)

/-- GPIO_SET (R353). -/
def execGpioSet (x : Fin 2) (w : Word) (s : State) : Host.Outcome State Fault Refusal := .next (gpioSet x w s)

/-- GPIO_CLR (R353). -/
def execGpioClr (x : Fin 2) (w : Word) (s : State) : Host.Outcome State Fault Refusal := .next (gpioClr x w s)

/-- GPIO_FUNCTION_CHANGE (R354): a word with a reserved value is rejected (R348). -/
def execGpioFunctionChange (p : Fin 64) (w : Word) (s : State) : Host.Outcome State Fault Refusal :=
  .next (if wordOk .gpioPCtrl 0 w then gpioCtrlWrite p w s else s.reject (addrOf .gpioPCtrl p 0 0))

/-- GPIO_BANK_SUPPLY_CHANGE (R347): absent, or present at 3.3 V or 1.8 V. -/
def execGpioBankSupplyChange (b : Fin 4) (supply : Option Bool) (s : State) : Host.Outcome State Fault Refusal :=
  .next (bankSupply b supply s)

end Sys2Proof.Machine
end

