-- ==== Sys2Proof/Machine/Emission.lean ====
section
/-! DEFINITION. Frame starts and the emission of lines: what a line's emission shows, counts, sends and writes back
(spec 04 R77, R83, R88, R89; 05 R109; 07 R144; 09 R181 to R183; 10 R186, R193, R203; 12 R265 to R268). -/

namespace Sys2Proof.Machine

/-- The record of the write-back frame in progress (R183). -/
def WbFrame.bytes (w : WbFrame) (done : Bool) : List Byte :=
  bytesLE 4 w.seq ++ [if done then 2 else 1,
    BitVec.ofNat 8 (w.lastCons.toNat + w.mixed.toNat * 2 + (w.skipped != 0).toNat * 4), 0, 0] ++ bytesLE 4 w.epoch.toNat ++
    bytesLE 2 w.lines ++ bytesLE 2 w.skipped ++ bytesLE 8 w.stamp.toNat ++ List.replicate 8 0

/-- The beam writes bytes as client n; none of them where they meet the PL region (R172). -/
def State.beamWrite (s : State) (n a : Nat) (bs : List Byte) : State :=
  if s.inPlRegion a bs.length then s.deny a bs.length else s.psWrite n a (bs.map some)

/-- A pixel in a write-back format (R182). -/
def wbPixel (fmt depth : Nat) (p : OutPixel) : List Byte :=
  let d := depthBits depth
  if fmt = 0 then [BitVec.ofNat 8 (p.c0 / 2 ^ (d - 8)), BitVec.ofNat 8 (p.c1 / 2 ^ (d - 8)), BitVec.ofNat 8 (p.c2 / 2 ^ (d - 8)), 0xFF]
  else
    let h (v : Nat) : List Byte := bytesLE 2 (v * 2 ^ (16 - d))
    h p.c0 ++ h p.c1 ++ h p.c2 ++ bytesLE 2 (if fmt = 1 then 0xFFF0 else p.fl % 16)

/-- Lines in the write-back buffer. -/
def Beam.wbLines (b : Beam) : Nat := (b.wbBuf.filter (fun x => match x with
  | .line _ _ => true
  | .record _ _ _ => false)).length

/-- Something waits to be written back, behind what waits already. -/
def State.wbPut (s : State) (n : Nat) (x : WbItem) : State :=
  s.setBeam n { s.beam n with wbBuf := (s.beam n).wbBuf ++ [x] }

/-- The first thing in the write-back buffer is written; a complete frame record raises its event (R109, R183). -/
def State.wbTake (s : State) (n : Nat) : State :=
  match (s.beam n).wbBuf with
  | [] => s
  | x :: t =>
    let s1 := s.setBeam n { s.beam n with wbBuf := t }
    match x with
    | .line a bs => s1.beamWrite n a bs
    | .record a bs done => if done then (s1.beamWrite n a bs).raise (16 * n + 14) (domBeam n) else s1.beamWrite n a bs

/-- Frame records at the head of the write-back buffer are written. -/
def State.wbRecords (s : State) (n : Nat) : State :=
  (List.range (s.beam n).wbBuf.length).foldl (fun s _ =>
    match (s.beam n).wbBuf with
    | .record _ _ _ :: _ => s.wbTake n
    | _ => s) s

/-- So many lines have left the write-back buffer, with the records before and behind them. -/
def State.wbDrain (s : State) (n lines : Nat) : State :=
  (List.range lines).foldl (fun s _ => ((s.wbRecords n).wbTake n).wbRecords n) (s.wbRecords n)

/-- The frame record of the frame in progress waits to be written (R183). -/
def State.wbRecord (s : State) (n : Nat) (done : Bool) : State :=
  let w := (s.beam n).wb
  s.wbPut n (.record ((s.beam n).cf .cmpWbRec 27 0 n * 256 + 32 * w.buffer) (w.bytes done) done)

/-- An emitted active line goes to the write-back target (R109, R181 to R183): into the buffer, unless that holds four
lines. -/
def State.writeBack (s : State) (n : Nat) (e : Emit) (ctrl : Word) : State :=
  let b := s.beam n
  if b.cf .cmpWbCtrl 0 0 n = 0 then s
  else
    let l := e.line
    let s1 := if l ≠ 0 then s else
      let k := s.frameNo n % (b.cf .cmpWbCtrl 4 3 n + 1)
      let (v, s1) := s.stamp (domBeam n)
      (s1.setBeam n { s1.beam n with wb :=
        { buffer := k, seq := s.frameNo n % 2 ^ 32, epoch := e.ver.epoch, stamp := v, active := true } }).wbRecord n false
    let w := (s1.beam n).wb
    if !w.active then s1
    else
      let a := b.cf .cmpWbBase 27 0 n * 256 + (w.buffer * b.lines n + l) * (b.cf .cmpWbPitch 11 0 n * 256)
      let bs := e.ver.pixels.flatMap (wbPixel (b.cf .cmpWbCtrl 2 1 n) (fld ctrl 2 1))
      let w1 := { w with mixed := w.mixed || e.ver.epoch != w.epoch }
      let (w2, s2) :=
        if 4 ≤ (s1.beam n).wbLines then ({ w1 with skipped := w.skipped + 1 }, s1.bump .cmpWbSkip n)
        else if s1.inPlRegion a bs.length then (w1, s1.deny a bs.length)
        else ({ w1 with lines := w.lines + 1, lastCons := w.lastCons || e.lc }, s1.wbPut n (.line a bs))
      let last := l + 1 = b.lines n
      let s3 := s2.setBeam n { s2.beam n with wb := { w2 with active := !last } }
      if last then s3.wbRecord n true else s3

/-- What an emitted line counts (R144). -/
def State.countShed (s : State) (n : Nat) (e : Emit) : State :=
  let s1 := if s.rf .objPeak 14 0 n < e.ver.counted then s.wf .objPeak 14 0 (min e.ver.counted 16384) n else s
  if e.ver.shed = 0 then s1
  else
    let b := s1.beam n
    let s2 := ((s1.bump .objShedSpans n 0 0 e.ver.shed).bump .objShedLines n).wr .objShedLast
      (BitVec.ofNat 32 (e.line + e.ver.lastKeep % 256 * 2 ^ 16 + 2 ^ 31)) n
    let s3 := s2.setBeam n { b with shedFrame := b.shedFrame + e.ver.shed, shedRaised := true }
    if b.shedRaised then s3 else s3.raise (16 * n + 7) (domBeam n)

/-- Entries that the emitted line or an earlier one names, in queue order while they are applied, leave the queue and are
folded into the line base (R191, R193). -/
def Beam.fold (b : Beam) (n l : Nat) : Beam :=
  let gone := b.queue.takeWhile (fun e => e.applied && e.frame == b.fg && e.line ≤ l)
  { b with queue := b.queue.drop gone.length, lineBase := gone.foldl (applyEntry n b.live) b.lineBase
           lsqUsed := b.lsqUsed || !gone.isEmpty }

/-- Ring holds on a line that begins to emit end (R60). -/
def State.lineWaits (s : State) (n l : Nat) : State :=
  (List.range 64).foldl (fun s r =>
    match (s.ring r).hold with
    | some (.line i d) =>
      if descField d 8 1 % 16 = n ∧ descField d 10 2 = l then
        (s.setRing r { s.ring r with hold := none }).finish r i d 0 0 0
      else s
    | _ => s) s

/-- What the count of a line shows, whatever the line carries: position, LINE_MATCH, and the waits for it (R88, R89). -/
def State.lineCounted (s : State) (n l : Nat) : State :=
  let b := s.beam n
  let s0 := s.setBeam n { b with lineAt := s.now }
  let s1 := s0.wr .beamPos (BitVec.ofNat 32 (l % 2 ^ 14 + s.frameNo n % 2 ^ 16 * 2 ^ 16)) n
  let s2 := if b.cf .beamLineMatch 31 31 n = 1 ∧ b.cf .beamLineMatch 13 0 n = l ∧ l < b.cf .beamTotal 30 16 n then
      s1.raise (16 * n + 2) (domBeam n) else s1
  ((s2.lineWaits n l).dmaLineSeen n l).bltLineSeen n l

/-- An active line leaves the emission buffer (R186): slots, line base, counts, links and write-back. -/
def State.emitLine (s : State) (n : Nat) (e : Emit) : State :=
  let l := e.line
  let b := s.beam n
  let img := if e.src = 3 then b.lastLive else b.live
  let (v, s0) := s.stamp (domBeam n)
  let b1 := { b.fold n l with
    emitted := l + 1, last := some e, slots := b.slots.filter (fun x => l ≤ x.line)
    lastStamp := v, lastLive := img }
  let s1 := s0.setBeam n b1
  let s2 := if b1.heldLines < s1.rf .lpRaMinHeld 14 0 n then s1.wf .lpRaMinHeld 14 0 b1.heldLines n else s1
  let s3 := s2.countShed n e
  let ctrl := rfGet img (addrOf .cmpCtrl n 0 0)
  let s4 := (carriers (s3.beam n).route).foldl
    (fun s x => s.portLine n e (fld ctrl 2 1) (bit ctrl 0) (b.clk n) x) s3
  s4.writeBack n e ctrl

/-- The next line of the frame may begin: the Calends falls before the last CAL_LEAD lines (R78). -/
def Beam.lineDue (b : Beam) (n : Nat) : Bool :=
  b.run == .running && !b.atStart && b.nextLine < b.curLines &&
    (b.calDone || b.nextLine + b.emf .beamCalends 7 0 n < b.curLines)

/-- A line begins to emit, or to count in blanking and in repeat frames; since the line before, the write-back has
written `drained` lines. -/
def State.lineStart (s : State) (n drained : Nat) : State :=
  let sd := s.wbDrain n drained
  let l := (s.beam n).nextLine
  let s1 := match (s.beam n).routePend with
    | some w => sd.applyRoute n w (sd.routeAt n)
    | none => sd
  let b := s1.beam n
  let active := l < b.lines n && b.curKind != .repeated && !b.calDone
  let s2 := if active && b.dl == l then s1.deadline n [] else s1
  let c := s2.beam n
  let s3 := s2.setBeam n { c with
    nextLine := l + 1, slots := if c.calDone then c.slots else c.slots.filter (fun x => l ≤ x.line) }
  let s4 := s3.lineCounted n l
  match c.copied with
  | some e => if active && e.line == l then s4.emitLine n e else s4
  | none => s4

/-- The beam stops where the next frame would start (R83), what waits for its lines is told, and its write-back ends. -/
def State.beamEnds (s : State) (n : Nat) : State :=
  ((((s.wbDrain n 4).stopBeam n).bltBeamStopped n).dmaBeamStopped n).settleStopped n

/-- BEAM_FRAME_START (R77, R83, R273). -/
def execBeamFrameStart (n : Fin 16) (s : State) : Host.Outcome State Fault Refusal :=
  .next (
    let b := s.beam n
    if !b.frameDue then s
    else if b.stopping then s.beamEnds n
    else (s.frameStart n).audReference 1 n s.now)

/-- LINE_EMISSION_START (R186): `drained` tells how many lines of the write-back buffer were written since the beam's last
line began (R109). -/
def execLineEmissionStart (n : Fin 16) (drained : Fin 5) (s : State) : Host.Outcome State Fault Refusal :=
  .next (if (s.beam n).lineDue n then s.lineStart n drained else s)

end Sys2Proof.Machine
end

