-- ==== Sys2Proof/Machine/Slices.lean ====
section
/-! DEFINITION. Self-test slices: instances, the time a slice takes, and when one may begin (spec 20 R396 to R401). -/

namespace Sys2Proof.Machine

/-- PARTs of a class and its UNITs, rows per part, spare rows and spare columns (R396). -/
def bistParts (c : Nat) : Nat := [16, 1, 1, 20, 2, 32, 1].getD c 0
def bistUnits (c : Nat) : Nat := [1, 1, 16, 16, 20, 2, 64].getD c 0
def bistRows (c : Nat) : Nat := [8192, 8192, 7168, 8192, 2048, 8192, 12582912].getD c 0
def spareRows (c : Nat) : Nat := [8, 8, 4, 8, 4, 8].getD c 0
def spareColumns (c : Nat) : Nat := [2, 2, 1, 2, 1, 2].getD c 0

/-- OPS of an algorithm (R397). -/
def bistOps (alg : Nat) : Nat := if alg = 0 then 10 else 4

/-- The live clock of beam n's island in Hz (R398): as it runs, else as programmed. -/
def State.beamHz (s : State) (n : Nat) : Nat :=
  let b := s.beam n
  max 1 (if b.run = .stopped then b.cf .beamClk 30 0 n else b.emf .beamClk 30 0 n)

/-- Row operations take this many ns: a numerator and a denominator (R396). -/
def State.rowOps (s : State) (e : BistEntry) (ops : Nat) : Nat × Nat :=
  match e.cls with
  | 2 => (ops * 1000000000, s.beamHz e.unit)
  | 3 => (ops * 1000000000, s.beamHz e.unit)
  | 5 => (ops * 833, 1000)
  | 6 => (ops * 4, 1)
  | _ => (ops, 1)

/-- The time of a slice (R397). -/
def State.sliceTime (s : State) (e : BistEntry) : Nat × Nat := s.rowOps e ((2 + bistOps e.alg) * e.rows)

/-- The time does not exceed the budget (R398). -/
def State.inBudget (s : State) (t : Nat × Nat) : Bool := t.1 ≤ s.rf .bistCtrl 15 8 * 100 * t.2

/-- The beam to which an instance is bound now (R396). -/
def State.boundBeam (s : State) (e : BistEntry) : Option Nat :=
  if e.cls = 2 ∨ e.cls = 3 then some e.unit
  else if e.cls = 4 ∧ e.unit < 16 ∧ (s.beam e.unit).run ≠ .stopped then some e.unit
  else none

/-- A quiet interval of beam n (R400): stopped, a repeat frame, or between the last active line and the Calends when that
span is at least the slice's time. -/
def State.quietBeam (s : State) (n : Nat) (t : Nat × Nat) : Bool :=
  let b := s.beam n
  let span := b.curLines - b.emf .beamCalends 7 0 n - b.lines n
  let lineNum := b.emf .beamTotal 15 0 n * 65536 * 1000000000
  b.run == .stopped || b.curKind == .repeated ||
    (b.lines n < b.nextLine && !b.calDone && t.1 * b.clk n * 2 ≤ span * lineNum * t.2)

/-- The slice pre-empted last may be retried: its four budgets have passed (R402). -/
def State.retryDue (s : State) : Bool :=
  match s.sys.bist.retry with
  | none => true
  | some (t, ns) => s.passed t ns

/-- A slice of an instance may begin (R399, R400): an offline slice ignores quiet intervals (R404). -/
def State.sliceMay (s : State) (e : BistEntry) (t : Nat × Nat) : Bool :=
  s.rb .bistCtrl 0 && !s.scarce && s.mode != 0 && s.mode != 4 && !s.sys.bist.slice && s.retryDue &&
    (e.offline || s.runMode == 5 || match s.boundBeam e with | none => true | some n => s.quietBeam n t)

/-- BIST_STATUS: STATE 4 while the program runs and its next slice may not begin (R399). -/
def State.bistStatus (s : State) : Word :=
  let w := s.rd .bistStatus
  if fld w 2 0 = 3 ∧ !s.sys.bist.slice ∧ s.sys.bist.pausing.isNone then
    match s.bistEntry with
    | some e => if s.sliceMay e (s.sliceTime e) then w else setFld w 2 0 4
    | none => w
  else w

/-- Row r of pseudo-channel u: the line with that place in its local address order (R96, R396). -/
def channelLine (u r : Nat) : Nat :=
  let k := r / 4
  (64 * k + (u ^^^ k % 64 ^^^ k / 64 % 64)) * 4 + r % 4

/-- Protected storage is left out: the owner key is sealed and the state is not Returned (R403). -/
def State.bistSkips (s : State) (e : BistEntry) (r : Nat) : Bool :=
  e.cls == 6 && s.rb .cmpPleStatus 3 && s.lcState != 4 && s.inPlRegion (64 * channelLine e.unit r) 64

end Sys2Proof.Machine
end

