-- ==== Sys2Proof/Machine/View.lean ====
section
/-! DEFINITION. The word that a read of a register returns, without the effects a BAR0 read may have: stored words, and
the read-only fields that show other state (the field maps of spec 02 to 20). -/

namespace Sys2Proof.Machine

/-- A word whose bit i is p i. -/
def bitsWord (p : Nat → Bool) : Word := BitVec.ofNat 32 ((List.range 32).map (fun i => (p i).toNat * 2 ^ i)).sum

/-- Word j of a record. -/
def Rec4.word (r : Rec4) (j : Nat) : Word := if j = 0 then r.w0 else if j = 1 then r.w1 else if j = 2 then r.w2 else r.w3

/-- EVT_CORE_STATUS: the last claimed number, the level presented, and whether the core waits. -/
def State.coreStatus (s : State) (c : Nat) : Word :=
  let w := setFld (s.rd .evtCoreStatus c) 31 16 0
  let w1 := match s.presented c with
    | some n => setBit (setFld w 19 16 (s.srcLevel n)) 20 true
    | none => w
  setBit w1 21 ((s.core c).run == .waiting && !(s.core c).wait.frozen)

/-- The register that holds a pool queue's sticky overrun bit, OVR at bit 16. -/
def queueStatus (q : Nat) : RegName × Nat := if q < 276 then (.evtQStatus, q) else (.audVeqStatus, q - 276)

/-- USED, FULL and OVR of a pool queue. -/
def State.queueWord (s : State) (q : Nat) : Word :=
  let w := s.rd (queueStatus q).1 (queueStatus q).2
  setBit (setFld w 14 0 (s.queue q).length) 15 (!s.canPush q)

/-- LP_STATUS of a core. -/
def Core.statusWord (k : Core) : Word :=
  BitVec.ofNat 32 (runCode k.run + waitCode k.wait * 8 + (if k.run = .halted then k.why else 0) * 256)

/-- LNK_Pp_STATUS with OVERLOAD (R271), and with FMT_MISMATCH and AUD_TRUNC (R268), which concern an Active port. -/
def State.portStatus (s : State) (p : Nat) : Word :=
  let w := setBit (s.rd .lnkPStatus p) 10 (s.loadAvail p < s.loadReq p)
  if s.portState p ≠ 5 then w
  else
    let refused (n : Nat) : Bool :=
      (s.carrierPorts n).contains p && !s.peerTakes p ((s.beam n).cf .cmpCtrl 2 1 n) ((s.beam n).cf .cmpCtrl 0 0 n == 1)
    setBit (setBit w 11 ((List.range 16).any refused)) 12 (s.linkChannels p < s.rf .lnkPAudio 5 0 p)

/-- The pending bit of a vector (R76, R331): deliverable sources that no message can carry now. -/
def State.vectorPending (s : State) (v : Nat) : Bool := !(s.vectorSrcs v).isEmpty && !s.canSend v

/-- Doorbell polling is active (R57, R58, R73). -/
def State.polling (s : State) : Bool := s.rb .hstCtrl 0 && s.mode != 4 && !s.hostLost

/-- A word of a core's memories, by byte address in its 128 KiB. -/
def State.tcmView (s : State) (c a : Nat) : Word := (s.core c).tcmWord a

/-- The word a read of a register shows. -/
def State.viewReg (s : State) (r : RegName) (i j k : Nat) : Word :=
  match r with
  | .tmrTbLo => BitVec.ofNat 32 s.now
  | .tmrTbHi => BitVec.ofNat 32 (s.now / 2 ^ 32)
  | .tmrTbCtrl => BitVec.ofNat 32 (s.tmr.slow.toNat * 2)
  | .tmrCapStatus => setFld (s.rd .tmrCapStatus i) 7 3 (s.capLogOf i).length
  | .tmrCapLog => if j = 0 then (s.capHead i).w0 else ((kvGet i s.tmr.capLatch).getD idleRec).word j
  | .evtQRec => if j = 0 then ((s.queue i).headD idleRec).w0 else ((kvGet i s.evt.latch).getD idleRec).word j
  | .evtQStatus => s.queueWord i
  | .audVeqStatus => s.queueWord (veqQueue i)
  | .evtPend => bitsWord (fun b => s.rb .evtSrcStatus 0 (32 * i + b))
  | .evtActive => bitsWord (fun b => s.rb .evtSrcStatus 1 (32 * i + b))
  | .evtCoreStatus => s.coreStatus i
  | .audFeedStatus =>
    let n := ((kvGet i s.aud.feeds).getD []).length
    setBit (setFld (s.rd .audFeedStatus i) 12 0 n) 13 (4096 ≤ n)
  | .objBinStatus => setFld (s.rd .objBinStatus) 15 0 s.oat.slots.length
  | .beamClkActual =>
    if (s.beam i).run = .running then
      BitVec.ofInt 32 (nearest ((s.beam i).clkNow i s.now + (s.beam i).genlock.pull) 65536)
    else 0
  | .lpStatus => (s.core i).statusWord
  | .lpPc => BitVec.ofNat 32 ((s.core i).pc.toNat % 2 ^ 16 / 4 * 4)
  | .lpXcause => (s.core i).xcause
  | .lpXaddr => (s.core i).xaddr
  | .lpDbgG => if (s.core i).run = .halted then (s.core i).gr j else 0
  | .lpDbgS => if (s.core i).run = .halted then (readSpecial i j (s.core i) s).1 else 0
  | .lpRaPos => s.raPos i
  | .lpRaHeld => BitVec.ofNat 32 (s.beam i).heldLines
  | .lpLsqStatus => BitVec.ofNat 32 ((s.beam i).queue.length + ((s.core i).wait == .lsw &&
      512 ≤ (s.beam i).queue.length + (s.beam i).crossing.length).toNat * 1024)
  | .lpItcm => s.tcmView i (4 * j)
  | .lpDtcm => s.tcmView i (0x10000 + 4 * j)
  | .lnkPStatus => s.portStatus i
  | .lnkPCredit =>
    if s.portState i ≠ 5 then 0
    else if s.rf .lnkPPeerDepth 15 0 i = 0 then 0x10000
    else BitVec.ofNat 32 (s.creditAvail i)
  | .lnkPLoad => BitVec.ofNat 32 (min (s.loadReq i) 0xFFFF + min (s.loadAvail i) 0xFFFF * 2 ^ 16)
  | .bistStatus => s.bistStatus
  | .sysScStatus => BitVec.ofNat 32 ((List.range 4).map (fun k => runCode (s.core (16 + k)).run * 8 ^ k)).sum
  | .gpioSet => s.rd .gpioOut i
  | .gpioClr => s.rd .gpioOut i
  | .dmaRun => bitsWord (fun b => (s.chan (32 * i + b)).active)
  | .dmaChStatus => setFld (s.rd .dmaChStatus i) 2 0 (s.dmaState i)
  | .hstStatus => setBit (setBit (s.rd .hstStatus) 0 s.polling) 1 s.hostLost
  | .hstPoll => setFld (s.rd .hstPoll) 25 16 (min (s.rf .hstPoll 25 16) s.pollCeiling)
  | .hstMsixPba => bitsWord (fun b => s.vectorPending (32 * i + b))
  | _ => s.rd r i j k &&& ~~~ BitVec.ofNat 32 (rowOf r).wo

/-- The word a read of an address shows; a reserved offset reads zero (R23). -/
def State.view (s : State) (a : Nat) : Word :=
  match regAt (canonAddr a) with
  | some (r, i, j, k) => s.viewReg r i j k
  | none => 0

/-- A census read (R43): the heads of queues and logs in place of the words a pop latched. -/
def State.censusView (s : State) (a : Nat) : Word :=
  match regAt (canonAddr a) with
  | some (.evtQRec, i, j, _) => ((s.queue i).headD idleRec).word j
  | some (.tmrCapLog, i, j, _) => (s.capHead i).word j
  | _ => s.view a

end Sys2Proof.Machine
end

