-- ==== Sys2Proof/Machine/Census.lean ====
section
/-! DEFINITION. The census (spec 02 R41 to R45): its records, group cuts, holds of hand-overs, and endings. -/

namespace Sys2Proof.Machine

/-- SYS_CEN_STATUS.STATE: 0 Idle, 1 Waiting, 2 Streaming, 3 Done, 4 Overflow, 5 Aborted. -/
def State.cenState (s : State) : Nat := s.rf .sysCenStatus 2 0

/-- Bytes padded with zeros to a multiple of 32. -/
def pad32 (bs : List Byte) : List Byte := padTo (ceilDiv bs.length 32 * 32) bs

/-- The header fields of a census record that vary. -/
structure CenHead where
  type : Nat
  flags : Nat := 0
  group : Nat := 0xFF
  stamp : Word64 := 0
  epoch : Word := 0
  beam : Nat := 0xFF
  line : Nat := 0
  addr : Nat := 0

/-- A census record before padding: 32 header bytes and the payload. -/
def CenHead.record (h : CenHead) (payload : List Byte) : List Byte :=
  bytesLE 2 h.type ++ [BitVec.ofNat 8 (1 + h.flags), BitVec.ofNat 8 h.group] ++ bytesLE 4 payload.length ++
    bytesLE 8 h.stamp.toNat ++ bytesLE 4 h.epoch.toNat ++ [BitVec.ofNat 8 h.beam, 0] ++ bytesLE 2 h.line ++
    bytesLE 8 h.addr ++ payload

/-- The bytes of a word list. -/
def wordBytes (ws : List Word) : List Byte := ws.flatMap (fun w => bytesLE 4 w.toNat)

/-- A list in pieces of n. -/
def pieces {α : Type} (n : Nat) (l : List α) : List (List α) :=
  (List.range (ceilDiv l.length n)).map (fun i => (l.drop (i * n)).take n)

/-! The group cut (R42). -/

/-- The committed word at an address of group g: of the member that owns it, or of the Transform Table. -/
def State.committed (s : State) (g a : Nat) : Word :=
  match ttIndex a with
  | some _ => rfGet s.oat.tt a
  | none => match oatIndex a with
    | some i => match (s.members g).find? (fun n => oatBeam (s.beam n).live i == n) with
      | some n => rfGet (s.beam n).live a
      | none => rfGet (s.grp g).image a
    | none => match ownerBeam a with
      | some n => rfGet (s.beam n).live a
      | none => 0

/-- The committed image covers an OAT or Transform Table entry of group g. -/
def State.oatIn (s : State) (g i : Nat) : Bool := (s.members g).any (fun n => oatBeam (s.beam n).live i == n)
def State.ttIn (s : State) (g t : Nat) : Bool := ttGroup s.oat.tt t == g

/-- The areas of the committed image as (address, words), ascending: the beam blocks, colour tables and palettes of each
member, the route entries, and the entries of both tables. -/
def State.imageAreas (s : State) (g : Nat) : List (Nat × Nat) :=
  let ms := s.members g
  ms.map (fun n => (0xA0100 + 4 * n, 1)) ++
    ms.flatMap (fun n => [(beamBase n, 5 * 16384), (beamBase n + 0x60000, 4 * 16384)]) ++
    ((List.range 131072).filter (s.oatIn g)).map (fun i => (0x2000000 + 32 * i, 8)) ++
    ((List.range 8192).filter (s.ttIn g)).map (fun t => (0x3000000 + 32 * t, 8))

/-- The table word that holds an address of an image. -/
def tableKeyOf (a : Nat) : Option Nat :=
  match oatIndex a with
  | some i => some (oatKey i)
  | none => match ttIndex a with
    | some t => some (ttKey t)
    | none => match beamOf a with
      | some n =>
        let o := a - beamBase n
        if 0x80000 ≤ o ∧ o < 0xA0000 then some (palKey n ((o - 0x80000) / 8))
        else if 0x60000 ≤ o ∧ o < 0x78000 then some (lutKey n (o - 0x60000))
        else none
      | none => none

/-- What a census read of a table word finds over the right bits (R106): a word that can be corrected is delivered as
corrected, any other as it is stored. -/
def Tables.raw (t : Tables) (key : Nat) : List (Nat × Byte) :=
  let e := (kvGet key t.err).getD []
  if t.poison.contains key || rsDecode 36 e == .uncorrectable then
    (e.filter (fun p => p.1 < 32)).foldl addErr ((kvGet key t.off).getD [])
  else t.wrong key

/-- A word of a table word with such bits over it. -/
def overWord (e : List (Nat × Byte)) (off : Nat) (w : Word) : Word :=
  BitVec.ofNat 32 (leNat (overlay (bytesLE 4 w.toNat) (e.filterMap (fun p =>
    if off ≤ p.1 ∧ p.1 < off + 4 then some (p.1 - off, p.2) else none))))

/-- A census read of a table word leaves counters, STATUS, VALID and events as they are (R43). A word that it cannot correct is
delivered as stored, with its address in the log; a corrected one is rewritten in place (R106; log entry 103). -/
def State.readQuiet (s : State) (key : Nat) : State :=
  let e := (kvGet key s.tbl.err).getD []
  if s.tbl.poison.contains key || rsDecode 36 e == .uncorrectable then
    let h := s.rd .sysPsTblLogHi
    (s.wr .sysPsTblLogLo (BitVec.ofNat 32 (key % 2 ^ 26 * 64))).wr .sysPsTblLogHi
      ((h &&& 0x80030000) ||| BitVec.ofNat 32 (key / 2 ^ 32 * 16 + tableBeam key * 256))
  else match rsDecode 36 e with
    | .fixed c => s.keepOff key (c.foldl addErr e)
    | _ => if e = [] then s else s.keepOff key e

/-- The word of the committed image at an address; a register that is not shadowed shows its current word. -/
def State.imageWord (s : State) (g a : Nat) : Word :=
  if shadowed a then
    match tableKeyOf a with
    | some key => overWord (s.tbl.raw key) (a % 32) (s.committed g a)
    | none => s.committed g a
  else s.censusView a

/-- The census reads the table words of group g's image. -/
def State.readImage (s : State) (g : Nat) : State :=
  let areas := s.imageAreas g
  ((s.tbl.err.map (·.1)) ++ s.tbl.poison).eraseDups.foldl (fun s key => match tableAddr key with
    | some a => if areas.any (fun x => x.1 ≤ a && a < x.1 + 4 * x.2) then s.readQuiet key else s
    | none => s) s

/-- The SHADOW records: one for each group of 32 words with a shadow word that differs from the committed one. -/
def State.shadowRecords (s : State) (g : Nat) (h : CenHead) : List CenItem :=
  let ms := s.members g
  let keys := s.regs.map (·.1) ++ ms.flatMap (fun n => (s.beam n).live.map (·.1)) ++ (s.grp g).image.map (·.1)
  let diff := keys.filter (fun a => inSnapshot s.regs g ms a && s.getW a != s.committed g a)
  (diff.foldl (fun l a => setAdd (a / 128) l) []).map (fun q =>
    let bits := (List.range 32).filter (fun j => diff.contains (128 * q + 4 * j))
    .record (({ h with type := 2, addr := 128 * q }).record
      (bytesLE 4 (bits.map (2 ^ ·)).sum ++ wordBytes (bits.map (fun j => s.getW (128 * q + 4 * j))))))

/-- The IMAGE records: up to 1,024 words of an area each. -/
def State.imageRecords (s : State) (g : Nat) (h : CenHead) : List CenItem :=
  (s.imageAreas g).flatMap (fun a =>
    (List.range (ceilDiv a.2 1024)).map (fun i =>
      let at_ := a.1 + 4096 * i
      .record (({ h with type := 3, addr := at_ }).record
        (wordBytes ((List.range (min 1024 (a.2 - 1024 * i))).map (fun j => s.imageWord g (at_ + 4 * j)))))))

/-- The (address, value) pairs of a LINE_STATE: line-scheduled words whose effective value differs from the committed
one. -/
def State.linePairs (s : State) (g n : Nat) : List (Nat × Word) :=
  let b := s.beam n
  match b.last with
  | none => []
  | some e =>
    let keys := (e.ver.eff ++ b.lastLive ++ b.live).foldl (fun l x => setAdd x.1 l) []
    (keys.filter (fun a => (lsTarget a).isSome && beamOf a == some n &&
      effAt b.lastLive e.ver.eff a != s.committed g a)).map (fun a => (a, effAt b.lastLive e.ver.eff a))

/-- The LINE_STATE records of member n: up to 512 pairs each. -/
def State.lineRecords (s : State) (g n : Nat) (h : CenHead) : List CenItem :=
  let b := s.beam n
  let ps := s.linePairs g n
  let h1 : CenHead := match b.last with
    | some e => { h with
        type := 4, flags := e.lc.toNat * 8, beam := n, line := e.line, epoch := e.ver.epoch, stamp := b.lastStamp }
    | none => { h with type := 4, beam := n, epoch := s.rd .sysBeamEpoch n }
  let one (l : List (Nat × Word)) : CenItem :=
    .record (CenHead.record { h1 with addr := (l.head?.map (fun p : Nat × Word => p.1)).getD (beamBase n) }
      (l.flatMap (fun p : Nat × Word => bytesLE 4 p.1 ++ bytesLE 4 p.2.toNat)))
  if ps.isEmpty then [one []] else (pieces 512 ps).map one

/-- The records of group g's section, as cut now. -/
def State.groupSection (s : State) (g : Nat) (stamp : Word64) : List CenItem :=
  let ms := s.members g
  let h : CenHead := { type := 1, group := g, stamp, epoch := s.rd .sysCgEpoch g }
  let mask := (ms.map (2 ^ ·)).sum
  [.record (h.record (bytesLE 2 mask ++ [0, 0] ++ wordBytes (ms.map (fun n => s.rd .sysBeamEpoch n))))] ++
    s.shadowRecords g h ++ s.imageRecords g h ++ ms.flatMap (fun n => s.lineRecords g n h) ++
    [.endGroup g (({ h with type := 5 }).record [])]

/-! Streaming. -/

/-- The clock domain whose replica stamps a part of a register block: a port's registers lie in the port's island. -/
def blockDomain (a : Nat) : Nat :=
  if 0xA1000 ≤ a ∧ a < 0xA1800 then domPort ((a - 0xA1000) / 0x100)
  else [3, 2, 3, 3, 38, 35, 3, 37, 36, 30, 3].getD (a / 0x10000) 3

/-- The records of the non-beam register blocks (R20, R41): 1,024 words each, but one for each port's registers, and the SYS
registers of the census control window (R46) last. -/
def blockPlan : List CenItem :=
  (List.range 176).flatMap (fun i =>
    if i = 0xA1 then (List.range 8).map (fun p => .block (0xA1000 + 0x100 * p) 64) ++ [.block 0xA1800 512]
    else [.block (4096 * i) 1024]) ++
  (List.range 256).map (fun i => .block (0x3100000 + 4096 * i) 1024)

/-- What a census over a scope writes (R41). -/
def cenPlan (scope : Word) : List CenItem :=
  ((List.range 16).filter (bit scope)).map .group ++
    (if bit scope 16 then blockPlan else []) ++
    (if bit scope 17 then (List.range 16).flatMap (fun n => (List.range 32).map (fun i => .mem n (4096 * i) 1024)) else []) ++
    [.done]

/-- A census record's bytes are written at an offset of the buffer. DESIGN CHOICE (log 110): SYS_CEN_BASE and SYS_CEN_SIZE
are read at each record; only SCOPE is taken at the start. -/
def State.cenWrite (s : State) (at_ : Nat) (bs : List Byte) : State :=
  s.putData (s.addr64 .sysCenBaseLo .sysCenBaseHi + at_) bs

/-- The census ends in a state, with its event; holds are released (R42, R45). -/
def State.cenEnd (s : State) (st : Nat) : State :=
  let g := s.rf .sysCenStatus 7 4
  let held := s.rb .sysCenStatus 8
  let s1 := ((s.wf .sysCenStatus 2 0 st).wb .sysCenStatus 8 false)
  let s2 := { s1 with census := { s1.census with todo := [], abort := false } }
  (if held then s2.releaseHeld g else s2).raise 321 domCentral

/-- The FLAGS byte of the last record is rewritten with more flags set. -/
def State.cenFlags (s : State) (more : Nat) : State :=
  match s.census.lastAt with
  | none => s
  | some a => s.cenWrite (a + 2) [BitVec.ofNat 8 (s.census.lastFlags ||| more)]

/-- Streaming is not stopped by the ledger: outside group sections it stops in Scarce, but not in Recovery (R44). -/
def State.cenMay (s : State) : Bool := !s.scarce || s.runMode == 6

/-- The census reaches a group: further hand-overs of it are held (R42). -/
def State.cenReach (s : State) : State :=
  match s.census.todo with
  | .group g :: _ =>
    if s.cenState = 2 && s.cenMay then (s.wf .sysCenStatus 7 4 g).wb .sysCenStatus 8 true else s
  | _ => s

/-- A census begins streaming (R41, R45). -/
def State.cenBegin (s : State) : State :=
  let s1 := (s.wf .sysCenStatus 2 0 2).wr .sysCenBytes 0
  if s.rf .sysCenSize 19 0 = 0 then s1.cenEnd 4
  else State.cenReach { s1 with census := { todo := cenPlan (s.rd .sysCenScope) } }

/-- START (R41): held in Sleep and from the beginning of its entry (R383). -/
def cenStart (s : State) : State :=
  if s.mode = 0 ∨ s.cenState = 1 ∨ s.cenState = 2 then s.reject (addrOf .sysCenCtrl 0 0 0)
  else if s.asleep then { s.wf .sysCenStatus 2 0 1 with census := {} }
  else s.cenBegin

/-- Every member has adopted the newest epoch handed over (R42). A beam that CG_MAP has moved into the group since then is no
member of that hand-over: the cut does not wait for it, and lists it with the epoch and image it has (log entry 104). -/
def State.cenAdopted (s : State) (g : Nat) : Bool := (s.grp g).commits.isEmpty

/-- The cut of the group that the census has reached. -/
def cenCut (s : State) : State :=
  let s1 := s.cenReach
  match s1.census.todo with
  | .group g :: t =>
    if s1.cenState = 2 && s1.rb .sysCenStatus 8 && s1.cenAdopted g then
      let (v, s2) := s1.stamp domCentral
      State.readImage { s2 with census := { s2.census with todo := s2.groupSection g v ++ t } } g
    else s1
  | _ => s1

/-- A part of a core's memories as the census reads it (R106), and the reads done. -/
def State.cenMem (s : State) (c a words : Nat) : List Word × State :=
  ((List.range words).map (fun i =>
    overWord (s.tbl.raw (tcmKey c (a + 4 * i))) ((a + 4 * i) % 32) (s.tcmView c (a + 4 * i))),
   (List.range (words / 8)).foldl (fun s i => s.readQuiet (tcmKey c (a + 32 * i))) s)

/-- The bytes of the next record, if the census is at one. -/
def State.cenNext (s : State) : Option (List Byte × State) :=
  match s.census.todo with
  | .record bs :: _ => some (bs, s)
  | .endGroup _ bs :: _ => some (bs, s)
  | .block a n :: _ =>
    if !s.cenMay then none
    else
      let s0 := if a / 0x10000 = 4 then (s.refreshPads 0).refreshPads 1 else s
      let (v, s1) := s0.stamp (blockDomain a)
      some (({ type := 0x10, stamp := v, addr := a : CenHead }).record
        (wordBytes ((List.range n).map (fun i => s1.censusView (a + 4 * i)))), s1)
  | .mem c a n :: _ =>
    if !s.cenMay then none
    else
      let (v, s1) := s.stamp domSteward
      let (ws, s2) := s1.cenMem c a n
      some (({ type := 0x11, stamp := v, beam := c, addr := beamBase c + 0xC0000 + a : CenHead }).record (wordBytes ws), s2)
  | .done :: _ =>
    if !s.cenMay then none
    else
      let (v, s1) := s.stamp domCentral
      some (({ type := 0xFF, flags := 2, stamp := v : CenHead }).record (bytesLE 8 (s.census.bytes + 64)), s1)
  | _ => none

/-- The record's header byte FLAGS and LENGTH changed, for a record cut short. -/
def cutShort (bs : List Byte) (room : Nat) : List Byte :=
  let n := (room - 32) / 4 * 4
  let flags := (bs.getD 2 0).toNat ||| 6
  (putBytes (putBytes bs 2 [BitVec.ofNat 8 flags]) 4 (bytesLE 4 n)).take (32 + n)

/-- A record is written, whole, cut short or not at all (R45), and the census goes on or ends. DESIGN CHOICE (log 110): a
CENSUS_END that finds exactly the 32 bytes of its header free is cut short to it, as any other record is. -/
def cenRecord (s : State) : State :=
  if s.cenState ≠ 2 then s
  else match s.cenNext with
    | none => s
    | some (bs, s1) =>
      let at_ := s1.census.bytes
      let room := s1.rf .sysCenSize 19 0 * 4096 - at_
      if room < 32 then (s1.cenFlags 6).cenEnd 4
      else if room < bs.length then
        let cut := cutShort bs room
        let n := at_ + ceilDiv cut.length 32 * 32
        ((s1.cenWrite at_ (pad32 cut)).wr .sysCenBytes (BitVec.ofNat 32 (n / 32))).cenEnd 4
      else
        let n := at_ + ceilDiv bs.length 32 * 32
        let s2 := (s1.cenWrite at_ (pad32 bs)).wr .sysCenBytes (BitVec.ofNat 32 (n / 32))
        let s3 := { s2 with census := { s2.census with
          todo := s2.census.todo.tail, bytes := n, lastAt := some at_, lastFlags := (bs.getD 2 0).toNat } }
        let s4 := match s1.census.todo with
          | .endGroup g _ :: _ => (s3.wb .sysCenStatus 8 false).releaseHeld g
          | _ => s3
        if s4.census.todo.isEmpty then s4.cenEnd 3
        else if s4.census.abort then (s4.cenFlags 2).cenEnd 5
        else s4.cenReach

/-- ABORT (R41): the record being written is finished and is the last; while none is being written, because the census
waits at a group or the ledger holds it, it ends at once. -/
def cenAbort (s : State) : State :=
  if s.cenState = 1 then s.cenEnd 5
  else if s.cenState = 2 then
    if s.cenNext.isNone then (s.cenFlags 2).cenEnd 5
    else cenRecord { s with census := { s.census with abort := true } }
  else s

/-- A write of SYS_CEN_CTRL: START, then ABORT. -/
def cenCtrlWrite (w : Word) (s : State) : State :=
  let s1 := if bit w 0 then cenStart s else s
  if bit w 1 then cenAbort s1 else s1

/-- Sleep entry pauses a streaming census, and its end resumes it or begins one held since its START (R41). -/
def State.cenPause (s : State) : State := if s.cenState = 2 then s.wf .sysCenStatus 2 0 1 else s
def State.cenResume (s : State) : State :=
  if s.cenState ≠ 1 then s
  else if s.census.todo.isEmpty then s.cenBegin else (s.wf .sysCenStatus 2 0 2).cenReach

/-- CENSUS_START (R41). -/
def execCensusStart (s : State) : Host.Outcome State Fault Refusal := .next (cenStart s)

/-- CENSUS_ABORT (R41). -/
def execCensusAbort (s : State) : Host.Outcome State Fault Refusal := .next (cenAbort s)

/-- CENSUS_GROUP_CUT (R42). -/
def execCensusGroupCut (s : State) : Host.Outcome State Fault Refusal := .next (cenCut s)

/-- CENSUS_RECORD_WRITTEN (R45). -/
def execCensusRecordWritten (s : State) : Host.Outcome State Fault Refusal := .next (cenRecord s)

end Sys2Proof.Machine
end

