-- ==== Sys2Proof/Machine/Power.lean ====
section
/-! DEFINITION. The power ledger, rails and margin plans, the Almanac and its log, and PMBus (spec 18 R358 to R379). -/

namespace Sys2Proof.Machine

/-! The Almanac log (R377). -/

/-- The 64 bytes of a record as it is programmed. -/
def logBytes (type : Nat) (payload : List Byte) (stamp : Word64) (fuse : Bool) (seq : Nat) (hours : Word) : List Byte :=
  let body := [BitVec.ofNat 8 type, BitVec.ofNat 8 fuse.toNat, 0, 0] ++ bytesLE 4 seq ++ bytesLE 8 stamp.toNat ++
    bytesLE 4 hours.toNat ++ padTo 40 payload
  body ++ bytesLE 4 (crc32c body)

/-- FLASH and FUSE counts of ALM_LOG_STATUS. -/
def State.showLog (s : State) : State :=
  ((s.wf .almLogStatus 13 1 ((s.pwr.flash.filter (·.isSome)).length)).wf .almLogStatus 24 14 s.pwr.fuses.length).wb
    .almLogStatus 25 (1024 ≤ s.pwr.fuses.length)

/-- The flash array with one more record: a write into the block of the oldest records erases it first. -/
def Pwr.program (w : Pwr) (r : Option (List Byte)) : Pwr :=
  let kept := if w.flashAt % 64 = 0 ∧ 4096 ≤ w.flash.length + 64 then w.flash.drop (w.flash.length + 64 - 4096) else w.flash
  { w with flash := kept ++ [r], flashAt := (w.flashAt + 1) % 4096 }

/-- An operation of the log begins: the array is free. -/
def State.logBegin (s : State) (op : LogOp) : State :=
  State.wb { s with pwr := { s.pwr with op := some op } } .almLogStatus 0 true

/-- Hardware logs a record: at once, queued behind at most seven others, or lost. -/
def State.hwLog (s : State) (type : Nat) (payload : List Byte) (fuse : Bool) : State :=
  let (v, s1) := s.stamp domCentral
  let op := LogOp.write type payload v fuse
  if s1.pwr.op.isNone then s1.logBegin op
  else if s1.pwr.queue.length < 8 then { s1 with pwr := { s1.pwr with queue := s1.pwr.queue ++ [op] } }
  else s1.wb .almLogStatus 26 true

/-- A record is programmed into flash, and into the fuse array while it has room. -/
def State.logWrite (s : State) (type : Nat) (payload : List Byte) (stamp : Word64) (fuse : Bool) : State :=
  let f := fuse && s.pwr.fuses.length < 1024
  let r := logBytes type payload stamp f s.pwr.seq (s.rd .almHours)
  let w := s.pwr.program (some r)
  State.showLog { s with pwr := { w with seq := (w.seq + 1) % 2 ^ 32, fuses := if f then w.fuses ++ [r] else w.fuses } }

/-- Sixteen words of a record in ALM_LOG_DATA; a record that is not there leaves them open. -/
def State.logShow (s : State) (r : Option (List Byte)) : State :=
  (List.range 16).foldl (fun s k =>
    match r with
    | some bs => s.wr .almLogData (BitVec.ofNat 32 (descField bs (4 * k) 4)) k
    | none =>
      let (w, s1) := s.freshWord
      s1.wr .almLogData w k) s

/-- The record that ALM_LOG_IDX names. -/
def State.logRecord (s : State) : Option (List Byte) :=
  let i := s.rf .almLogIdx 11 0
  if s.rb .almLogIdx 12 then s.pwr.fuses[i]?
  else (s.pwr.flash.filterMap id).reverse[i]?

/-- The log operation under way ends, and a hardware record that waits is programmed next. -/
def logOpDone (s : State) : State :=
  match s.pwr.op with
  | none => s
  | some op =>
    let s1 := { s with pwr := { s.pwr with op := none } }.wb .almLogStatus 0 false
    let s2 := match op with
      | .write t p v f => s1.logWrite t p v f
      | .read => s1.logShow s1.logRecord
    match s2.pwr.queue with
    | [] => s2
    | x :: t => State.logBegin { s2 with pwr := { s2.pwr with queue := t } } x

/-- ALM_LOG_CTRL.OP: 1 and 2 write the staged record, 3 reads one. One that meets an operation under way, or a TYPE below
0x80, does not take effect. -/
def logOp (op : Nat) (s : State) : State :=
  if op = 0 then s
  else if s.pwr.op.isSome then s.reject (addrOf .almLogCtrl 0 0 0)
  else if op = 3 then s.logBegin .read
  else
    let bs := (List.range 16).flatMap (fun k => bytesLE 4 (s.rd .almLogData k).toNat)
    if descField bs 0 1 < 0x80 then s.reject (addrOf .almLogCtrl 0 0 0)
    else
      let (v, s1) := s.stamp domCentral
      s1.logBegin (.write (descField bs 0 1) ((bs.drop 20).take 40) v (op = 2))

/-! The ledger (R360 to R365). -/

/-- A beam's ladder target (R365). -/
def State.ladderTarget (s : State) (n : Nat) : Nat :=
  let low := match s.rf .pwrStatus 1 0 with
    | 1 => s.rf .pwrBeamMin 3 0 n
    | 2 => s.rf .pwrBeamMin 7 4 n
    | _ => 0
  max (max (s.rf .pwrBeamTgt 3 0 n) low) (if s.rb .pwrStatus 9 then 8 else 0)

/-- A ladder target is brought up to date; the one before is kept for a Calends of the same ns (R365, log entry 117). -/
def State.retarget (s : State) (n : Nat) : State :=
  let b := s.beam n
  let was := s.rf .cmpLadderStatus 7 4 n
  let tgtWas := match b.tgtWas with
    | some (t, v) => if t = s.now then some (t, v) else some (s.now, was)
    | none => some (s.now, was)
  if was = s.ladderTarget n then s
  else (s.setBeam n { b with tgtWas }).wf .cmpLadderStatus 7 4 (s.ladderTarget n) n

/-- Ladder targets are brought up to date. -/
def State.ladderTargets (s : State) : State := (List.range 16).foldl State.retarget s

/-- The effective state (R360, R362), with LEDGER_CHANGE, and the ladder targets that follow it. -/
def State.ledgerSettle (s : State) : State :=
  let e := if s.rb .pwrStatus 9 then 2
    else max (s.rf .pwrStatus 3 2) (max (s.rf .pwrStatus 5 4) (s.rf .pwrStatus 7 6))
  let s1 := if e = s.rf .pwrStatus 1 0 then s else (s.wf .pwrStatus 1 0 e).raise 736 domCentral
  s1.ladderTargets

/-- A floor from its previous value and a reading (R361). -/
def ledgerFloor (p : Nat) (t lean scarce hyst : Int) : Nat :=
  if scarce ≤ t then 2
  else if p = 2 ∧ scarce - hyst ≤ t then 2
  else if lean ≤ t then 1
  else if (p = 1 ∨ p = 2) ∧ lean - hyst ≤ t then 1
  else 0

/-- Both floors at the end of a window. -/
def State.floors (s : State) : State :=
  let cap (hi lo : Nat) : Int := (s.rf .pwrCap hi lo * 1000 : Nat)
  let therm (hi lo : Nat) : Int := (s.rf .pwrTherm hi lo * 16 : Nat)
  let p := ledgerFloor (s.rf .pwrStatus 5 4) (s.rf .pwrTotal 17 0 : Nat) (cap 7 0) (cap 15 8) (cap 23 16)
  let t := ledgerFloor (s.rf .pwrStatus 7 6) (sx 16 (s.rf .pwrTmax 15 0)) (therm 7 0) (therm 15 8) (therm 23 16)
  (s.wf .pwrStatus 5 4 p).wf .pwrStatus 7 6 t

/-- A plan is put into force for a group. -/
def State.setPlan (s : State) (g : Nat) (w : List Word) (leap : Bool) : State :=
  ((List.range 6).foldl (fun s k => s.wr .pwrLive (w.getD k 0) g k) s).wb .pwrRailStatus 12 leap g

/-- The fused corner plan of a group: of this group, with BAND 3 (R372). -/
def cornerPlan (g : Nat) : List Word :=
  (List.range 6).map (fun k =>
    let w := Config.fused (addrOf .pwrLive g k 0) &&& BitVec.ofNat 32
      (if k = 0 then 0xFFFFFFFF else if k = 1 then 0xFFFF03F0 else 0x03FF03FF)
    if k = 1 then setFld w 3 0 (g + 12) else w)

/-- The band of a group lies above its plan's, and the table has no entry for the pair (R372). -/
def State.planStale (s : State) (g : Nat) : Bool :=
  let m := planBand (s.livePlan g)
  let a := s.rf .pwrRailStatus 11 10 g
  m < a && s.droopEntry g m a == 255

/-- PWR_PLAN_STATUS. -/
def State.planResult (s : State) (state result : Nat) : State :=
  s.wr .pwrPlanStatus (BitVec.ofNat 32 (state + result * 4))

/-- The corner plan replaces a plan with BAND m and an ID (R372); a verification of the group ends with RESULT 5. -/
def State.fallBack (s : State) (g m id : Nat) : State :=
  let a := s.rf .pwrRailStatus 11 10 g
  let s1 := ((s.setPlan g (cornerPlan g) false).wb .pwrRailStatus 13 true g).raise 741 domCentral
  let s2 := s1.hwLog 2 ([BitVec.ofNat 8 g, BitVec.ofNat 8 m, BitVec.ofNat 8 a] ++ bytesLE 4 id) false
  match s2.pwr.verify with
  | some (v, _, _) => if v = g then { s2 with pwr := { s2.pwr with verify := none } }.planResult 2 5 else s2
  | none => s2

/-- Rating of a group in mW (R370). -/
def railRating (g : Nat) : Nat := [24000, 24000, 14000, 10000].getD g 10000

/-- The load band of a group at the end of a window (R370, R372). -/
def State.bandStep (s : State) (g : Nat) : State :=
  let p := (((List.range 38).filter (fun i => islandGroup i == g)).map (fun i => s.rf .pwrIsl 15 0 i)).sum
  let m := min 3 (4 * p / railRating g)
  let b := s.rf .pwrRailStatus 11 10 g
  let r := s.rail g
  if b < m then
    let s1 := (s.setRail g { r with lowRun := 0 }).wf .pwrRailStatus 11 10 m g
    if s1.planStale g then
      s1.fallBack g (planBand (s1.livePlan g)) ((s1.livePlan g).getD 0 0).toNat
    else s1
  else if m < b then
    let k := if r.low = m then r.lowRun + 1 else 1
    if k < 10 then s.setRail g { r with low := m, lowRun := k }
    else (s.setRail g { r with lowRun := 0 }).wf .pwrRailStatus 11 10 m g
  else s.setRail g { r with lowRun := 0 }

/-- A ledger window ends with the estimators' mean powers in mW, and the next begins (R358, R361, R370). -/
def windowEnd (mw : List (BitVec 16)) (s : State) : State :=
  let s0 := { s with pwr := { s.pwr with windowAt := s.now } }
  let s1 := (List.range 38).foldl (fun s i => s.wr .pwrIsl (BitVec.ofNat 32 (mw.getD i 0).toNat) i) s0
  let total := ((List.range 38).map (fun i => (mw.getD i 0).toNat)).sum
  let s2 := (s1.wr .pwrTotal (BitVec.ofNat 32 (min total (2 ^ 18 - 1)))).floors
  ((List.range 4).foldl (fun s g => s.bandStep g) s2).ledgerSettle.railsSettle

/-- The hottest sensor and its reading. -/
def hottest (t : List Int) : Nat × Int :=
  t.zipIdx.foldl (fun m x => if m.2 < x.1 then (x.2, x.1) else m) (0, t.getD 0 0)

/-- The sensors are read, in units of 1/16 °C; the thermal trip acts on them (R359, R362). -/
def tempsRead (t : List (BitVec 16)) (s : State) : State :=
  let v := (List.range 48).map (fun i => (t.getD i 0).toInt)
  let s1 := (List.range 48).foldl (fun s i => s.wr .pwrTs (BitVec.ofNat 32 (t.getD i 0).toNat) i) s
  let (k, m) := hottest v
  let s2 := s1.wr .pwrTmax (BitVec.ofNat 32 (toTwos 16 m + k * 65536))
  let trip := s2.rb .pwrStatus 9
  if !trip && 112 * 16 ≤ m then
    let s3 := (((s2.wb .pwrStatus 9 true).wb .pwrStatus 10 true).raise 738 domCentral).hwLog 3
      ([BitVec.ofNat 8 k] ++ bytesLE 2 (toTwos 16 m)) false
    (s3.emit (.thermN true)).ledgerSettle
  else if trip && m ≤ 105 * 16 then ((s2.wb .pwrStatus 9 false).emit (.thermN false)).ledgerSettle
  else s2

/-- A period of the ledger watchdog begins (R363). -/
def State.watchBegin (s : State) : State :=
  { s with pwr := { s.pwr with watch := some (s.now, s.rf .pwrCfg 23 16) } }

/-- A steward write of PWR_LEDGER (R363). One with the reserved state or a reserved bit is rejected under R5 and is a
heartbeat all the same: it begins a period, and leaves the state and STALE (DEDUCED, log entry 118). -/
def ledgerWrite (w : Word) (s : State) : State :=
  if !wordOk .pwrLedger 0 w then (s.reject (addrOf .pwrLedger 0 0 0)).watchBegin
  else
    let s1 := ((s.wr .pwrLedger w).wf .pwrStatus 3 2 (fld w 1 0)).wb .pwrStatus 8 false
    s1.watchBegin.ledgerSettle

/-- The watchdog's period has passed without a write (R363). -/
def ledgerStale (s : State) : State :=
  match s.pwr.watch with
  | none => s
  | some (t, ms) =>
    if !s.passed t (ms * 1000000) then s
    else
      let s1 := { s with pwr := { s.pwr with watch := none } }
      let s2 := if s1.rf .pwrStatus 3 2 = 0 then s1.wf .pwrStatus 3 2 1 else s1
      ((s2.wb .pwrStatus 8 true).raise 737 domCentral).ledgerSettle

/-! Rails and plans (R367, R373, R374). -/

/-- AVS_FAULT of group g, with its event and its record (R367). -/
def State.avsFault (s : State) (g : Nat) : State :=
  let s1 := (s.setRail g { s.rail g with fails := 0, faulted := true }).wb .pwrRailStatus 14 true g
  (s1.raise 743 domCentral).hwLog 5 [BitVec.ofNat 8 g] false

/-- An AVSBus transaction of group g ends (R367): Status is read after a voltage write, and again until VDone; one that
fails is issued again, and the third failure in a row is a fault. -/
def avsResponse (g : Nat) (reply : AvsReply) (s : State) : State :=
  let r := s.rail g
  let s1 := s.setRail g { r with fails := 0, faulted := false }
  match reply with
  | .ack => if r.ready || r.reading then s1 else (s1.setRail g { s1.rail g with reading := true }).avsIssue g
  | .status d => if r.ready || !r.reading then s1 else if d then s1.railDone g else s1.avsIssue g
  | .volts mv => s1.wr .pwrRailRead (BitVec.ofNat 32 mv.toNat) g
  | .failed =>
    if r.faulted then s
    else if r.fails < 2 then (s.setRail g { r with fails := r.fails + 1 }).avsIssue g
    else s.avsFault g

/-- A faulted transaction is tried again (R367). -/
def avsRetry (g : Nat) (s : State) : State := if (s.rail g).faulted then s.avsIssue g else s

/-- The staged plan. -/
def State.stagedPlan (s : State) : List Word :=
  [s.rd .pwrPlanW0, s.rd .pwrPlanW1] ++ (List.range 4).map (fun k => s.rd .pwrPlanW k)

/-- The first Leap check from 1 to 4 that a plan fails, or 0 (R373). -/
def State.leapCheck (s : State) (g : Nat) (w : List Word) : Nat :=
  let live := s.livePlan g
  let v (k : Nat) : Nat := planV w k + planGuard w
  if (w.getD 0 0).toNat ≤ (live.getD 0 0).toNat then 1
  else if !(List.range 8).all (fun k => inR 650 850 (v k)) then 2
  else if !(List.range 7).all (fun k => planV w k ≤ planV w (k + 1)) then 3
  else if (List.range 8).any (fun k => v k + 60 < planV (cornerPlan g) k) then 4
  else 0

/-- LEAP (R373): the staged plan is checked and installed for verification. -/
def leap (s : State) : State :=
  if s.pwr.verify.isSome then s.reject (addrOf .pwrPlanCtrl 0 0 0)
  else
    let w := s.stagedPlan
    let g := fld (w.getD 1 0) 1 0
    let r := s.leapCheck g w
    if r ≠ 0 then s.planResult 2 r
    else
      let a := s.rf .pwrRailStatus 11 10 g
      if planBand w < a ∧ s.droopEntry g (planBand w) a = 255 then
        ((s.fallBack g (planBand w) (w.getD 0 0).toNat).planResult 2 5).railsSettle
      else
        let old := (g, s.livePlan g, s.rb .pwrRailStatus 12 g)
        ((State.setPlan { s with pwr := { s.pwr with verify := some old, verifyAt := s.now } } g w true).planResult 1 0).railsSettle

/-- Verification ends after CHECK_MS (R374) with the rise of the group's TED counts and its least CPR slack in ps. -/
def leapEnd (rise : Nat) (slack : Int) (s : State) : State :=
  match s.pwr.verify with
  | none => s
  | some (g, old, kind) =>
    if !s.passed s.pwr.verifyAt (s.rf .almLeap 9 0 * 1000000) then s else
    let w := s.livePlan g
    let bad := s.rf .almLeap 17 10 < rise || slack < (s.rf .almLeap 25 18 : Nat)
    let s1 := { s with pwr := { s.pwr with verify := none } }
    let s2 := if bad then ((s1.setPlan g old kind).planResult 2 6).raise 740 domCentral
      else (s1.planResult 2 0).raise 739 domCentral
    (s2.hwLog 1 (wordBytes w ++ [if bad then 6 else 0]) (!bad)).railsSettle

/-! Almanac samples and PMBus (R376, R379). -/

/-- A sample set begins, unless one runs: a SAMPLE is then rejected. Periodic sets lie PERIOD s apart. -/
def sampleBegin (byWrite : Bool) (s : State) : State :=
  if s.pwr.sampling then (if byWrite then s.reject (addrOf .almCtrl 0 0 0) else s)
  else if byWrite then { s with pwr := { s.pwr with sampling := true } }
  else if s.rb .almCtrl 0 && s.mode != 0 && s.mode != 4 && s.passed s.pwr.sampleAt (s.rf .almCtrl 15 4 * 1000000000) then
    { s with pwr := { s.pwr with sampling := true, sampleAt := s.now } }
  else s

/-- A sample set ends (R376): every VAL changes, and detectors count cumulatively (R375). -/
def sampleEnd (vals : List (BitVec 16)) (s : State) : State :=
  if !s.pwr.sampling then s
  else
    let s1 := { s with pwr := { s.pwr with sampling := false } }
    let s2 := (List.range 256).foldl (fun s m =>
      let v := (vals.getD m 0).toNat
      let s1 := s.wr .almMVal (BitVec.ofNat 32 v) m
      if s1.rf .almMId 1 0 m = 2 then s1.bump .almMTed m 0 0 v else s1) s1
    let (v, s3) := s2.stamp domCentral
    ((s3.wr .almStampLo (BitVec.ofNat 32 v.toNat)).wr .almStampHi (BitVec.ofNat 32 (v.toNat / 2 ^ 32))).raise 742 domCentral

/-- A write of ALM_CTRL. -/
def almCtrlWrite (w : Word) (s : State) : State :=
  let s1 := s.wr .almCtrl (setBit w 1 false)
  if bit w 1 then sampleBegin true s1 else s1

/-- A write of PWR_PMB_CTRL (R379): GO starts the transaction, unless one runs. -/
def pmbWrite (w : Word) (s : State) : State :=
  let s1 := s.wr .pwrPmbCtrl (setBit w 21 false)
  if !bit w 21 then s1
  else if s1.rb .pwrPmbStatus 0 then s.reject (addrOf .pwrPmbCtrl 0 0 0)
  else
    let n := fld w 18 16
    let bs := if bit w 19 then [] else bytesLE n (s1.rd .pwrPmbData).toNat
    (s1.wb .pwrPmbStatus 0 true).emit (.pmbus (fld w 6 0) (fld w 15 8) bs (bit w 19) (bit w 20))

/-- A PMBus transaction ends (R379). -/
def pmbDone (reply : PmbReply) (s : State) : State :=
  if !s.rb .pwrPmbStatus 0 then s
  else
    let s1 := s.wb .pwrPmbStatus 0 false
    let s2 := match reply with
      | .ok data =>
        if s1.rb .pwrPmbCtrl 19 then s1.wr .pwrPmbData (BitVec.ofNat 32 (leNat (data.take (s1.rf .pwrPmbCtrl 18 16)))) else s1
      | .nack => s1.wb .pwrPmbStatus 1 true
      | .pecErr => s1.wb .pwrPmbStatus 2 true
    s2.raise 744 domCentral

/-- LEDGER_WINDOW_END (R358, R361): the ledger's windows of WIN µs run while the central fabric does. -/
def execLedgerWindowEnd (mw : List (BitVec 16)) (s : State) : Host.Outcome State Fault Refusal :=
  .next (if s.mode = 0 ∨ s.mode = 4 ∨ !s.passed s.pwr.windowAt (s.rf .pwrCfg 9 0 * 1000) then s else windowEnd mw s)

/-- AVS_RESPONSE (R367). -/
def execAvsResponse (g : Fin 4) (reply : AvsReply) (s : State) : Host.Outcome State Fault Refusal :=
  .next (avsResponse g reply s)

/-- AVS_RETRY (R367). -/
def execAvsRetry (g : Fin 4) (s : State) : Host.Outcome State Fault Refusal := .next (avsRetry g s)

/-- TEMP_SENSOR_READ (R359). -/
def execTempSensorRead (t : List (BitVec 16)) (s : State) : Host.Outcome State Fault Refusal := .next (tempsRead t s)

/-- PWR_LEDGER_WRITE (R363). -/
def execPwrLedgerWrite (w : Word) (s : State) : Host.Outcome State Fault Refusal := .next (ledgerWrite w s)

/-- LEDGER_STALE (R363). -/
def execLedgerStale (s : State) : Host.Outcome State Fault Refusal := .next (ledgerStale s)

/-- LEAP (R373). -/
def execLeap (s : State) : Host.Outcome State Fault Refusal := .next (leap s)

/-- LEAP_VERIFY_END (R374). -/
def execLeapVerifyEnd (tedRise : BitVec 32) (slack : BitVec 16) (s : State) : Host.Outcome State Fault Refusal :=
  .next (leapEnd tedRise.toNat slack.toInt s)

/-- ALM_SAMPLE_PERIOD (R376). -/
def execAlmSamplePeriod (s : State) : Host.Outcome State Fault Refusal := .next (sampleBegin false s)

/-- ALM_SAMPLE_NOW (R376). -/
def execAlmSampleNow (s : State) : Host.Outcome State Fault Refusal := .next (sampleBegin true s)

/-- ALM_SAMPLE_SET_END (R376). -/
def execAlmSampleSetEnd (vals : List (BitVec 16)) (s : State) : Host.Outcome State Fault Refusal :=
  .next (sampleEnd vals s)

/-- ALM_LOG_WRITE_FLASH (R377). -/
def execAlmLogWriteFlash (s : State) : Host.Outcome State Fault Refusal := .next (logOp 1 s)

/-- ALM_LOG_WRITE_FUSE (R377). -/
def execAlmLogWriteFuse (s : State) : Host.Outcome State Fault Refusal := .next (logOp 2 s)

/-- ALM_LOG_READ (R377). -/
def execAlmLogRead (s : State) : Host.Outcome State Fault Refusal := .next (logOp 3 s)

/-- ALM_LOG_OP_DONE (R377). -/
def execAlmLogOpDone (s : State) : Host.Outcome State Fault Refusal := .next (logOpDone s)

/-- PMB_GO (R379): a write of PWR_PMB_CTRL with GO set. -/
def execPmbGo (w : Word) (s : State) : Host.Outcome State Fault Refusal :=
  .next (if wordOk .pwrPmbCtrl 0 w then pmbWrite (setBit w 21 true) s else s.reject (addrOf .pwrPmbCtrl 0 0 0))

/-- PMB_DONE (R379). -/
def execPmbDone (reply : PmbReply) (s : State) : Host.Outcome State Fault Refusal := .next (pmbDone reply s)

end Sys2Proof.Machine
end

