-- ==== Sys2Proof/Machine/Modes.lean ====
section
/-! DEFINITION. Operating modes (spec 19 R382 to R386): requests, Sleep and wakes, Debug Halt, and host loss with what it
resets (spec 03 R72 to R74). -/

namespace Sys2Proof.Machine

/-! Host loss (R72, R73, R385). -/

/-- What the reset of the HST block leaves of a command ring: descriptors begun run to completion, on the completion ring
that the ring had latched (R73). -/
def Ring.afterReset (g : Ring) : Ring :=
  { cq := g.cq, begun := g.begun, hold := g.hold, waiting := g.waiting }

/-- The link trains (R47, R417): the highest rate and width common with the partner, which are the partner's. -/
def State.linkTrain (s : State) : State :=
  if s.pci.linkUp then s
  else
    let (r, s1) := s.fresh 5
    let (w, s2) := s1.fresh 5
    { s2 with pci := { s2.pci with linkUp := true, rate := r + 1, width := 2 ^ w } }

/-- The PCIe controller, its configuration space and the HST block are reset, but for HST_LOSS and its stamp (R73). A
completion that waited is counted in HST_LOST, and so is each that descriptors begun before have yet to post: their
completion ring is not enabled. -/
def State.hstReset (s : State) (linkUp perst : Bool) : State :=
  let keep := [addrOf .hstLoss 0 0 0, addrOf .hstLossStampLo 0 0 0, addrOf .hstLossStampHi 0 0 0]
  let s1 := { s with
    regs := s.regs.filter (fun p => p.1 / 0x10000 != 1 || keep.contains p.1)
    hst := { rings := s.hst.rings.map Ring.afterReset }
    pci := { linkUp, perst, rate := if linkUp then s.pci.rate else 0, width := if linkUp then s.pci.width else 0 } }
  (List.range 64).foldl (fun s r => s.flushWaiting r) s1

/-- Cause and stamp of a loss (R72). -/
def State.recordLoss (s : State) (cause : Nat) : State :=
  let (v, s1) := s.stamp 2
  ((s1.wf .hstLoss 3 0 cause).wr .hstLossStampLo (BitVec.ofNat 32 v.toNat)).wr .hstLossStampHi
    (BitVec.ofNat 32 (v.toNat / 2 ^ 32))

/-- A wake source is seen (R384): recorded from the beginning of Sleep entry; in Sleep it begins the exit. -/
def State.wakeSource (s : State) (b : Nat) : State :=
  if !s.asleep then s
  else
    let s1 := s.wb .sysWakeStatus b true
    State.railsSettle
      { s1 with sys := { s1.sys with waking := s1.sys.waking || s1.mode == 4, wakeLoss := s1.sys.wakeLoss || b == 4 } }

/-- A host loss (R72, R385): none in Reset, none again in Recovery; in Sleep it wakes the device; in Debug Halt Recovery
follows; otherwise Recovery is entered. -/
def State.hostLoss (s : State) (cause : Nat) : State :=
  let s0 := { s with sys := { s.sys with lossAt := some s.now } }
  if s.mode = 0 then s
  else if s.mode = 6 then s0
  else
    let s1 := s0.recordLoss cause
    let s2 := { s1 with sys := { s1.sys with lossProv := s.mode == 1 } }
    if s.asleep then s2.wakeSource 4
    else if s.mode = 7 then s2.wb .sysMode 6 true
    else s2.setMode 6

/-- DL_Down, a hot reset, a Function Level Reset or PERST_N: loss and reset (R72, R73). -/
def State.linkLoss (s : State) (cause : Nat) (linkUp perst : Bool) : State :=
  (s.hostLoss cause).hstReset linkUp perst

/-- Bus Master Enable is cleared (R72): a loss while RINGS_EN is 1. -/
def busMasterClear (s : State) : State :=
  if !s.pci.busMaster then s
  else
    let s1 := if s.rb .hstCtrl 0 then s.hostLoss 3 else s
    { s1 with pci := { s1.pci with busMaster := false } }

/-- The function is placed in D3hot (R72). -/
def d3hot (s : State) : State :=
  if s.pci.d3hot then s else (State.hostLoss { s with pci := { s.pci with d3hot := true } } 7)

/-- RESUME (R74, R385): Recovery is left, polling restarts at the minimum interval, a RESUMED record is posted. One that
meets a new host loss in its ns does not take effect (log entry 117). -/
def hostResume (s : State) : State :=
  if s.mode ≠ 6 ∨ s.sys.lossAt = some s.now then s.reject (addrOf .hstCtrl 0 0 0)
  else
    let s1 := s.setMode (if s.sys.lossProv then 1 else 2)
    let s2 := s1.wf .hstPoll 25 16 (s1.rf .hstPoll 9 0)
    ({ s2 with hst := { s2.hst with failed := 0 } }.postEvent 5 0xFF 0 0).followVigil

/-! Requests (R382, R383). -/

/-- What R383 rejects a Sleep request for: a beam that runs, a pending commit, a PL package under way; and the always-on
oscillator not running (R417). -/
def State.sleepBarred (s : State) : Bool :=
  !s.runningBeams.isEmpty || (List.range 16).any (fun g => s.rb .sysCgStatus 0 g) ||
    (2 ≤ s.pleState && s.pleState ≤ 4) || !s.sys.aonClock

/-- The pad that SYS_WAKE.PIN names. -/
def State.wakePad (s : State) : Bool := s.gpio.high.contains (s.rf .sysWake 7 2)

/-- Sleep entry begins (R383): from now on WAKE_STATUS records the wake sources (R384). -/
def State.sleepBegin (s : State) : State :=
  let s1 := { s with
    sys := { s.sys with entering := true, waking := false, wakeLoss := false }
    gpio := { s.gpio with wakeLevel := s.wakePad, wakeLast := s.wakePad } }
  (s1.wf .sysWakeStatus 4 0 0).cenPause

/-- A write of SYS_MODE_REQ.REQ (R382, R384). -/
def modeReq (q : Nat) (s : State) : State :=
  let no := s.reject (addrOf .sysModeReq 0 0 0)
  let m := s.mode
  if s.asleep then (if q = 2 then s.wakeSource 0 else no)
  else if q = 2 then (if m = 1 ∨ m = 5 then (s.setMode 2).followVigil else no)
  else if q = 5 then (if 1 ≤ m ∧ m ≤ 3 then s.setMode 5 else no)
  else if q = 4 then (if 1 ≤ m ∧ m ≤ 3 ∧ !s.sleepBarred then s.sleepBegin else no)
  else no

/-- Descriptors that Sleep entry lets complete first (R383): those that write or wait for completions, not those that wait
for a line or an epoch. -/
def Ring.settled (g : Ring) : Bool :=
  match g.hold with
  | none => true
  | some (.epoch _ _) => true
  | some (.line _ _) => true
  | _ => false

/-- Rings, DMA channels and blit engines have come to rest (R383). -/
def State.rested (s : State) : Bool :=
  s.hst.rings.toList.all Ring.settled && s.blt.engines.toList.all (fun e => e.job.isNone) &&
    s.dma.toList.all (fun x => !x.active || (x.blocks.isEmpty && (x.boundary || x.wait.isSome)))

/-- What was paused goes on (R323, R384, R41, R173). -/
def State.proceed (s : State) : State := (blitDispatch (State.dmaResume s)).pleWake.cenResume

/-- The time wake (R384): at entry, at each tick, and when a register of it is written. -/
def State.timeWake (s : State) : State :=
  if s.asleep ∧ s.rb .sysWake 8 ∧ s.addr64 .sysWakeTimeLo .sysWakeTimeHi ≤ s.now then s.wakeSource 2 else s

/-- Sleep entry ends (R383): abandoned when a beam has started; else ports are Disabled, the stacks refresh themselves, and
MODE is 4. -/
def sleepEntered (s : State) : State :=
  if !s.sys.entering then s
  else if !s.runningBeams.isEmpty then
    let s1 := { s with sys := { s.sys with entering := false } }
    let s2 := (s1.reject (addrOf .sysModeReq 0 0 0)).proceed
    if s2.sys.wakeLoss then s2.setMode 6 else s2
  else if !s.rested then s
  else
    let s := (s.refreshPads 0).refreshPads 1
    let s1 := (List.range 8).foldl (fun (s : State) p => s.disablePort p) s
    let s2 := (s1.wb .sysPsStatus 0 true).setMode 4
    let s3 := { s2 with
      sys := { s2.sys with entering := false, waking := s2.rf .sysWakeStatus 4 0 != 0 || s2.sys.wakeLoss } }
    (s3.emit .tdmLow).timeWake.railsSettle

/-- A wake ends in the new mode (R384): the mode before, or Recovery after a loss. Clocks restart once every rail has
reported VDone (R369, log entry 120). -/
def wakeDone (s : State) : State :=
  if s.mode ≠ 4 || !s.sys.waking || !(List.range 4).all (fun g => (s.rail g).ready) then s
  else
    let m := if s.sys.wakeLoss then 6 else s.rf .sysMode 5 3
    let s1 := { s with sys := { s.sys with waking := false, wakeLoss := false } }
    let s2 := (s1.wb .sysPsStatus 0 false).setMode m
    let s3 := (List.range 8).foldl (fun (s : State) p => s.startPort p) s2
    let s4 := if s3.rf .audClk 1 0 = 0 then s3 else
      ({ s3 with aud := { s3.aud with since := none, good := 0, lastTaken := none } }).setAudLock 1
    (s4.wf .hstPoll 25 16 (s4.rf .hstPoll 9 0)).proceed.railsSettle

/-- The sample of the wake pin at a tick (R384): a new level counts after two equal samples. -/
def State.pinWake (s : State) : State :=
  if !s.asleep then s
  else
    let v := s.wakePad
    let s1 := { s with gpio := { s.gpio with wakeLast := v } }
    if v = s.gpio.wakeLevel || v != s.gpio.wakeLast then s1
    else
      let s2 := { s1 with gpio := { s1.gpio with wakeLevel := v } }
      if s.rb .sysWake 0 && v != s.rb .sysWake 1 then s2.wakeSource 1 else s2

/-- A tick of the 32.768 kHz clock (R338, R384): in Sleep and Debug Halt the always-on domain takes the count over at the
first tick and advances it at each later one; the fabric takes it back at a tick. -/
def alwaysOnTick (s : State) : State :=
  if !s.sys.aonClock then s
  else
    let m := s.mode
    let s1 := if s.tmr.slow then
        let (acc, k) := aonTick s.tmr.acc
        State.advance { s with tmr := { s.tmr with acc := acc } } k
      else s
    ({ s1 with tmr := { s1.tmr with slow := m == 4 || m == 7 } }).pinWake.timeWake

/-! Debug Halt (R386). -/

/-- Debug Halt is permitted: the life-cycle state and the always-on oscillator, and a mode it is entered from. -/
def State.haltAllowed (s : State) : Bool :=
  (s.lcState ≤ 1 || s.lcState == 4) && s.sys.aonClock && !s.sys.entering &&
    (s.mode == 1 || s.mode == 2 || s.mode == 3 || s.mode == 5 || s.mode == 6)

/-- A core that runs halts for Debug Halt, or runs on after it if it was halted for it. -/
def Core.debugHalt (k : Core) : Core := if k.run = .running then k.halt 7 else k
def Core.debugResume (k : Core) : Core :=
  if k.run = .halted ∧ k.why = 7 then { k with run := .running, why := 0, skipBp := true } else k

/-- A core halts for Debug Halt: a wait is abandoned, a window access ends first (R242). -/
def State.haltCore (s : State) (c : Nat) : State :=
  let k := s.core c
  if k.run = .waiting ∧ !k.inWindow then
    let s1 := s.waited c
    s1.setCore c ((s1.core c).halt 7)
  else s.setCore c k.debugHalt

/-- Debug Halt is entered. -/
def State.haltAll (s : State) : State :=
  State.setMode (((List.range 20).foldl (fun s c => s.haltCore c) s).wb .sysDbg 0 true) 7

/-- Debug Halt ends: into Recovery, or the mode before with Vigil taken as Service. -/
def State.haltEnd (s : State) : State :=
  if s.mode ≠ 7 then s
  else
    let p := s.rf .sysMode 5 3
    let m := if s.rb .sysMode 6 then 6 else if p = 3 then 2 else p
    let s1 := { s with cores := s.cores.map Core.debugResume }.wb .sysDbg 0 false
    ((s1.setMode m).wb .sysMode 6 false).followVigil

/-- A write of SYS_DBG.HALT. -/
def dbgWrite (halt : Bool) (s : State) : State :=
  if !halt then s.haltEnd
  else if s.mode = 7 then s
  else if s.haltAllowed then s.haltAll
  else s.reject (addrOf .sysDbg 0 0 0)

/-- MODE_REQ_SERVICE (R382, R384). -/
def execModeReqService (s : State) : Host.Outcome State Fault Refusal := .next (modeReq 2 s)

/-- MODE_REQ_SLEEP (R382, R383). -/
def execModeReqSleep (s : State) : Host.Outcome State Fault Refusal := .next (modeReq 4 s)

/-- MODE_REQ_EMBER (R382). -/
def execModeReqEmber (s : State) : Host.Outcome State Fault Refusal := .next (modeReq 5 s)

/-- SLEEP_ENTRY_COMPLETE (R383). -/
def execSleepEntryComplete (s : State) : Host.Outcome State Fault Refusal := .next (sleepEntered s)

/-- WAKE_COMPLETE (R384). -/
def execWakeComplete (s : State) : Host.Outcome State Fault Refusal := .next (wakeDone s)

/-- AON_TICK (R338, R384). -/
def execAonTick (s : State) : Host.Outcome State Fault Refusal := .next (alwaysOnTick s)

/-- SYS_DBG_HALT (R386). -/
def execSysDbgHalt (s : State) : Host.Outcome State Fault Refusal := .next (dbgWrite true s)

/-- SYS_DBG_RESUME (R386). -/
def execSysDbgResume (s : State) : Host.Outcome State Fault Refusal := .next (dbgWrite false s)

/-- BUS_MASTER_ENABLE_CLEAR (R72). -/
def execBusMasterEnableClear (s : State) : Host.Outcome State Fault Refusal := .next (busMasterClear s)

/-- DL_DOWN (R72, R73). -/
def execDlDown (s : State) : Host.Outcome State Fault Refusal := .next (s.linkLoss 4 false s.pci.perst)

/-- HOT_RESET (R72, R73). -/
def execHotReset (s : State) : Host.Outcome State Fault Refusal := .next (s.linkLoss 5 s.pci.linkUp s.pci.perst)

/-- FUNCTION_LEVEL_RESET (R72, R73). -/
def execFunctionLevelReset (s : State) : Host.Outcome State Fault Refusal :=
  .next (s.linkLoss 6 s.pci.linkUp s.pci.perst)

/-- D3HOT_ENTRY (R72). -/
def execD3hotEntry (s : State) : Host.Outcome State Fault Refusal := .next (d3hot s)

/-- PERST_N_ASSERT (R72, R73, R417). -/
def execPerstNAssert (s : State) : Host.Outcome State Fault Refusal := .next (s.linkLoss 8 false true)

/-- ALWAYS_ON_OSCILLATOR_START (R417). -/
def execAlwaysOnOscillatorStart (s : State) : Host.Outcome State Fault Refusal :=
  .next { s with sys := { s.sys with aonClock := true } }

/-- RESUME (R74, R385). -/
def execResume (s : State) : Host.Outcome State Fault Refusal := .next (hostResume s)

end Sys2Proof.Machine
end

