-- ==== Sys2Proof/Machine/Boot.lean ====
section
/-! DEFINITION. Fuses and the life-cycle state they hold (spec 19 R393), the boot engine and the steward cores' resets
(R389, R390, R244), the resets and the boot sequence (R387, R388, R417). -/

namespace Sys2Proof.Machine

/-! Fuses. -/

/-- Keys of the fuses of the two copies of the life-cycle state, and for each steward key (0 Kamnor, 1 customer) of the
updates of its rollback minimum, with their count. -/
def lcKey (copy : Nat) : Nat := 0x4000000 + copy
def floorCount (key : Nat) : Nat := 0x4000300 + key
def floorKey (key u : Nat) : Nat := 0x4000400 + key * 64 + u * 2

/-- A copy of the life-cycle state. -/
def State.lcCopy (s : State) (i : Nat) : Nat := (s.fuse (lcKey i)).toNat % 6

/-- A digest is sealed, and the first slot left for it. -/
def State.sealedDigest (s : State) (d : Nat) : Bool := s.slotValid d 0 || s.slotValid d 1
def State.freeSlot (s : State) (d : Nat) : Option Nat :=
  [0, 1].find? (fun j => !s.slotValid d j && !bit (s.fuse (digestKey d j 13)) 0)

/-- Updates used of a key's rollback minimum, and the minimum. -/
def State.floorsUsed (s : State) (key : Nat) : Nat := min 32 (fld (s.fuse (floorCount key)) 5 0)
def State.floor (s : State) (key : Nat) : Nat :=
  match s.floorsUsed key with
  | 0 => 0
  | n + 1 => (s.fuse (floorKey key n)).toNat + (s.fuse (floorKey key n + 1)).toNat * 2 ^ 32

/-- What registers show of the life-cycle fuses: the highest state that both copies record, TORN, the seals, and what they
decide for the self-test engine and the PL engine (R393, R404, R177). -/
def State.lcShow (s : State) : State :=
  let st := min (s.lcCopy 0) (s.lcCopy 1)
  let s1 := (s.wf .sysLcStatus 2 0 st).wb .sysLcStatus 3 (s.sealedDigest 1)
  let s2 := (s1.wb .sysLcStatus 4 (s.sealedDigest 2)).wb .sysLcStatus 5 (s.lcCopy 0 != s.lcCopy 1)
  let access := if st = 0 ∨ st = 5 then 0 else if st = 2 ∨ st = 3 then 1 else 2
  (s2.wf .bistStatus 8 7 access).wb .cmpPleStatus 3 (s.sealedDigest 2 && st != 4)

/-- FLOORS_LEFT for the key that admitted the running image. -/
def State.floorsShow (s : State) (key : Nat) : State := s.wf .sysLcStatus 16 11 (32 - s.floorsUsed key)

/-- Both copies of the life-cycle state are programmed, the first and then the second (R393). -/
def State.setLc (s : State) (n : Nat) : State :=
  ((s.setFuse (lcKey 0) (BitVec.ofNat 32 n)).setFuse (lcKey 1) (BitVec.ofNat 32 n)).lcShow

/-! Steward cores and the boot engine (R389, R390, R244). -/

/-- Steward core k is held in reset with its memories zeroed. -/
def State.scReset (s : State) (k : Nat) : State :=
  let c := 16 + k
  let mine (key : Nat) : Bool := key / 2 ^ 32 == 4 && key % 2 ^ 32 / 4096 == c
  let s1 := ((s.setCore c {}).endActive c 0).arbitrate
  { s1 with tbl := { s1.tbl with err := s1.tbl.err.filter (fun e => !mine e.1), poison := s1.tbl.poison.filter (fun e => !mine e) } }

/-- All four steward cores. -/
def State.scResetAll (s : State) : State := (List.range 4).foldl (fun s k => s.scReset k) s

/-- The address of the steward image. -/
def State.bootAddr (s : State) : Nat := s.addr64 .sysBootAddrLo .sysBootAddrHi

/-- The boot engine begins: the cores are reset and the image is fetched. -/
def State.bootStart (s : State) : State :=
  let s1 := (s.scResetAll.wf .sysBootStatus 8 0 1)
  if s.rb .sysBootCtrl 1 then s1.askHost s.bootAddr 320 else s1

/-- GO, or RELOAD (R389, R390): not in Reset, Sleep or Retired, nor while an image is fetched or verified; recorded at the
register written. -/
def State.bootGo (s : State) (r : RegName) : State :=
  let st := s.rf .sysBootStatus 2 0
  if s.mode = 0 ∨ s.mode = 4 ∨ s.lcState = 5 ∨ st = 1 ∨ st = 2 then s.reject (addrOf r 0 0 0) else s.bootStart

/-- A write of SYS_SC_CTRL (R389). -/
def scCtrlWrite (mask : Nat) (reload : Bool) (s : State) : State :=
  let s1 := ((List.range 4).filter (nbit mask)).foldl (fun s k => s.scReset k) (s.wf .sysScCtrl 3 0 mask)
  if reload then s1.bootGo .sysScCtrl else s1

/-- Section j of an image: core, memory, offset in the memory, length, offset in the data. -/
def imageSection (p : List Byte) (j : Nat) : Nat × Nat × Nat × Nat × Nat :=
  let at_ := 32 + 16 * j
  (descField p at_ 1, descField p (at_ + 1) 1, descField p (at_ + 4) 4, descField p (at_ + 8) 4, descField p (at_ + 12) 4)

/-- A section lies inside its memory and inside the data, in whole words. -/
def sectionOk (p : List Byte) (j : Nat) : Bool :=
  let (core, mem, off, len, src) := imageSection p j
  core ≤ 3 && mem ≤ 1 && descField p (34 + 16 * j) 2 == 0 && off % 4 == 0 && len % 4 == 0 && src % 4 == 0 &&
    off + len ≤ 65536 && src + len ≤ descField p 24 4

/-- Two sections overlap in one memory. -/
def sectionsMeet (p : List Byte) (i j : Nat) : Bool :=
  let (c, m, o, l, _) := imageSection p i
  let (c', m', o', l', _) := imageSection p j
  c == c' && m == m' && o < o' + l' && o' < o + l && 0 < l && 0 < l'

/-- Checks 2 and 3 of R244: 0 when both pass. -/
def imageFormat (p : List Byte) : Nat :=
  let n := descField p 28 4
  let js := List.range n
  if descField p 0 4 ≠ 0x4C4E4146 ∨ descField p 4 2 ≠ 1 ∨ n = 0 ∨ 16 < n then 2
  else if descField p 6 1 = 0 ∨ 15 < descField p 6 1 ∨ 15 < descField p 7 1 ∨ descField p 12 4 ≠ 0 ∨
      descField p (32 + 16 * n) (288 - 16 * n) ≠ 0 then 2
  else if !js.all (sectionOk p) || js.any (fun i => (List.range i).any (sectionsMeet p i)) then 2
  else if 524288 < descField p 24 4 ∨ descField p 24 4 % 64 ≠ 0 then 3
  else 0

/-- The words of an image's sections in the steward memories. -/
def State.placeImage (s : State) (p : List Byte) : State :=
  (List.range (descField p 28 4)).foldl (fun s j =>
    let (core, mem, off, len, src) := imageSection p j
    let put (m : List (Nat × Word)) : List (Nat × Word) := (List.range (len / 4)).foldl (fun m i =>
      kvPut 0 (off / 4 + i) (BitVec.ofNat 32 (descField p (320 + src + 4 * i) 4)) m) m
    let k := s.core (16 + core)
    s.setCore (16 + core) (if mem = 0 then { k with itcm := put k.itcm } else { k with dtcm := put k.dtcm })) s

/-- The image fails (R244): no core starts, the memories are zeroed, BOOT_DONE is raised. -/
def State.bootFail (s : State) (r : Nat) : State :=
  ((({ s.scResetAll with sys := { s.scResetAll.sys with image := [] } }).wf .sysBootStatus 2 0 4).wf .sysBootStatus 6 3 r).raise
    786 domCentral

/-- The image at a pattern-store address, read as client 20, or none when a read of it fails. -/
def State.imageAt (s : State) (a : Nat) : Option (List Byte) × State :=
  let (h, bad, s1) := s.psRead 20 a 320
  if bad then (none, s1)
  else if 524288 < descField h 24 4 then (some h, s1)
  else
    let (p, bad', s2) := s1.psRead 20 (a + 320) (descField h 24 4 + 193)
    (if bad' then none else some (h ++ p), s2)

/-- The image in the pattern store. -/
def State.storedImage (s : State) : Option (List Byte) × State := s.imageAt s.bootAddr

/-- The image is fetched, hashed and written (R390, R244): from the pattern store, or as the host returned it. -/
def imageFetched (host : Option (List Byte)) (s : State) : State :=
  if s.rf .sysBootStatus 2 0 ≠ 1 then s
  else
    let (p, s1) := if s.rb .sysBootCtrl 1 then (if s.pci.busMaster then host else none, s) else s.storedImage
    match p with
    | none => s1.bootFail 1
    | some p =>
      let f := imageFormat p
      if f ≠ 0 then s1.bootFail f
      else State.wf { s1.placeImage p with sys := { s1.sys with image := p } } .sysBootStatus 2 0 2

/-- A steward digest that the life-cycle state admits: 1 Kamnor, 2 customer. -/
def State.admits (s : State) (key : Nat) : Bool :=
  match s.lcState with
  | 1 => key == 1
  | 2 => key == 1 || (key == 2 && s.sealedDigest 1)
  | 3 => if s.sealedDigest 1 then key == 2 else key == 1
  | 4 => key == 1
  | _ => false

/-- The admitted steward digest that the PUBKEY at a place of some bytes matches, or 0. -/
def State.keyOf (s : State) (p : List Byte) (at_ : Nat) : Nat :=
  let h := keyDigest p at_
  ([1, 2].find? (fun k => s.admits k && s.digestIs (k - 1) h)).getD 0

/-- Where an image's PUBKEY stands (R243). -/
def imageKeyAt (p : List Byte) : Nat := 320 + descField p 24 4

/-- Checks 4 to 6 end (R244, R390): named cores start, unless held in reset, and in Debug Halt they start halted. -/
def imageChecked (s : State) : State :=
  if s.rf .sysBootStatus 2 0 ≠ 2 then s
  else
    let p := s.sys.image
    let key := s.keyOf p (imageKeyAt p)
    if key = 0 then s.bootFail 4
    else if !signedAt p (imageKeyAt p) then s.bootFail 5
    else if descField p 16 8 < s.floor (key - 1) then s.bootFail 6
    else
      let starts (k : Nat) : Bool := nbit (descField p 6 1) k && !s.rb .sysScCtrl k
      let s1 := (List.range 4).foldl (fun s k =>
        if starts k then
          let c := s.core (16 + k)
          let up := { c with run := .running, pc := 0x80, vbase := 0, pipeX := nbit (descField p 7 1) k }
          s.setCore (16 + k) (if s.mode = 7 then up.debugHalt else up)
        else s.scReset k) s
      let s2 := { s1 with sys := { s1.sys with image := [] } }.wf .sysBootStatus 8 0 (3 + key * 128)
      let s3 := (s2.wr .sysBootKeyid (BitVec.ofNat 32 (descField p 8 4))).wr .sysBootSeqLo (BitVec.ofNat 32 (descField p 16 4))
      ((s3.wr .sysBootSeqHi (BitVec.ofNat 32 (descField p 20 4))).floorsShow (key - 1)).raise 786 domCentral

/-! Resets (R387, R388). -/

/-- Registers that a warm reset keeps: RWS fields, the PL fields and what goes with them; a cold reset keeps none. -/
def keptRegs : List RegName :=
  [.hstLoss, .hstLossStampLo, .hstLossStampHi, .sysBootAddrLo, .sysBootAddrHi, .sysBootCtrl, .almHours] ++ plRegs ++
    [.cmpPlPal, .cmpPleSeqLo, .cmpPleSeqHi, .cmpPleRegionBase, .cmpPleRegionSize, .cmpPleKeyid, .cmpPleNonce]
def keptReg (a : Nat) : Bool :=
  match regAt a with
  | some (r, _) => keptRegs.contains r
  | none => false

/-- A life-cycle command that a reset cuts short (R393): how far its fuses were programmed is open. -/
def State.lcTorn (s : State) : State :=
  match s.sys.lc with
  | none => s
  | some c =>
    let (v, s1) := s.fresh 2
    if v = 0 then s1
    else
      let st := s1.lcState
      let goal := match c with
        | 1 => if st = 1 then some 2 else none
        | 4 => if st = 2 && s1.sealedDigest 2 then some 3 else none
        | 6 => if st = 3 then some 4 else none
        | 7 => if 2 ≤ st ∧ st ≤ 4 then some 5 else none
        | _ => none
      match goal with
      | some n => s1.setFuse (lcKey 0) (BitVec.ofNat 32 n)
      | none =>
        if (c = 2 ∨ c = 3) ∧ st = 2 ∧ !s1.sealedDigest (c - 1) then
          match s1.freeSlot (c - 1) with
          | some j => s1.setFuse (digestKey (c - 1) j 13) 1
          | none => s1
        else s1

/-- A record being programmed when the reset comes: not begun, torn, or whole (R377). -/
def State.logTorn (s : State) : State :=
  match s.pwr.op with
  | some (.write t p v f) =>
    let (x, s1) := s.fresh 3
    if x = 0 then s1
    else if x = 1 then { s1 with pwr := s1.pwr.program none }
    else s1.logWrite t p v f
  | _ => s

/-- A repair-log entry being programmed when the reset comes (R409). -/
def State.repairTorn (s : State) : State :=
  let b := s.sys.bist
  let entry := match b.op with
    | some (1, some r) => some r
    | _ => if b.fixing then b.fix.head? else none
  match entry with
  | none => s
  | some r =>
    let (x, s1) := s.fresh 3
    let add := if x = 0 then [] else if x = 1 then [none] else [some r]
    { s1 with sys := { s1.sys with bist := { b with log := b.log ++ add } } }

/-- The state that a reset leaves (R388), at the point of the boot sequence given: what survives of `s`, and otherwise the
state after cold reset. -/
def State.survivors (s : State) (warm : Bool) (phase : ResetPhase) : State :=
  { State.reset with
    regs := s.regs.filter (fun p => (warm && keptReg p.1) || p.1 == addrOf .gpioBank 0 0 0)
    pci := { perst := s.pci.perst }
    tmr := { acc := if warm then s.tmr.acc else 0 }
    store := { mem := s.store.mem, err := s.store.err, poison := s.store.poison }
    gpio := { outside := s.gpio.outside }
    pwr := { flash := s.pwr.flash, flashAt := s.pwr.flashAt, fuses := s.pwr.fuses, seq := s.pwr.seq }
    sys := { fuses := s.sys.fuses, reset := phase, aonClock := s.sys.aonClock, straps := s.sys.straps,
             tapIr := s.sys.tapIr, bist := { log := s.sys.bist.log, fused := s.sys.bist.fused } }
    ple := if warm then { accepted := s.ple.accepted, old := s.ple.old } else {}
    free := s.free, out := s.out, pending := s.pending }

/-- The balls that a reset brings to another level at once (R418): the TDM data pins are driven low, THERM_N is released. -/
def State.resetBalls (s : State) (tripped : Bool) : State :=
  let s1 := s.emit .tdmLow
  if tripped then s1.emit (.thermN false) else s1

/-- A reset: what it cuts short, and what it leaves. A warm reset keeps the protected state, so a PL bank that waits for a
beam's Calends is adopted as that of a beam held in reset (R175, R176; DEDUCED, log 106). -/
def State.resetTo (s : State) (warm : Bool) (phase : ResetPhase) : State :=
  let s1 := s.lcTorn.logTorn.repairTorn
  ((if warm then (List.range 16).foldl State.adoptPl s1 else s1).survivors warm phase).resetBalls (s.rb .pwrStatus 9)

/-- A trigger of a warm reset (R387): nothing more while one is on its way or the device is in a reset. -/
def State.warmTrigger (s : State) (cause : Nat) : State :=
  if s.sys.warm.isSome || s.sys.reset != .up then s else { s with sys := { s.sys with warm := some cause } }

/-- The warm reset begins: caches written back, stacks in self-refresh, islands held, and boot follows (R387). -/
def warmBegin (s : State) : State :=
  match s.sys.warm with
  | none => s
  | some c => s.resetTo true (.boot 1 true c)

/-- SYS_RESET_N is released (R387, R418, R421). -/
def resetRelease (straps : Nat) (testmode : Bool) (s : State) : State :=
  if s.sys.reset ≠ .held then s
  else { s with sys := { s.sys with straps, reset := if testmode then .stuck false else .boot 1 false 1 } }

/-! The boot sequence (R387). -/

/-- Step 1: every value that the fuses give is loaded. -/
def State.senseFuses (s : State) : State :=
  let load (mask : Nat) (s : State) (r : RegName) (i j : Nat) : State :=
    s.wr r (s.fuse (addrOf r i j 0) &&& BitVec.ofNat 32 mask) i j
  let s1 := [RegName.sysId, .sysSerialLo, .sysSerialHi].foldl (fun s r => load 0xFFFFFFFF s r 0 0) (load 0xFF s .sysStep 0 0)
  let s2 := (List.range 24).foldl (fun s x =>
    let f := fld (s.fuse (addrOf .pwrDat (x / 6) (x % 6) 0)) 15 8
    let v := if 250 < f then 255 else f
    s.wr .pwrDat (BitVec.ofNat 32 (v * 257)) (x / 6) (x % 6)) s1
  let s3 := (List.range (rowOf .almMId).n1).foldl (fun s m =>
    let w := s.fuse (addrOf .almMId m 0 0)
    load 0xFFFF (s.wr .almMId (setFld (w &&& 0x3FFF) 1 0 (fld w 1 0 % 3)) m) .almMRef m 0) s2
  ((({ s3 with sys := { s3.sys with mgmtUp := true } }.lcShow).floorsShow 0).showLog).wf .bistRepairStatus 18 10
    s.sys.bist.fused.length

/-- Step 3: the corner plans are sent; a rail without VDone faults. -/
def State.sendCorners (s : State) (vdone : Nat) : State :=
  (List.range 4).foldl (fun s g =>
    let s1 := (s.setPlan g (cornerPlan g) false).railSettle g
    if nbit vdone g then s1.railDone g else s1.avsFault g) s

/-- Step 5: the stacks are trained; after a cold reset, and at every boot in Retired, they are zero. -/
def State.trainStacks (s : State) (warm : Bool) (trained : Nat) : State :=
  let s1 := if !warm || s.lcState = 5 then { s with store := {} } else s
  if trained = 3 then s1 else s1.wb .sysBootStatus 9 true

/-- Step 7: the log is scanned, the hours restored, the cause kept and the RESET record written. -/
def State.scanLog (s : State) (warm : Bool) (cause : Nat) : State :=
  let last := match (s.pwr.flash.filterMap id).getLast? with
    | some r => some r
    | none => s.pwr.fuses.getLast?
  let s1 := if warm then s else s.wr .almHours (BitVec.ofNat 32 (match last with | some r => descField r 16 4 | none => 0))
  let s2 := (s1.wr .almLogTorn 0).bump .almLogTorn (n := s.pwr.flash.countP (·.isNone))
  logOpDone ((s2.showLog.wr .sysResetCause (BitVec.ofNat 32 cause)).hwLog 4 [BitVec.ofNat 8 cause] false)

/-- Step n of the boot sequence is done. -/
def State.bootStep (s : State) (n : Nat) (warm : Bool) (cause : Nat) (vdone trained : Nat) (pllLock : Bool) : State :=
  match n with
  | 1 => s.senseFuses
  | 2 => if pllLock && !s.pci.perst then s.linkTrain else s
  | 3 => s.sendCorners vdone
  | 4 =>
    let l := s.sys.bist.log
    (s.wf .bistRepairStatus 9 0 (l.countP (·.isSome))).wf .bistRepairStatus 31 22 (min 1023 (l.countP (·.isNone)))
  | 5 => s.trainStacks warm trained
  | 6 =>
    if warm then s
    else
      let (v, s1) := s.freshWord
      s1.wr .cmpPleNonce v
  | 7 => s.scanLog warm cause
  | 8 =>
    if s.rb .sysBootCtrl 2 && !s.rb .sysBootCtrl 1 then imageChecked (imageFetched none s.bootStart)
    else s
  | _ => State.railsSettle (State.watchBegin { s.setMode 1 with pwr := { (s.setMode 1).pwr with windowAt := s.now, sampleAt := s.now } })

/-- A step of the boot sequence is done and the next begins; without a PLL lock the device stays in Reset (R387, R417). -/
def bootStepDone (vdone trained : Nat) (pllLock : Bool) (s : State) : State :=
  match s.sys.reset with
  | .boot n warm cause =>
    let s1 := s.bootStep n warm cause vdone trained pllLock
    if n = 2 ∧ !pllLock then { s1 with sys := { s1.sys with reset := .stuck true, mgmtUp := false } }
    else { s1 with sys := { s1.sys with reset := if n < 9 then .boot (n + 1) warm cause else .up } }
  | _ => s

/-- COLD_RESET (R387, R388): an accepted low on SYS_RESET_N. -/
def execColdReset (s : State) : Host.Outcome State Fault Refusal := .next (s.resetTo false .held)

/-- SYS_RESET_N_RELEASE (R387, R421). -/
def execSysResetNRelease (straps : BitVec 2) (testmode : Bool) (s : State) : Host.Outcome State Fault Refusal :=
  .next (resetRelease straps.toNat testmode s)

/-- WARM_RESET_REQUEST (R387): SYS_RESET.WARM from the host or a steward core. -/
def execWarmResetRequest (steward : Bool) (s : State) : Host.Outcome State Fault Refusal :=
  .next (s.warmTrigger (if steward then 5 else 2))

/-- WARM_RESET_BEGIN (R387, R388). -/
def execWarmResetBegin (s : State) : Host.Outcome State Fault Refusal := .next (warmBegin s)

/-- BOOT_STEP_DONE (R387): VDone by rail group, stacks trained and PLLs locked. -/
def execBootStepDone (vdone : BitVec 4) (trained : BitVec 2) (pllLock : Bool) (s : State) : Host.Outcome State Fault Refusal :=
  .next (bootStepDone vdone.toNat trained.toNat pllLock s)

/-- SC_RESET (R389). -/
def execScReset (mask : BitVec 4) (s : State) : Host.Outcome State Fault Refusal := .next (scCtrlWrite mask.toNat false s)

/-- SC_RELOAD (R389). -/
def execScReload (mask : BitVec 4) (s : State) : Host.Outcome State Fault Refusal := .next (scCtrlWrite mask.toNat true s)

/-- BOOT_GO (R390). -/
def execBootGo (s : State) : Host.Outcome State Fault Refusal := .next (s.bootGo .sysBootCtrl)

/-- BOOT_IMAGE_FETCHED (R244). -/
def execBootImageFetched (image : Option (List Byte)) (s : State) : Host.Outcome State Fault Refusal :=
  .next (imageFetched image s)

/-- BOOT_IMAGE_CHECKED (R244). -/
def execBootImageChecked (s : State) : Host.Outcome State Fault Refusal := .next (imageChecked s)

end Sys2Proof.Machine
end

