-- ==== Sys2Proof/Machine/LifeCycle.lean ====
section
/-! DEFINITION. Life-cycle commands and tokens (spec 19 R391 to R393), the board management port (R394), and PCI Express
requests that concern the device as a whole (R331, R417). -/

namespace Sys2Proof.Machine

/-- A write of SYS_LC_CMD (R391): CMD 1 to 7, in Provisioning and Ember, while no command runs; its operand is asked for. -/
def lcCmd (c : Nat) (s : State) : State :=
  if c = 0 ∨ 7 < c ∨ (s.mode ≠ 1 ∧ s.mode ≠ 5) ∨ s.rb .sysLcStatus 6 then s.reject (addrOf .sysLcCmd 0 0 0)
  else
    let s1 := { s with sys := { s.sys with lc := some c } }.wb .sysLcStatus 6 true
    let ask (n : Nat) : State := s1.askHost (s.addr64 .sysLcAddrLo .sysLcAddrHi) n
    if c = 2 ∨ c = 3 then ask 48
    else if c = 6 ∨ (c = 7 ∧ s.lcState = 3) then ask 257
    else s1

/-- Checks 4 to 7 of a token (R392), in the order of the result table. -/
def State.tokenResult (s : State) (p : List Byte) (target : Nat) : Nat :=
  if descField p 0 4 ≠ 0x4E4B4F54 ∨ descField p 4 2 ≠ 1 ∨ descField p 6 1 ≠ target ∨ descField p 7 1 ≠ 0 ∨
      descField p 20 44 ≠ 0 then 4
  else if !s.digestIs 2 (keyDigest p 64) then 5
  else if !signedAt p 64 then 6
  else if descField p 8 8 ≠ s.addr64 .sysSerialLo .sysSerialHi ∨ descField p 16 4 ≠ (s.rd .cmpPleNonce).toNat then 7
  else 0

/-- A 48-byte digest is fused, its valid marker last (R393). -/
def State.sealDigest (s : State) (d : Nat) (p : List Byte) : Nat × State :=
  if s.sealedDigest d then (3, s)
  else match s.freeSlot d with
    | none => (8, s)
    | some j =>
      let s1 := (List.range 12).foldl (fun s k => s.setFuse (digestKey d j k) (BitVec.ofNat 32 (descField p (4 * k) 4)))
        (s.setFuse (digestKey d j 13) 1)
      (0, (s1.setFuse (digestKey d j 12) 1).lcShow)

/-- PL is cleared on entry into Returned (R177): the region's lines and every PL field are zero, of every beam. -/
def State.clearPl (s : State) : State :=
  let lo := s.rf .cmpPleRegionBase 15 0 * 2 ^ 20
  let hi := lo + s.rf .cmpPleRegionSize 11 0 * 2 ^ 20
  let out (a : Nat) : Bool := a < lo || hi ≤ a
  let zeroed (n : Nat) (s : State) : State :=
    (List.range 32).foldl (fun s k => s.wr .cmpPlPal 0 n k) (plRegs.foldl (fun s r => s.wr r 0 n) s)
  let s := (List.range 16).foldl (fun s n => zeroed n s) s
  { s with
    store := { s.store with mem := s.store.mem.filter (fun c => out c.1), err := s.store.err.filter (fun e => out (64 * e.1))
                            poison := s.store.poison.filter (fun l => out (64 * l)) }
    ple := { s.ple with old := [] }
    beams := s.beams.map (fun b => { b with plPend := none }) }

/-- A life-cycle command runs to its end (R391, R392): its RESULT, and the state it leaves. -/
def State.lcRun (s : State) (c : Nat) (operand : Option (List Byte)) : Nat × State :=
  let st := s.lcState
  let op := if s.pci.busMaster then operand else none
  let needs := c = 2 ∨ c = 3 ∨ c = 6 ∨ (c = 7 ∧ st = 3)
  let p := op.getD []
  let accepted := match c with
    | 1 => st == 1
    | 2 => st == 2
    | 3 => st == 2
    | 4 => st == 2 && s.sealedDigest 2
    | 5 => st == 2 || st == 3
    | 6 => st == 3
    | _ => st == 2 || st == 3 || st == 4
  if needs ∧ op.isNone then (1, s)
  else if !accepted then (2, s)
  else match c with
    | 1 => (0, s.setLc 2)
    | 2 => s.sealDigest 1 p
    | 3 => s.sealDigest 2 p
    | 4 => (0, s.setLc 3)
    | 5 =>
      let key := s.rf .sysBootStatus 8 7 - 1
      let n := s.floorsUsed key
      if s.rf .sysBootStatus 2 0 ≠ 3 then (9, s)
      else if 32 ≤ n then (8, s)
      else
        let s1 := (s.setFuse (floorKey key n) (s.rd .sysBootSeqLo)).setFuse (floorKey key n + 1) (s.rd .sysBootSeqHi)
        (0, (s1.setFuse (floorCount key) (BitVec.ofNat 32 (n + 1))).floorsShow key)
    | 6 =>
      let r := s.tokenResult p 4
      if r ≠ 0 then (r, s) else (0, (s.clearPl.setLc 4).warmTrigger 6)
    | _ =>
      let r := if st = 3 then s.tokenResult p 5 else 0
      if r ≠ 0 then (r, s) else (0, (s.setLc 5).warmTrigger 6)

/-- The command under way ends: RESULT and LC_DONE (R391). -/
def lcDone (operand : Option (List Byte)) (s : State) : State :=
  match s.sys.lc with
  | none => s
  | some c =>
    let (r, s1) := s.lcRun c operand
    let s2 := { s1 with sys := { s1.sys with lc := none } }
    ((s2.wb .sysLcStatus 6 false).wf .sysLcStatus 10 7 r).raise 785 domCentral

/-! The management port (R394). -/

/-- A Block Read of register words: none before boot step 1, and in Sleep a wake with MGMT_EN. -/
def mgmtRead (regs : List RegName) (s : State) : State :=
  if !s.sys.mgmtUp then s
  else
    let s1 := if s.rb .sysWake 9 then s.wakeSource 3 else s
    s1.emit (.mgmt (regs.flatMap (fun r => bytesLE 4 (s1.viewReg r 0 0 0).toNat)))

/-- Write Byte WARM_RESET. -/
def mgmtReset (value : Byte) (s : State) : State :=
  if !s.sys.mgmtUp then s
  else
    let s1 := if s.rb .sysWake 9 then s.wakeSource 3 else s
    if value = 0xA5 ∧ s1.rb .sysMgmtCtrl 0 then s1.warmTrigger 3 else s1

/-! PCI Express (R331, R417). -/

/-- A 64-bit BAR as its two slots read: memory, 64 bits wide, with the bits of its size and the prefetchable flag below the
address (R48). -/
def barSlots (a : Word64) (bits : Nat) (prefetch : Bool) : Nat × Nat :=
  let n := a.toNat / 2 ^ bits * 2 ^ bits
  (n % 2 ^ 32 + 4 + 8 * prefetch.toNat, n / 2 ^ 32)

/-- What a configuration read returns (R47, R48). The places of bits in a word are those of the standard that R47 names
(PRESUMED, log 107); an absent option reads zero. -/
def State.configRead (s : State) : ConfigField → Nat
  | .identity => (s.rd .sysId).toNat
  | .classCode => 0x038000
  | .command => 2 * s.pci.memSpace.toNat + 4 * s.pci.busMaster.toNat
  | .bar i =>
    let zero := barSlots s.pci.bar0 26 false
    let two := barSlots s.pci.bar2 (30 + s.pci.bar2Size) true
    [zero.1, zero.2, two.1, two.2].getD i.val 0
  | .interruptPin => 0
  | .serial high => (s.rd (if high then .sysSerialHi else .sysSerialLo)).toNat
  | .deviceControl => 16 * s.pci.relaxed.toNat + 32 * s.pci.payloadCode.val + 4096 * s.pci.readCode.val
  | .linkStatus => s.pci.rate + 16 * s.pci.width
  | .linkControl => 2 * s.pci.aspmL1.toNat
  | .msix => 255 + 0x4000 * s.pci.fnMask.toNat + 0x8000 * s.pci.msixEnable.toNat
  | .power => 8 + 3 * s.pci.d3hot.toNat
  | .bar2Size => s.pci.bar2Size
  | .bar2Sizes => 0x7F
  | .aer => 0x1000 * s.pci.aerPoisoned.toNat + 0x100000 * s.pci.aerUnsupported.toNat
  | .absent => 0

/-- The value in a configuration request's completion: none for a write. -/
def State.configValue (s : State) : ConfigReq → Option Nat
  | .read f => some (s.configRead f)
  | _ => none

/-- A configuration request: retried before boot step 9; otherwise it completes and its write is made (R331, R72, R48, R47).
One that asks for an absent option changes nothing (R1). -/
def configRequest (q : ConfigReq) (s : State) : State :=
  if s.pci.perst then s
  else if s.sys.reset ≠ .up then s.emit .configRetry
  else
    let s1 := s.linkTrain
    let s2 := s1.emit (.configCompletion (s1.configValue q))
    let set (p : Pci) : State := { s2 with pci := p }
    match q with
    | .read _ => s2
    | .absent => s2
    | .command mem bm =>
      let s3 := set { s1.pci with memSpace := mem }
      if bm then State.arbitrate { s3 with pci := { s3.pci with busMaster := true } } else busMasterClear s3
    | .functionMask m => State.arbitrate (set { s1.pci with fnMask := m })
    | .msixEnable on => set { s1.pci with msixEnable := on }
    | .power d3 => if d3 then d3hot s2 else set { s1.pci with d3hot := false }
    | .bar2Size n => set { s1.pci with bar2Size := n.val }
    | .readSize n => set { s1.pci with readCode := n }
    | .payloadSize n => set { s1.pci with payloadCode := n }
    | .barAddress two a => set (if two then { s1.pci with bar2 := a } else { s1.pci with bar0 := a })
    | .relaxedOrdering on => set { s1.pci with relaxed := on }
    | .aspmL1 on => set { s1.pci with aspmL1 := on }

/-- PERST_N is released: the link trains from then, or from boot step 2 (R417). -/
def perstRelease (s : State) : State :=
  let ready := match s.sys.reset with
    | .up => true
    | .boot n _ _ => 2 < n
    | _ => false
  let s1 := { s with pci := { s.pci with perst := false } }
  if ready then s1.linkTrain else s1

/-- PROVISION (R391). -/
def execProvision (s : State) : Host.Outcome State Fault Refusal := .next (lcCmd 1 s)

/-- SEAL_STEWARD (R391). -/
def execSealSteward (s : State) : Host.Outcome State Fault Refusal := .next (lcCmd 2 s)

/-- SEAL_PL (R391). -/
def execSealPl (s : State) : Host.Outcome State Fault Refusal := .next (lcCmd 3 s)

/-- DEPLOY (R391). -/
def execDeploy (s : State) : Host.Outcome State Fault Refusal := .next (lcCmd 4 s)

/-- RAISE_FLOOR (R391). -/
def execRaiseFloor (s : State) : Host.Outcome State Fault Refusal := .next (lcCmd 5 s)

/-- RETURN (R391, R392). -/
def execLcReturn (s : State) : Host.Outcome State Fault Refusal := .next (lcCmd 6 s)

/-- RETIRE (R391, R392). -/
def execRetire (s : State) : Host.Outcome State Fault Refusal := .next (lcCmd 7 s)

/-- LC_DONE (R391). -/
def execLcDone (operand : Option (List Byte)) (s : State) : Host.Outcome State Fault Refusal :=
  .next (lcDone operand s)

/-- MGMT_READ_IDENTITY (R394). -/
def execMgmtReadIdentity (s : State) : Host.Outcome State Fault Refusal :=
  .next (mgmtRead [.sysId, .sysStep, .sysSerialLo, .sysSerialHi] s)

/-- MGMT_READ_MODE (R394). -/
def execMgmtReadMode (s : State) : Host.Outcome State Fault Refusal := .next (mgmtRead [.sysMode, .sysLcStatus] s)

/-- MGMT_READ_THERMAL (R394). -/
def execMgmtReadThermal (s : State) : Host.Outcome State Fault Refusal := .next (mgmtRead [.pwrTmax, .pwrTotal] s)

/-- MGMT_READ_RESET_CAUSE (R394). -/
def execMgmtReadResetCause (s : State) : Host.Outcome State Fault Refusal :=
  .next (mgmtRead [.sysResetCause, .almHours] s)

/-- MGMT_READ_BOOT (R394). -/
def execMgmtReadBoot (s : State) : Host.Outcome State Fault Refusal :=
  .next (mgmtRead [.sysBootStatus, .sysBootKeyid, .sysBootSeqLo, .sysBootSeqHi] s)

/-- WARM_RESET (R394): the management command. -/
def execWarmReset (value : Byte) (s : State) : Host.Outcome State Fault Refusal := .next (mgmtReset value s)

/-- CONFIGURATION_REQUEST (R331, R417). -/
def execConfigurationRequest (q : ConfigReq) (s : State) : Host.Outcome State Fault Refusal := .next (configRequest q s)

/-- PERST_N_RELEASE (R417). -/
def execPerstNRelease (s : State) : Host.Outcome State Fault Refusal := .next (perstRelease s)

/-- POWERED_HOUR (R380): another powered hour. -/
def execPoweredHour (s : State) : Host.Outcome State Fault Refusal := .next (s.wr .almHours (s.rd .almHours + 1))

end Sys2Proof.Machine
end

