-- ==== Sys2Proof/Machine/Bist.lean ====
section
/-! DEFINITION. The self-test engine: programs, slices, faults and repairs (spec 20 R397 to R409). -/

namespace Sys2Proof.Machine

/-- BIST_STATUS.ACCESS (R404). -/
def State.bistAccess (s : State) : Nat := s.rf .bistStatus 8 7

/-- The engine's own state replaced. -/
def State.setBist (s : State) (b : Bist) : State := { s with sys := { s.sys with bist := b } }

/-- The program ends, with its RESULT, and BIST_DONE is raised (R406, R410). -/
def State.bistEnd (s : State) (result : Nat) : State :=
  let b := s.sys.bist
  (((s.setBist { b with entries := [], pausing := none, stop := false, goNext := false, cut := 0, retry := none }).wf
    .bistStatus 2 0 5).wf .bistStatus 6 3 result).raise 768 domCentral

/-- The engine fetches a program (R406). -/
def State.bistFetch (s : State) : State :=
  let s1 := (s.wf .bistStatus 6 0 1).wf .bistStatus 16 9 0
  if s.rb .bistProgCtrl 2 then s1.askHost (s.addr64 .bistProgLo .bistProgHi) 64 else s1

/-- A slice of the program runs: not a repair slice. -/
def State.bistBusy (s : State) : Bool := s.sys.bist.slice && !s.sys.bist.fixing

/-- GO (R404, R406): refused at ACCESS 0; a program that runs is stopped first, at the end of its slice; one that meets a
fetch begins the fetch anew (log entry 119). -/
def bistGo (s : State) : State :=
  if s.bistAccess = 0 then s.reject (addrOf .bistProgCtrl 0 0 0)
  else if s.rf .bistStatus 2 0 ≠ 3 then s.bistFetch
  else if s.bistBusy then s.setBist { s.sys.bist with goNext := true }
  else (s.bistEnd 0).bistFetch

/-- STOP (R406). -/
def bistStop (s : State) : State :=
  if s.rf .bistStatus 2 0 ≠ 3 then s
  else if s.bistBusy then s.setBist { s.sys.bist with stop := true }
  else s.bistEnd 0

/-- Entry j of a program (R405). -/
def bistEntryOf (p : List Byte) (j : Nat) : BistEntry :=
  let a := 64 + 16 * j
  ⟨descField p a 1, descField p (a + 1) 1, descField p (a + 2) 1, descField p (a + 3) 1 % 16,
    nbit (descField p (a + 3) 1) 4, descField p (a + 4) 4, descField p (a + 8) 4⟩

/-- An entry names an instance and an algorithm, with its rows inside (R396, R406). -/
def bistEntryOk (p : List Byte) (j : Nat) : Bool :=
  let e := bistEntryOf p j
  e.cls ≤ 6 && e.part < bistParts e.cls && e.unit < bistUnits e.cls && e.alg ≤ 1 && descField p (67 + 16 * j) 1 < 32 &&
    descField p (76 + 16 * j) 4 == 0 && 1 ≤ e.rows && (!e.offline || e.rows ≤ 1048576) &&
    e.first + e.rows ≤ bistRows e.cls

/-- The first check of R406 from 2 on that a program fails, or 0. -/
def State.bistResult (s : State) (p : List Byte) : Nat :=
  let n := descField p 6 2
  let key := 64 + 16 * n
  let flags := descField p 8 1
  let es := (List.range n).map (bistEntryOf p)
  if descField p 0 4 ≠ 0x54534942 ∨ descField p 4 2 ≠ 1 ∨ n = 0 ∨ 256 < n ∨ 3 < flags ∨ descField p 9 3 ≠ 0 ∨
      descField p 20 44 ≠ 0 then 2
  else if nbit flags 1 && (descField p 16 4 == 0 || 86400000 < descField p 16 4) then 2
  else if !(List.range n).all (bistEntryOk p) then 2
  else if s.bistAccess ≠ 2 && (!nbit flags 0 || es.any (·.offline)) then 3
  else if es.any (fun e => !e.offline && (64 < e.rows || !s.inBudget (s.sliceTime e))) then 4
  else if nbit flags 0 && s.keyOf p key == 0 then 5
  else if nbit flags 0 && !signedAt p key then 6
  else 0

/-- The program at a pattern-store address, read as client 20, or none when a read fails. -/
def State.programAt (s : State) (a : Nat) : Option (List Byte) × State :=
  let (h, bad, s1) := s.psRead 20 a 64
  if bad then (none, s1)
  else if 256 < descField h 6 2 then (some h, s1)
  else
    let (p, bad', s2) := s1.psRead 20 (a + 64) (16 * descField h 6 2 + if nbit (descField h 8 1) 0 then 193 else 0)
    (if bad' then none else some (h ++ p), s2)

/-- The program at the address in the registers. -/
def State.storedProgram (s : State) : Option (List Byte) × State := s.programAt (s.addr64 .bistProgLo .bistProgHi)

/-- The program is read and checked (R406): it runs from its first entry, or ends with its RESULT. -/
def bistFetched (host : Option (List Byte)) (s : State) : State :=
  if s.rf .bistStatus 2 0 ≠ 1 then s
  else
    let (p, s1) := if s.rb .bistProgCtrl 2 then (if s.pci.busMaster then host else none, s) else s.storedProgram
    match p with
    | none => s1.bistEnd 1
    | some p =>
      let r := s1.bistResult p
      if r ≠ 0 then s1.bistEnd r
      else
        let b := s1.sys.bist
        let s2 := s1.setBist { b with
          entries := (List.range (descField p 6 2)).map (bistEntryOf p), repeated := nbit (descField p 8 1) 1
          pause := descField p 16 4, pausing := none, stop := false, goNext := false, cut := 0, retry := none }
        (s2.wf .bistStatus 2 0 3).wr .bistKeyid (BitVec.ofNat 32 (descField p 12 4))

/-- What follows a slice: STOP, a waiting GO, the next entry, the next pass, or the end of the program (R402, R406). -/
def State.bistNext (s : State) : State :=
  let b := s.sys.bist
  let i := s.rf .bistStatus 16 9 + 1
  if b.goNext then (s.bistEnd 0).bistFetch
  else if b.stop then s.bistEnd 0
  else if i < b.entries.length then (s.setBist { b with cut := 0, retry := none }).wf .bistStatus 16 9 i
  else if b.repeated then (s.setBist { b with cut := 0, retry := none, pausing := some s.now }).wf .bistStatus 16 9 0
  else s.bistEnd 0

/-- The one-row slice of a repair (R408). -/
def Repair.entry (r : Repair) : BistEntry := ⟨r.cls, r.part, r.unit, 0, false, r.at_, 1⟩

/-- A slice begins, a waiting repair first (R399, R400, R408); one whose beam's clock has slowed too far is skipped (R398). -/
def sliceBegin (s : State) : State :=
  let b := s.sys.bist
  match b.fix with
  | r :: _ =>
    if s.sliceMay r.entry (s.rowOps r.entry 2) then s.setBist { b with slice := true, fixing := true } else s
  | [] =>
    match s.rf .bistStatus 2 0, s.bistEntry with
    | 3, some e =>
      let t := s.sliceTime e
      if b.pausing.isSome || !s.sliceMay e t then s
      else if !e.offline && (s.boundBeam e).isSome && !s.inBudget t then (s.bump .bistCount 4).bistNext
      else s.setBist { b with slice := true }
    | _, _ => s

/-- The lowest spare of an instance that no repair uses, if the class has one left (R396). -/
def State.freeSpare (s : State) (c part unit : Nat) (column : Bool) : Option Nat :=
  let b := s.sys.bist
  let used := (b.log.filterMap id ++ b.fused ++ b.fix).filterMap (fun r =>
    if r.cls = c ∧ r.part = part ∧ r.unit = unit ∧ r.column = column then some r.spare else none)
  (List.range (if column then spareColumns c else spareRows c)).find? (fun k => !used.contains k)

/-- A spare for a fault; the spares of the stacks' own repair are not stated, so that a row of class 6 has one or not. -/
def State.spareFor (s : State) (e : BistEntry) (column : Bool) : Option Nat × State :=
  if e.cls = 6 then
    if column then (none, s)
    else
      let (v, s1) := s.fresh 2
      (if v = 0 then none else some 0, s1)
  else (s.freeSpare e.cls e.part e.unit column, s)

/-- A fault found in a slice (R407, R408). -/
def State.bistFault (s : State) (e : BistEntry) (f : BistFault) : State :=
  let row := f.row.toNat
  let (spare, s1) := s.spareFor e f.column
  let (v, s2) := s1.fresh 3
  let b := s2.sys.bist
  let fix := match spare with
    | some k => if s.rb .bistCtrl 1 && !f.column && b.log.length + b.fix.length < 512
        then b.fix ++ [⟨e.cls, e.part, e.unit, false, row, k⟩] else b.fix
    | none => b.fix
  let code := if spare.isNone then 0 else if f.column then 2 else v
  let hi := e.cls + e.part * 2 ^ 4 + e.unit * 2 ^ 10 + code * 2 ^ 16 + f.bit.val * 2 ^ 18 +
    (if f.column then 2 else 1) * 2 ^ 28 + 2 ^ 31
  ((((s2.setBist { b with fix }).bump .bistCount 6).wr .bistFailLo (BitVec.ofNat 32 row)).wr .bistFailHi
    (BitVec.ofNat 32 hi)).raise 769 domCentral

/-- Counts of the repair log and of the fuse array. -/
def State.repairShow (s : State) : State :=
  (s.wf .bistRepairStatus 9 0 (s.sys.bist.log.countP (·.isSome))).wf .bistRepairStatus 18 10 s.sys.bist.fused.length

/-- A soft repair is made: the log has its entry, and the fail record says so while it is of that row. -/
def State.repairMade (s : State) (r : Repair) : State :=
  let b := s.sys.bist
  let s1 := (s.setBist { b with log := b.log ++ [some r] }).repairShow
  if s1.rf .bistFailLo 23 0 = r.at_ ∧ s1.rf .bistFailHi 3 0 = r.cls ∧ s1.rf .bistFailHi 9 4 = r.part ∧
      s1.rf .bistFailHi 15 10 = r.unit then s1.wf .bistFailHi 17 16 1
  else s1

/-- A pre-emption (R401, R402): the slice, of the program or of a repair, is retried four budgets later, or abandoned after 16
in a row. -/
def State.slicePreempted (s : State) : State :=
  let b := s.sys.bist
  let s1 := s.bump .bistCount 2
  if b.fixing then
    if 16 ≤ b.fixCut + 1 then
      (s1.bump .bistCount 3).setBist { b with slice := false, fixing := false, fix := b.fix.tail, fixCut := 0 }
    else s1.setBist { b with
      slice := false, fixing := false, fixCut := b.fixCut + 1, retry := some (s.now, 400 * s.rf .bistCtrl 15 8) }
  else if b.goNext || b.stop then (s1.setBist { b with slice := false }).bistNext
  else if 16 ≤ b.cut + 1 then ((s1.bump .bistCount 3).setBist { b with slice := false }).bistNext
  else s1.setBist { b with slice := false, cut := b.cut + 1, retry := some (s.now, 400 * s.rf .bistCtrl 15 8) }

/-- A slice reaches its end (R397, R403, R407, R408). -/
def State.sliceDone (s : State) (faults : List BistFault) (restoreHit : Bool) : State :=
  let b := s.sys.bist
  let s0 := if restoreHit then s.bump .bistCount 2 else s
  if b.fixing then
    match b.fix with
    | r :: t => (s0.setBist { b with slice := false, fixing := false, fix := t, fixCut := 0 }).repairMade r
    | [] => s0.setBist { b with slice := false, fixing := false }
  else match s0.bistEntry with
    | none => s0.setBist { b with slice := false }
    | some e =>
      let rows := (List.range e.rows).map (fun i => e.first + i)
      let skipped := rows.filter (s0.bistSkips e)
      let found := faults.filter (fun f =>
        e.first ≤ f.row.toNat && f.row.toNat < e.first + e.rows && !skipped.contains f.row.toNat)
      let s1 := ((s0.setBist { b with slice := false }).bump .bistCount 0).bump .bistCount 5 (n := skipped.length)
      (found.foldl (fun s f => s.bistFault e f) s1).bistNext

/-- A slice ends (R401): WAITED counts once when a request has waited for it. -/
def sliceEnd (r : SliceEnd) (waited restoreHit : Bool) (s : State) : State :=
  if !s.sys.bist.slice then s
  else
    let s0 := { s with store := { s.store with promoted := setDel 22 s.store.promoted } }
    let s1 := if waited then s0.bump .bistCount 1 else s0
    match r with
    | .done fs => s1.sliceDone fs restoreHit
    | .preempted => s1.slicePreempted

/-- The PAUSE between passes ends (R406). -/
def pauseExpiry (s : State) : State :=
  match s.sys.bist.pausing with
  | some t => if s.passed t (s.sys.bist.pause * 1000000) then s.setBist { s.sys.bist with pausing := none } else s
  | none => s

/-- BIST_REPAIR_CTRL.OP (R408, R409): one that meets an operation under way does not take effect. OP 1 takes the fault of
BIST_FAIL when it may be repaired. -/
def bistRepair (op : Nat) (s : State) : State :=
  if op = 0 then s
  else if s.rb .bistRepairStatus 19 then s.reject (addrOf .bistRepairCtrl 0 0 0)
  else
    let w := s.rd .bistFailHi
    let column := fld w 29 28 == 2
    let e : BistEntry := ⟨fld w 3 0, fld w 9 4, fld w 15 10, 0, false, 0, 1⟩
    let (spare, s1) := s.spareFor e column
    let fault := if op = 1 && bit w 31 && (!column || s.bistAccess == 2) && s.sys.bist.log.length < 512 then
        spare.map (fun k => ⟨e.cls, e.part, e.unit, column, s.rf .bistFailLo 23 0, k⟩)
      else none
    (s1.setBist { s1.sys.bist with op := some (op, fault) }).wb .bistRepairStatus 19 true

/-- Every soft entry goes to the fuse array while it has room; entries of class 6 are fused in the stacks (R409). -/
def fuseRepairs : List (Option Repair) → List Repair → List (Option Repair) × List Repair
  | [], f => ([], f)
  | none :: t, f =>
    let (l, f') := fuseRepairs t f
    (none :: l, f')
  | some r :: t, f =>
    if r.cls = 6 then fuseRepairs t f
    else if f.length < 256 then fuseRepairs t (f ++ [r])
    else
      let (l, f') := fuseRepairs t f
      (some r :: l, f')

/-- The operation under way ends, with its RESULT, and REPAIR_DONE is raised (R409, R410). -/
def repairDone (s : State) : State :=
  let b := s.sys.bist
  match b.op with
  | none => s
  | some (op, fault) =>
    let s1 := s.setBist { b with op := none }
    let (result, s2) := if op = 1 then
        match fault with
        | some r => (0, s1.repairMade r)
        | none =>
          if !s.rb .bistFailHi 31 then s1.fresh 3
          else if s.rf .bistFailHi 29 28 = 2 ∧ s.bistAccess ≠ 2 then (2, s1) else (1, s1)
      else if s.bistAccess ≠ 2 then (2, s1)
      else
        let (l, f) := fuseRepairs b.log b.fused
        (if l.any (·.isSome) then 1 else 0, (s1.setBist { b with op := none, log := l, fused := f }).repairShow)
    ((s2.wb .bistRepairStatus 19 false).wf .bistRepairStatus 21 20 result).raise 770 domCentral

/-- BIST_GO (R406). -/
def execBistGo (s : State) : Host.Outcome State Fault Refusal := .next (bistGo s)

/-- BIST_STOP (R406). -/
def execBistStop (s : State) : Host.Outcome State Fault Refusal := .next (bistStop s)

/-- BIST_PROG_FETCHED (R406). -/
def execBistProgFetched (prog : Option (List Byte)) (s : State) : Host.Outcome State Fault Refusal :=
  .next (bistFetched prog s)

/-- BIST_SLICE_BEGIN (R399). -/
def execBistSliceBegin (s : State) : Host.Outcome State Fault Refusal := .next (sliceBegin s)

/-- BIST_SLICE_END (R407). -/
def execBistSliceEnd (r : SliceEnd) (waited restoreHit : Bool) (s : State) : Host.Outcome State Fault Refusal :=
  .next (sliceEnd r waited restoreHit s)

/-- BIST_PAUSE_EXPIRY (R406). -/
def execBistPauseExpiry (s : State) : Host.Outcome State Fault Refusal := .next (pauseExpiry s)

/-- BIST_REPAIR_SOFT (R408). -/
def execBistRepairSoft (s : State) : Host.Outcome State Fault Refusal := .next (bistRepair 1 s)

/-- BIST_REPAIR_FUSE (R409). -/
def execBistRepairFuse (s : State) : Host.Outcome State Fault Refusal := .next (bistRepair 2 s)

/-- REPAIR_DONE (R409). -/
def execRepairDone (s : State) : Host.Outcome State Fault Refusal := .next (repairDone s)

end Sys2Proof.Machine
end

