-- ==== Sys2Proof/Machine/Tap.lean ====
section
/-! DEFINITION. The TAP (spec 21 R423, R424). -/

namespace Sys2Proof.Machine

/-- The life-cycle state as the TAP takes it: Retired until boot step 1 has sensed the fuses (R423). -/
def State.tapState (s : State) : Nat :=
  match s.sys.reset with
  | .up => s.lcState
  | .boot n _ _ => if n = 1 then 5 else s.lcState
  | .stuck sensed => if sensed then s.lcState else 5
  | .held => 5

/-- Blank, Manufacture and Returned, in which the debug instructions are permitted. -/
def State.tapOpen (s : State) : Bool := s.tapState ≤ 1 || s.tapState == 4

/-- The IDCODE register (R423); the manufacturer identity is fused. -/
def State.idcode (s : State) : Word :=
  BitVec.ofNat 32 (s.rf .sysStep 3 0 * 2 ^ 28 + 0x4816 * 2 ^ 12 + fld (s.fuse 0x4000500) 10 0 * 2 + 1)

/-- An instruction becomes current at Update-IR. When the balls leave the functional logic, Active ports lose their partners
and return to Base, for a cause that depends on which loss is seen first, and the PCIe link goes to DL_Down (R424, R260). -/
def tapLoad (op : Nat) (s : State) : State :=
  let s1 := { s with sys := { s.sys with tapIr := op } }
  if s.scanned || !s1.scanned then s1
  else
    let s2 := (List.range 8).foldl (fun s p =>
      let (v, s') := s.fresh 3
      s'.renegotiate p (v + 1)) s1
    s2.linkLoss 4 false s2.pci.perst

/-- BYPASS. -/
def tapBypass (s : State) : State := tapLoad 0xFF s

/-- LC_MANUFACTURE (R423): only in Blank with the Kamnor steward digest fused. -/
def lcManufacture (s : State) : State :=
  if s.tapState = 0 ∧ s.sealedDigest 0 then (tapLoad 0x30 s).setLc 1 else tapBypass s

/-- TAP_RESET (R423): IDCODE becomes current, as IEEE Std 1149.1 has it. -/
def execTapReset (s : State) : Host.Outcome State Fault Refusal := .next (tapLoad 0x01 s)

/-- EXTEST (R424). -/
def execExtest (s : State) : Host.Outcome State Fault Refusal := .next (tapLoad 0x00 s)

/-- IDCODE (R423). -/
def execIdcode (s : State) : Host.Outcome State Fault Refusal := .next (tapLoad 0x01 s)

/-- SAMPLE/PRELOAD (R423). -/
def execSamplePreload (s : State) : Host.Outcome State Fault Refusal := .next (tapLoad 0x02 s)

/-- EXTEST_PULSE (R424). -/
def execExtestPulse (s : State) : Host.Outcome State Fault Refusal := .next (tapLoad 0x04 s)

/-- EXTEST_TRAIN (R424). -/
def execExtestTrain (s : State) : Host.Outcome State Fault Refusal := .next (tapLoad 0x05 s)

/-- CLAMP (R424). -/
def execClamp (s : State) : Host.Outcome State Fault Refusal := .next (tapLoad 0x06 s)

/-- HIGHZ (R424). -/
def execHighz (s : State) : Host.Outcome State Fault Refusal := .next (tapLoad 0x07 s)

/-- DBG_HALT (R386, R423): ignored where Debug Halt may not be entered. -/
def execDbgHalt (s : State) : Host.Outcome State Fault Refusal :=
  .next (if s.tapOpen then (let s1 := tapLoad 0x20 s; if s1.haltAllowed then s1.haltAll else s1) else tapBypass s)

/-- DBG_RESUME (R386, R423). -/
def execDbgResume (s : State) : Host.Outcome State Fault Refusal :=
  .next (if s.tapOpen then (tapLoad 0x21 s).haltEnd else tapBypass s)

/-- WARM (R387, R423). -/
def execWarm (s : State) : Host.Outcome State Fault Refusal :=
  .next (if s.tapOpen then (tapLoad 0x22 s).warmTrigger 4 else tapBypass s)

/-- LC_MANUFACTURE (R423). -/
def execLcManufacture (s : State) : Host.Outcome State Fault Refusal := .next (lcManufacture s)

/-- STEWARD_DEBUG_ACCESS (R423): instruction 0x31 + k, where permitted. -/
def execStewardDebugAccess (k : Fin 15) (s : State) : Host.Outcome State Fault Refusal :=
  .next (if s.tapOpen then tapLoad (0x31 + k) s else tapBypass s)

/-- BYPASS, or any opcode that is not listed or not permitted (R423). -/
def execBypass (s : State) : Host.Outcome State Fault Refusal := .next (tapBypass s)

end Sys2Proof.Machine
end

