-- ==== Sys2Proof/Machine/LpControl.lean ====
section
/-! DEFINITION. Line processors (spec 11): LSW (R240, R191), WAITL (R231), and the control register LP_CTRL with stepping
(R242, R245). -/

namespace Sys2Proof.Machine

/-- Entries of line processor n that have neither left the queue nor been rejected (R191). -/
def State.lsqIssued (s : State) (n : Nat) : Nat := (s.beam n).queue.length + (s.beam n).crossing.length

/-- LSW (R240): four registers become one entry of the crossing; with 512 issued the core freezes, and the same LSW goes on
once one has gone. Illegal on a steward core and for a register outside 4, 8, ..., 28 (R213). -/
def lswOp (c : Nat) (o : FmtHigh) (s : State) : State :=
  let k0 := s.core c
  let s0 := if k0.run = .waiting ∧ k0.wait = .lsw then
      let s1 := s.waited c
      s1.setCore c { s1.core c with run := .running, wait := .none }
    else s
  issueIf c (fun _ => isLp c && o.imm = 0 && o.rd.val != 0 && o.rd.val % 4 = 0) (fun k s =>
    let k := k.need ((List.range 4).map (fun i => PReg.g (o.rd + i)))
    if 512 ≤ s.lsqIssued c then s.setCore c { k with run := .waiting, wait := .lsw }
    else
      let e : Rec4 := ⟨k.gr o.rd, k.gr (o.rd + 1), k.gr (o.rd + 2), k.gr (o.rd + 3)⟩
      let b := s.beam c
      let s1 := if s.fenced (domBeam c) then s.fenceDrop domSteward else s.setBeam c { b with crossing := b.crossing ++ [e] }
      s1.setCore c (k.finish 1)) s0

/-- The outcome of a WAITL on line processor c now (R231). -/
def State.waitlNow (s : State) (c : Nat) (pos : Word) : Option Word :=
  let b := s.beam c
  waitlOutcome c pos (b.cf .beamTotal 30 16 c) (s.rb .beamStatus 0 c) s

/-- WAITL (R231). -/
def waitlOp (c : Nat) (o : FmtSpec) (s : State) : State :=
  issueIf c (fun _ => isLp c && specOk o false true true) (fun k s =>
    let k := k.need [.g o.ra]
    match s.waitlNow c (k.gr o.ra) with
    | some v => s.setCore c ((k.result (.g o.rd) v 2 1).finish 1)
    | none => s.setCore c { k with run := .waiting, wait := .waitl o.rd (k.gr o.ra) }) s

/-- The wait of a WAITL ends (R231). -/
def waitlEnd (c : Nat) (s : State) : State :=
  let k := s.core c
  match k.run, k.wait with
  | .waiting, .waitl rd pos =>
    match s.waitlNow c pos with
    | some v =>
      let s1 := s.waited c
      s1.setCore c (({ s1.core c with run := .running, wait := .none }.result (.g rd) v 2 1).finish 1)
    | none => s
  | _, _ => s

/-- The meaning of a decoded Fanel instruction on its core; a word that is none of them is illegal (R213). -/
def runFanel (c : Nat) (i : Option Instr) (s : State) : State :=
  match i with
  | some (.add c o) => aluRR aluAdd c o s
  | some (.sub c o) => aluRR aluSub c o s
  | some (.and c o) => aluRR aluAnd c o s
  | some (.or c o) => aluRR aluOr c o s
  | some (.xor c o) => aluRR aluXor c o s
  | some (.nor c o) => aluRR aluNor c o s
  | some (.slt c o) => aluRR aluSlt c o s
  | some (.sltu c o) => aluRR aluSltu c o s
  | some (.sll c o) => aluRR aluSll c o s
  | some (.srl c o) => aluRR aluSrl c o s
  | some (.sra c o) => aluRR aluSra c o s
  | some (.ror c o) => aluRR aluRor c o s
  | some (.rol c o) => aluRR aluRol c o s
  | some (.min c o) => aluRR aluMin c o s
  | some (.max c o) => aluRR aluMax c o s
  | some (.minu c o) => aluRR aluMinu c o s
  | some (.maxu c o) => aluRR aluMaxu c o s
  | some (.neg c o) => aluR aluNeg c o s
  | some (.slli c o) => aluSh aluSll c o s
  | some (.srli c o) => aluSh aluSrl c o s
  | some (.srai c o) => aluSh aluSra c o s
  | some (.rori c o) => aluSh aluRor c o s
  | some (.addi c o) => aluImm aluAdd (sext14 o.imm) c o s
  | some (.andi c o) => aluImm aluAnd (zext14 o.imm) c o s
  | some (.ori c o) => aluImm aluOr (zext14 o.imm) c o s
  | some (.xori c o) => aluImm aluXor (zext14 o.imm) c o s
  | some (.slti c o) => aluImm aluSlt (sext14 o.imm) c o s
  | some (.sltiu c o) => aluImm aluSltu (sext14 o.imm) c o s
  | some (.movu c o) => issue c (fun k s => aluDone c o.rd k (withNZ (BitVec.ofNat 32 (o.imm.toNat * 2 ^ 13))) s) s
  | some (.mul c o) => mulOp true false c o s
  | some (.mulu c o) => mulOp false false c o s
  | some (.mac c o) => mulOp true true c o s
  | some (.macu c o) => mulOp false true c o s
  | some (.div c o) => divOp true c o s
  | some (.divu c o) => divOp false c o s
  | some (.ldw c o) => loadOp 4 false c o s
  | some (.ldh c o) => loadOp 2 true c o s
  | some (.ldhu c o) => loadOp 2 false c o s
  | some (.ldb c o) => loadOp 1 true c o s
  | some (.ldbu c o) => loadOp 1 false c o s
  | some (.stw c o) => storeOp 4 c o s
  | some (.sth c o) => storeOp 2 c o s
  | some (.stb c o) => storeOp 1 c o s
  | some (.beq c o) => branchOp (fun a b => a == b) c o s
  | some (.bne c o) => branchOp (fun a b => a != b) c o s
  | some (.blt c o) => branchOp (fun a b => a.slt b) c o s
  | some (.bge c o) => branchOp (fun a b => !a.slt b) c o s
  | some (.bltu c o) => branchOp (fun a b => a.ult b) c o s
  | some (.bgeu c o) => branchOp (fun a b => !a.ult b) c o s
  | some (.j c off) => jOp false c off s
  | some (.jal c off) => jOp true c off s
  | some (.jr c o) => jrOp false c o s
  | some (.jalr c o) => jrOp true c o s
  | some (.loop c o) => loopOp c o s
  | some (.loopi c o) => loopiOp c o s
  | some (.callm c o) => callmOp c o s
  | some (.retm c z) => retmOp c z s
  | some (.fanelNop c o) => nopOp c o s
  | some (.mfs c o) => mfsOp c o s
  | some (.mts c o) => mtsOp c o s
  | some (.wfe c o) => wfeOp c o s
  | some (.sev c o) => sevOp c o s
  | some (.waitt c o) => waittOp c o s
  | some (.msync c o) => msyncOp c o s
  | some (.leave c o) => leaveOp c o s
  | some (.brk c o) => brkOp c o s
  | some (.sysc c o) => syscOp c o s
  | some (.reti c o _) => retiOp c o [] true s
  | some (.lsw c o) => lswOp c o s
  | some (.waitl c o) => waitlOp c o s
  | _ => issue c (fun k s => illegal c k s) s

/-- A core that has stepped halts: a wait is abandoned (R242); one that halted for another reason, or is in Lockup, stays. -/
def Core.stepHalt (k : Core) : Core :=
  match k.run, k.wait with
  | .running, _ => k.halt 4
  | .waiting, .load _ _ _ _ => { k with stepped := true }
  | .waiting, .store _ _ _ => { k with stepped := true }
  | .waiting, _ => k.halt 4
  | _, _ => k

/-- STEP (R242): one instruction with no interrupt taken. -/
def lpStep (n : Fin 16) (s : State) : State :=
  let k := s.core n
  if k.run ≠ .halted then s
  else
    let c : Fin 20 := n.castLE (by decide)
    let s1 := s.setCore n { k with run := .running, why := 0, skipBp := true }
    let s2 := runFanel n (decodeFanel c (k.tcmWord k.pc.toNat)) s1
    s2.setCore n (s2.core n).stepHalt

/-- A core held in reset: its memories and configuration are kept. -/
def Core.held (k : Core) (pipeX : Bool) : Core := { itcm := k.itcm, dtcm := k.dtcm, pipeX }

/-- HALT of LP_CTRL as written (R241, R242); a window access ends first, and Debug Halt keeps its cores halted. -/
def State.lpHalt (s : State) (n : Nat) (halt : Bool) : State :=
  let k := s.core n
  if halt then
    if k.run = .running then s.setCore n ({ k with stepped := false }.halt 1)
    else if k.run ≠ .waiting then s
    else if k.inWindow then s.setCore n { k with stepped := false }
    else
      let s1 := s.waited n
      s1.setCore n ({ s1.core n with stepped := false }.halt 1)
  else if s.mode = 7 then s
  else if k.run = .halted then s.setCore n { k with run := .running, why := 0, skipBp := true }
  else s.setCore n { k with stepped := false }

/-- A write of LP_CTRL (R205, R242, R245): RUN, PIPE, then STEP, then HALT. -/
def lpCtrlWrite (n : Fin 16) (w : Word) (s : State) : State :=
  let k := s.core n
  if bit w 1 ≠ k.pipeX ∧ k.run ≠ .reset ∧ k.run ≠ .halted then s.reject (addrOf .lpCtrl n 0 0)
  else
    let s1 := (s.wr .lpCtrl (setBit w 3 false) n).setCore n { k with pipeX := bit w 1 }
    if !bit w 0 then ((s1.setCore n (k.held (bit w 1))).endActive n 0).arbitrate
    else
      let s2 := if k.run = .reset then
          let up := { (k.held (bit w 1)) with run := .running }
          s1.setCore n (if s1.mode = 7 then up.debugHalt else up)
        else s1
      let s3 := if bit w 3 then lpStep n s2 else s2
      s3.lpHalt n (bit w 2)

/-- LSW (R240). -/
def execLsw (c : Fin 20) (o : FmtHigh) (s : State) : Host.Outcome State Fault Refusal := .next (lswOp c o s)

/-- WAITL (R231). -/
def execWaitl (c : Fin 20) (o : FmtSpec) (s : State) : Host.Outcome State Fault Refusal := .next (waitlOp c o s)

/-- WAITL_END (R231). -/
def execWaitlEnd (c : Fin 20) (s : State) : Host.Outcome State Fault Refusal := .next (waitlEnd c s)

/-- LP_RUN (R245). -/
def execLpRun (n : Fin 16) (s : State) : Host.Outcome State Fault Refusal :=
  .next (lpCtrlWrite n (setBit (s.rd .lpCtrl n) 0 true) s)

/-- LP_RESET (R245). -/
def execLpReset (n : Fin 16) (s : State) : Host.Outcome State Fault Refusal :=
  .next (lpCtrlWrite n (setBit (s.rd .lpCtrl n) 0 false) s)

/-- LP_HALT (R242). -/
def execLpHalt (n : Fin 16) (s : State) : Host.Outcome State Fault Refusal :=
  .next (lpCtrlWrite n (setBit (s.rd .lpCtrl n) 2 true) s)

/-- LP_RESUME (R242). -/
def execLpResume (n : Fin 16) (s : State) : Host.Outcome State Fault Refusal :=
  .next (lpCtrlWrite n (setBit (s.rd .lpCtrl n) 2 false) s)

/-- LP_STEP (R242), with the HALT value of the same write. -/
def execLpStep (n : Fin 16) (halt : Bool) (s : State) : Host.Outcome State Fault Refusal :=
  .next (lpCtrlWrite n (setBit (setBit (s.rd .lpCtrl n) 2 halt) 3 true) s)

end Sys2Proof.Machine
end

