-- ==== Sys2Proof/Machine/RingCtl.lean ====
section
/-! DEFINITION. Ring control (spec 03 R70, R71): enabling and disabling command, completion and event rings, HST_CTRL, and
the write-back of the fetch indices (R56). -/

namespace Sys2Proof.Machine

/-- A ring's base suits its size: aligned to the larger of 4 KiB and its own size (R70). -/
def ringAligned (base k entry : Nat) : Bool := base % 4096 == 0 && base % (2 ^ k * entry) == 0

/-- The fetch indices as they are written to the host (R56). -/
def State.fetchWords (s : State) : List Byte := (List.range 64).flatMap (fun r => bytesLE 4 (s.rf .hstCrStatus 16 0 r))

/-- Poll rounds of which no fetch is under way any more end: each that advanced an index writes the whole area once, when
WB_EN is 1 (R56). -/
def State.endRounds (s : State) : State :=
  let busy := s.hst.rings.toList.flatMap (fun g => g.fetching.map (·.2))
  let past := s.hst.advanced.filter (fun n => !busy.contains n)
  let s1 := { s with hst := { s.hst with advanced := s.hst.advanced.filter (busy.contains ·) } }
  if s.rb .hstCtrl 2 then past.foldl (fun s _ => s.putHost (s.addr64 .hstWbBaseLo .hstWbBaseHi) s.fetchWords) s1 else s1

/-- A command ring is enabled (R70): its index is zero and it runs. It keeps what it began, before a reset of
the HST block (R73) or while it still drains. From Idle it latches its completion ring; a ring that drains keeps its own
until it is Idle. -/
def State.crEnable (s : State) (r : Nat) (w : Word) : State :=
  let g := s.ring r
  let s1 := ((s.wr .hstCrCtrl w r).wf .hstCrStatus 16 0 0 r).wf .hstCrStatus 18 17 1 r
  let g1 := { g with ready := [], fetching := [], pi := 0 }
  if s.rf .hstCrStatus 18 17 r = 0 then
    (s1.wb .hstCrStatus 21 false r).setRing r { g1 with cq := fld w 11 6 }
  else s1.setRing r g1

/-- A command ring that runs or is faulted begins to drain: descriptors fetched and not begun complete ABORTED (R71).
DESIGN CHOICE (log 108): so do those of a faulted ring, also where it had begun none. -/
def State.crDrain (s : State) (r : Nat) (w : Word) : State :=
  let g := s.ring r
  let s1 := (s.wr .hstCrCtrl w r).setRing r { g with ready := [], fetching := [], begun := g.begun ++ g.ready.map (·.1) }
  let s2 := g.ready.foldl (fun s d => s.finish r d.1 d.2 0x0C 0 0) s1
  ((s2.wf .hstCrStatus 18 17 2 r).settleRing r).endRounds

/-- A write of HST_CRn_CTRL (R70, R71). -/
def crCtrlWrite (r : Nat) (w : Word) (s : State) : State :=
  let old := s.rd .hstCrCtrl r
  let no := s.reject (addrOf .hstCrCtrl r 0 0)
  if bit old 0 then
    if fld w 5 1 ≠ fld old 5 1 then no
    else if bit w 0 then s.wr .hstCrCtrl w r
    else s.crDrain r w
  else if bit w 0 then
    if !ringAligned (s.addr64 .hstCrBaseLo .hstCrBaseHi r) (fld w 5 1) 64 ||
        !s.rb .hstCqCtrl 0 (fld w 11 6) then no
    else s.crEnable r w
  else s.wr .hstCrCtrl w r

/-- A command ring that is not Idle uses completion ring c. -/
def State.cqInUse (s : State) (c : Nat) : Bool :=
  (List.range 64).any (fun r => s.rf .hstCrStatus 18 17 r != 0 && (s.ring r).cq == c)

/-- A write of HST_CQn_CTRL (R70). -/
def cqCtrlWrite (c : Nat) (w : Word) (s : State) : State :=
  let old := s.rd .hstCqCtrl c
  let no := s.reject (addrOf .hstCqCtrl c 0 0)
  if bit old 0 then
    if fld w 5 1 ≠ fld old 5 1 || (!bit w 0 && s.cqInUse c) then no else s.wr .hstCqCtrl w c
  else if bit w 0 then
    if !ringAligned (s.addr64 .hstCqBaseLo .hstCqBaseHi c) (fld w 5 1) 32 then no
    else
      let s1 := (s.wr .hstCqCtrl w c).wf .hstCqStatus 18 0 0x20000 c
      { s1 with hst := { s1.hst with cqCi := vset s1.hst.cqCi c 0 } }
  else s.wr .hstCqCtrl w c

/-- A write of HST_EQ_CTRL (R70). -/
def eqCtrlWrite (w : Word) (s : State) : State :=
  let old := s.rd .hstEqCtrl
  let no := s.reject (addrOf .hstEqCtrl 0 0 0)
  if bit old 0 then (if fld w 5 1 ≠ fld old 5 1 then no else s.wr .hstEqCtrl w)
  else if bit w 0 then
    if !ringAligned (s.addr64 .hstEqBaseLo .hstEqBaseHi) (fld w 5 1) 32 then no
    else
      let s1 := (s.wr .hstEqCtrl w).wf .hstEqStatus 18 0 0x20000
      { s1 with hst := { s1.hst with eqCi := 0 } }
  else s.wr .hstEqCtrl w

/-- A write of a ring's base while its EN is 1 does not take effect (R70). -/
def ringBaseWrite (ctrl r : RegName) (i : Nat) (w : Word) (s : State) : State :=
  if s.rb ctrl 0 i then s.reject (addrOf r i 0 0) else s.wr r w i

/-- A write of HST_CTRL (R58, R74): polling that starts uses the minimum interval; RESUME. -/
def hstCtrlWrite (w : Word) (s : State) : State :=
  let start := bit w 0 && !s.rb .hstCtrl 0
  let s1 := s.wr .hstCtrl (setBit w 1 false)
  let s2 := if start then s1.wf .hstPoll 25 16 (s1.rf .hstPoll 9 0) else s1
  if bit w 1 then hostResume s2 else s2

/-- EN of a ring's control register is written, the other fields as they stand. -/
def ringEnable (ring : RingId) (en : Bool) (s : State) : State :=
  match ring with
  | .command n => crCtrlWrite n (setBit (s.rd .hstCrCtrl n) 0 en) s
  | .completion n => cqCtrlWrite n (setBit (s.rd .hstCqCtrl n) 0 en) s
  | .event => eqCtrlWrite (setBit (s.rd .hstEqCtrl) 0 en) s

/-- RING_ENABLE (R70). -/
def execRingEnable (ring : RingId) (s : State) : Host.Outcome State Fault Refusal := .next (ringEnable ring true s)

/-- RING_DISABLE (R71). -/
def execRingDisable (ring : RingId) (s : State) : Host.Outcome State Fault Refusal := .next (ringEnable ring false s)

end Sys2Proof.Machine
end

