-- ==== Sys2Proof/Machine/Bus.lean ====
section
/-! DEFINITION. Register accesses (spec 00 R5, spec 01 R13, R20 to R23, spec 02 R27, R28, spec 18 R366): what a write or a
read of each register does, for BAR0, descriptors, DMA device space and the cores' device windows; and the BAR2 window
(spec 03 R49, R50). -/

namespace Sys2Proof.Machine

/-! Senders. -/

/-- The clock domain that sends an access, for a fenced crossing (R13). -/
def senderDomain : Origin → Nat
  | .host => 2
  | .descriptor => 2
  | .dma => 37
  | .steward => domSteward

/-- Registers that R366 gives to the host alone, and to the steward alone. -/
def hostWritten : List RegName := [.pwrCfg, .pwrCap, .pwrTherm, .pwrBeamMin, .pwrRailCfg, .almLeap]
def stewardWritten : List RegName :=
  [.pwrLedger, .pwrBeamTgt, .pwrRailCtrl, .pwrPlanW0, .pwrPlanW1, .pwrPlanW, .pwrPlanCtrl, .pwrDat, .pwrPmbCtrl,
    .pwrPmbData, .almCtrl, .almLogCtrl, .almLogIdx, .almLogData]

/-- The sender may write the register (R366, R389). DESIGN CHOICE (log 109): a steward store or a DMA write may clear MASK of
an MSI-X vector, since R76's "only by the host" names whose task it is and gives no rejection. -/
def writerOk (o : Origin) (r : RegName) : Bool :=
  if hostWritten.contains r then o != .steward
  else if stewardWritten.contains r then o == .steward
  else if r = .sysScCtrl then o == .host
  else true

/-- The access crosses a fence (R13): one to a line processor's memories, while the beam's island or the steward cluster is
fenced. The other registers of a beam's region remain in the central fabric's copy, and those of the other units are reached
with their islands gated (log entry 97). -/
def State.fencedAt (s : State) (a : Nat) : Bool :=
  match regAt a with
  | some (.lpItcm, n, _) => s.fenced (domBeam n) || s.fenced domSteward
  | some (.lpDtcm, n, _) => s.fenced (domBeam n) || s.fenced domSteward
  | _ => false

/-! Writes. -/

/-- A register is a counter with SAT: COUNT in [30:0], and SAT the one bit that a write of 1 clears (R7). BEAM_FRAME and
EVT_SRCs_STATUS have other fields. -/
def RegRow.counts (m : RegRow) : Bool := m.ro == 2 ^ 31 - 1 && m.w1c == 2 ^ 31

/-- The word that a register holds after a write, by the access codes of R3; a write of 1 to SAT of a counter sets COUNT to
zero too (R7). -/
def mergeWord (m : RegRow) (old w : Word) : Word :=
  let f (x : Nat) : Word := BitVec.ofNat 32 x
  if m.counts && bit w 31 then 0 else
  (w &&& f (m.rw ||| m.rws)) ||| (old &&& ~~~ f (m.rw ||| m.rws) &&& ~~~ (w &&& f m.w1c)) ||| (w &&& f m.w1s)

/-- The state with a register written by its access codes alone. -/
def State.put (s : State) (r : RegName) (i j k : Nat) (w : Word) : State :=
  s.wr r (mergeWord (rowOf r) (s.rd r i j k) w) i j k

/-- A write of DMA_CHc_BAD: BAD_FIRST and BAD_LAST read zero while COUNT is zero (R324). -/
def dmaBadWrite (c : Nat) (w : Word) (s : State) : State :=
  let s1 := s.put .dmaChBad c 0 0 w
  if bit w 31 then (s1.wr .dmaChBadFirst 0 c).wr .dmaChBadLast 0 c else s1

/-- The words of a bus's parameter set (R288). -/
def busParams : List RegName :=
  [.audBusBq0, .audBusBq, .audBusBqen, .audBusComp, .audBusThresh, .audBusTime, .audBusDlyBase, .audBusDlyLen,
    .audBusFbwet, .audBusDry, .audBusGain, .audBusEnd]

/-- The Masquerade registers of a port (R270). -/
def masqRegs : List RegName :=
  [.lnkPMasqCtrl, .lnkPMasqBeams, .lnkPMasqLine, .lnkPMasqPeriod, .lnkPMasqLimit, .lnkPMasqStatus]

/-- A word of a line processor's memory is written from outside (R239): a poisoned 32-byte word stays poisoned until all of
its words have been written in ascending order. -/
def State.tcmWrite (s : State) (c a : Nat) (w : Word) : State :=
  let key := tcmKey c a
  let at_ := a % 32 / 4
  let s1 := if s.tbl.poison.contains key then s else (s.readTable key).2
  let s2 := s1.setCore c ((s1.core c).setTcm a w)
  if !s2.tbl.poison.contains key then s2
  else
    let e := ((kvGet key s2.tbl.err).getD []).filter (fun p => p.1 / 4 != at_)
    let done := if at_ = 0 then 1 else if kvGet key s2.tbl.clear = some at_ then at_ + 1 else 0
    let s3 := { s2 with tbl := { s2.tbl with err := kvPut [] key e s2.tbl.err, clear := kvPut 0 key done s2.tbl.clear } }
    if done = 8 then s3.cleanTable key else s3

/-- LP_DBG_Gi and LP_DBG_Ss (R242): with the checks of R207, while the core is halted. -/
def dbgRegWrite (a n : Nat) (special : Bool) (j : Nat) (w : Word) (s : State) : State :=
  let k := s.core n
  if k.run ≠ .halted then s.reject a
  else if !special then s.setCore n (k.apply (.g j) w)
  else if !spExists n j || (mtsWritable j && !mtsOk j w) then s.reject a
  else if !mtsWritable j then s
  else if j = 0 then s.setCore n { k with st := setBit w 16 false }
  else s.setCore n (k.apply (.sp j) w)

/-- A write with a valid word to a register that has no effect but its own: SYS, HST, EVT, TMR and GPIO registers. -/
def writeCentral (o : Origin) (a : Nat) (r : RegName) (i j k : Nat) (w : Word) (s : State) : State :=
  let put := s.put r i j k w
  match r with
  | .sysModeReq => modeReq (fld w 2 0) s
  | .sysDbg => dbgWrite (bit w 0) s
  | .sysReset => if bit w 0 then s.warmTrigger (if o = .steward then 5 else 2) else s
  | .sysWake => put.timeWake
  | .sysWakeTimeLo => put.timeWake
  | .sysWakeTimeHi => put.timeWake
  | .sysScCtrl => scCtrlWrite (fld w 3 0) (bit w 4) s
  | .sysBootCtrl => if bit w 0 then put.bootGo .sysBootCtrl else put
  | .sysLcCmd => lcCmd (fld w 3 0) s
  | .sysPsInjectCtrl => injectWrite (fld w 1 0) s
  | .sysPsRes => if 256 < s.resSum i (fld w 8 0) then s.reject a else put
  | .sysCenCtrl => cenCtrlWrite w s
  | .sysCgMap => cgMapWrite i w s
  | .sysCgCtrl => put.capUpdates
  | .hstCtrl => hstCtrlWrite w s
  | .hstEqBaseLo => ringBaseWrite .hstEqCtrl r 0 w s
  | .hstEqBaseHi => ringBaseWrite .hstEqCtrl r 0 w s
  | .hstEqCtrl => eqCtrlWrite w s
  | .hstCrBaseLo => ringBaseWrite .hstCrCtrl r i w s
  | .hstCrBaseHi => ringBaseWrite .hstCrCtrl r i w s
  | .hstCrCtrl => crCtrlWrite i w s
  | .hstCqBaseLo => ringBaseWrite .hstCqCtrl r i w s
  | .hstCqBaseHi => ringBaseWrite .hstCqCtrl r i w s
  | .hstCqCtrl => cqCtrlWrite i w s
  | .hstMsixAddrLo => put.arbitrate
  | .hstMsixAddrHi => put.arbitrate
  | .hstMsixMask => put.arbitrate
  | .evtCtrl => put.arbitrate
  | .evtSwi => swiWrite w s
  | .evtCoreCtrl => put.arbitrate
  | .evtSrcCfg => if bit w 0 && !isSource i then s.reject a else srcCfgWrite i w s
  | .evtSrcCoal => put.arbitrate
  | .evtSrcStatus => srcStatusWrite i w s
  | .evtQRes => if 16384 < s.reserveSum - s.rf .evtQRes 14 0 i + fld w 14 0 then s.reject a else put
  | .tmrTbCtrl => if bit w 0 then tbLoad s else s
  | .tmrCmpValue => cmpValueWrite i w s
  | .tmrCmpCtrl => cmpCtrlWrite i w s
  | .tmrItCtrl => itCtrlWrite i w s
  | .tmrItLoad => itLoadWrite i w s
  | .gpioOut => gpioOutWrite i w s
  | .gpioSet => gpioSet i w s
  | .gpioClr => gpioClr i w s
  | .gpioPCtrl => gpioCtrlWrite i w s
  | .gpioPIn => gpioInWrite i w s
  | _ => put

/-- The same for PWR, ALM, BIST, DMA, BLT, AUD and LNK registers. -/
def writeUnits (a : Nat) (r : RegName) (i j k : Nat) (w : Word) (s : State) : State :=
  let put := s.put r i j k w
  if busParams.contains r && s.liveSet (i % 64) == i then s.reject a
  else if masqRegs.contains r && s.mode != 5 then s.reject a
  else match r with
  | .pwrLedger => ledgerWrite w s
  | .pwrBeamMin => put.ladderTargets
  | .pwrBeamTgt => put.ladderTargets
  | .pwrRailCfg => put.railSettle i
  | .pwrRailCtrl => put.railSettle i
  | .pwrPlanCtrl => if bit w 0 then leap s else s
  | .pwrDat =>
    let f := s.rf .pwrDat 15 8 i j
    if f ≠ 255 && fld w 7 0 < f then s.reject a else put.railSettle i
  | .pwrPmbCtrl => pmbWrite w s
  | .almCtrl => almCtrlWrite w s
  | .almLogCtrl => logOp (fld w 1 0) s
  | .bistProgCtrl => if bit w 0 then bistGo put else if bit w 1 then bistStop put else put
  | .bistRepairCtrl => bistRepair (fld w 1 0) s
  | .dmaChCtrl => dmaCtrlWrite i w s
  | .dmaChBad => dmaBadWrite i w s
  | .bltStageBase => if s.bltIdle then put else s.reject a
  | .bltStageSize => if s.bltIdle then put else s.reject a
  | .bltDirectCtrl => if bit w 0 then directGo s else s
  | .audCtrl => audCtrlWrite w s
  | .audClk => audClkWrite w s
  | .audSwap => busSwap i w s
  | .audXp => crosspointWrite i w s
  | .audV5 => gainWrite i r i w s
  | .audOc => gainWrite (1024 + i) r i w s
  | .audFeedData => feedPush i w s
  | .audVeqW => veqWrite i j w s
  | .audVeqRes => if 16384 < s.reserveSum - s.rf .audVeqRes 14 0 i + fld w 14 0 then s.reject a else put
  | .audTdmCtrl => put.railsSettle
  | .lnkPCtrl => lnkCtrlWrite i w s
  | .lnkPMasqPeriod => if masqPeriodOk (s.rb .lnkPMasqCtrl 20 i) w then put else s.reject a
  | .lnkPMasqCtrl => put.wf .lnkPMasqStatus 15 0 0 i
  | _ => put

/-- The same for the registers of a beam's region. -/
def writeBeam (a : Nat) (r : RegName) (i j k : Nat) (w : Word) (s : State) : State :=
  let put := s.put r i j k w
  match r with
  | .beamCtrl => if bit w 0 && (s.lcState == 5 || s.rb .sysBootStatus 9) then s.reject a else put
  | .objPeak => if bit w 31 then peakClear i s else s
  | .cmpPleCtrl => if bit w 0 then pleGo ((beamOf a).getD 0) s else s
  | .lpCtrl => if h : i < 16 then lpCtrlWrite ⟨i, h⟩ w s else s
  | .lpRaMinHeld => if bit w 31 then s.wf .lpRaMinHeld 14 0 0x7FFF i else s
  | .lpDbgG => dbgRegWrite a i false j w s
  | .lpDbgS => dbgRegWrite a i true j w s
  | .lpItcm => s.tcmWrite i (4 * j) w
  | .lpDtcm => s.tcmWrite i (0x10000 + 4 * j) w
  | _ => put

/-- A write with a valid word by a sender that may write the register; `a` is the address as written. -/
def writeReg (o : Origin) (a : Nat) (r : RegName) (i j k : Nat) (w : Word) (s : State) : State :=
  if a < 0x50000 ∨ 0x3100000 ≤ a then writeCentral o a r i j k w s
  else if a < 0xB0000 then writeUnits a r i j k w s
  else if a < 0x1100000 then writeBeam a r i j k w s
  else s.put r i j k w

/-- Run a write and tell whether it was recorded in the REJECT register of its address (R5, R23): the register is emptied
first and put back when nothing was recorded. -/
def judged (a : Nat) (f : State → State) (s : State) : WriteRes × State :=
  let r := rejectReg a
  let old := s.rd r.1 r.2
  let s1 := f (s.wr r.1 0 r.2)
  if s1.rb r.1 31 r.2 then (.rejected, s1) else (.ok, s1.wr r.1 old r.2)

/-- A 32-bit register write (R5, R13, R22, R23, R28, R366): whether it took effect. -/
def busWord (o : Origin) (a : Nat) (w : Word) (s : State) : WriteRes × State :=
  match regAt (canonAddr a) with
  | none => (.rejected, s.reject a)
  | some (.oat, i, j, _) => oatWrite (o = .descriptor) i j w s
  | some (r, i, j, k) =>
    if !writerOk o r || !wordOk r j w then (.rejected, s.reject a)
    else if s.fencedAt a then (.ok, s.fenceDrop (senderDomain o))
    else if r = (rejectReg a).1 then (.ok, s.put r i j k w)
    else judged a (writeReg o a r i j k w) s

/-! Reads. -/

/-- A read of a word of an on-die table word (R106): the word, with the stored errors over it where they are not corrected,
whether it is uncorrected, and the state. -/
def State.tableRead (s : State) (key off : Nat) (w : Word) : Word × Bool × State :=
  let (bad, s1) := s.readTable key
  (overWord (s1.tbl.raw key) off w, bad, s1)

/-- The table word that a BAR0 read of a shadowed word meets (R28, R106): none while the shadow holds a change that has not
been committed, which the table does not hold yet (log entry 56). -/
def State.shadowTable (s : State) (a : Nat) : Option Nat :=
  match s.groupOfAddr a with
  | some g => if s.getW a = s.committed g a then tableKeyOf a else none
  | none => none

/-- The read effects of a register (R17, R88, R106, R335, R336, R342), and the word of any other. -/
def readReg (a : Nat) (r : RegName) (i j k : Nat) (s : State) : Word × Bool × State :=
  let plain (x : Word × State) : Word × Bool × State := (x.1, false, x.2)
  match r with
  | .tmrTbLo => plain (tbLoRead s)
  | .tmrTbHi => plain (tbHiRead s)
  | .tmrCapLo => plain (capLoRead i s)
  | .tmrCapHi => plain (capHiRead i s)
  | .tmrCapLog => if j = 0 then ((capLogPop i s).1.w0, false, (capLogPop i s).2) else (s.view a, false, s)
  | .evtQRec => if j = 0 then ((queuePop i s).1.w0, false, (queuePop i s).2) else (s.view a, false, s)
  | .beamFrameLo => plain (frameLoRead i s)
  | .beamFrameHi => plain (frameHiRead i s)
  | .gpioPad => ((s.refreshPads i).view a, false, s.refreshPads i)
  | .lpDbgS =>
    if (s.core i).run ≠ .halted || !spExists i j then (0, false, s)
    else
      let (v, k1, s1) := readSpecial i j (s.core i) s
      (v, false, s1.setCore i k1)
  | .lpItcm => s.tableRead (tcmKey i (4 * j)) (4 * j % 32) (s.view a)
  | .lpDtcm => s.tableRead (tcmKey i (0x10000 + 4 * j)) (4 * j % 32) (s.view a)
  | .oat => if s.oat.slots.contains i then (s.viewReg r i j k, false, s) else s.tableRead (oatKey i) (4 * j) (s.viewReg r i j k)
  | _ =>
    if [RegName.tt, .lutPlane, .lutOut, .paletteLow, .paletteHigh].contains r then
      match s.shadowTable a with
      | some key => s.tableRead key (a % 32) (s.viewReg r i j k)
      | none => (s.viewReg r i j k, false, s)
    else (s.viewReg r i j k, false, s)

/-- A 32-bit register read (R13, R23): the word, whether it is marked uncorrected (R106), the state. A read of a
poisoned core memory word breaks its rewriting (R239). -/
def busRead (a : Nat) (s : State) : Word × Bool × State :=
  match regAt (canonAddr a) with
  | none => (0, false, s)
  | some (r, i, j, k) =>
    if s.fencedAt a then (0, false, s)
    else
      let (w, bad, s1) := readReg a r i j k s
      if r = .lpItcm then (w, bad, { s1 with tbl := { s1.tbl with clear := kvDel (tcmKey i (4 * j)) s1.tbl.clear } })
      else if r = .lpDtcm then
        (w, bad, { s1 with tbl := { s1.tbl with clear := kvDel (tcmKey i (0x10000 + 4 * j)) s1.tbl.clear } })
      else (w, bad, s1)

/-- A read of two consecutive registers in one cycle (R22): the lower word in bits [31:0]. The 64-bit reads of the time base
(R336), a capture (R342) and a frame count (R88) latch nothing. -/
def busReadPair (a : Nat) (s : State) : Nat × Bool × State :=
  match regAt (canonAddr a) with
  | some (.tmrTbLo, _) => (s.now, false, s)
  | some (.tmrCapLo, k, _) => ((s.capBefore k).lo.toNat + (s.capBefore k).hi.toNat * 2 ^ 32, false, capTake k s)
  | some (.beamFrameLo, n, _) => ((s.rd .beamFrameLo n).toNat + (s.rd .beamFrameHi n).toNat * 2 ^ 32, false, s)
  | _ =>
    let (l, b, s1) := busRead a s
    let (h, b2, s2) := busRead (a + 4) s1
    (l.toNat + h.toNat * 2 ^ 32, b || b2, s2)

/-- A BAR0 read (R22): the bytes that its byte enables ask for go to the reader, and its effects are those of a full read;
data of an on-die word left uncorrected are marked (R106). -/
def registerRead (a : Nat) (q : ReadReq) (s : State) : State :=
  let ask (n v : Nat) : List Byte := ((List.range n).filter (fun i => q.enables.getLsbD i)).map (byteAt v)
  if q.wide then
    let (v, bad, s1) := busReadPair a s
    s1.emit (.completion (ask 8 v) bad)
  else
    let (v, bad, s1) := busRead a s
    s1.emit (.completion (ask 4 v.toNat) bad)

/-! The host's requests (R22, R48 to R50). -/

/-- The BARs take requests. -/
def State.barOpen (s : State) : Bool := s.pci.memSpace && !s.pci.d3hot

/-- A BAR0 request that is not supported (R49). -/
def bar0Unsupported (a : Nat) (write : Bool) (s : State) : State :=
  if !write then s.emit .unsupported
  else { s.wr .sysReject (BitVec.ofNat 32 (a % 2 ^ 26 + 2 ^ 31)) with pci := { s.pci with aerUnsupported := true } }

/-- A register write of 32 bits, or of 64 as the lower register and then the upper (R22). -/
def registerWrite (o : Origin) (a : Nat) (lo : Word) (hi : Option Word) (whole : Bool) (s : State) : State :=
  if (if o = .host then !s.barOpen else s.mode == 0) then s
  else if a % (if hi.isSome then 8 else 4) ≠ 0 then (if o = .host then bar0Unsupported a true s else s)
  else if !whole then s.reject a
  else
    let s1 := (busWord o a lo s).2
    match hi with
    | some w => (busWord o (a + 4) w s1).2
    | none => s1

/-- The window of BAR2: its byte a0 is at this pattern-store address. -/
def State.bar2Base (s : State) : Nat := s.rf .hstBar2Offset 5 0 * 2 ^ 30

/-- A request lies in BAR2 and is taken. -/
def State.inBar2 (s : State) (a0 n : Nat) : Bool := s.barOpen && a0 + n ≤ 2 ^ (30 + s.pci.bar2Size)

/-- A write through BAR2 (R50, R172): none marks a byte that is not enabled. -/
def bar2Write (a0 : Nat) (bs : List (Option Byte)) (s : State) : State :=
  if !s.inBar2 a0 bs.length then s
  else
    let a := s.bar2Base + a0
    let s1 := (linePieces a bs.length).foldl (fun (s : State) p =>
      let piece := (bs.drop (p.1 - a)).take p.2
      if psEnd ≤ p.1 || !piece.any (·.isSome) then s
      else if s.inPlRegion p.1 p.2 then s.deny p.1 p.2
      else s.psWrite 16 p.1 piece) s
    match (List.range bs.length).find? (fun i => psEnd ≤ a + i && (bs.getD i none).isSome) with
    | none => s1
    | some i => if s1.rb .hstStatus 2 then s1 else (s1.wb .hstStatus 2 true).postEvent 4 0xFF 0 (a0 + i)

/-- A read through BAR2 (R50): the completion carries the bytes, with EP when a line is uncorrected, which AER logs (R106). -/
def bar2Read (a0 n : Nat) (s : State) : State :=
  if !s.inBar2 a0 n then s
  else
    let (bs, bad, s1) := (linePieces (s.bar2Base + a0) n).foldl (fun (acc : List Byte × Bool × State) p =>
      if psEnd ≤ p.1 then (acc.1 ++ List.replicate p.2 0, acc.2.1, acc.2.2)
      else
        let (l, b, s1) := acc.2.2.psRead 16 p.1 p.2
        (acc.1 ++ l, acc.2.1 || b, s1)) ([], false, s)
    { s1.emit (.completion bs bad) with pci := { s1.pci with aerPoisoned := s1.pci.aerPoisoned || bad } }

/-! Window accesses of the cores (R209, R210). -/

/-- A core whose window access has ended halts: after a step, by LP_CTRL.HALT, or in Debug Halt (R242). -/
def State.haltAfter (s : State) (c : Nat) (k : Core) : Core :=
  let k1 := { k with stepped := false }
  if k.run ≠ .running then k1
  else if k.stepped then k1.halt 4
  else if isLp c && s.rb .lpCtrl 2 c then k1.halt 1
  else if s.mode = 7 then k1.halt 7
  else k1

/-- The freeze of a window access ends. -/
def State.thawed (s : State) (c : Nat) : State :=
  let s1 := s.waited c
  s1.setCore c { s1.core c with run := .running, wait := .none }

/-- A window load ends with its word. -/
def State.loadDone (s : State) (c rd : Nat) (v : Word) : State :=
  let s1 := s.thawed c
  s1.setCore c (s1.haltAfter c (((s1.core c).result (.g rd) v 3 2).finish 1))

/-- A window access raises Memory Error at its instruction. -/
def State.windowFault (s : State) (c : Nat) (a : Word) : State :=
  let s1 := s.thawed c
  let s2 := takeException c 2 (s1.core c).pc a s1
  s2.setCore c (s2.haltAfter c (s2.core c))

/-- A window store ends. -/
def State.storeDone (s : State) (c : Nat) : State :=
  let s1 := s.thawed c
  s1.setCore c (s1.haltAfter c ((s1.core c).finish 1))

/-- The access that a frozen core waits for, once no posted store is before it. A store to a poisoned line merges its bytes
(R101) and raises Memory Error (R210). -/
def frozenAccess (c : Nat) (s : State) : State :=
  let k := s.core c
  match k.run, k.wait with
  | .waiting, .load a size signed rd =>
    match k.place c a false with
    | .device off =>
      let (v, bad, s1) := busRead off s
      if bad then s1.windowFault c a else s1.loadDone c rd v
    | .pattern p =>
      let (bs, bad, s1) := s.psRead 20 p size
      if bad then s1.windowFault c a
      else s1.loadDone c rd (extract (BitVec.ofNat 32 (leNat bs)) 0 size signed)
    | _ => s
  | .waiting, .store a size v =>
    match k.place c a true with
    | .pattern p =>
      if s.inPlRegion p size then (s.deny p size).windowFault c a
      else
        let s1 := s.psWrite 20 p ((bytesLE size v.toNat).map some)
        if p < psEnd && (s.readLine 20 (p / 64)).2.1 then s1.windowFault c a else s1.storeDone c
    | _ => s
  | _, _ => s

/-- The offset in BAR0 of a device-window address (R208). -/
def windowOffset (a : Word) : Nat := (a.truncate 26).toNat

/-- A posted store takes effect, and a store frozen behind sixteen is posted (R209). -/
def postedDone (c off : Nat) (v : Word) (t : List (Word × Word)) (s : State) : State :=
  let s1 := (busWord .steward off v (s.setCore c { s.core c with posted := t })).2
  let k1 := s1.core c
  match k1.run, k1.wait with
  | .waiting, .store x _ y =>
    match k1.place c x true with
    | .device _ => State.storeDone (s1.setCore c { k1 with posted := k1.posted ++ [(x, y)] }) c
    | _ => s1
  | _, _ => s1

/-- A window access ends: the oldest posted store takes effect, which lets a store behind sixteen go on; with none posted,
the access that the core waits for. -/
def windowDone (c : Nat) (s : State) : State :=
  match (s.core c).posted with
  | [] => frozenAccess c s
  | (a, v) :: t => postedDone c (windowOffset a) v t s

/-- REGISTER_WRITE (R5, R22, R23). -/
def execRegisterWrite (o : Origin) (addr : BitVec 26) (lo : Word) (hi : Option Word) (whole : Bool) (s : State) :
    Host.Outcome State Fault Refusal := .next (registerWrite o addr.toNat lo hi whole s)

/-- BAR0_UNSUPPORTED_REQUEST (R49). -/
def execBar0UnsupportedRequest (addr : BitVec 26) (write : Bool) (s : State) : Host.Outcome State Fault Refusal :=
  .next (if s.barOpen then bar0Unsupported addr.toNat write s else s)

/-- POISONED_TLP (R49): a write to BAR0 or BAR2 with EP set. -/
def execPoisonedTlp (_bar2 : Bool) (s : State) : Host.Outcome State Fault Refusal :=
  .next (if s.barOpen then { s with pci := { s.pci with aerPoisoned := true } } else s)

/-- BAR2_WRITE (R50). -/
def execBar2Write (at_ : BitVec 36) (data : List (Option Byte)) (s : State) : Host.Outcome State Fault Refusal :=
  .next (bar2Write at_.toNat data s)

/-- BAR2_READ (R50). -/
def execBar2Read (at_ : BitVec 36) (len : BitVec 13) (s : State) : Host.Outcome State Fault Refusal :=
  .next (bar2Read at_.toNat len.toNat s)

/-- TB_LO_READ (R336): a read of TMR_TB_LO, or of both halves. -/
def execTbLoRead (q : ReadReq) (s : State) : Host.Outcome State Fault Refusal :=
  .next (registerRead (addrOf .tmrTbLo 0 0 0) q s)

/-- CAP_READ (R342): a read of TMR_CAPk_LO, or of both halves. -/
def execCapRead (k : Fin 32) (q : ReadReq) (s : State) : Host.Outcome State Fault Refusal :=
  .next (registerRead (addrOf .tmrCapLo k 0 0) q s)

/-- CAP_LOG_POP (R342): a read of TMR_CAPk_LOG0. -/
def execCapLogPop (k : Fin 32) (q : ReadReq) (s : State) : Host.Outcome State Fault Refusal :=
  .next (registerRead (addrOf .tmrCapLog k 0 0) q s)

/-- BEAM_FRAME_LO_READ (R88): a read of BEAM_FRAME_LO, or of both halves. -/
def execBeamFrameLoRead (n : Fin 16) (q : ReadReq) (s : State) : Host.Outcome State Fault Refusal :=
  .next (registerRead (addrOf .beamFrameLo n 0 0) q s)

/-- EVT_QUEUE_POP (R335): a read of EVT_Qt_REC0. -/
def execEvtQueuePop (t : Fin 276) (q : ReadReq) (s : State) : Host.Outcome State Fault Refusal :=
  .next (registerRead (addrOf .evtQRec t 0 0) q s)

/-- WINDOW_ACCESS_DONE (R209, R210). -/
def execWindowAccessDone (c : Fin 20) (s : State) : Host.Outcome State Fault Refusal := .next (windowDone c s)

end Sys2Proof.Machine
end

