-- ==== Sys2Proof/Machine/DmaOps.lean ====
section
/-! DEFINITION. What a response to a DMA request does (spec 15 R313, R315, R316): its data are written, or its block is
marked BAD. -/

namespace Sys2Proof.Machine

/-- n words of device space from an address, and whether one of them is uncorrected. -/
def State.devRead : Nat → Nat → State → List Byte × Bool × State
  | 0, _, s => ([], false, s)
  | n + 1, a, s =>
    let (w, bad, s1) := busRead a s
    let (bs, b, s2) := State.devRead n (a + 4) s1
    (bytesLE 4 w.toNat ++ bs, bad || b, s2)

/-- Words written to device space; one that is rejected is no error (R313). -/
def State.devWrite : List Word → Nat → State → State
  | [], _, s => s
  | w :: ws, a, s => State.devWrite ws (a + 4) (busWord .dma a w s).2

/-- Where a request reads and where its data go. -/
def DmaReq.from_ (q : DmaReq) (k : DmaBlock) : Nat := (k.src + q.off) % 2 ^ 64
def DmaReq.to_ (q : DmaReq) (k : DmaBlock) : Nat := (k.dst + q.off) % 2 ^ 64

/-- The read of a request, outside host memory: the bytes, or none for an error (R106). -/
def State.dmaRead (s : State) (k : DmaBlock) (q : DmaReq) : Option (List Byte) × State :=
  let (bs, bad, s1) := if k.sspace = 0 then s.psRead 17 (q.from_ k) q.len else s.devRead (q.len / 4) (q.from_ k)
  (if bad then none else some bs, s1)

/-- Request `ri` of block `bi` is read, if that has not been done; host memory is read by the host. -/
def State.dmaApply (s : State) (c bi ri : Nat) : State :=
  let x := s.chan c
  match x.blocks[bi]? with
  | none => s
  | some k => match k.reqs[ri]? with
    | none => s
    | some q =>
      if k.sspace = 1 || q.got.isSome then s
      else
        let (got, s1) := s.dmaRead k q
        let y := s1.chan c
        s1.setChan c { y with blocks := y.blocks.set bi { k with reqs := k.reqs.set ri { q with got := some got } } }

/-- Two ranges share a pattern-store line or a register. -/
def dmaMeets (space a n space' b m : Nat) : Bool :=
  let u := if space = 0 then 64 else 4
  space == space' && space != 1 && n != 0 && m != 0 && a / u ≤ (b + m - 1) / u && b / u ≤ (a + n - 1) / u

/-- The reads in flight that satisfy p, by block and request in issue order, are applied (R321). -/
def State.dmaApplyWhere (s : State) (c : Nat) (p : Nat → Nat → DmaBlock → DmaReq → Bool) : State :=
  ((s.chan c).blocks.zipIdx.flatMap (fun x => (x.1.reqs.zipIdx.filter (fun y => p x.2 y.2 x.1 y.1)).map (fun y => (x.2, y.2)))).foldl
    (fun s y => s.dmaApply c y.1 y.2) s

/-- What the response to request `ri` of block `bi` applies, in the order in which requests were issued (R321): reads issued
before that meet its own, its own read, and the reads under way that meet what it is about to write. -/
def State.dmaOrder (s : State) (c bi ri : Nat) (k : DmaBlock) (q : DmaReq) : State :=
  let before (b r : Nat) : Bool := b < bi || (b == bi && r < ri)
  let s1 := s.dmaApplyWhere c (fun b r k' q' =>
    before b r && dmaMeets k.sspace (q.from_ k) q.len k'.sspace (q'.from_ k') q'.len)
  (s1.dmaApply c bi ri).dmaApplyWhere c (fun _ _ k' q' => dmaMeets k.dspace (q.to_ k) q.len k'.sspace (q'.from_ k') q'.len)

/-- The data that a response brings, or the error of its block (R316). -/
def State.dmaSource (s : State) (c : Nat) (k : DmaBlock) (q : DmaReq) (data : Option (List Byte)) : Option (List Byte) × State :=
  let a := q.from_ k
  if k.sspace = 1 then
    if q.refused then (none, s.dmaMark c k.num 4 true a)
    else match data with
      | none => (none, s.dmaMark c k.num 1 true a)
      | some bs => (some (padTo q.len bs), s)
  else match q.got with
    | some (some bs) => (some bs, s)
    | _ => (none, s.dmaMark c k.num 2 false (a / 64 * 64))

/-- Bytes written to the pattern store: a line in the PL region is refused (R172). -/
def State.dmaPattern (s : State) (c : Nat) (k : DmaBlock) (a : Nat) (bs : List Byte) : State :=
  (linePieces a bs.length).foldl (fun (s : State) p =>
    if s.inPlRegion p.1 p.2 then (s.deny p.1 p.2).dmaMark c k.num 3 false (p.1 / 64 * 64)
    else s.psWrite 17 p.1 (((bs.drop (p.1 - a)).take p.2).map some)) s

/-- Bytes written to a block's destination from an address; addresses run modulo 2^64. -/
def State.dmaDest (s : State) (c : Nat) (k : DmaBlock) (a : Nat) (bs : List Byte) : State :=
  if k.dspace = 0 then
    let n := min bs.length (2 ^ 64 - a)
    (s.dmaPattern c k a (bs.take n)).dmaPattern c k 0 (bs.drop n)
  else if k.dspace = 1 then
    if s.pci.busMaster then s.putData a bs else s.dmaMark c k.num 4 true a
  else s.devWrite (leWords (bs.length / 4) bs) a

/-- The data of a request reach the block's destination, unless they could not be read (R316). -/
def State.dmaTake (s : State) (c : Nat) (k : DmaBlock) (q : DmaReq) (data : Option (List Byte)) : State :=
  let (got, s1) := s.dmaSource c k q data
  match got with
  | some bs => s1.dmaDest c k (q.to_ k) bs
  | none => s1

/-- Execution goes on after a response: a block that is BAD issues no more (R316). -/
def State.dmaOn (s : State) (c : Nat) (issued : Bool) : State :=
  let y := s.chan c
  let s1 := if issued && !y.issuing then s.dmaStep c y.pc else s.dmaGo c
  (s1.dmaSettle c).dmaLook c

/-- Request `ri` of block `bi`, if it is in flight. -/
def DmaChan.request (x : DmaChan) (bi ri : Nat) : Option (DmaBlock × DmaReq) :=
  match x.blocks[bi]? with
  | none => none
  | some k => (k.reqs[ri]?).map (k, ·)

/-- A response arrives (R315, R316): request `ri` of incomplete block `bi`, with its data from the host or their failure.
A block that is BAD issues no more, and execution goes on. -/
def dmaResponse (c bi ri : Nat) (data : Option (List Byte)) (s : State) : State :=
  match (s.chan c).request bi ri with
  | none => s
  | some (k0, q0) =>
    let s0 := s.dmaOrder c bi ri k0 q0
    let x := s0.chan c
    match x.request bi ri with
    | none => s0
    | some (k, q) =>
      ((s0.setChan c { x with blocks := x.blocks.set bi { k with reqs := k.reqs.eraseIdx ri } }).dmaTake c k q data).dmaOn c
        x.issuing

/-- DMA_RESPONSE (R316). -/
def execDmaResponse (c : Fin 64) (block : Fin 4) (req : Fin 32) (data : Option (List Byte)) (s : State) :
    Host.Outcome State Fault Refusal := .next (dmaResponse c block req data s)

end Sys2Proof.Machine
end

