-- ==== Sys2Proof/Machine/Rings.lean ====
section
/-! DEFINITION. Command rings (spec 03 R52 to R69, R72): polling of the doorbell area, descriptor fetches, the order in
which descriptors begin, and what each descriptor does. -/

namespace Sys2Proof.Machine

/-! Polling (R54, R55, R57, R72). -/

/-- The interval after a poll (R57). -/
def State.nextInterval (s : State) (changed : Bool) : State :=
  let low := s.rf .hstPoll 9 0
  s.wf .hstPoll 25 16 (if changed then low else min (2 * s.rf .hstPoll 25 16) s.pollCeiling)

/-- A doorbell read failed: the eighth in a row is a host loss (R72). -/
def State.pollFailed (s : State) : State :=
  let n := s.hst.failed + 1
  let s1 := { s with hst := { s.hst with polling := false, failed := if n = 8 then 0 else n } }.nextInterval false
  if n = 8 then s1.hostLoss 2 else s1

/-- POLL: the doorbell area is read in one request. -/
def poll (s : State) : State :=
  if !s.polling || s.hst.polling then s
  else if !s.pci.busMaster then s.pollFailed
  else
    let s1 := { s with hst := { s.hst with polling := true, round := s.hst.round + 1 } }
    s1.askHost (s1.addr64 .hstDbBaseLo .hstDbBaseHi) 528

/-- Word i of the doorbell area. -/
def doorbell (bs : List Byte) (i : Nat) : Nat := descField bs (4 * i) 4

/-- Fetches of the descriptors that a ring's producer index announces and that are not asked for yet. -/
def State.fetchIssue (s : State) (r : Nat) : State :=
  let g := s.ring r
  let k := s.rf .hstCrCtrl 5 1 r
  let f := s.rf .hstCrStatus 16 0 r
  let have_ := g.fetching.length
  let n := ringCount k g.pi f - have_
  if s.rf .hstCrStatus 18 17 r ≠ 1 || n = 0 then s
  else
    let new := (List.range n).map (fun i => ((f + have_ + i) % 2 ^ (k + 1), s.hst.round))
    let at_ := (f + have_) % 2 ^ k
    let n1 := min n (2 ^ k - at_)
    let base := s.addr64 .hstCrBaseLo .hstCrBaseHi r
    let s1 := (s.setRing r { g with fetching := g.fetching ++ new }).askHost (base + at_ * 64) (n1 * 64)
    if n1 < n then s1.askHost base ((n - n1) * 64) else s1

/-- The CR_PI field of ring r (R55): whether it changed, and the state. -/
def State.crDoorbell (s : State) (r v : Nat) : Bool × State :=
  let g := s.ring r
  let k := s.rf .hstCrCtrl 5 1 r
  if !s.rb .hstCrCtrl 0 r then (false, s)
  else if 2 ^ (k + 1) ≤ v || 2 ^ k < ringCount k v (s.rf .hstCrStatus 16 0 r) then
    let s1 := (s.setRing r { g with badSeen := true }).wb .hstCrStatus 19 true r
    (false, if g.badSeen then s1 else s1.postEvent 1 r v 0)
  else (v != g.pi, (s.setRing r { g with pi := v, badSeen := false }).fetchIssue r)

/-- The CQ_CI field of completion ring c (R55): waiting completions follow (R67). -/
def State.cqDoorbell (s : State) (c v : Nat) : Bool × State :=
  let k := s.rf .hstCqCtrl 5 1 c
  let ci := vget s.hst.cqCi c 0
  if !s.rb .hstCqCtrl 0 c then (false, s)
  else if 2 ^ (k + 1) ≤ v || ringCount k (s.rf .hstCqStatus 16 0 c) ci < ringCount k v ci then
    let s1 := { s with hst := { s.hst with cqBad := vset s.hst.cqBad c true } }.wb .hstCrStatus 19 true c
    (false, if vget s.hst.cqBad c false then s1 else s1.postEvent 1 c v 0)
  else
    let s1 := { s with hst := { s.hst with cqCi := vset s.hst.cqCi c v, cqBad := vset s.hst.cqBad c false } }.cqFullBit c
    (v != ci, (List.range 64).foldl (fun (s : State) r =>
      if (s.ring r).cq = c && !(s.ring r).waiting.isEmpty then s.flushWaiting r else s) s1)

/-- The EQ_CI field (R55). -/
def State.eqDoorbell (s : State) (v : Nat) : Bool × State :=
  let k := s.rf .hstEqCtrl 5 1
  let pi := s.rf .hstEqStatus 16 0
  let ci := s.hst.eqCi
  if !s.rb .hstEqCtrl 0 then (false, s)
  else if 2 ^ (k + 1) ≤ v || ringCount k pi ci < ringCount k v ci then
    let s1 := { s with hst := { s.hst with eqBad := true } }.wb .hstEqStatus 20 true
    (false, if s.hst.eqBad then s1 else s1.postEvent 1 0xFF v 0)
  else
    (v != ci, { s with hst := { s.hst with eqCi := v, eqBad := false } }.wb .hstEqStatus 18 (2 ^ k ≤ ringCount k pi v))

/-- The heartbeat. -/
def State.beat (s : State) (v : Nat) : Bool × State :=
  let w : Word := BitVec.ofNat 32 v
  (w != s.hst.heartbeat, { s with hst := { s.hst with heartbeat := w } })

/-- Doorbell data arrive, or their read failed (R55, R57). Data that arrive after polling has stopped are not looked at.
DESIGN CHOICE (log 108): the reserved words of entries 64 and 65 (words 129 and 131) are not looked at, so that a bit set
there makes nothing bad. -/
def doorbellRead (data : Option (List Byte)) (s : State) : State :=
  if !s.hst.polling then s
  else if !s.polling then { s with hst := { s.hst with polling := false } }
  else match data with
    | none => s.pollFailed
    | some bs =>
      let s1 := { s with hst := { s.hst with polling := false, failed := 0 } }
      let (c2, s2) := (List.range 64).foldl (fun (acc : Bool × State) r =>
        let (c, s) := acc.2.crDoorbell r (doorbell bs (2 * r))
        let (d, s) := s.cqDoorbell r (doorbell bs (2 * r + 1))
        (acc.1 || c || d, s)) (false, s1)
      let (c3, s3) := s2.eqDoorbell (doorbell bs 128)
      let (c4, s4) := s3.beat (doorbell bs 130)
      s4.nextInterval (c2 || c3 || c4)

/-- The first descriptor under way arrives (R64): the fetch index advances, and its poll round may end (R56). -/
def State.descArrive (s : State) (r : Nat) (d : List Byte) : State :=
  let g := s.ring r
  match g.fetching with
  | [] => s
  | (i, round) :: rest =>
    let f := (s.rf .hstCrStatus 16 0 r + 1) % 2 ^ (s.rf .hstCrCtrl 5 1 r + 1)
    let s1 := s.setRing r { g with ready := g.ready ++ [(i, padTo 64 d)], fetching := rest }
    let s2 := { s1 with hst := { s1.hst with advanced := setAdd round s1.hst.advanced } }
    (s2.wf .hstCrStatus 16 0 f r).endRounds

/-- Descriptors arrive (R64): those of the first requests under way, in order; then a request failed (R69), or the rest is
still to come. -/
def descFetched (r : Nat) (data : List (List Byte)) (failed : Bool) (s : State) : State :=
  let s1 := data.foldl (fun s d => s.descArrive r d) s
  let g := s1.ring r
  if !failed || g.fetching.isEmpty then s1
  else
    let at_ := s1.rf .hstCrStatus 16 0 r % 2 ^ s1.rf .hstCrCtrl 5 1 r
    let s2 := s1.setRing r { g with fetching := [] }
    (((s2.wf .hstCrStatus 18 17 3 r).wb .hstCrStatus 20 true r).postEvent 2 r 0
      (s.addr64 .hstCrBaseLo .hstCrBaseHi r + at_ * 64)).endRounds

/-- The heartbeat has stood still for HST_HB.TIMEOUT ms (R72). -/
def heartbeatTimeout (s : State) : State := if s.polling && s.rf .hstHb 15 0 != 0 then s.hostLoss 1 else s

/-- A ring has waited 1 ms on its full completion ring (R68). -/
def cqWaitRecord (r : Nat) (s : State) : State :=
  let g := s.ring r
  if g.waiting.isEmpty || g.cqWaitPosted then s
  else (s.setRing r { g with cqWaitPosted := true }).postEvent 3 r 0 0

/-! Checks of a descriptor (R60, R61, R63). -/

/-- The opcodes of R60. -/
def opcodes : List Nat := [0x00, 0x01, 0x02, 0x03, 0x04, 0x08, 0x09, 0x0A, 0x10, 0x11, 0x18]

/-- The lowest byte of a descriptor that holds an offending bit (R63), if any. A blit's is found by its engine (R300). -/
def descBadByte (d : List Byte) : Option Nat :=
  let b (i : Nat) : Nat := descField d i 1
  let one (i : Nat) (bad : Bool) : List Nat := if bad then [i] else []
  let zero (lo n : Nat) : List Nat := ((List.range n).map (lo + ·)).filter (fun i => b i != 0)
  let range : List Nat := one 8 (b 8 % 4 != 0) ++ one 11 (4 ≤ b 11)
  let body : List Nat := match b 0 with
    | 0x00 => zero 8 56
    | 0x01 => range ++ zero 13 3 ++ zero (16 + 4 * b 12) (48 - 4 * b 12)
    | 0x02 => range ++ one 16 (b 16 % 4 != 0) ++ zero 24 40
    | 0x03 => range ++ zero 20 44
    | 0x04 => range ++ one 16 (b 16 % 4 != 0) ++ zero 24 40
    | 0x08 => one 8 (16 ≤ b 8) ++ one 9 (2 ≤ b 9) ++ zero 10 2 ++ (if nbit (b 9) 0 then [] else zero 12 4) ++ zero 16 48
    | 0x09 => one 8 (16 ≤ b 8) ++ zero 9 3 ++ zero 20 44
    | 0x0A => one 8 (16 ≤ b 8) ++ zero 9 1 ++ zero 12 4 ++ zero 20 44
    | 0x10 => one 8 (64 ≤ b 8) ++ one 9 (2 ≤ b 9) ++ zero 10 6 ++ one 16 (b 16 % 64 != 0) ++ zero 24 40
    | 0x18 => one 8 (b 8 % 8 != 0) ++ zero 24 40
    | _ => []
  if b 0 = 0x11 then none else (one 0 (!opcodes.contains (b 0)) ++ one 1 (4 ≤ b 1) ++ zero 2 2 ++ body).head?

/-- OFFSET and COUNT of a register-access descriptor. -/
def descOff (d : List Byte) : Nat := descField d 8 4
def descCount (d : List Byte) : Nat := if descOp d = 1 then descField d 12 1 else descField d 12 4

/-- The byte that makes a register-access descriptor illegal by its COUNT or its range (R61). -/
def descBadRange (d : List Byte) : Option Nat :=
  let n := descCount d
  if !([1, 2, 3, 4].contains (descOp d)) then none
  else if n = 0 || (descOp d == 1 && 12 < n) || (descOp d == 2 && 1048576 < n) then some 12
  else if !rowRange (descOff d) (4 * n) then some 8
  else none

/-! The order in which descriptors begin (R64, R65). -/

/-- The next descriptor of ring r may begin. While completions wait on a full completion ring, one that needs a completion
waits behind them (R67). -/
def State.canBegin (s : State) (r : Nat) : Bool :=
  let g := s.ring r
  match g.ready with
  | [] => false
  | (_, d) :: _ =>
    s.rf .hstCrStatus 18 17 r == 1 && s.mode != 0 && !s.hostLost && !s.asleep && g.hold.isNone &&
      (g.waiting.isEmpty || descNocomp d) && (!descFence d || g.begun.isEmpty) && !(descOp d == 0x11 && 32 ≤ s.blt.queue.length)

/-- Ring r has the turn: the highest priority, round-robin within it (R65). -/
def State.turn (s : State) (r : Nat) : Bool :=
  let p := s.rf .hstCrCtrl 13 12 r
  let far (q : Nat) : Nat := (q + 63 - vget s.hst.served p 63) % 64
  s.canBegin r && (List.range 64).all (fun q => !s.canBegin q || (
    let pq := s.rf .hstCrCtrl 13 12 q
    pq < p || (pq == p && far r ≤ far q)))

/-- Ring r begins its next descriptor, if it has the turn and the descriptor's opcode is `op`: an illegal one completes
(R61, R63); one with a reserved opcode does so whatever `op` is. -/
def begin_ (r op : Nat) (body : Nat → List Byte → State → State) (s : State) : State :=
  match (s.ring r).ready with
  | [] => s
  | (i, d) :: t =>
    if !s.turn r || (descOp d != op && opcodes.contains (descOp d)) then s
    else
      let s1 := s.setRing r { s.ring r with ready := t, begun := (s.ring r).begun ++ [i] }
      let s2 := { s1 with hst := { s1.hst with served := vset s1.hst.served (s.rf .hstCrCtrl 13 12 r) r } }
      match descBadByte d, descBadRange d with
      | some b, _ => s2.finish r i d 1 0 b
      | none, some b => s2.finish r i d 1 0 b
      | none, none => body i d s2

/-! Register-access opcodes (R61, R62). -/

/-- How the words of a descriptor fared: words rejected, the first rejected offset, a word that would have crossed groups
(R29, R61). -/
structure Written where
  rejected : Nat := 0
  first : Option Nat := none
  cross : Bool := false
deriving DecidableEq, Repr

/-- Words are written to consecutive registers. -/
def writeWords : List Word → Nat → Written → State → Written × State
  | [], _, x, s => (x, s)
  | w :: ws, a, x, s =>
    match busWord .descriptor a w s with
    | (.ok, s1) => writeWords ws (a + 4) x s1
    | (.rejected, s1) => writeWords ws (a + 4) { x with rejected := x.rejected + 1, first := some (x.first.getD a) } s1
    | (.crossGroup, s1) => writeWords ws (a + 4) { x with cross := true } s1

/-- A descriptor whose words are written completes: OK or WRITE_REJECTED. -/
def State.finishWords (s : State) (r i : Nat) (d : List Byte) (x : Written) : State :=
  match x.first with
  | some a => s.finish r i d 5 x.rejected a
  | none => s.finish r i d 0 0 0

/-- A descriptor's words are written, or none of them takes effect and it completes CROSS_GROUP (R29); `next` is what
follows. -/
def State.writeAll (s : State) (r i : Nat) (d : List Byte) (ws : List Word) (a : Nat) (x : Written)
    (next : Written → State → State) : State :=
  let (x1, s1) := writeWords ws a x s
  if x1.cross then (s.setRing r { s.ring r with hold := none }).finish r i d 4 0 0 else next x1 s1

/-- WRITE_IMM. -/
def writeImm (r : Nat) : State → State := begin_ r 0x01 (fun i d s =>
  s.writeAll r i d (leWords (descCount d) (d.drop 16)) (descOff d) {} fun x s1 => s1.finishWords r i d x)

/-- WRITE_FILL. -/
def writeFill (r : Nat) : State → State := begin_ r 0x03 (fun i d s =>
  s.writeAll r i d (List.replicate (descCount d) (BitVec.ofNat 32 (descField d 16 4))) (descOff d) {}
    fun x s1 => s1.finishWords r i d x)

/-- Registers are read in order, with the effects of BAR0 reads. -/
def readWords : Nat → Nat → State → List Word × State
  | 0, _, s => ([], s)
  | n + 1, a, s =>
    let (w, _, s1) := busRead a s
    let (ws, s2) := readWords n (a + 4) s1
    (w :: ws, s2)

/-- READ_REGS. DESIGN CHOICE (log 108): while Bus Master Enable is clear its write is not made, and it completes OK. -/
def readRegs (r : Nat) : State → State := begin_ r 0x04 (fun i d s =>
  let (ws, s1) := readWords (descCount d) (descOff d) s
  (s1.putHost (descField d 16 8) (wordBytes ws)).finish r i d 0 0 0)

/-- A chunk of a WRITE_IND is asked for; while Bus Master Enable is clear its read fails (R62). -/
def State.chunkAsk (s : State) (r i : Nat) (d : List Byte) (done : Nat) (x : Written) : State :=
  let a := descField d 16 8 + 4 * done
  if !s.pci.busMaster then (s.setRing r { s.ring r with hold := none }).finish r i d 6 done a
  else (s.setRing r { s.ring r with hold := some (.writeInd i d done x.rejected x.first) }).askHost a
    (4 * min 4096 (descCount d - done))

/-- WRITE_IND. -/
def writeIndBegin (r : Nat) : State → State := begin_ r 0x02 (fun i d s => s.chunkAsk r i d 0 {})

/-- The data of the chunk under way arrive, or its read failed at an address (R62). -/
def chunkRead (r : Nat) (data : List Word) (failedAt : Option Word64) (s : State) : State :=
  match (s.ring r).hold with
  | some (.writeInd i d done rej first) =>
    let m := min 4096 (descCount d - done)
    let a := descField d 16 8 + 4 * done
    let s0 := s.setRing r { s.ring r with hold := none }
    match failedAt with
    | some f => s0.finish r i d 6 done (if a ≤ f.toNat ∧ f.toNat < a + 4 * m then f.toNat else a)
    | none =>
      let ws := (data ++ List.replicate (m - data.length) 0).take m
      s.writeAll r i d ws (descOff d + 4 * done) { rejected := rej, first } fun x s1 =>
        if done + m < descCount d then s1.chunkAsk r i d (done + m) x
        else (s1.setRing r { s1.ring r with hold := none }).finishWords r i d x
  | _ => s

/-! The other opcodes. -/

/-- NOP. -/
def nopDesc (r : Nat) : State → State := begin_ r 0x00 (fun i d s => s.finish r i d 0 0 0)

/-- COMMIT (R32, R42): handed over, or held while the census holds hand-overs of its group. -/
def commitDesc (r : Nat) (race : Bool) : State → State := begin_ r 0x08 (fun i d s =>
  let g := descField d 8 1 % 16
  if s.cenHolds g then
    let s1 := s.setRing r { s.ring r with hold := some (.commit i d) }
    s1.setGrp g { s1.grp g with held := (s1.grp g).held ++ [(r, i, d)] }
  else s.handOver r i d race)

/-- WAIT_EPOCH (R66). -/
def waitEpoch (r : Nat) : State → State := begin_ r 0x09 (fun i d s =>
  (s.setRing r { s.ring r with hold := some (.epoch i d) }).settleWait r)

/-- WAIT_LINE (R66). DESIGN CHOICE (log 108): RANGE is judged once, when the descriptor begins. -/
def waitLine (r : Nat) : State → State := begin_ r 0x0A (fun i d s =>
  let n := descField d 8 1 % 16
  if (s.beam n).run = .stopped then s.finish r i d 8 0 0
  else if (s.beam n).cf .beamTotal 30 16 n ≤ descField d 10 2 then s.finish r i d 9 0 0
  else s.setRing r { s.ring r with hold := some (.line i d) })

/-- The TIMEOUT of a held WAIT_EPOCH or WAIT_LINE expires (R66). -/
def waitTimeout (r : Nat) (s : State) : State :=
  let expire (i : Nat) (d : List Byte) : State :=
    if descField d 16 4 = 0 then s else (s.setRing r { s.ring r with hold := none }).finish r i d 7 0 0
  match (s.ring r).hold with
  | some (.epoch i d) => expire i d
  | some (.line i d) => expire i d
  | _ => s

/-- DMA_START (R66, R310). -/
def dmaStartDesc (r : Nat) : State → State := begin_ r 0x10 (fun i d s =>
  let c := descField d 8 1 % 64
  if (s.chan c).active then s.finish r i d 0x0A 0 0
  else s.dmaStart c (nbit (descField d 9 1) 0) (descField d 16 8) (some (r, i, d)))

/-- BLIT (R296): accepted into the queue, which has room. -/
def blitDesc (r : Nat) : State → State := begin_ r 0x11 (fun i d s => s.bltAccept ⟨d, some (r, i)⟩)

/-- HOST_WRITE (R60, R64). -/
def hostWriteDesc (r : Nat) : State → State := begin_ r 0x18 (fun i d s =>
  (s.setRing r { s.ring r with hold := some (.hostWrite i d) }).settleHw r)

/-- POLL (R57). -/
def execPoll (s : State) : Host.Outcome State Fault Refusal := .next (poll s)

/-- DOORBELL_READ_COMPLETE (R55). -/
def execDoorbellReadComplete (data : Option (List Byte)) (s : State) : Host.Outcome State Fault Refusal :=
  .next (doorbellRead data s)

/-- DESCRIPTOR_FETCH_COMPLETE (R64, R69). -/
def execDescriptorFetchComplete (r : Fin 64) (data : List (List Byte)) (failed : Bool) (s : State) :
    Host.Outcome State Fault Refusal := .next (descFetched r data failed s)

/-- NOP (R60). -/
def execNop (r : Fin 64) (s : State) : Host.Outcome State Fault Refusal := .next (nopDesc r s)

/-- WRITE_IMM (R61). -/
def execWriteImm (r : Fin 64) (s : State) : Host.Outcome State Fault Refusal := .next (writeImm r s)

/-- WRITE_IND (R62). -/
def execWriteInd (r : Fin 64) (s : State) : Host.Outcome State Fault Refusal := .next (writeIndBegin r s)

/-- WRITE_IND_CHUNK_READ (R62). -/
def execWriteIndChunkRead (r : Fin 64) (data : List Word) (failedAt : Option Word64) (s : State) :
    Host.Outcome State Fault Refusal := .next (chunkRead r data failedAt s)

/-- WRITE_FILL (R61). -/
def execWriteFill (r : Fin 64) (s : State) : Host.Outcome State Fault Refusal := .next (writeFill r s)

/-- READ_REGS (R61). -/
def execReadRegs (r : Fin 64) (s : State) : Host.Outcome State Fault Refusal := .next (readRegs r s)

/-- COMMIT (R32). -/
def execCommit (r : Fin 64) (race : Bool) (s : State) : Host.Outcome State Fault Refusal := .next (commitDesc r race s)

/-- WAIT_EPOCH (R66). -/
def execWaitEpoch (r : Fin 64) (s : State) : Host.Outcome State Fault Refusal := .next (waitEpoch r s)

/-- WAIT_LINE (R66). -/
def execWaitLine (r : Fin 64) (s : State) : Host.Outcome State Fault Refusal := .next (waitLine r s)

/-- WAIT_TIMEOUT (R66). -/
def execWaitTimeout (r : Fin 64) (s : State) : Host.Outcome State Fault Refusal := .next (waitTimeout r s)

/-- DMA_START (R310). -/
def execDmaStart (r : Fin 64) (s : State) : Host.Outcome State Fault Refusal := .next (dmaStartDesc r s)

/-- BLIT (R296). -/
def execBlit (r : Fin 64) (s : State) : Host.Outcome State Fault Refusal := .next (blitDesc r s)

/-- HOST_WRITE (R60). -/
def execHostWrite (r : Fin 64) (s : State) : Host.Outcome State Fault Refusal := .next (hostWriteDesc r s)

/-- CQ_WAIT_RECORD (R68). -/
def execCqWaitRecord (r : Fin 64) (s : State) : Host.Outcome State Fault Refusal := .next (cqWaitRecord r s)

/-- HEARTBEAT_TIMEOUT (R72). -/
def execHeartbeatTimeout (s : State) : Host.Outcome State Fault Refusal := .next (heartbeatTimeout s)

end Sys2Proof.Machine
end

