-- ==== Sys2Proof/Machine/Dispatch.lean ====
section
/-! DEFINITION. The meaning of every command: one arm per constructor of Instr. -/

namespace Sys2Proof.Machine

def exec (i : Instr) (s : State) : Host.Outcome State Fault Refusal :=
  match i with
  | .registerWrite o addr lo hi whole => Sys2Proof.Machine.execRegisterWrite o addr lo hi whole s
  | .bar0UnsupportedRequest addr write => Sys2Proof.Machine.execBar0UnsupportedRequest addr write s
  | .poisonedTlp bar2 => Sys2Proof.Machine.execPoisonedTlp bar2 s
  | .bar2Write at_ data => Sys2Proof.Machine.execBar2Write at_ data s
  | .bar2Read at_ len => Sys2Proof.Machine.execBar2Read at_ len s
  | .deferredPromotion client => Sys2Proof.Machine.execDeferredPromotion client s
  | .poll => Sys2Proof.Machine.execPoll s
  | .doorbellReadComplete data => Sys2Proof.Machine.execDoorbellReadComplete data s
  | .descriptorFetchComplete r data failed => Sys2Proof.Machine.execDescriptorFetchComplete r data failed s
  | .nop r => Sys2Proof.Machine.execNop r s
  | .writeImm r => Sys2Proof.Machine.execWriteImm r s
  | .writeInd r => Sys2Proof.Machine.execWriteInd r s
  | .writeIndChunkRead r data failedAt => Sys2Proof.Machine.execWriteIndChunkRead r data failedAt s
  | .writeFill r => Sys2Proof.Machine.execWriteFill r s
  | .readRegs r => Sys2Proof.Machine.execReadRegs r s
  | .commit r race => Sys2Proof.Machine.execCommit r race s
  | .waitEpoch r => Sys2Proof.Machine.execWaitEpoch r s
  | .waitLine r => Sys2Proof.Machine.execWaitLine r s
  | .waitTimeout r => Sys2Proof.Machine.execWaitTimeout r s
  | .dmaStart r => Sys2Proof.Machine.execDmaStart r s
  | .blit r => Sys2Proof.Machine.execBlit r s
  | .hostWrite r => Sys2Proof.Machine.execHostWrite r s
  | .cqWaitRecord r => Sys2Proof.Machine.execCqWaitRecord r s
  | .ringEnable ring => Sys2Proof.Machine.execRingEnable ring s
  | .ringDisable ring => Sys2Proof.Machine.execRingDisable ring s
  | .heartbeatTimeout => Sys2Proof.Machine.execHeartbeatTimeout s
  | .busMasterEnableClear => Sys2Proof.Machine.execBusMasterEnableClear s
  | .dlDown => Sys2Proof.Machine.execDlDown s
  | .hotReset => Sys2Proof.Machine.execHotReset s
  | .functionLevelReset => Sys2Proof.Machine.execFunctionLevelReset s
  | .d3hotEntry => Sys2Proof.Machine.execD3hotEntry s
  | .perstNAssert => Sys2Proof.Machine.execPerstNAssert s
  | .resume => Sys2Proof.Machine.execResume s
  | .groupReady g => Sys2Proof.Machine.execGroupReady g s
  | .fenceGuardExpiry g => Sys2Proof.Machine.execFenceGuardExpiry g s
  | .fenceTimeout g => Sys2Proof.Machine.execFenceTimeout g s
  | .cgMapWrite half w => Sys2Proof.Machine.execCgMapWrite half w s
  | .calends n => Sys2Proof.Machine.execCalends n s
  | .censusStart => Sys2Proof.Machine.execCensusStart s
  | .censusAbort => Sys2Proof.Machine.execCensusAbort s
  | .censusGroupCut => Sys2Proof.Machine.execCensusGroupCut s
  | .censusRecordWritten => Sys2Proof.Machine.execCensusRecordWritten s
  | .beamFrameStart n => Sys2Proof.Machine.execBeamFrameStart n s
  | .beamPllLock n => Sys2Proof.Machine.execBeamPllLock n s
  | .genlockHoldover n => Sys2Proof.Machine.execGenlockHoldover n s
  | .beamFrameLoRead n q => Sys2Proof.Machine.execBeamFrameLoRead n q s
  | .lineEmissionStart n drained => Sys2Proof.Machine.execLineEmissionStart n drained s
  | .reservationWindowEnd seen => Sys2Proof.Machine.execReservationWindowEnd seen s
  | .scrubLine upset => Sys2Proof.Machine.execScrubLine upset s
  | .tblScrubWord table index upset => Sys2Proof.Machine.execTblScrubWord table index upset s
  | .psInjectArm n => Sys2Proof.Machine.execPsInjectArm n s
  | .psInjectDisarm => Sys2Proof.Machine.execPsInjectDisarm s
  | .lineGenerationStart n => Sys2Proof.Machine.execLineGenerationStart n s
  | .lineComplete n => Sys2Proof.Machine.execLineComplete n s
  | .lineDeadline n upset => Sys2Proof.Machine.execLineDeadline n upset s
  | .generationRestart n => Sys2Proof.Machine.execGenerationRestart n s
  | .lsqEntryArrival n => Sys2Proof.Machine.execLsqEntryArrival n s
  | .raMinHeldClear n => Sys2Proof.Machine.execRaMinHeldClear n s
  | .oatWrite entry word w byDescriptor => Sys2Proof.Machine.execOatWrite entry word w byDescriptor s
  | .sortStageEnd n => Sys2Proof.Machine.execSortStageEnd n s
  | .bandListComplete k => Sys2Proof.Machine.execBandListComplete k s
  | .objPeakClear n => Sys2Proof.Machine.execObjPeakClear n s
  | .importLineMissing n k => Sys2Proof.Machine.execImportLineMissing n k s
  | .pleGo n => Sys2Proof.Machine.execPleGo n s
  | .pleFetchDone pkg => Sys2Proof.Machine.execPleFetchDone pkg s
  | .pleVerifyDone => Sys2Proof.Machine.execPleVerifyDone s
  | .pleWriteDone => Sys2Proof.Machine.execPleWriteDone s
  | .plBankArrival => Sys2Proof.Machine.execPlBankArrival s
  | .add c o => Sys2Proof.Machine.execAdd c o s
  | .sub c o => Sys2Proof.Machine.execSub c o s
  | .and c o => Sys2Proof.Machine.execAnd c o s
  | .or c o => Sys2Proof.Machine.execOr c o s
  | .xor c o => Sys2Proof.Machine.execXor c o s
  | .nor c o => Sys2Proof.Machine.execNor c o s
  | .slt c o => Sys2Proof.Machine.execSlt c o s
  | .sltu c o => Sys2Proof.Machine.execSltu c o s
  | .sll c o => Sys2Proof.Machine.execSll c o s
  | .srl c o => Sys2Proof.Machine.execSrl c o s
  | .sra c o => Sys2Proof.Machine.execSra c o s
  | .ror c o => Sys2Proof.Machine.execRor c o s
  | .rol c o => Sys2Proof.Machine.execRol c o s
  | .neg c o => Sys2Proof.Machine.execNeg c o s
  | .min c o => Sys2Proof.Machine.execMin c o s
  | .max c o => Sys2Proof.Machine.execMax c o s
  | .minu c o => Sys2Proof.Machine.execMinu c o s
  | .maxu c o => Sys2Proof.Machine.execMaxu c o s
  | .slli c o => Sys2Proof.Machine.execSlli c o s
  | .srli c o => Sys2Proof.Machine.execSrli c o s
  | .srai c o => Sys2Proof.Machine.execSrai c o s
  | .rori c o => Sys2Proof.Machine.execRori c o s
  | .addi c o => Sys2Proof.Machine.execAddi c o s
  | .andi c o => Sys2Proof.Machine.execAndi c o s
  | .ori c o => Sys2Proof.Machine.execOri c o s
  | .xori c o => Sys2Proof.Machine.execXori c o s
  | .slti c o => Sys2Proof.Machine.execSlti c o s
  | .sltiu c o => Sys2Proof.Machine.execSltiu c o s
  | .movu c o => Sys2Proof.Machine.execMovu c o s
  | .mul c o => Sys2Proof.Machine.execMul c o s
  | .mulu c o => Sys2Proof.Machine.execMulu c o s
  | .mac c o => Sys2Proof.Machine.execMac c o s
  | .macu c o => Sys2Proof.Machine.execMacu c o s
  | .div c o => Sys2Proof.Machine.execDiv c o s
  | .divu c o => Sys2Proof.Machine.execDivu c o s
  | .divComplete c => Sys2Proof.Machine.execDivComplete c s
  | .ldw c o => Sys2Proof.Machine.execLdw c o s
  | .ldh c o => Sys2Proof.Machine.execLdh c o s
  | .ldhu c o => Sys2Proof.Machine.execLdhu c o s
  | .ldb c o => Sys2Proof.Machine.execLdb c o s
  | .ldbu c o => Sys2Proof.Machine.execLdbu c o s
  | .stw c o => Sys2Proof.Machine.execStw c o s
  | .sth c o => Sys2Proof.Machine.execSth c o s
  | .stb c o => Sys2Proof.Machine.execStb c o s
  | .windowAccessDone c => Sys2Proof.Machine.execWindowAccessDone c s
  | .beq c o => Sys2Proof.Machine.execBeq c o s
  | .bne c o => Sys2Proof.Machine.execBne c o s
  | .blt c o => Sys2Proof.Machine.execBlt c o s
  | .bge c o => Sys2Proof.Machine.execBge c o s
  | .bltu c o => Sys2Proof.Machine.execBltu c o s
  | .bgeu c o => Sys2Proof.Machine.execBgeu c o s
  | .j c off => Sys2Proof.Machine.execJ c off s
  | .jal c off => Sys2Proof.Machine.execJal c off s
  | .jr c o => Sys2Proof.Machine.execJr c o s
  | .jalr c o => Sys2Proof.Machine.execJalr c o s
  | .loop c o => Sys2Proof.Machine.execLoop c o s
  | .loopi c o => Sys2Proof.Machine.execLoopi c o s
  | .callm c o => Sys2Proof.Machine.execCallm c o s
  | .retm c z => Sys2Proof.Machine.execRetm c z s
  | .lsw c o => Sys2Proof.Machine.execLsw c o s
  | .fanelNop c o => Sys2Proof.Machine.execFanelNop c o s
  | .mfs c o => Sys2Proof.Machine.execMfs c o s
  | .mts c o => Sys2Proof.Machine.execMts c o s
  | .wfe c o => Sys2Proof.Machine.execWfe c o s
  | .wfeWake c => Sys2Proof.Machine.execWfeWake c s
  | .sev c o => Sys2Proof.Machine.execSev c o s
  | .waitt c o => Sys2Proof.Machine.execWaitt c o s
  | .waittEnd c => Sys2Proof.Machine.execWaittEnd c s
  | .waitl c o => Sys2Proof.Machine.execWaitl c o s
  | .waitlEnd c => Sys2Proof.Machine.execWaitlEnd c s
  | .msync c o => Sys2Proof.Machine.execMsync c o s
  | .msyncEnd c => Sys2Proof.Machine.execMsyncEnd c s
  | .reti c o during => Sys2Proof.Machine.execReti c o during s
  | .leave c o => Sys2Proof.Machine.execLeave c o s
  | .brk c o => Sys2Proof.Machine.execBrk c o s
  | .sysc c o => Sys2Proof.Machine.execSysc c o s
  | .interruptEntry c during => Sys2Proof.Machine.execInterruptEntry c during s
  | .lpRun n => Sys2Proof.Machine.execLpRun n s
  | .lpReset n => Sys2Proof.Machine.execLpReset n s
  | .lpHalt n => Sys2Proof.Machine.execLpHalt n s
  | .lpResume n => Sys2Proof.Machine.execLpResume n s
  | .lpStep n halt => Sys2Proof.Machine.execLpStep n halt s
  | .lnkPortEnable p => Sys2Proof.Machine.execLnkPortEnable p s
  | .lnkPortDisable p => Sys2Proof.Machine.execLnkPortDisable p s
  | .trainingFrameRx p lane control status inverted => Sys2Proof.Machine.execTrainingFrameRx p lane control status inverted s
  | .laneGraded p lane errors => Sys2Proof.Machine.execLaneGraded p lane errors s
  | .baseComplete p => Sys2Proof.Machine.execBaseComplete p s
  | .descentComplete p => Sys2Proof.Machine.execDescentComplete p s
  | .alignmentMarkerRx p lane payload skew => Sys2Proof.Machine.execAlignmentMarkerRx p lane payload skew s
  | .fecCodewordRx p lane errors miscorrected cells => Sys2Proof.Machine.execFecCodewordRx p lane errors miscorrected cells s
  | .portStateTimeout p => Sys2Proof.Machine.execPortStateTimeout p s
  | .faultWaitExpiry p => Sys2Proof.Machine.execFaultWaitExpiry p s
  | .cellIdleRx p => Sys2Proof.Machine.execCellIdleRx p s
  | .cellPixelRx p seq c => Sys2Proof.Machine.execCellPixelRx p seq c s
  | .cellAudioRx p seq => Sys2Proof.Machine.execCellAudioRx p seq s
  | .cellFrameStartRx p seq beam repeated lines => Sys2Proof.Machine.execCellFrameStartRx p seq beam repeated lines s
  | .cellRepeatRx p seq beam => Sys2Proof.Machine.execCellRepeatRx p seq beam s
  | .cellFenceRx p seq group epoch => Sys2Proof.Machine.execCellFenceRx p seq group epoch s
  | .cellRouteRx p seq => Sys2Proof.Machine.execCellRouteRx p seq s
  | .cellCapRx p seq c => Sys2Proof.Machine.execCellCapRx p seq c s
  | .cellCreditRx p next => Sys2Proof.Machine.execCellCreditRx p next s
  | .cellSlot p => Sys2Proof.Machine.execCellSlot p s
  | .creditSendTimer p => Sys2Proof.Machine.execCreditSendTimer p s
  | .capSendTimer p => Sys2Proof.Machine.execCapSendTimer p s
  | .creditTimeout p => Sys2Proof.Machine.execCreditTimeout p s
  | .reneg p => Sys2Proof.Machine.execReneg p s
  | .audioSampleBoundary late lateBuses => Sys2Proof.Machine.execAudioSampleBoundary late lateBuses s
  | .audRefLost => Sys2Proof.Machine.execAudRefLost s
  | .veqPush g w3 => Sys2Proof.Machine.execVeqPush g w3 s
  | .feedPush f w => Sys2Proof.Machine.execFeedPush f w s
  | .crosspointWrite x w => Sys2Proof.Machine.execCrosspointWrite x w s
  | .gainChange g w => Sys2Proof.Machine.execGainChange g w s
  | .zcTimeout gain => Sys2Proof.Machine.execZcTimeout gain s
  | .busSwap half w => Sys2Proof.Machine.execBusSwap half w s
  | .tdmFrameStart a clocks => Sys2Proof.Machine.execTdmFrameStart a clocks s
  | .blitDispatch => Sys2Proof.Machine.execBlitDispatch s
  | .blitSyncStart k => Sys2Proof.Machine.execBlitSyncStart k s
  | .blitStageDone k => Sys2Proof.Machine.execBlitStageDone k s
  | .blitRowVisible k => Sys2Proof.Machine.execBlitRowVisible k s
  | .blitComplete k => Sys2Proof.Machine.execBlitComplete k s
  | .bltDirectGo => Sys2Proof.Machine.execBltDirectGo s
  | .dmaGo c => Sys2Proof.Machine.execDmaGo c s
  | .dmaStop c => Sys2Proof.Machine.execDmaStop c s
  | .dmaProgFetchDone c line data => Sys2Proof.Machine.execDmaProgFetchDone c line data s
  | .dmaMove c => Sys2Proof.Machine.execDmaMove c s
  | .dmaLoop c => Sys2Proof.Machine.execDmaLoop c s
  | .dmaWait c => Sys2Proof.Machine.execDmaWait c s
  | .dmaWaitTimeExpiry c => Sys2Proof.Machine.execDmaWaitTimeExpiry c s
  | .dmaSignal c => Sys2Proof.Machine.execDmaSignal c s
  | .dmaJump c => Sys2Proof.Machine.execDmaJump c s
  | .dmaEnd c => Sys2Proof.Machine.execDmaEnd c s
  | .dmaResponse c block req data => Sys2Proof.Machine.execDmaResponse c block req data s
  | .eventArrival src => Sys2Proof.Machine.execEventArrival src s
  | .coalesceTimeout src => Sys2Proof.Machine.execCoalesceTimeout src s
  | .evtWithdraw src byEn => Sys2Proof.Machine.execEvtWithdraw src byEn s
  | .evtRetarget src target => Sys2Proof.Machine.execEvtRetarget src target s
  | .evtQueuePop t q => Sys2Proof.Machine.execEvtQueuePop t q s
  | .evtSwi w => Sys2Proof.Machine.execEvtSwi w s
  | .tbWrap => Sys2Proof.Machine.execTbWrap s
  | .aonTick => Sys2Proof.Machine.execAonTick s
  | .tbLoRead q => Sys2Proof.Machine.execTbLoRead q s
  | .tbLoad => Sys2Proof.Machine.execTbLoad s
  | .cmpValueWrite c v => Sys2Proof.Machine.execCmpValueWrite c v s
  | .cmpMatch c => Sys2Proof.Machine.execCmpMatch c s
  | .cmpFire c => Sys2Proof.Machine.execCmpFire c s
  | .capRead k q => Sys2Proof.Machine.execCapRead k q s
  | .capLogPop k q => Sys2Proof.Machine.execCapLogPop k q s
  | .itEnable k oneshot => Sys2Proof.Machine.execItEnable k oneshot s
  | .itExpiry k => Sys2Proof.Machine.execItExpiry k s
  | .itLoad k v => Sys2Proof.Machine.execItLoad k v s
  | .gpioPadChange p level => Sys2Proof.Machine.execGpioPadChange p level s
  | .gpioFilterSample p => Sys2Proof.Machine.execGpioFilterSample p s
  | .gpioSet x w => Sys2Proof.Machine.execGpioSet x w s
  | .gpioClr x w => Sys2Proof.Machine.execGpioClr x w s
  | .gpioFunctionChange p w => Sys2Proof.Machine.execGpioFunctionChange p w s
  | .gpioBankSupplyChange b supply => Sys2Proof.Machine.execGpioBankSupplyChange b supply s
  | .ledgerWindowEnd mw => Sys2Proof.Machine.execLedgerWindowEnd mw s
  | .avsResponse g reply => Sys2Proof.Machine.execAvsResponse g reply s
  | .avsRetry g => Sys2Proof.Machine.execAvsRetry g s
  | .tempSensorRead t => Sys2Proof.Machine.execTempSensorRead t s
  | .pwrLedgerWrite w => Sys2Proof.Machine.execPwrLedgerWrite w s
  | .ledgerStale => Sys2Proof.Machine.execLedgerStale s
  | .leap => Sys2Proof.Machine.execLeap s
  | .leapVerifyEnd tedRise slack => Sys2Proof.Machine.execLeapVerifyEnd tedRise slack s
  | .almSamplePeriod => Sys2Proof.Machine.execAlmSamplePeriod s
  | .almSampleNow => Sys2Proof.Machine.execAlmSampleNow s
  | .almSampleSetEnd vals => Sys2Proof.Machine.execAlmSampleSetEnd vals s
  | .almLogWriteFlash => Sys2Proof.Machine.execAlmLogWriteFlash s
  | .almLogWriteFuse => Sys2Proof.Machine.execAlmLogWriteFuse s
  | .almLogRead => Sys2Proof.Machine.execAlmLogRead s
  | .almLogOpDone => Sys2Proof.Machine.execAlmLogOpDone s
  | .pmbGo w => Sys2Proof.Machine.execPmbGo w s
  | .pmbDone reply => Sys2Proof.Machine.execPmbDone reply s
  | .modeReqService => Sys2Proof.Machine.execModeReqService s
  | .modeReqSleep => Sys2Proof.Machine.execModeReqSleep s
  | .modeReqEmber => Sys2Proof.Machine.execModeReqEmber s
  | .sleepEntryComplete => Sys2Proof.Machine.execSleepEntryComplete s
  | .wakeComplete => Sys2Proof.Machine.execWakeComplete s
  | .sysDbgHalt => Sys2Proof.Machine.execSysDbgHalt s
  | .sysDbgResume => Sys2Proof.Machine.execSysDbgResume s
  | .coldReset => Sys2Proof.Machine.execColdReset s
  | .sysResetNRelease straps testmode => Sys2Proof.Machine.execSysResetNRelease straps testmode s
  | .warmResetRequest steward => Sys2Proof.Machine.execWarmResetRequest steward s
  | .warmResetBegin => Sys2Proof.Machine.execWarmResetBegin s
  | .bootStepDone vdone trained pllLock => Sys2Proof.Machine.execBootStepDone vdone trained pllLock s
  | .scReset mask => Sys2Proof.Machine.execScReset mask s
  | .scReload mask => Sys2Proof.Machine.execScReload mask s
  | .bootGo => Sys2Proof.Machine.execBootGo s
  | .bootImageFetched image => Sys2Proof.Machine.execBootImageFetched image s
  | .bootImageChecked => Sys2Proof.Machine.execBootImageChecked s
  | .provision => Sys2Proof.Machine.execProvision s
  | .sealSteward => Sys2Proof.Machine.execSealSteward s
  | .sealPl => Sys2Proof.Machine.execSealPl s
  | .deploy => Sys2Proof.Machine.execDeploy s
  | .raiseFloor => Sys2Proof.Machine.execRaiseFloor s
  | .lcReturn => Sys2Proof.Machine.execLcReturn s
  | .retire => Sys2Proof.Machine.execRetire s
  | .lcDone operand => Sys2Proof.Machine.execLcDone operand s
  | .mgmtReadIdentity => Sys2Proof.Machine.execMgmtReadIdentity s
  | .mgmtReadMode => Sys2Proof.Machine.execMgmtReadMode s
  | .mgmtReadThermal => Sys2Proof.Machine.execMgmtReadThermal s
  | .mgmtReadResetCause => Sys2Proof.Machine.execMgmtReadResetCause s
  | .mgmtReadBoot => Sys2Proof.Machine.execMgmtReadBoot s
  | .warmReset value => Sys2Proof.Machine.execWarmReset value s
  | .tapReset => Sys2Proof.Machine.execTapReset s
  | .extest => Sys2Proof.Machine.execExtest s
  | .idcode => Sys2Proof.Machine.execIdcode s
  | .samplePreload => Sys2Proof.Machine.execSamplePreload s
  | .extestPulse => Sys2Proof.Machine.execExtestPulse s
  | .extestTrain => Sys2Proof.Machine.execExtestTrain s
  | .clamp => Sys2Proof.Machine.execClamp s
  | .highz => Sys2Proof.Machine.execHighz s
  | .dbgHalt => Sys2Proof.Machine.execDbgHalt s
  | .dbgResume => Sys2Proof.Machine.execDbgResume s
  | .warm => Sys2Proof.Machine.execWarm s
  | .lcManufacture => Sys2Proof.Machine.execLcManufacture s
  | .stewardDebugAccess k => Sys2Proof.Machine.execStewardDebugAccess k s
  | .bypass => Sys2Proof.Machine.execBypass s
  | .bistGo => Sys2Proof.Machine.execBistGo s
  | .bistStop => Sys2Proof.Machine.execBistStop s
  | .bistProgFetched prog => Sys2Proof.Machine.execBistProgFetched prog s
  | .bistSliceBegin => Sys2Proof.Machine.execBistSliceBegin s
  | .bistSliceEnd r waited restoreHit => Sys2Proof.Machine.execBistSliceEnd r waited restoreHit s
  | .bistPauseExpiry => Sys2Proof.Machine.execBistPauseExpiry s
  | .bistRepairSoft => Sys2Proof.Machine.execBistRepairSoft s
  | .bistRepairFuse => Sys2Proof.Machine.execBistRepairFuse s
  | .repairDone => Sys2Proof.Machine.execRepairDone s
  | .perstNRelease => Sys2Proof.Machine.execPerstNRelease s
  | .configurationRequest q => Sys2Proof.Machine.execConfigurationRequest q s
  | .alignmentMarkerMissing p lane => Sys2Proof.Machine.execAlignmentMarkerMissing p lane s
  | .cellCrcFailRx p badType => Sys2Proof.Machine.execCellCrcFailRx p badType s
  | .laneGradeTimeout p lane => Sys2Proof.Machine.execLaneGradeTimeout p lane s
  | .arrivingLapse n k => Sys2Proof.Machine.execArrivingLapse n k s
  | .poweredHour => Sys2Proof.Machine.execPoweredHour s
  | .alwaysOnOscillatorStart => Sys2Proof.Machine.execAlwaysOnOscillatorStart s

end Sys2Proof.Machine
end

