-- ==== Sys2Proof/Safety.lean ====
section
/-! DEFINITION. What counts as a safe state and a safe step of the block, and the parts of the block that a command may
change. -/

namespace Sys2Proof.Machine

/-- The register table in canonical form: addresses strictly rising, and no word listed that equals its reset word. -/
def RegFile.wf (f : RegFile) : Bool := kvSorted f && f.all (fun p => p.2 != resetWord p.1)

/-- A state whose tables are in canonical form: equal registers and equal memories are equal data. -/
def State.canonical (s : State) : Bool := RegFile.wf s.regs && Memory.wf s.store.mem

/-- A step that goes on: it neither faults nor refuses. -/
def State.goesOn (s : State) : Prop := ∃ t, step s = .next t

/-- The parts of the block: the register blocks of R20 and R21, the units beside their registers, and what has left the
block. -/
inductive Part where
  | sysRegs | hstRegs | evtRegs | tmrRegs | gpioRegs | pwrRegs | bistRegs | dmaRegs | bltRegs | audRegs | lnkRegs | beamRegs | tmapRegs | objRegs
  | bmpRegs | cmpRegs | lpRegs | tableRegs | oatRegs | ttRegs | commitRegs
  | pci | host | timers | events | store | tables | cores | beams | binning | groups
  | census | attributes | pl | ports | audio | blitter | dma | gpio | power | device | output
deriving DecidableEq, Repr

/-- The register block of an address (R20, R21, R22); addresses of no block count as the system block's. -/
def regPart (a : Nat) : Part :=
  if 0x3100000 ≤ a then .commitRegs
  else if 0x3000000 ≤ a then .ttRegs
  else if 0x1100000 ≤ a then .oatRegs
  else match (if a < 0x100000 then a / 0x10000 else 16 + a % 0x100000 / 0x10000) with
    | 0 => .sysRegs
    | 1 => .hstRegs
    | 2 => .evtRegs
    | 3 => .tmrRegs
    | 4 => .gpioRegs
    | 5 => .pwrRegs
    | 6 => .bistRegs
    | 7 => .dmaRegs
    | 8 => .bltRegs
    | 9 => .audRegs
    | 10 => .lnkRegs
    | 11 => .sysRegs
    | 12 => .sysRegs
    | 13 => .sysRegs
    | 14 => .sysRegs
    | 15 => .sysRegs
    | 16 => .beamRegs
    | 17 => .tmapRegs
    | 18 => .objRegs
    | 19 => .bmpRegs
    | 20 => .cmpRegs
    | 21 => .lpRegs
    | _ => .tableRegs

/-- A part is the same in two states. Registers are compared word by word. -/
def Part.same (s t : State) : Part → Prop
  | .pci => t.pci = s.pci
  | .host => t.hst = s.hst
  | .timers => t.tmr = s.tmr
  | .events => t.evt = s.evt
  | .store => t.store = s.store
  | .tables => t.tbl = s.tbl
  | .cores => t.cores = s.cores
  | .beams => t.beams = s.beams
  | .binning => t.bin = s.bin
  | .groups => t.groups = s.groups
  | .census => t.census = s.census
  | .attributes => t.oat = s.oat
  | .pl => t.ple = s.ple
  | .ports => t.ports = s.ports
  | .audio => t.aud = s.aud
  | .blitter => t.blt = s.blt
  | .dma => t.dma = s.dma
  | .gpio => t.gpio = s.gpio
  | .power => t.pwr = s.pwr
  | .device => t.sys = s.sys
  | .output => t.out = s.out
  | p => ∀ a, regPart a = p → t.getW a = s.getW a

/-- From s to t, no part changes but the ones listed. -/
def State.onlyChanges (s t : State) (ps : List Part) : Prop := ∀ p, p ∉ ps → p.same s t

/-- What recording an event arrival may change (the source, the captures it triggers, queues, MSI-X messages), and more. -/
def raising (ps : List Part) : List Part := [.evtRegs, .tmrRegs, .timers, .events, .output] ++ ps

/-- The parts that each command may change, in any state: no command changes another part, nor the queue of waiting
commands, nor takes back what has left the block. -/
def footprint : Instr → List Part
  | .registerWrite .. =>
    raising [.sysRegs, .hstRegs, .gpioRegs, .pwrRegs, .bistRegs, .dmaRegs, .bltRegs, .audRegs, .lnkRegs, .beamRegs,
      .tmapRegs, .objRegs, .bmpRegs, .cmpRegs, .lpRegs, .tableRegs, .oatRegs, .ttRegs, .commitRegs, .pci, .host,
      .store, .tables, .cores, .beams, .groups, .census, .attributes, .ports, .audio, .blitter, .dma, .gpio,
      .power, .device]
  | .bar0UnsupportedRequest .. =>
    [.sysRegs, .pci, .output]
  | .poisonedTlp .. | .perstNRelease .. =>
    [.pci]
  | .bar2Write .. =>
    raising [.sysRegs, .hstRegs, .cmpRegs, .store]
  | .bar2Read .. =>
    raising [.sysRegs, .pci, .store]
  | .deferredPromotion .. =>
    [.store]
  | .poll .. | .doorbellReadComplete .. =>
    raising [.sysRegs, .hstRegs, .pwrRegs, .lnkRegs, .host, .power, .device]
  | .descriptorFetchComplete .. | .nop .. | .writeInd .. | .waitEpoch .. | .waitLine .. | .waitTimeout ..
  | .hostWrite .. | .cqWaitRecord .. | .ringEnable .. | .ringDisable .. =>
    raising [.hstRegs, .host]
  | .writeImm .. | .writeIndChunkRead .. | .writeFill .. | .windowAccessDone .. | .dmaResponse .. =>
    raising [.sysRegs, .hstRegs, .gpioRegs, .pwrRegs, .bistRegs, .dmaRegs, .bltRegs, .audRegs, .lnkRegs, .beamRegs,
      .tmapRegs, .objRegs, .bmpRegs, .cmpRegs, .lpRegs, .tableRegs, .oatRegs, .ttRegs, .commitRegs, .host, .store,
      .tables, .cores, .beams, .groups, .census, .attributes, .ports, .audio, .blitter, .dma, .gpio, .power, .device]
  | .readRegs .. =>
    raising [.sysRegs, .hstRegs, .gpioRegs, .host, .tables, .cores, .beams, .gpio]
  | .commit .. =>
    raising [.sysRegs, .hstRegs, .pwrRegs, .lnkRegs, .beamRegs, .cmpRegs, .commitRegs, .host, .tables, .beams,
      .groups, .attributes, .ports, .power]
  | .dmaStart .. | .dmaGo .. | .dmaStop .. | .dmaProgFetchDone .. | .dmaMove .. | .dmaLoop .. | .dmaWait ..
  | .dmaWaitTimeExpiry .. | .dmaSignal .. | .dmaJump .. | .dmaEnd .. =>
    raising [.sysRegs, .hstRegs, .dmaRegs, .cmpRegs, .host, .store, .dma]
  | .blit .. | .blitDispatch .. | .blitComplete .. =>
    raising [.hstRegs, .bltRegs, .host, .blitter]
  | .heartbeatTimeout .. =>
    raising [.sysRegs, .hstRegs, .pwrRegs, .lnkRegs, .power, .device]
  | .busMasterEnableClear .. | .d3hotEntry .. | .configurationRequest .. =>
    raising [.sysRegs, .hstRegs, .pwrRegs, .lnkRegs, .pci, .power, .device]
  | .dlDown .. | .hotReset .. | .functionLevelReset .. | .perstNAssert .. =>
    raising [.sysRegs, .hstRegs, .pwrRegs, .lnkRegs, .pci, .host, .power, .device]
  | .resume .. =>
    raising [.sysRegs, .hstRegs, .lnkRegs, .host]
  | .groupReady .. =>
    [.sysRegs, .commitRegs, .timers, .beams, .groups, .ports]
  | .fenceGuardExpiry .. =>
    [.sysRegs, .beams, .groups, .ports]
  | .fenceTimeout .. =>
    [.sysRegs, .commitRegs, .beams, .groups, .ports]
  | .cgMapWrite .. =>
    raising [.hstRegs, .commitRegs, .host]
  | .calends .. | .beamPllLock .. =>
    raising [.sysRegs, .hstRegs, .pwrRegs, .lnkRegs, .beamRegs, .objRegs, .cmpRegs, .lpRegs, .commitRegs, .host,
      .tables, .beams, .binning, .groups, .attributes, .pl, .ports, .power]
  | .censusStart .. =>
    raising [.sysRegs, .hstRegs, .pwrRegs, .lnkRegs, .beamRegs, .cmpRegs, .commitRegs, .host, .tables, .beams,
      .groups, .census, .attributes, .ports, .power]
  | .censusAbort .. | .censusRecordWritten .. =>
    raising [.sysRegs, .hstRegs, .gpioRegs, .pwrRegs, .lnkRegs, .beamRegs, .cmpRegs, .commitRegs, .host, .tables,
      .cores, .beams, .groups, .census, .attributes, .ports, .gpio, .power]
  | .censusGroupCut .. =>
    [.sysRegs, .commitRegs, .timers, .tables, .cores, .census]
  | .beamFrameStart .. =>
    raising [.sysRegs, .hstRegs, .pwrRegs, .dmaRegs, .bltRegs, .audRegs, .lnkRegs, .beamRegs, .objRegs, .cmpRegs,
      .commitRegs, .host, .store, .tables, .beams, .groups, .attributes, .pl, .ports, .audio, .blitter, .dma, .power]
  | .genlockHoldover .. =>
    raising [.beamRegs, .beams]
  | .beamFrameLoRead .. | .evtQueuePop .. | .tbLoRead .. | .capRead .. | .capLogPop .. =>
    raising [.sysRegs, .gpioRegs, .tables, .cores, .beams, .gpio]
  | .lineEmissionStart .. =>
    raising [.sysRegs, .hstRegs, .dmaRegs, .lnkRegs, .beamRegs, .tmapRegs, .objRegs, .bmpRegs, .cmpRegs, .lpRegs,
      .host, .store, .tables, .cores, .beams, .ports, .blitter, .dma]
  | .reservationWindowEnd .. =>
    [.sysRegs]
  | .scrubLine .. =>
    raising [.sysRegs, .store]
  | .tblScrubWord .. | .lineDeadline .. | .lsqEntryArrival .. =>
    raising [.sysRegs, .tmapRegs, .bmpRegs, .cmpRegs, .lpRegs, .store, .tables, .cores, .beams]
  | .psInjectArm .. | .psInjectDisarm .. =>
    [.sysRegs, .store]
  | .lineGenerationStart .. | .generationRestart .. =>
    [.objRegs, .beams]
  | .lineComplete .. =>
    raising [.sysRegs, .tmapRegs, .bmpRegs, .cmpRegs, .store, .tables, .cores, .beams]
  | .raMinHeldClear .. =>
    [.lpRegs]
  | .oatWrite .. =>
    [.sysRegs, .objRegs, .oatRegs, .attributes]
  | .sortStageEnd .. =>
    raising [.sysRegs, .objRegs, .tables, .cores, .beams, .binning]
  | .bandListComplete .. =>
    [.objRegs, .beams, .binning]
  | .objPeakClear .. =>
    [.objRegs]
  | .importLineMissing .. =>
    raising [.bmpRegs, .beams]
  | .pleGo .. =>
    [.beamRegs, .cmpRegs, .output]
  | .pleFetchDone .. | .pleVerifyDone .. =>
    raising [.cmpRegs, .pl]
  | .pleWriteDone .. =>
    raising [.sysRegs, .store, .pl]
  | .plBankArrival .. =>
    raising [.cmpRegs, .beams, .pl]
  | .add .. | .sub .. | .and .. | .or .. | .xor .. | .nor .. | .slt .. | .sltu .. | .sll .. | .srl .. | .sra ..
  | .ror .. | .rol .. | .neg .. | .min .. | .max .. | .minu .. | .maxu .. | .slli .. | .srli .. | .srai ..
  | .rori .. | .addi .. | .andi .. | .ori .. | .xori .. | .slti .. | .sltiu .. | .movu .. | .mul .. | .mulu ..
  | .mac .. | .macu .. | .div .. | .divu .. | .ldw .. | .ldh .. | .ldhu .. | .ldb .. | .ldbu .. | .stw .. | .sth ..
  | .stb .. | .beq .. | .bne .. | .blt .. | .bge .. | .bltu .. | .bgeu .. | .j .. | .jal .. | .jr .. | .jalr ..
  | .loop .. | .loopi .. | .callm .. | .retm .. | .fanelNop .. | .mfs .. | .mts .. | .wfe .. | .sev .. | .waitt ..
  | .msync .. | .reti .. | .leave .. | .brk .. | .sysc .. | .interruptEntry .. =>
    raising [.sysRegs, .lpRegs, .tables, .cores]
  | .divComplete .. | .wfeWake .. | .msyncEnd .. =>
    [.cores]
  | .lsw .. =>
    raising [.sysRegs, .hstRegs, .lpRegs, .host, .tables, .cores, .beams]
  | .waittEnd .. =>
    [.timers, .cores]
  | .waitl .. =>
    raising [.sysRegs, .hstRegs, .lpRegs, .host, .tables, .cores]
  | .waitlEnd .. =>
    raising [.hstRegs, .host, .cores]
  | .lpRun .. | .lpReset .. | .lpHalt .. | .lpResume .. | .lpStep .. =>
    raising [.sysRegs, .hstRegs, .beamRegs, .lpRegs, .host, .tables, .cores, .beams]
  | .lnkPortEnable .. | .lnkPortDisable .. | .trainingFrameRx .. | .alignmentMarkerRx .. | .cellSlot ..
  | .creditTimeout .. | .reneg .. | .alignmentMarkerMissing .. =>
    raising [.lnkRegs, .ports]
  | .laneGraded .. | .baseComplete .. | .descentComplete .. | .portStateTimeout .. | .faultWaitExpiry ..
  | .laneGradeTimeout .. =>
    [.lnkRegs, .ports]
  | .fecCodewordRx .. | .cellCrcFailRx .. =>
    raising [.lnkRegs, .bmpRegs, .ports]
  | .cellIdleRx .. =>
    []
  | .cellPixelRx .. =>
    raising [.sysRegs, .lnkRegs, .bmpRegs, .cmpRegs, .store, .beams, .ports]
  | .cellAudioRx .. | .cellRouteRx .. =>
    [.lnkRegs, .bmpRegs, .ports]
  | .cellFrameStartRx .. =>
    raising [.lnkRegs, .beamRegs, .bmpRegs, .beams, .ports]
  | .cellRepeatRx .. =>
    [.lnkRegs, .bmpRegs, .beams, .ports]
  | .cellFenceRx .. =>
    [.sysRegs, .lnkRegs, .bmpRegs, .beams, .groups, .ports]
  | .cellCapRx .. =>
    raising [.sysRegs, .lnkRegs, .bmpRegs, .ports]
  | .cellCreditRx .. | .creditSendTimer .. =>
    [.ports]
  | .capSendTimer .. =>
    raising [.sysRegs, .lnkRegs, .ports]
  | .audioSampleBoundary .. =>
    raising [.sysRegs, .audRegs, .cmpRegs, .store, .ports, .audio]
  | .audRefLost .. | .veqPush .. =>
    raising [.audRegs]
  | .feedPush .. | .crosspointWrite .. | .gainChange .. =>
    [.audRegs, .audio]
  | .zcTimeout .. | .busSwap .. =>
    [.audio]
  | .tdmFrameStart .. =>
    raising [.audRegs, .audio]
  | .blitSyncStart .. | .bltDirectGo .. =>
    [.bltRegs, .blitter]
  | .blitStageDone .. =>
    raising [.sysRegs, .bltRegs, .cmpRegs, .store]
  | .blitRowVisible .. =>
    raising [.sysRegs, .bltRegs, .cmpRegs, .store, .blitter]
  | .eventArrival .. | .evtSwi .. | .tbWrap .. | .tbLoad .. | .cmpMatch .. | .cmpFire .. | .itExpiry .. =>
    raising []
  | .coalesceTimeout .. | .evtWithdraw .. | .evtRetarget .. =>
    [.evtRegs, .events, .output]
  | .aonTick .. =>
    raising [.sysRegs, .pwrRegs, .gpio, .power, .device]
  | .cmpValueWrite .. | .itEnable .. | .itLoad .. =>
    [.tmrRegs]
  | .gpioPadChange .. | .gpioSet .. | .gpioClr .. | .gpioFunctionChange .. | .gpioBankSupplyChange .. =>
    [.gpioRegs, .gpio]
  | .gpioFilterSample .. =>
    raising [.gpioRegs, .audRegs, .beamRegs, .beams, .audio, .gpio]
  | .ledgerWindowEnd .. | .tempSensorRead .. | .pwrLedgerWrite .. | .ledgerStale .. =>
    raising [.pwrRegs, .cmpRegs, .beams, .power]
  | .avsResponse .. =>
    raising [.pwrRegs, .beams, .power]
  | .avsRetry .. =>
    [.output]
  | .leap .. | .leapVerifyEnd .. | .almSampleSetEnd .. =>
    raising [.pwrRegs, .power]
  | .almSamplePeriod .. | .almSampleNow .. | .almLogOpDone .. =>
    [.pwrRegs, .power]
  | .almLogWriteFlash .. | .almLogWriteFuse .. | .almLogRead .. =>
    [.pwrRegs, .timers, .power]
  | .pmbGo .. =>
    [.pwrRegs, .output]
  | .pmbDone .. =>
    raising [.pwrRegs]
  | .modeReqService .. | .modeReqSleep .. | .modeReqEmber .. =>
    raising [.sysRegs, .pwrRegs, .lnkRegs, .commitRegs, .power, .device]
  | .sleepEntryComplete .. =>
    raising [.sysRegs, .hstRegs, .gpioRegs, .pwrRegs, .dmaRegs, .bltRegs, .lnkRegs, .beamRegs, .cmpRegs,
      .commitRegs, .host, .store, .tables, .beams, .groups, .census, .attributes, .ports, .blitter, .dma, .gpio,
      .power, .device]
  | .wakeComplete .. =>
    raising [.sysRegs, .hstRegs, .pwrRegs, .dmaRegs, .bltRegs, .audRegs, .lnkRegs, .beamRegs, .cmpRegs,
      .commitRegs, .host, .store, .tables, .beams, .groups, .census, .attributes, .ports, .audio, .blitter, .dma,
      .power, .device]
  | .sysDbgHalt .. | .sysDbgResume .. =>
    raising [.sysRegs, .lnkRegs, .cores]
  | .coldReset .. | .warmResetBegin .. | .bootStepDone .. | .lcDone .. =>
    raising [.sysRegs, .hstRegs, .gpioRegs, .pwrRegs, .bistRegs, .dmaRegs, .bltRegs, .audRegs, .lnkRegs, .beamRegs,
      .tmapRegs, .objRegs, .bmpRegs, .cmpRegs, .lpRegs, .tableRegs, .oatRegs, .ttRegs, .commitRegs, .pci, .host,
      .store, .tables, .cores, .beams, .binning, .groups, .census, .attributes, .pl, .ports, .audio, .blitter,
      .dma, .gpio, .power, .device]
  | .sysResetNRelease .. | .warmResetRequest .. | .bistPauseExpiry .. | .alwaysOnOscillatorStart .. =>
    [.device]
  | .scReset .. | .scReload .. | .bootGo .. =>
    [.sysRegs, .evtRegs, .events, .tables, .cores, .output]
  | .bootImageFetched .. =>
    raising [.sysRegs, .store, .tables, .cores, .device]
  | .bootImageChecked .. =>
    raising [.sysRegs, .tables, .cores, .device]
  | .provision .. | .sealSteward .. | .sealPl .. | .deploy .. | .raiseFloor .. | .lcReturn .. | .retire .. =>
    [.sysRegs, .device, .output]
  | .mgmtReadIdentity .. | .mgmtReadMode .. | .mgmtReadThermal .. | .mgmtReadResetCause .. | .mgmtReadBoot ..
  | .warmReset .. =>
    [.sysRegs, .pwrRegs, .power, .device, .output]
  | .tapReset .. | .extest .. | .idcode .. | .samplePreload .. | .extestPulse .. | .extestTrain .. | .clamp ..
  | .highz .. | .warm .. | .stewardDebugAccess .. | .bypass .. =>
    raising [.sysRegs, .hstRegs, .pwrRegs, .lnkRegs, .pci, .host, .ports, .power, .device]
  | .dbgHalt .. | .dbgResume .. =>
    raising [.sysRegs, .hstRegs, .pwrRegs, .lnkRegs, .pci, .host, .cores, .ports, .power, .device]
  | .lcManufacture .. =>
    raising [.sysRegs, .hstRegs, .pwrRegs, .bistRegs, .lnkRegs, .cmpRegs, .pci, .host, .ports, .power, .device]
  | .bistGo .. | .bistStop .. | .bistSliceBegin .. | .repairDone .. =>
    raising [.bistRegs, .device]
  | .bistProgFetched .. =>
    raising [.sysRegs, .bistRegs, .store, .device]
  | .bistSliceEnd .. =>
    raising [.bistRegs, .store, .device]
  | .bistRepairSoft .. | .bistRepairFuse .. =>
    [.bistRegs, .device]
  | .arrivingLapse .. =>
    [.bmpRegs]
  | .poweredHour .. =>
    [.pwrRegs]

end Sys2Proof.Machine
end

