-- ==== Sys2Proof/Certificates/Slice0/Obligations.lean ====
section
/-! DEFINITION. The statements for the provers, and the terms they are written in. A docstring names the rules of spec/ that its
statement draws on, and after them the log entries (notes/assumptions) that the model's own reading of those rules, or a choice
where they are silent, stands in: what rests on such an entry is the model's, not the spec's. -/

namespace Sys2Proof.Machine

/-! What the statements speak of. -/

/-- A command completes: it answers a next state with a property. -/
def State.does (s : State) (i : Instr) (p : State → Prop) : Prop := ∃ t, exec i s = .next t ∧ p t

/-- No error is held for the 32-byte word of a core's TCM address (R239). -/
def State.tcmClean (s : State) (c a : Nat) : Prop :=
  s.tbl.poison.contains (tcmKey c a) = false ∧ kvGet (tcmKey c a) s.tbl.err = none

/-- Core c issues its next instruction: it runs, nothing is still to come in its pipeline or its unit, and its pc is in I-TCM
at a word without errors and without an armed breakpoint (R208, R219, R239, R241). -/
def State.ready (s : State) (c : Nat) : Prop :=
  let k := s.core c
  k.run = .running ∧ k.pend = [] ∧ k.div = none ∧ k.pc.toNat < 0x10000 ∧ s.tcmClean c k.pc.toNat ∧
    (k.skipBp = true ∨ s.breakAt c k.pc = false)

/-- Core c can fetch: it runs, and its pc is in I-TCM at a word without errors and without an armed breakpoint. -/
def State.fetches (s : State) (c : Nat) : Prop :=
  let k := s.core c
  k.run = .running ∧ k.pc.toNat < 0x10000 ∧ s.tcmClean c k.pc.toNat ∧ (k.skipBp = true ∨ s.breakAt c k.pc = false)

/-- The step of core c alone: from s to t no other core, no register word, no other unit changes, no byte of another memory,
and no error of a table word. -/
def State.coreOnly (s t : State) (c : Nat) : Prop :=
  (∀ j, j ≠ c → t.core j = s.core j) ∧ s.onlyChanges t [.cores, .tables] ∧ t.tbl.err = s.tbl.err ∧
    t.tbl.poison = s.tbl.poison ∧ t.pending = s.pending

/-- An instruction of core c completes, changes the core as told and nothing else. -/
def State.runs (s : State) (i : Instr) (c : Nat) (p : Core → Prop) : Prop :=
  s.does i fun t => s.coreOnly t c ∧ p (t.core c)

/-- The core after an instruction outside every loop that wrote v to register rd and some bits of st, two cycles later, when
its result has landed in both configurations; every other register and memory word is as before. -/
def Core.wrote (k : Core) (rd : Nat) (v : Word) (flags : List (Nat × Bool)) : Core :=
  { k with g := if rd = 0 then k.g else vset k.g rd v, st := flags.foldl (fun w f => setBit w f.1 f.2) k.st
           pc := k.pc + 4, skipBp := false, t := k.t + 2, cyc := k.cyc + 2 }

/-- N and Z of a result (R206). -/
def nz (v : Word) : List (Nat × Bool) := [(0, decide (v.toInt < 0)), (1, decide (v.toNat = 0))]

/-- An arithmetic instruction writes v to rd with flags, and nothing else. -/
def State.computes (s : State) (i : Instr) (c rd : Nat) (v : Word) (flags : List (Nat × Bool)) : Prop :=
  s.runs i c fun k' => k'.pass 1 = (s.core c).wrote rd v flags

/-- The core after n cycles in which the instruction at pc completed outside every loop. -/
def Core.advanced (k : Core) (n : Nat) : Core :=
  { k with pc := k.pc + 4, skipBp := false, t := k.t + n, cyc := k.cyc + BitVec.ofNat 32 n }

/-- The core has jumped: the instruction took two cycles and the next one is at a target (R218, R222). -/
def Core.jumped (k : Core) (target : Word) (n : Nat) : Core :=
  { k with pc := target, skipBp := false, t := k.t + n, cyc := k.cyc + BitVec.ofNat 32 n }

/-- Both words that an entry of core c pushes can be written (R238). -/
def State.stackOk (s : State) (c : Nat) : Prop :=
  let sp := ((s.core c).gr 30).toNat
  sp % 4 = 0 ∧ 0x10008 ≤ sp ∧ sp ≤ 0x20000 ∧ s.tcmClean c (sp - 8) ∧ s.tcmClean c (sp - 4)

/-- Exceptions do not halt core c before their entry (R241). -/
def State.noExcHalt (s : State) (c : Nat) : Prop := c < 16 → s.rb .lpDbgCtrl 1 c = false

/-- No error is held for the entries of core c's vector table (R233, R239). -/
def State.vectorsClean (s : State) (c : Nat) : Prop := ∀ e, e < 48 → s.tcmClean c ((s.core c).vbase.toNat + 4 * e)

/-- Core c can enter an exception: no halt comes before it, its two words can be pushed and its vector can be read. -/
def State.canEnter (s : State) (c : Nat) : Prop := s.stackOk c ∧ s.noExcHalt c ∧ s.vectorsClean c

/-- The core after an exception entry (R233): sp − 8, the return pc at sp + 4 and st before entry at sp, xcause and xaddr,
IPL 17, and pc from the vector entry of the code; five cycles. Every other register and memory word is as before. -/
def Core.trapped (k : Core) (code : Nat) (saved xaddr : Word) : Core :=
  let sp := (k.gr 30).toNat - 8
  let k1 := { k with
    g := vset k.g 30 (BitVec.ofNat 32 sp)
    dtcm := kvPut 0 ((sp - 0x10000) / 4) k.stWord (kvPut 0 ((sp + 4 - 0x10000) / 4) saved k.dtcm)
    xcause := BitVec.ofNat 32 (2 ^ 31 + code), xaddr := xaddr, st := setFld k.st 12 8 17, wait := .none, skipBp := false
    t := k.t + 5, cyc := k.cyc + 5 }
  { k1 with pc := BitVec.ofNat 32 ((k1.tcmWord (k.vbase.toNat + 4 * code)).toNat / 4 % 2 ^ 14 * 4) }

/-- An instruction of core c takes an exception: the core enters its handler, a line processor counts it, and no other core,
register word, unit or memory byte changes. -/
def State.traps (s : State) (i : Instr) (c code : Nat) (saved xaddr : Word) (k : Core) : Prop :=
  s.does i fun t =>
    t.core c = k.trapped code saved xaddr ∧ (∀ j, j ≠ c → t.core j = s.core j) ∧
    s.onlyChanges t [.cores, .tables, .lpRegs] ∧ t.tbl.err = s.tbl.err ∧ t.tbl.poison = s.tbl.poison ∧
    (∀ a, (16 ≤ c ∨ a ≠ addrOf .lpExc c 0 0) → t.getW a = s.getW a) ∧
    (c < 16 → t.rd .lpExc c = countWord (s.rd .lpExc c) 1)

/-- A time that a clock domain shows (R14): in the central fabric (domain 3) the count of the time base itself; elsewhere that
of a replica, at most 32 ns behind the count, which never goes back. The count runs across its wrap (R336). -/
def State.stamps (s : State) (domain v : Nat) : Prop :=
  let behind (x : Nat) : Nat := (s.now + 2 ^ 64 - x % 2 ^ 64) % 2 ^ 64
  v < 2 ^ 64 ∧ if domain = 3 then v = s.now else
    behind v ≤ 32 ∧ behind v ≤ behind ((kvGet domain s.tmr.replicas).getD 0)

/-- Ring r begins the descriptor d with index i and an opcode (R64, R65): it is the next one, the ring has the turn, and no field
of it is illegal (R61, R63). -/
def State.begins (s : State) (r i : Nat) (d : List Byte) (op : Nat) : Prop :=
  (∃ rest, (s.ring r).ready = (i, d) :: rest) ∧ s.turn r = true ∧ descOp d = op ∧ descBadByte d = none ∧ descBadRange d = none

/-- A completion of ring r can be written: its completion ring is enabled and has room, nothing waits before it, and requests can
be made (R67, R73). -/
def State.canPost (s : State) (r : Nat) : Prop :=
  let c := (s.ring r).cq
  c < 64 ∧ (s.ring r).waiting = [] ∧ s.rb .hstCqCtrl 0 c = true ∧ s.rf .hstCqCtrl 5 1 c ≤ 16 ∧ s.cqFull c = false ∧
    s.pci.busMaster = true ∧ s.scanned = false

/-- From s to t, descriptor d of ring r, with index i, completes with a status: the record is written to the next slot of its
completion ring, whose index advances; with NOCOMP and status OK there is none (R59, R67). -/
def State.posts (s t : State) (r i : Nat) (d : List Byte) (status info info2 : Nat) : Prop :=
  let c := (s.ring r).cq
  let k := s.rf .hstCqCtrl 5 1 c
  let p := s.rf .hstCqStatus 16 0 c
  (t.ring r).begun = (s.ring r).begun.erase i ∧
  if descNocomp d = true ∧ status = 0 then t.rf .hstCqStatus 16 0 c = p
  else t.rf .hstCqStatus 16 0 c = (p + 1) % 2 ^ (k + 1) ∧ ∃ v : Nat, s.stamps 2 v ∧
    .hostWrite (BitVec.ofNat 64 (s.addr64 .hstCqBaseLo .hstCqBaseHi c + p % 2 ^ k * 32))
      (cplBytes r (s.rb .hstCqStatus 17 c) ⟨status, descOp d, BitVec.ofNat 32 (descField d 4 4), i, BitVec.ofNat 32 info,
        BitVec.ofNat 64 info2, BitVec.ofNat 64 v⟩) ∈ t.out

/-- From s to t an event record is written to the event ring, whose index advances (R68). -/
def State.postsEvent (s t : State) (type ring info addr : Nat) : Prop :=
  let k := s.rf .hstEqCtrl 5 1
  let p := s.rf .hstEqStatus 16 0
  t.rf .hstEqStatus 16 0 = (p + 1) % 2 ^ (k + 1) ∧ ∃ v : Nat, s.stamps 2 v ∧
    .hostWrite (BitVec.ofNat 64 (s.addr64 .hstEqBaseLo .hstEqBaseHi + p % 2 ^ k * 32))
      ([BitVec.ofNat 8 type, BitVec.ofNat 8 (s.rb .hstEqStatus 17).toNat, BitVec.ofNat 8 ring, 0] ++ bytesLE 4 info ++
        bytesLE 8 v ++ bytesLE 8 addr ++ bytesLE 8 0) ∈ t.out

/-- An event record can be written (R68, R73). -/
def State.canPostEvent (s : State) : Prop :=
  let k := s.rf .hstEqCtrl 5 1
  s.rb .hstEqCtrl 0 = true ∧ k ≤ 16 ∧ ringCount k (s.rf .hstEqStatus 16 0) s.hst.eqCi < 2 ^ k ∧ s.pci.busMaster = true ∧
    s.scanned = false

/-- Host writes, each of some bytes and of at most so many, lay bytes down from an address on, in order (R54, R312). -/
def laysDown (most : Nat) (relaxed : Bool) : Nat → List Byte → List OutEvent → Prop
  | _, bs, [] => bs = []
  | a, bs, e :: es => ∃ c d, bs = c ++ d ∧ c ≠ [] ∧ c.length ≤ most ∧ e = .hostWrite (BitVec.ofNat 64 a) c relaxed ∧
      laysDown most relaxed (a + c.length) d es

/-- From s to t bytes of the DMA engine or of the census go to the host, in writes of at most the Maximum Payload Size, with Relaxed
Ordering where it is permitted, and nothing else leaves the block; without Bus Master Enable nothing does (R48, R54, R312). -/
def State.sendsData (s t : State) (a : Nat) (bs : List Byte) : Prop :=
  if s.pci.busMaster = true ∧ s.scanned = false then
    ∃ es, t.out = s.out ++ es ∧ laysDown s.pci.payload s.pci.relaxed a bs es
  else t.out = s.out

/-- From s to t the bytes of the pattern store from a on become bs, and no other byte below 48 GiB changes. -/
def State.stores (s t : State) (a : Nat) (bs : List Byte) : Prop :=
  ∀ y, y < 0xC00000000 → memGet t.store.mem y = if a ≤ y ∧ y < a + bs.length then bs.getD (y - a) 0 else memGet s.store.mem y

/-- The lines of n bytes from a lie below 48 GiB and hold neither errors nor poison, and no stack is fenced off (R13). -/
def State.cleanAt (s : State) (a n : Nat) : Prop :=
  a + n ≤ 0xC00000000 ∧ s.fenced 20 = false ∧ s.fenced 21 = false ∧
    ∀ ln, a < 64 * ln + 64 → 64 * ln < a + n → s.lineErr ln = [] ∧ s.store.poison.contains ln = false

/-- Such lines may also be written: no injection is armed, and none meets the PL region. -/
def State.writableAt (s : State) (a n : Nat) : Prop :=
  s.cleanAt a n ∧ s.store.inject = none ∧ ∀ b m, a ≤ b → b + m ≤ a + n → s.inPlRegion b m = false

/-- The byte at a TCM address of a core (R208). -/
def Core.tcmByte (k : Core) (a : Nat) : Nat := (k.tcmWord (a / 4 * 4)).toNat / 2 ^ (8 * (a % 4)) % 256

end Sys2Proof.Machine

open Sys2Proof Sys2Proof.Machine

/-- R214, R212: ADD and ADDI wrap modulo 2^32, with N and Z of the sum, C the carry out and V signed overflow. SUB likewise,
with C 1 when ra ≥ rb unsigned. NEG sets V for 0x8000_0000 alone and leaves C.
The model's: log entry 47. -/
def Obligations.FanelAddSub : Prop :=
  ∀ (s : State) (c : Fin 20) (o : FmtReg) (m : FmtImm), s.ready c → (s.core c).ld = 0 →
    let a := (s.core c).gr o.ra
    let b := (s.core c).gr o.rb
    let x := (s.core c).gr m.ra
    let y : Int := m.imm.toInt
    let sum (p q : Int) : Word := BitVec.ofInt 32 (p + q)
    let flags (r : Word) (carry : Prop) [Decidable carry] (exact : Int) : List (Nat × Bool) :=
      nz r ++ [(2, decide carry), (3, decide (exact < -2 ^ 31 ∨ 2 ^ 31 ≤ exact))]
    (o.top = 0 → o.sh = 0 →
      s.computes (.add c o) c o.rd (sum a.toInt b.toInt)
        (flags (sum a.toInt b.toInt) (2 ^ 32 ≤ a.toNat + b.toNat) (a.toInt + b.toInt)) ∧
      s.computes (.sub c o) c o.rd (sum a.toInt (-b.toInt))
        (flags (sum a.toInt (-b.toInt)) (b.toNat ≤ a.toNat) (a.toInt - b.toInt)) ∧
      (o.rb = 0 → s.computes (.neg c o) c o.rd (sum 0 (-a.toInt))
        (nz (sum 0 (-a.toInt)) ++ [(3, decide (a = 0x80000000))]))) ∧
    s.computes (.addi c m) c m.rd (sum x.toInt y)
      (flags (sum x.toInt y) (2 ^ 32 ≤ x.toNat + (BitVec.ofInt 32 y).toNat) (x.toInt + y))

/-- R212: AND, OR, XOR, NOR, ANDI, ORI, XORI and MOVU write the bits their table rows give, with N and Z of the result.
The model's: log entry 47. -/
def Obligations.FanelLogic : Prop :=
  ∀ (s : State) (c : Fin 20) (o : FmtReg) (m : FmtImm) (h : FmtHigh), s.ready c → (s.core c).ld = 0 →
    let a := (s.core c).gr o.ra
    let b := (s.core c).gr o.rb
    let x := (s.core c).gr m.ra
    let bits (f : Nat → Bool) : Word := BitVec.ofNat 32 ((List.range 32).map (fun i => (f i).toNat * 2 ^ i)).sum
    let imm (i : Nat) : Bool := m.imm.getLsbD i
    let does (i : Instr) (rd : Nat) (v : Word) : Prop := s.computes i c rd v (nz v)
    (o.top = 0 → o.sh = 0 →
      does (.and c o) o.rd (bits fun i => a.getLsbD i && b.getLsbD i) ∧
      does (.or c o) o.rd (bits fun i => a.getLsbD i || b.getLsbD i) ∧
      does (.xor c o) o.rd (bits fun i => a.getLsbD i != b.getLsbD i) ∧
      does (.nor c o) o.rd (bits fun i => !(a.getLsbD i || b.getLsbD i))) ∧
    does (.andi c m) m.rd (bits fun i => x.getLsbD i && imm i) ∧
    does (.ori c m) m.rd (bits fun i => x.getLsbD i || imm i) ∧
    does (.xori c m) m.rd (bits fun i => x.getLsbD i != imm i) ∧
    does (.movu c h) h.rd (bits fun i => 13 ≤ i && h.imm.getLsbD (i - 13))

/-- R212: SLT, SLTU, SLTI, SLTIU, MIN, MAX, MINU and MAXU compare as signed or unsigned numbers, with N and Z of the result.
The model's: log entry 47. -/
def Obligations.FanelCompare : Prop :=
  ∀ (s : State) (c : Fin 20) (o : FmtReg) (m : FmtImm), s.ready c → (s.core c).ld = 0 →
    let a := (s.core c).gr o.ra
    let b := (s.core c).gr o.rb
    let x := (s.core c).gr m.ra
    let does (i : Instr) (rd : Nat) (v : Word) : Prop := s.computes i c rd v (nz v)
    (o.top = 0 → o.sh = 0 →
      does (.slt c o) o.rd (if a.toInt < b.toInt then 1 else 0) ∧
      does (.sltu c o) o.rd (if a.toNat < b.toNat then 1 else 0) ∧
      does (.min c o) o.rd (BitVec.ofInt 32 (min a.toInt b.toInt)) ∧
      does (.max c o) o.rd (BitVec.ofInt 32 (max a.toInt b.toInt)) ∧
      does (.minu c o) o.rd (BitVec.ofNat 32 (min a.toNat b.toNat)) ∧
      does (.maxu c o) o.rd (BitVec.ofNat 32 (max a.toNat b.toNat))) ∧
    does (.slti c m) m.rd (if x.toInt < m.imm.toInt then 1 else 0) ∧
    does (.sltiu c m) m.rd (if x.toNat < (BitVec.ofInt 32 m.imm.toInt).toNat then 1 else 0)

/-- R215: a shift by n, rb[5:0] or sh, multiplies or divides by 2^n, so that 32 to 63 give 0 or the sign; a rotate takes
the amount modulo 32: bit i of its result is bit (i + n) mod 32 of ra to the right, (i + 32 − n) mod 32 to the left.
The model's: log entry 47. -/
def Obligations.FanelShifts : Prop :=
  ∀ (s : State) (c : Fin 20) (o : FmtReg), s.ready c → (s.core c).ld = 0 → o.top = 0 →
    let a := (s.core c).gr o.ra
    let n := ((s.core c).gr o.rb).toNat % 64
    let left (n : Nat) : Word := BitVec.ofNat 32 (a.toNat * 2 ^ n)
    let right (n : Nat) : Word := BitVec.ofNat 32 (a.toNat / 2 ^ n)
    let sign (n : Nat) : Word := BitVec.ofInt 32 (a.toInt / 2 ^ n)
    let turned (i : Instr) (n : Nat) : Prop := ∃ v : Word, (∀ k, k < 32 → v.getLsbD k = a.getLsbD ((k + n) % 32)) ∧
      s.computes i c o.rd v (nz v)
    let does (i : Instr) (v : Word) : Prop := s.computes i c o.rd v (nz v)
    (o.sh = 0 → does (.sll c o) (left n) ∧ does (.srl c o) (right n) ∧ does (.sra c o) (sign n) ∧
      turned (.ror c o) (n % 32) ∧ turned (.rol c o) (32 - n % 32)) ∧
    (o.rb = 0 → does (.slli c o) (left o.sh) ∧ does (.srli c o) (right o.sh) ∧ does (.srai c o) (sign o.sh) ∧
      turned (.rori c o) o.sh)

/-- R212, R219, R221: MUL and MULU place the 64-bit product in mh:ml, MAC and MACU add it to mh:ml modulo 2^64, four cycles
on; no flag changes.
The model's: log entry 47. -/
def Obligations.FanelMultiply : Prop :=
  ∀ (s : State) (c : Fin 20) (o : FmtReg), s.ready c → (s.core c).ld = 0 → o.top = 0 → o.sh = 0 → o.rd = 0 →
    let k := s.core c
    let a := k.gr o.ra
    let b := k.gr o.rb
    let old : Nat := k.mh.toNat * 2 ^ 32 + k.ml.toNat
    let gives (i : Instr) (n : Int) : Prop := s.runs i c fun k' => k'.pass 3 =
      { k.advanced 4 with ml := BitVec.ofInt 32 n, mh := BitVec.ofInt 32 (n / 2 ^ 32) }
    gives (.mul c o) (a.toInt * b.toInt) ∧ gives (.mulu c o) (a.toNat * b.toNat) ∧
    gives (.mac c o) (old + a.toInt * b.toInt) ∧ gives (.macu c o) (old + a.toNat * b.toNat)

/-- R216: DIV and DIVU set V and DZ at their issue, and ml and mh follow 19 cycles after it: the quotient truncated toward zero
and the remainder, or the edge case. With DZE 1 a zero divisor raises Divide by Zero instead, with DZ set. DIV_COMPLETE is
the passage of the cycles that are left (R221).
The model's: log entry 47. -/
def Obligations.FanelDivide : Prop :=
  ∀ (s : State) (c : Fin 20) (o : FmtReg), s.ready c → (s.core c).ld = 0 → o.top = 0 → o.sh = 0 → o.rd = 0 →
    let k := s.core c
    let a := k.gr o.ra
    let b := k.gr o.rb
    let gives (i : Instr) (ml mh : Word) (flag : Nat) (v : Bool) : Prop :=
      let done := { k.advanced 19 with ml := ml, mh := mh, st := setBit k.st flag v }
      s.runs i c (fun k' => (k'.pass 18) = done) ∧
      ∀ t, exec i s = .next t → t.runs (.divComplete c) c fun k' => k' = done
    let zero (i : Instr) : Prop := s.canEnter c →
      s.traps i c 4 k.pc k.pc { k with st := setBit k.st 4 true }
    (b ≠ 0 → a = 0x80000000 ∧ b = 0xFFFFFFFF → gives (.div c o) 0x80000000 0 3 true) ∧
    (b ≠ 0 → ¬(a = 0x80000000 ∧ b = 0xFFFFFFFF) →
      gives (.div c o) (BitVec.ofInt 32 (a.toInt.tdiv b.toInt)) (BitVec.ofInt 32 (a.toInt.tmod b.toInt)) 3 false) ∧
    (b ≠ 0 → gives (.divu c o) (BitVec.ofNat 32 (a.toNat / b.toNat)) (BitVec.ofNat 32 (a.toNat % b.toNat)) 3 false) ∧
    (b = 0 → bit k.st 5 = false → gives (.div c o) (if 0 ≤ a.toInt then 0x7FFFFFFF else 0x80000000) a 4 true ∧
      gives (.divu c o) 0xFFFFFFFF a 4 true) ∧
    (b = 0 → bit k.st 5 = true → zero (.div c o) ∧ zero (.divu c o))

/-- R208, R211, R219: a load from I-TCM or D-TCM at an aligned address puts the bytes there, little-endian and sign- or
zero-extended, into rd, three cycles on in X and two in M.
The model's: log entry 47. -/
def Obligations.FanelLoads : Prop :=
  ∀ (s : State) (c : Fin 20) (o : FmtImm), s.ready c → (s.core c).ld = 0 →
    let k := s.core c
    let w := k.gr o.ra + BitVec.ofInt 32 o.imm.toInt
    let a := w.toNat
    let loads (i : Instr) (size : Nat) (signed : Bool) : Prop :=
      a % size = 0 → a < 0x20000 → s.tcmClean c a → s.watchAt c a false = false →
        let v : Nat := ((List.range size).map (fun j => k.tcmByte (a + j) * 256 ^ j)).sum
        let x : Int := if signed ∧ 256 ^ size ≤ 2 * v then v - 256 ^ size else v
        s.runs i c fun k' => k'.pass 2 = { k.advanced 3 with g := if o.rd = 0 then k.g else vset k.g o.rd (BitVec.ofInt 32 x) }
    loads (.ldw c o) 4 false ∧ loads (.ldh c o) 2 true ∧ loads (.ldhu c o) 2 false ∧ loads (.ldb c o) 1 true ∧
    loads (.ldbu c o) 1 false

/-- R208, R211: a store to I-TCM or D-TCM at an aligned address writes the low bytes of rs, little-endian, and no other byte,
register or flag.
The model's: log entry 47. -/
def Obligations.FanelStores : Prop :=
  ∀ (s : State) (c : Fin 20) (o : FmtImm), s.ready c → (s.core c).ld = 0 →
    let k := s.core c
    let w := k.gr o.ra + BitVec.ofInt 32 o.imm.toInt
    let a := w.toNat
    let stores (i : Instr) (size : Nat) : Prop :=
      a % size = 0 → a < 0x20000 → s.tcmClean c a → s.watchAt c a true = false →
        s.runs i c fun k' =>
          (∀ x, x < 0x20000 → k'.tcmByte x =
            if a ≤ x ∧ x < a + size then (k.gr o.rd).toNat / 256 ^ (x - a) % 256 else k.tcmByte x) ∧
          k' = { k.advanced 1 with itcm := k'.itcm, dtcm := k'.dtcm }
    stores (.stw c o) 4 ∧ stores (.sth c o) 2 ∧ stores (.stb c o) 1

/-- R208 to R211: an access to a window freezes the core, but for the first sixteen device-window stores of a steward, which
are posted; a byte or halfword access to the device window and a misaligned access raise Alignment, an address of no entry
of the core's map Memory Error.
The model's: log entry 54. -/
def Obligations.FanelWindows : Prop :=
  ∀ (s : State) (c : Fin 20) (o : FmtImm), s.ready c → (s.core c).ld = 0 →
    let k := s.core c
    let w := k.gr o.ra + BitVec.ofInt 32 o.imm.toInt
    let a := w.toNat
    let v := k.gr o.rd
    let device := 0x40000000 ≤ a ∧ a < 0x44000000
    let ownBeam := 0x40100000 + c * 0x100000 ≤ a ∧ a < 0x40200000 + c * 0x100000
    let pattern := 0x80000000 ≤ a ∧ a < 0xC0000000
    let waits (i : Instr) (wait : CoreWait) : Prop := s.runs i c fun k' => k' = { k with run := .waiting, wait := wait }
    let trap (i : Instr) (code : Nat) : Prop := s.canEnter c → s.traps i c code k.pc w k
    (a % 4 = 0 → (16 ≤ c.val ∧ device) ∨ (c.val < 16 ∧ ownBeam) ∨ (16 ≤ c.val ∧ pattern) →
      waits (.ldw c o) (.load w 4 false o.rd)) ∧
    (a % 2 = 0 → 16 ≤ c.val → pattern → waits (.ldh c o) (.load w 2 true o.rd) ∧ waits (.ldhu c o) (.load w 2 false o.rd) ∧
      waits (.sth c o) (.store w 2 v)) ∧
    (16 ≤ c.val → pattern → waits (.ldb c o) (.load w 1 true o.rd) ∧ waits (.ldbu c o) (.load w 1 false o.rd) ∧
      waits (.stb c o) (.store w 1 v)) ∧
    (a % 4 = 0 → 16 ≤ c.val → pattern ∨ (device ∧ 16 ≤ k.posted.length) → waits (.stw c o) (.store w 4 v)) ∧
    (a % 4 = 0 → 16 ≤ c.val → device → k.posted.length < 16 →
      s.runs (.stw c o) c fun k' => k' = { k.advanced 1 with posted := k.posted ++ [(w, v)] }) ∧
    (a % 4 ≠ 0 → trap (.ldw c o) 3 ∧ trap (.stw c o) 3) ∧
    (a % 2 ≠ 0 → trap (.ldh c o) 3 ∧ trap (.ldhu c o) 3 ∧ trap (.sth c o) 3) ∧
    (16 ≤ c.val → device → trap (.ldh c o) 3 ∧ trap (.ldhu c o) 3 ∧ trap (.ldb c o) 3 ∧ trap (.ldbu c o) 3 ∧
      trap (.sth c o) 3 ∧ trap (.stb c o) 3) ∧
    (a % 4 = 0 → 0x20000 ≤ a → ¬device → ¬pattern → trap (.ldw c o) 2 ∧ trap (.stw c o) 2) ∧
    (a % 4 = 0 → c.val < 16 → 0x20000 ≤ a → trap (.stw c o) 2)

/-- R212, R218, R222: a branch whose condition holds, and every jump, takes two cycles to its target, pc + 4 + 4 × offset
modulo 65,536 or ra with bits [1:0] cleared; any other branch takes one cycle to pc + 4. JAL and JALR leave pc + 4 in lk.
The model's: log entry 47. -/
def Obligations.FanelBranches : Prop :=
  ∀ (s : State) (c : Fin 20) (o : FmtCmp) (r : FmtReg) (off : BitVec 24), s.ready c → (s.core c).ld = 0 →
    let k := s.core c
    let a := k.gr o.ra
    let b := k.gr o.rb
    let target (x : Int) : Word := BitVec.ofInt 32 ((k.pc.toNat + 4 + 4 * x) % 65536)
    let branch (i : Instr) (p : Prop) [Decidable p] : Prop :=
      s.runs i c fun k' => k' = if p then k.jumped (target o.off.toInt) 2 else k.advanced 1
    let linked (t : Word) : Core := { k.jumped t 2 with g := vset k.g 31 (k.pc + 4) }
    let ra := k.gr r.ra
    let there : Word := ra - BitVec.ofNat 32 (ra.toNat % 4)
    branch (.beq c o) (a = b) ∧ branch (.bne c o) (a ≠ b) ∧
    branch (.blt c o) (a.toInt < b.toInt) ∧ branch (.bge c o) (b.toInt ≤ a.toInt) ∧
    branch (.bltu c o) (a.toNat < b.toNat) ∧ branch (.bgeu c o) (b.toNat ≤ a.toNat) ∧
    s.runs (.j c off) c (fun k' => k' = k.jumped (target off.toInt) 2) ∧
    s.runs (.jal c off) c (fun k' => k' = linked (target off.toInt)) ∧
    (r.top = 0 → r.sh = 0 → r.rb = 0 → r.rd = 0 →
      s.runs (.jr c r) c (fun k' => k' = k.jumped there 2) ∧ s.runs (.jalr c r) c (fun k' => k' = linked there))

/-- R223, R225: LOOP and LOOPI set a level in one cycle, skip their body in two where the count is zero, and LEAVE ends the
innermost level. R224: an instruction at the end of a level (here NOP, R212) goes back while passes remain, else it ends every
level that ends there.
The model's: log entries 47 and 96. -/
def Obligations.FanelLoops : Prop :=
  ∀ (s : State) (c : Fin 20) (o : FmtCmp) (l : FmtLoopi) (z : FmtSpec), s.ready c → z = ⟨0, 0, 0, 0⟩ →
    let k := s.core c
    let d := k.ld
    let opens (i : Instr) (count : Word) (body : Nat) : Prop := body ≠ 0 → d < 4 →
      let last : Word := k.pc + BitVec.ofNat 32 (4 * body)
      (count ≠ 0 → s.runs i c fun k' => k' = { k.advanced 1 with
        ls := vset k.ls d (k.pc + 4), le := vset k.le d last, lc := vset k.lc d count, st := setFld k.st 15 13 (d + 1) }) ∧
      (count = 0 → d = 0 ∨ vget k.le (d - 1) 0 ≠ last → s.runs i c fun k' => k' = k.jumped (last + 4) 2)
    let inner := vget k.lc (d - 1) 0
    let ends (n : Nat) : Vector Word 4 × Word := (vset k.lc (d - 1) 0, setFld k.st 15 13 n)
    (o.rb = 0 → opens (.loop c o) (k.gr o.ra) o.off.toNat) ∧
    opens (.loopi c l) (BitVec.ofNat 32 l.count.toNat) (l.bodyLo.toNat + 1024 * l.bodyHi) ∧
    (d = 0 ∨ vget k.le (d - 1) 0 ≠ k.pc → d ≤ 4 → s.runs (.fanelNop c z) c fun k' => k' = k.advanced 1) ∧
    (0 < d → d ≤ 4 → vget k.le (d - 1) 0 = k.pc → 1 < inner.toNat → s.runs (.fanelNop c z) c fun k' =>
      k' = { k.jumped (vget k.ls (d - 1) 0) 1 with lc := vset k.lc (d - 1) (inner - 1) }) ∧
    (0 < d → d ≤ 4 → vget k.le (d - 1) 0 = k.pc → inner.toNat ≤ 1 → d = 1 ∨ vget k.le (d - 2) 0 ≠ k.pc →
      s.runs (.fanelNop c z) c fun k' =>
        k' = { k.advanced 1 with lc := (ends (d - 1)).1, st := (ends (d - 1)).2 }) ∧
    (2 ≤ d → d ≤ 4 → vget k.le (d - 1) 0 = k.pc → inner.toNat ≤ 1 → vget k.le (d - 2) 0 = k.pc →
      1 < (vget k.lc (d - 2) 0).toNat → s.runs (.fanelNop c z) c fun k' =>
        k' = { k.jumped (vget k.ls (d - 2) 0) 1 with
          lc := vset (vset k.lc (d - 1) 0) (d - 2) (vget k.lc (d - 2) 0 - 1), st := setFld k.st 15 13 (d - 1) }) ∧
    (0 < d → d ≤ 4 → d = 1 ∨ vget k.le (d - 2) 0 ≠ k.pc → s.runs (.leave c z) c fun k' =>
      k' = { k.advanced 1 with lc := (ends (d - 1)).1, st := (ends (d - 1)).2 })

/-- R226, R227: CALLM writes MASK, lk and the selected registers upward from the new sp, calls its target, and takes 2 cycles
and one for each word; RETM reads them back and returns to lk. No other word of memory changes. With sp
misaligned the Alignment exception cannot push its words and the core stops in Lockup (R238); CALLM may then have written words
below sp.
The model's: log entries 1 and 47. -/
def Obligations.FanelFrames : Prop :=
  ∀ (s : State) (c : Fin 20) (o : FmtCallm), s.ready c →
    let k := s.core c
    let sp := (k.gr 30).toNat
    let rs := maskRegs o.mask.toNat
    let n := rs.length + 2
    let mask := (k.tcmWord sp).toNat % 1024
    let qs := maskRegs mask
    let m := qs.length + 2
    (sp % 4 = 0 → sp ≤ 0x20000 → 0x10000 + 4 * n ≤ sp → (∀ j, j < n → s.tcmClean c (sp - 4 * n + 4 * j)) →
      s.runs (.callm c o) c fun k' =>
        k'.tcmWord (sp - 4 * n) = BitVec.ofNat 32 o.mask.toNat ∧ k'.tcmWord (sp - 4 * n + 4) = k.gr 31 ∧
        (∀ j r, rs[j]? = some r → k'.tcmWord (sp - 4 * n + 8 + 4 * j) = k.readReg r) ∧
        (∀ a, a % 4 = 0 → a < sp - 4 * n ∨ sp ≤ a → k'.tcmWord a = k.tcmWord a) ∧
        k' = { k.jumped (BitVec.ofInt 32 ((k.pc.toNat + 4 + 4 * o.off.toInt) % 65536)) (2 + n) with
          g := vset (vset k.g 30 (BitVec.ofNat 32 (sp - 4 * n))) 31 (k.pc + 4), dtcm := k'.dtcm
          st := if o.mask.getLsbD 9 then setFld k.st 15 13 0 else k.st }) ∧
    (sp % 4 = 0 → 0x10000 ≤ sp → sp + 4 * m ≤ 0x20000 → (∀ j, j < m → s.tcmClean c (sp + 4 * j)) →
      s.runs (.retm c 0) c fun k' =>
        (∀ j r, qs[j]? = some r → k'.readReg r =
          if r = .sp 27 then BitVec.ofNat 32 ((k.tcmWord (sp + 8 + 4 * j)).toNat % 8) else k.tcmWord (sp + 8 + 4 * j)) ∧
        (∀ i, i < 30 → .g i ∉ qs → k'.gr i = k.gr i) ∧
        k'.gr 31 = k.tcmWord (sp + 4) ∧ k'.gr 30 = BitVec.ofNat 32 (sp + 4 * m) ∧
        k' = { k.jumped (k.gr 31 - BitVec.ofNat 32 ((k.gr 31).toNat % 4)) (2 + m) with
          g := k'.g, ml := if mask.testBit 8 then k'.ml else k.ml, mh := if mask.testBit 8 then k'.mh else k.mh
          ls := if mask.testBit 9 then k'.ls else k.ls, le := if mask.testBit 9 then k'.le else k.le
          lc := if mask.testBit 9 then k'.lc else k.lc, st := if mask.testBit 9 then setFld k.st 15 13 k'.ld else k.st }) ∧
    (sp % 4 ≠ 0 → s.noExcHalt c →
      let stops (t : State) (d : List (Nat × Word)) : Prop :=
        t.core c = { k with dtcm := d, run := .lockup, wait := .none, t := k.t + 1, cyc := k.cyc + 1 } ∧
        t.tbl.poison = s.tbl.poison ∧ t.tbl.err = s.tbl.err
      s.does (.retm c 0) (fun t => stops t k.dtcm) ∧
      s.does (.callm c o) fun t => stops t (t.core c).dtcm ∧
        ∀ a, a % 4 = 0 → a + 4 * n + 4 ≤ sp ∨ sp ≤ a + 3 → (t.core c).tcmWord a = k.tcmWord a)

/-- R207: MFS reads a special register that exists for the core's class; MTS writes one that is RW, and changes nothing else. A
value with a reserved bit or field value raises Illegal Instruction.
The model's: log entries 6 and 48. -/
def Obligations.FanelSpecials : Prop :=
  ∀ (s : State) (c : Fin 20) (o : FmtSpec), s.ready c → (s.core c).ld = 0 → o.top = 0 →
    let k := s.core c
    let v := k.gr o.ra
    let reads (n : Nat) (x : Word) : Prop := o.s.val = n → o.ra = 0 → s.runs (.mfs c o) c fun k' =>
      k'.pass 1 = { k.advanced 2 with g := if o.rd = 0 then k.g else vset k.g o.rd x }
    let writes (n : Nat) (ok : Prop) (f : Core → Core) : Prop := o.s.val = n → o.rd = 0 →
      (ok → s.runs (.mts c o) c fun k' => k'.pass 1 = f (k.advanced 2)) ∧
      (¬ok → s.canEnter c → s.traps (.mts c o) c 1 k.pc k.pc k)
    reads 0 (setBit k.st 16 k.pipeX) ∧ reads 1 k.ml ∧ reads 2 k.mh ∧ reads 3 k.ev ∧
    (∀ i, i < 4 → reads (4 + i) (vget k.ls i 0) ∧ reads (8 + i) (vget k.le i 0) ∧ reads (12 + i) (vget k.lc i 0)) ∧
    reads 16 k.xcause ∧ reads 17 k.xaddr ∧ reads 18 k.vbase ∧ reads 19 k.cyc ∧ reads 21 k.tbh ∧
    (c < 16 → reads 22 (BitVec.ofNat 32 (s.rf .beamPos 13 0 c + s.rf .beamPos 23 16 c * 65536))) ∧
    (16 ≤ c.val → reads 24 k.pswin) ∧ reads 25 (BitVec.ofNat 32 c) ∧
    (o.s.val = 20 → o.ra = 0 → s.does (.mfs c o) fun t => ∃ v : Nat, s.stamps 35 v ∧ ((t.core c).pass 1).gr o.rd = (if o.rd = 0 then 0 else BitVec.ofNat 32 v) ∧
      (t.core c).tbh = BitVec.ofNat 32 (v / 2 ^ 32 % 2 ^ 32)) ∧
    writes 1 True (fun k' => { k' with ml := v }) ∧ writes 2 True (fun k' => { k' with mh := v }) ∧
    writes 3 (v.toNat < 2 ^ 20) (fun k' => { k' with ev := v }) ∧
    (∀ i, i < 4 → writes (4 + i) (v.toNat % 4 = 0) (fun k' => { k' with ls := vset k.ls i v }) ∧
      writes (8 + i) (v.toNat % 4 = 0) (fun k' => { k' with le := vset k.le i v }) ∧
      writes (12 + i) True (fun k' => { k' with lc := vset k.lc i v })) ∧
    writes 18 (v.toNat < 0x10000 ∧ v.toNat % 1024 = 0) (fun k' => { k' with vbase := v }) ∧
    (16 ≤ c.val → writes 24 (v.toNat < 48) (fun k' => { k' with pswin := v })) ∧
    (o.s.val = 0 → o.rd = 0 → v.toNat < 2 ^ 17 → v.getLsbD 7 = false → v.toNat / 256 % 32 ≤ 17 → v.toNat / 8192 % 8 ≤ 4 →
      s.runs (.mts c o) c fun k' => k'.pass 1 = { k.advanced 2 with st := (k'.pass 1).st } ∧
        ∀ i, i < 32 → (k'.pass 1).st.getLsbD i = if i < 16 ∧ i ≠ 7 then v.getLsbD i else k.st.getLsbD i)

/-- R228, R229: SEV sets the bit of its core in ev of every named core that is not away, and in a value of ev on its way there. WFE
takes the masked bits that are set and clears them, or waits; WFE_WAKE ends a wait, of any length, whose mask meets ev.
The model's: log entries 4, 5 and 47. -/
def Obligations.FanelEvents : Prop :=
  ∀ (s : State) (c : Fin 20) (o : FmtSpec), (s.core c).ld = 0 → (s.core c).pend = [] → (s.core c).div = none →
    let k := s.core c
    let m : Word := BitVec.ofNat 32 ((k.gr o.ra).toNat % 2 ^ 20)
    let away (j : Nat) : Prop := (s.core j).run ∈ [CoreRun.reset, .lockup, .gated]
    let took (w rd : Nat) (mask : Word) (k' : Core) : Prop :=
      k'.pass 1 = { k.advanced (w + 2) with
        ev := k.ev &&& ~~~mask, g := if rd = 0 then k.g else vset k.g rd (k.ev &&& mask), run := .running, wait := .none }
    (s.ready c → o.top = 0 → o.s = 0 → o.rd = 0 → s.does (.sev c o) fun t =>
      ∀ j, j < 20 → (t.core j) =
        let k0 := if j = c.val then k.advanced 1 else s.core j
        let b : Word := BitVec.ofNat 32 (2 ^ c.val)
        if (k.gr o.ra).getLsbD j = true ∧ ¬away j then { k0 with
          ev := k0.ev ||| b
          pend := k0.pend.map (fun p => if p.reg = .sp 3 then { p with val := p.val ||| b } else p) } else k0) ∧
    (s.ready c → o.top = 0 → o.s = 0 → k.ev &&& m ≠ 0 → s.runs (.wfe c o) c (took 0 o.rd m)) ∧
    (s.ready c → o.top = 0 → o.s = 0 → k.ev &&& m = 0 →
      s.runs (.wfe c o) c fun k' => k' = { k with run := .waiting, wait := .wfe o.rd m }) ∧
    (∀ (rd : Fin 32) (mask : Word), k.run = .waiting → k.wait = .wfe rd mask → k.ev &&& mask ≠ 0 →
      s.runs (.wfeWake c) c fun k' => ∃ w, took w rd mask k')

/-- R230, R231, R221: WAITT waits while the time base is before its target, WAITL for a line of its beam, MSYNC for the unit; each
wait, of any length, ends when its condition holds.
The model's: log entries 4, 6, 47, 48 and 93. -/
def Obligations.FanelWaits : Prop :=
  ∀ (s : State) (c : Fin 20) (o : FmtSpec), (s.core c).ld = 0 →
    let k := s.core c
    let pos := k.gr o.ra
    let early (v : Nat) (target : Word) : Prop := (BitVec.ofNat 32 v - target).toInt < 0
    let line (w : Word) : Option Nat :=
      let d := (w.toNat / 2 ^ 16 % 256 + 256 - s.rf .beamPos 31 16 c % 256) % 256
      let n := w.toNat % 2 ^ 14
      if s.rb .beamStatus 0 c = false then some 1
      else if (s.beam c).cf .beamTotal 30 16 c ≤ n then some 2
      else if 128 ≤ d ∨ (d = 0 ∧ n ≤ s.rf .beamPos 13 0 c) then some 0 else none
    let passed (w : Nat) (k0 : Core) (rd v : Nat) (k' : Core) : Prop :=
      k'.pass 1 = { k0.advanced (w + 2) with g := if rd = 0 then k.g else vset k.g rd (BitVec.ofNat 32 v) }
    (s.ready c → o.top = 0 → o.s = 0 → o.rd = 0 → s.does (.waitt c o) fun t => ∃ v, s.stamps 35 v ∧
      (early v pos → t.core c = { k with run := .waiting, wait := .waitt pos }) ∧ (¬early v pos → t.core c = k.advanced 1)) ∧
    (∀ target : Word, k.run = .waiting → k.wait = .waitt target → k.pend = [] → k.div = none →
      s.does (.waittEnd c) fun t => ∃ v, s.stamps 35 v ∧ (early v target → t.core c = k) ∧
        (¬early v target → ∃ w : Nat, t.core c = { k.advanced (w + 1) with run := .running, wait := .none })) ∧
    (s.ready c → c < 16 → o.top = 0 → o.s = 0 → ∀ v, line pos = some v → s.runs (.waitl c o) c (passed 0 k o.rd v)) ∧
    (s.ready c → c < 16 → o.top = 0 → o.s = 0 → line pos = none →
      s.runs (.waitl c o) c fun k' => k' = { k with run := .waiting, wait := .waitl o.rd pos }) ∧
    (∀ (rd : Fin 32) (w : Word) (v : Nat), k.run = .waiting → k.wait = .waitl rd w → k.pend = [] → k.div = none →
      line w = some v → s.runs (.waitlEnd c) c fun k' => ∃ n, passed n { k with run := .running, wait := .none } rd v k') ∧
    (s.ready c → o = ⟨0, 0, 0, 0⟩ → s.runs (.msync c o) c fun k' => k' = k.advanced 1) ∧
    (∀ e : Division, s.fetches c → o = ⟨0, 0, 0, 0⟩ → k.pend = [] → k.div = some e → k.t + 1 < e.endAt →
      s.runs (.msync c o) c fun k' => k' = { k with run := .waiting, wait := .msync }) ∧
    (∀ e : Division, k.run = .waiting → k.wait = .msync → k.pend = [] → k.div = some e → k.t < e.endAt →
      s.runs (.msyncEnd c) c fun k' => k' = { k.advanced (e.endAt - k.t) with
        run := .running, wait := .none, div := none, ml := e.quo, mh := e.rem })

/-- R232, R233, R241: SYSC and BRK enter their handler, saving the next instruction; with BRK_HALT a line processor halts at BRK
instead, and with EXC_HALT before any entry. R213: reserved forms raise Illegal Instruction, LSW on a steward among them.
The model's: log entries 49 and 51. -/
def Obligations.FanelExceptions : Prop :=
  ∀ (s : State) (c : Fin 20) (z o : FmtSpec) (r : FmtReg) (h : FmtHigh), s.ready c → z = ⟨0, 0, 0, 0⟩ →
    let k := s.core c
    let halts (p : Prop) (i : Instr) (k1 : Core) (why : Nat) : Prop := p →
      s.runs i c fun k' => k' = { k1 with run := .halted, wait := .none, why := why }
    let illegal (i : Instr) : Prop := s.canEnter c → s.traps i c 1 k.pc k.pc k
    (s.canEnter c → s.traps (.sysc c z) c 6 (k.pc + 4) k.pc k) ∧
    (s.canEnter c → (c < 16 → s.rb .lpDbgCtrl 0 c = false) → s.traps (.brk c z) c 5 (k.pc + 4) k.pc k) ∧
    (k.ld = 0 → halts (c < 16 ∧ s.rb .lpDbgCtrl 0 c = true) (.brk c z) (k.advanced 1) 3) ∧
    halts (c < 16 ∧ s.rb .lpDbgCtrl 1 c = true) (.sysc c z) k 6 ∧
    (r.top ≠ 0 ∨ r.sh ≠ 0 → illegal (.add c r) ∧ illegal (.mul c r) ∧ illegal (.div c r)) ∧
    (o ≠ z → illegal (.fanelNop c o) ∧ illegal (.sysc c o) ∧ illegal (.brk c o) ∧ illegal (.msync c o)) ∧
    (26 ≤ o.s.val → illegal (.mfs c o) ∧ illegal (.mts c o)) ∧
    (k.ld = 0 → illegal (.leave c z)) ∧ (k.ipl = 0 → illegal (.reti c z [])) ∧
    (16 ≤ c.val ∨ h.rd.val = 0 ∨ h.rd.val % 4 ≠ 0 ∨ h.imm ≠ 0 → illegal (.lsw c h)) ∧
    (16 ≤ c.val → illegal (.waitl c o))

/-- R234, R237: RETI restores st and pc from the two words at sp in four cycles, or, where a request can be taken at the restored
IE and IPL, enters its handler in five with sp and the stacked words as they are. R235, R236: a request of level L with IE 1 and
L + 1 above IPL is entered: two words pushed, xcause the claimed source, IPL L + 1, and pc from entry 16 + L.
The model's: log entries 4, 43, 44, 45 and 94. -/
def Obligations.FanelInterrupts : Prop :=
  ∀ (s : State) (c : Fin 20) (z : FmtSpec) (n : Nat) (during : List IrqChange), z = ⟨0, 0, 0, 0⟩ →
    let k := s.core c
    let sp := (k.gr 30).toNat
    let old := k.tcmWord sp
    let entry (k' : Core) (L : Nat) : Word :=
      BitVec.ofNat 32 ((k'.tcmWord (k.vbase.toNat + 4 * (16 + L))).toNat / 4 % 2 ^ 14 * 4)
    let returned (k' : Core) : Prop := k' = { k with
      g := vset k.g 30 (k.gr 30 + 8), st := setBit (BitVec.ofNat 32 (old.toNat % 2 ^ 16)) 7 false, skipBp := false, t := k.t + 4
      cyc := k.cyc + 4
      pc := BitVec.ofNat 32 ((k.tcmWord (sp + 4)).toNat / 4 * 4) }
    let chained (k' : Core) : Prop := ∃ n L, fld old 12 8 < L + 1 ∧ k' = { k.advanced 5 with
      xcause := BitVec.ofNat 32 n, st := setFld k.st 12 8 (L + 1), pc := entry k L }
    (s.ready c → k.ipl ≠ 0 → sp % 4 = 0 → 0x10000 ≤ sp → sp + 8 ≤ 0x20000 → s.tcmClean c sp → s.tcmClean c (sp + 4) →
      s.vectorsClean c →
      s.does (.reti c z during) fun t => (∀ j, j ≠ c.val → t.core j = s.core j) ∧
        ((bit old 6 = true ∧ chained (t.core c)) ∨ returned (t.core c)) ∧
        (bit old 6 = false ∨ (s.pendingSrcs = [] ∧ during = []) → returned (t.core c))) ∧
    (s.ready c → s.stackOk c → s.vectorsClean c → k.wait = .none → s.presented c = some n → bit k.st 6 = true → k.ipl < s.srcLevel n + 1 →
      s.does (.interruptEntry c during) fun t => (∀ j, j ≠ c.val → t.core j = s.core j) ∧
        ∃ m L, t.core c = { k.trapped 0 k.pc k.xaddr with
          xcause := BitVec.ofNat 32 m, st := setFld k.st 12 8 (L + 1), pc := entry (t.core c) L } ∧
        (during = [] → m = n ∧ L = s.srcLevel n ∧ t.rb .evtSrcStatus 0 n = false ∧ t.rb .evtSrcStatus 1 n = true)) ∧
    (k.run = .running → bit k.st 6 = false ∨ s.presented c = none ∨ (s.presented c = some n ∧ s.srcLevel n + 1 ≤ k.ipl) →
      k.pend = [] → k.div = none → exec (.interruptEntry c during) s = .next s)

/-- R219: the result of an ALU instruction is read by the next instruction in M, and not before the second in X; that of a load one
later. M stalls the reader, X reads the value before.
The model's: log entry 47. -/
def Obligations.FanelDistances : Prop :=
  ∀ (s t : State) (c : Fin 20) (o p : FmtReg) (m : FmtImm), s.ready c → (s.core c).ld = 0 → o.top = 0 → o.sh = 0 → o.rd ≠ 0 →
    p.top = 0 → p.sh = 0 → p.rd ≠ 0 → p.rb = 0 → m.rd ≠ 0 → p.ra = m.rd → p.rd ≠ m.rd →
    let k := s.core c
    let a := (k.gr m.ra + BitVec.ofInt 32 m.imm.toInt).toNat
    (exec (.add c o) s = .next t →
      (t.core c).gr o.rd = (if k.pipeX then k.gr o.rd else k.gr o.ra + k.gr o.rb) ∧
      ((t.core c).pass 1).gr o.rd = k.gr o.ra + k.gr o.rb) ∧
    (a % 4 = 0 → a < 0x20000 → s.tcmClean c a → s.watchAt c a false = false → exec (.ldw c m) s = .next t → t.fetches c →
      t.does (.or c p) fun u => (u.core c).t = k.t + (if k.pipeX then 2 else 3) ∧
        ((u.core c).pass 1).gr p.rd = if k.pipeX then k.gr m.rd else k.tcmWord a)

/-- R3, R5, R7, R22, R23, R49, R366: a whole 32-bit write of a valid word to a register without effects of its own stores the RW bits,
clears W1C bits written 1 (a 1 to a counter's SAT clears its COUNT too), and changes no other register; a write with a reserved bit or value, to a reserved offset, with bytes not
enabled or by the wrong sender changes the block's REJECT register alone; a 64-bit write is the lower one and then the upper;
a misaligned BAR0 write is discarded, recorded in SYS_REJECT and logged by AER.
The model's: log entries 5, 89, 97, 109 and 123. -/
def Obligations.RegisterWrites : Prop :=
  ∀ (s : State) (o : Origin) (a : BitVec 26) (w hi : Word) (r : RegName) (i j k : Nat),
    (if o = .host then s.barOpen = true else s.mode ≠ 0) →
    let write (a : BitVec 26) (w : Word) : Instr := .registerWrite o a w none true
    let other (t : State) (b : Nat) : Prop := ∀ x, x ≠ b → t.getW x = s.getW x
    let recorded (t : State) : Prop := t.rd (rejectReg a.toNat).1 (rejectReg a.toNat).2 = BitVec.ofNat 32 (a.toNat + 2 ^ 31) ∧
      other t (addrOf (rejectReg a.toNat).1 (rejectReg a.toNat).2 0 0)
    let plain : List RegName := [.sysPsScrub, .sysPsInjectLo, .hstBar2Offset, .evtStranded, .tmrCapCtrl, .tmrCapStatus, .tmrItReload,
      .pwrRailStatus, .bistProgLo, .dmaChProgLo, .bltDeny, .audClkSpf, .lpDbgCtrl, .lpBkpt, .lpRaCtrl]
    let steward : List RegName := [.pwrPlanW0, .pwrPlanW1, .pwrPlanW]
    (r ∈ plain ∨ (r ∈ steward ∧ o = .steward) → i < (rowOf r).n1 → j < (rowOf r).n2 → k < (rowOf r).n3 → a.toNat = addrOf r i j k →
      regAt (canonAddr a.toNat) = some (r, i, j, k) → wordOk r j w = true → s.fencedAt a.toNat = false → s.does (write a w) fun t =>
        (∀ b, b < 32 → (t.rd r i j k).getLsbD b = if r = .evtStranded ∧ w.getLsbD 31 = true then false else if (rowOf r).rw.testBit b then w.getLsbD b
          else (s.rd r i j k).getLsbD b && !((rowOf r).w1c.testBit b && w.getLsbD b)) ∧ other t a.toNat ∧ t.out = s.out) ∧
    (a.toNat % 4 = 0 → regAt (canonAddr a.toNat) = none → s.does (write a w) recorded) ∧
    (r ∈ plain ++ steward → i < (rowOf r).n1 → j < (rowOf r).n2 → k < (rowOf r).n3 → a.toNat = addrOf r i j k →
      regAt (canonAddr a.toNat) = some (r, i, j, k) → wordOk r j w = false ∨ (r ∈ steward ∧ o ≠ .steward) → s.does (write a w) recorded) ∧
    (a.toNat % 4 = 0 → s.does (.registerWrite o a w none false) recorded) ∧
    (a.toNat % 8 = 0 → ∀ t, exec (write a w) s = .next t → (if o = .host then t.barOpen = true else t.mode ≠ 0) →
      exec (.registerWrite o a w (some hi) true) s = exec (write (a + 4) hi) t) ∧
    (a.toNat % 4 ≠ 0 → o = .host → s.does (write a w) fun t => t.rd .sysReject = BitVec.ofNat 32 (a.toNat + 2 ^ 31) ∧
      other t (addrOf .sysReject 0 0 0) ∧ t.pci = { s.pci with aerUnsupported := true })

/-- R49, R50, R101: a BAR2 write of clean lines below 48 GiB outside the PL region changes exactly the enabled bytes, a read of clean
lines completes with the bytes, zeros from 48 GiB on; a discarded byte sets BAR2_OOR; an unsupported BAR0 request and a poisoned
write change what AER and SYS_REJECT record, or are answered UR.
The model's: log entries 22 and 90. -/
def Obligations.HostWindow : Prop :=
  ∀ (s : State) (at_ : BitVec 36) (bs : List (Option Byte)) (len : BitVec 13) (x : BitVec 26) (bar2 : Bool), s.barOpen = true →
    let a := s.rf .hstBar2Offset 5 0 * 2 ^ 30 + at_.toNat
    let size := 2 ^ (30 + s.pci.bar2Size)
    let lines (n : Nat) (p : Nat → Prop) : Prop := ∀ ln, ln < 0x30000000 → a / 64 ≤ ln → ln * 64 < a + n → p ln
    let clean (ln : Nat) : Prop := s.lineErr ln = [] ∧ s.store.poison.contains ln = false ∧ s.fenced (20 + stackOf (64 * ln)) = false
    (at_.toNat + bs.length ≤ size → lines bs.length (fun ln => clean ln ∧ (∀ e, s.store.inject = some e → e.1 ≠ ln) ∧
      s.inPlRegion (64 * ln) 64 = false) → s.does (.bar2Write at_ bs) fun t =>
      (∀ y, y < 0xC00000000 → memGet t.store.mem y =
        if a ≤ y ∧ y < a + bs.length then (bs.getD (y - a) none).getD (memGet s.store.mem y) else memGet s.store.mem y) ∧
      (t.rb .hstStatus 2 = (s.rb .hstStatus 2 || (List.range bs.length).any fun i =>
        0xC00000000 ≤ a + i && (bs.getD i none).isSome)) ∧ s.onlyChanges t (raising [.store, .hstRegs, .host])) ∧
    (at_.toNat + len.toNat ≤ size → lines len.toNat clean → s.scanned = false → s.does (.bar2Read at_ len) fun t =>
      t = { s with out := s.out ++ [.completion ((List.range len.toNat).map fun i =>
        if a + i < 0xC00000000 then memGet s.store.mem (a + i) else 0) false] }) ∧
    s.does (.poisonedTlp bar2) (fun t => t = { s with pci := { s.pci with aerPoisoned := true } }) ∧
    s.does (.bar0UnsupportedRequest x true) (fun t => t.rd .sysReject = BitVec.ofNat 32 (x.toNat + 2 ^ 31) ∧
      (∀ y, y ≠ addrOf .sysReject 0 0 0 → t.getW y = s.getW y) ∧ t.pci = { s.pci with aerUnsupported := true }) ∧
    (s.scanned = false → s.does (.bar0UnsupportedRequest x false) fun t => t = { s with out := s.out ++ [.unsupported] })

/-- R9, R99, R102 to R108: an armed injection corrupts the next write of its line and disarms; the scrubber corrects one and two
symbols of it, counts them and rewrites the line, and marks a line with three of them poisoned; a clean line and a clean table word
stay. Reservation misses are counted by client; a waiting deferred request is promoted.
The model's: log entries 4, 13, 14 and 16. -/
def Obligations.StoreProtection : Prop :=
  ∀ (s : State) (n : Fin 3) (client : Fin 23) (ch : Fin 64) (waits granted : Nat) (table : Fin 6) (word : Fin 2621440),
    let ln := s.rf .sysPsScrubPos 29 0
    let k := stackOf (64 * ln)
    let armed := s.rf .sysPsInjectLo 31 6 + s.rf .sysPsInjectHi 3 0 * 2 ^ 26
    let allowed := s.rf .sysMode 2 0 = 1 ∨ s.rf .sysMode 2 0 = 5
    let scrubs (p : State → Prop) : Prop := s.rb .sysPsCtrl 0 = true → s.rb .sysPsStatus 0 = false →
      s.store.poison.contains ln = false → s.does (.scrubLine []) fun t =>
        t.rf .sysPsScrubPos 29 0 = (ln + 1) % 0x30000000 ∧ p t ∧ ∀ l, l ≠ ln → t.lineErr l = s.lineErr l
    let key := table.val * 2 ^ 32 + word.val
    (allowed → s.does (.psInjectArm n) fun t => t.store = { s.store with inject := some (armed, n.val + 1) } ∧ t.rb .sysPsStatus 4 = true ∧
      s.onlyChanges t [.sysRegs, .store]) ∧
    (allowed → s.does .psInjectDisarm fun t => t.store = { s.store with inject := none } ∧ t.rb .sysPsStatus 4 = false) ∧
    (¬allowed → s.does (.psInjectArm n) fun t => t = s.reject 0x4028) ∧
    (∀ (bs : List Byte) (at_ : BitVec 36), s.barOpen = true → at_.toNat + 64 ≤ 2 ^ (30 + s.pci.bar2Size) →
      s.rf .hstBar2Offset 5 0 * 2 ^ 30 + at_.toNat = 64 * armed → armed < 0x30000000 → bs.length = 64 →
      s.store.inject = some (armed, n.val + 1) → s.inPlRegion (64 * armed) 64 = false → s.fenced (20 + stackOf (64 * armed)) = false → s.does (.bar2Write at_ (bs.map some)) fun t =>
      t.lineErr armed = [(0, 0x5A), (21, 0x5A), (42, 0x5A)].take (n.val + 1) ∧ t.store.inject = none ∧ t.rb .sysPsStatus 4 = false ∧
      memBytes t.store.mem (64 * armed) 64 = bs) ∧
    (s.lineErr ln = [] → scrubs fun t => t.lineErr ln = [] ∧ t.rd .sysPsSCe1 k = s.rd .sysPsSCe1 k ∧
      ∀ a, memGet t.store.mem a = memGet s.store.mem a) ∧
    (s.lineErr ln = [(0, 0x5A)] → scrubs fun t => t.lineErr ln = [] ∧ t.rd .sysPsSCe1 k = countWord (s.rd .sysPsSCe1 k) 1 ∧
      ∀ a, memGet t.store.mem a = memGet s.store.mem a) ∧
    (s.lineErr ln = [(0, 0x5A), (21, 0x5A)] → scrubs fun t => t.lineErr ln = [] ∧
      t.rd .sysPsSCe2 k = countWord (s.rd .sysPsSCe2 k) 1 ∧ ∀ a, memGet t.store.mem a = memGet s.store.mem a) ∧
    (s.lineErr ln = [(0, 0x5A), (21, 0x5A), (42, 0x5A)] → scrubs fun t => t.store.poison.contains ln = true ∧
      t.rd .sysPsSUe k = countWord (s.rd .sysPsSUe k) 1) ∧
    (client.val < 21 → s.does (.reservationWindowEnd [⟨client, ch, waits, granted⟩]) fun t =>
      t = if granted < min (2 * s.rf .sysPsRes 8 0 client) waits then s.bump .sysPsResmiss client else s) ∧
    s.does (.deferredPromotion client) (fun t => if s.deferredWaits client then client.val ∈ t.store.promoted ∧
      t = { s with store := { s.store with promoted := t.store.promoted } } else t = s) ∧
    (s.rb .sysPsCtrl 1 = true → kvGet key s.tbl.err = none → kvGet key s.tbl.off = none → s.tbl.poison.contains key = false →
      s.does (.tblScrubWord table word []) fun t => t.regs = s.regs ∧ t.tbl.poison = s.tbl.poison ∧ t.beams = s.beams ∧
        ∀ x, (kvGet x t.tbl.err).getD [] = (kvGet x s.tbl.err).getD []) ∧
    (s.rb .sysPsCtrl 1 = true → kvGet key s.tbl.err = some [(0, 0x5A)] → kvGet key s.tbl.off = none → s.tbl.poison.contains key = false →
      s.does (.tblScrubWord table word []) fun t => kvGet key t.tbl.err = none ∧ t.tbl.poison = s.tbl.poison ∧
        t.rd .sysPsTblCe1 = countWord (s.rd .sysPsTblCe1) 1 ∧ t.beams = s.beams)

/-- R54 to R58, R64, R68: a poll asks for the 528 bytes of the doorbell area; its data leave the polling interval at the minimum or up
to twice as long, take each good producer index, and note the heartbeat; fetched descriptors become ready in order and the fetch
index moves over them, while a failed fetch faults the ring; a wait of 1 ms on a full completion ring posts CQ_WAIT.
The model's: log entries 4, 84, 85 and 108. -/
def Obligations.RingPolling : Prop :=
  ∀ (s : State) (r : Fin 64) (bs : List Byte) (ds : List (List Byte)),
    let g := s.ring r
    let k := s.rf .hstCrCtrl 5 1 r
    let f := s.rf .hstCrStatus 16 0 r
    let pi := descField bs (8 * r.val) 4
    let low := s.rf .hstPoll 9 0
    let moved := (f + ds.length) % 2 ^ (k + 1)
    (s.polling = true → s.hst.polling = false → s.pci.busMaster = true → s.scanned = false → s.does .poll fun t =>
      t = { s with
        hst := { s.hst with polling := true, round := s.hst.round + 1 }
        out := s.out ++ [.hostRead (BitVec.ofNat 64 (s.addr64 .hstDbBaseLo .hstDbBaseHi)) 528] }) ∧
    (s.polling = true → s.hst.polling = true → s.does (.doorbellReadComplete (some bs)) fun t =>
      t.hst.polling = false ∧ t.hst.failed = 0 ∧ t.hst.heartbeat = BitVec.ofNat 32 (descField bs 520 4) ∧
      (t.rf .hstPoll 25 16 = low ∨ t.rf .hstPoll 25 16 = min (2 * s.rf .hstPoll 25 16) s.pollCeiling % 1024) ∧
      (BitVec.ofNat 32 (descField bs 520 4) ≠ s.hst.heartbeat → t.rf .hstPoll 25 16 = low) ∧
      (s.rb .hstCrCtrl 0 r = true → pi < 2 ^ (k + 1) → ringCount k pi f ≤ 2 ^ k → (t.ring r).pi = pi ∧ (t.ring r).badSeen = false) ∧
      (s.rb .hstCrCtrl 0 r = true → 2 ^ (k + 1) ≤ pi ∨ 2 ^ k < ringCount k pi f →
        (t.ring r).pi = g.pi ∧ t.rb .hstCrStatus 19 r = true)) ∧
    (s.polling = true → s.hst.polling = true → s.hst.failed < 7 → s.does (.doorbellReadComplete none) fun t =>
      t.hst = { s.hst with polling := false, failed := s.hst.failed + 1 }) ∧
    (ds.length ≤ g.fetching.length → k ≤ 16 → f < 2 ^ (k + 1) → s.does (.descriptorFetchComplete r ds false) fun t =>
      t.ring r = { g with ready := g.ready ++ (g.fetching.zip ds).map fun x => (x.1.1, padTo 64 x.2)
                          fetching := g.fetching.drop ds.length } ∧
      t.rf .hstCrStatus 16 0 r = moved ∧ ∀ q, q ≠ r.val → t.ring q = s.ring q) ∧
    (ds.length < g.fetching.length → k ≤ 16 → f < 2 ^ (k + 1) → s.does (.descriptorFetchComplete r ds true) fun t =>
      (t.ring r).fetching = [] ∧ t.rf .hstCrStatus 18 17 r = 3 ∧ t.rb .hstCrStatus 20 r = true ∧ t.rf .hstCrStatus 16 0 r = moved) ∧
    (g.waiting ≠ [] → g.cqWaitPosted = false → s.canPostEvent → s.does (.cqWaitRecord r) fun t =>
      t.ring r = { g with cqWaitPosted := true } ∧ s.postsEvent t 3 r 0 0)

/-- R70, R71: a ring is enabled with its index zero when its base is aligned to the larger of 4 KiB and its size, and a command ring's
completion ring is enabled, which it latches unless it still drains; else the enable is rejected. A command ring that is disabled drains: its fetched descriptors complete
ABORTED, and it enters Idle when no completion is to come. A completion ring in use is not disabled.
The model's: log entry 83. -/
def Obligations.RingControl : Prop :=
  ∀ (s : State) (r : Fin 64),
    let aligned (lo hi ctrl : RegName) (n entry : Nat) : Prop :=
      s.addr64 lo hi n % 4096 = 0 ∧ s.addr64 lo hi n % (2 ^ s.rf ctrl 5 1 n * entry) = 0
    let g := s.ring r
    let cr := aligned .hstCrBaseLo .hstCrBaseHi .hstCrCtrl r 64
    let cq := s.rf .hstCrCtrl 11 6 r
    let used := ∃ q, q < 64 ∧ s.rf .hstCrStatus 18 17 q ≠ 0 ∧ (s.ring q).cq = r
    (s.rb .hstCrCtrl 0 r = false → s.rf .hstCrStatus 18 17 r = 0 → cr → s.rb .hstCqCtrl 0 cq = true →
      s.does (.ringEnable (.command r)) fun t => t.rd .hstCrCtrl r = setBit (s.rd .hstCrCtrl r) 0 true ∧
        t.rf .hstCrStatus 16 0 r = 0 ∧ t.rf .hstCrStatus 18 17 r = 1 ∧ t.ring r = { g with ready := [], fetching := [], pi := 0, cq := cq }) ∧
    (s.rb .hstCrCtrl 0 r = false → s.rf .hstCrStatus 18 17 r ≠ 0 → cr → s.rb .hstCqCtrl 0 cq = true →
      s.does (.ringEnable (.command r)) fun t => t.rf .hstCrStatus 16 0 r = 0 ∧ t.rf .hstCrStatus 18 17 r = 1 ∧
        t.ring r = { g with ready := [], fetching := [], pi := 0 }) ∧
    (s.rb .hstCrCtrl 0 r = false → ¬cr ∨ s.rb .hstCqCtrl 0 cq = false →
      s.does (.ringEnable (.command r)) fun t => t = s.reject (0x11008 + 32 * r.val)) ∧
    (s.rb .hstCrCtrl 0 r = true → s.rf .hstCrStatus 18 17 r = 1 → g.ready = [] →
      s.does (.ringDisable (.command r)) fun t =>
      t.rd .hstCrCtrl r = setBit (s.rd .hstCrCtrl r) 0 false ∧ t.ring r = { g with fetching := [] } ∧
        t.rf .hstCrStatus 18 17 r = if g.begun = [] ∧ g.waiting = [] then 0 else 2) ∧
    (∀ i d, s.rb .hstCrCtrl 0 r = true → s.rf .hstCrStatus 18 17 r = 1 → g.ready = [(i, d)] → i ∉ g.begun → g.hold = none → s.canPost r →
      s.does (.ringDisable (.command r)) fun t => s.posts t r i d 0x0C 0 0 ∧ (t.ring r).ready = []) ∧
    (s.rb .hstCqCtrl 0 r = false → aligned .hstCqBaseLo .hstCqBaseHi .hstCqCtrl r 32 → s.does (.ringEnable (.completion r)) fun t =>
      t.rd .hstCqCtrl r = setBit (s.rd .hstCqCtrl r) 0 true ∧ t.rf .hstCqStatus 18 0 r = 0x20000 ∧
        t.hst = { s.hst with cqCi := vset s.hst.cqCi r 0 }) ∧
    (s.rb .hstCqCtrl 0 r = true → used → s.does (.ringDisable (.completion r)) fun t => t = s.reject (0x12008 + 32 * r.val)) ∧
    (s.rb .hstCqCtrl 0 r = true → ¬used → s.does (.ringDisable (.completion r)) fun t =>
      t = s.wr .hstCqCtrl (setBit (s.rd .hstCqCtrl r) 0 false) r) ∧
    (s.rb .hstEqCtrl 0 = false → aligned .hstEqBaseLo .hstEqBaseHi .hstEqCtrl 0 32 → s.does (.ringEnable .event) fun t =>
      t.rb .hstEqCtrl 0 = true ∧ t.rf .hstEqStatus 18 0 = 0x20000 ∧ t.hst = { s.hst with eqCi := 0 }) ∧
    (s.rb .hstEqCtrl 0 = true → s.does (.ringDisable .event) fun t => t = s.wr .hstEqCtrl (setBit (s.rd .hstEqCtrl) 0 false))

/-- R60, R64, R66, R296, R310: NOP completes at once; WAIT_EPOCH when every member of the group has adopted the epoch or a newer one,
else it holds its ring; WAIT_LINE holds it too, or completes NOT_RUNNING or RANGE; either completes TIMEOUT when its time expires;
HOST_WRITE writes its value once every earlier descriptor has completed; DMA_START completes BUSY on a running channel; a blit
joins the queue.
The model's: log entries 4, 6, 88 and 108. -/
def Obligations.RingWaits : Prop :=
  ∀ (s : State) (r : Fin 64) (i : Nat) (d : List Byte), s.canPost r →
    let g := s.ring r
    let unit := descField d 8 1 % 16
    let epoch : Word := BitVec.ofNat 32 (descField d 12 4)
    let met := ∀ n, n < 16 → s.groupOf n = unit → s.rd .sysBeamEpoch n = epoch ∨ newer (s.rd .sysBeamEpoch n) epoch = true
    let next (t : State) : Prop := (t.ring r).ready = g.ready.drop 1
    let started (t : State) : Prop := next t ∧ (t.ring r).begun = g.begun ++ [i] ∧ t.rf .hstCqStatus 16 0 g.cq = s.rf .hstCqStatus 16 0 g.cq
    let beginsNew (op : Nat) : Prop := s.begins r i d op ∧ i ∉ g.begun
    (beginsNew 0 → s.does (.nop r) fun t => next t ∧ s.posts t r i d 0 0 0) ∧
    (beginsNew 9 → met → s.does (.waitEpoch r) fun t => next t ∧ s.posts t r i d 0 0 0 ∧ (t.ring r).hold = none) ∧
    (beginsNew 9 → ¬met → s.does (.waitEpoch r) fun t => started t ∧ (t.ring r).hold = some (.epoch i d)) ∧
    (beginsNew 10 → (s.beam unit).run = .stopped → s.does (.waitLine r) fun t => next t ∧ s.posts t r i d 8 0 0) ∧
    (beginsNew 10 → (s.beam unit).run ≠ .stopped → (s.beam unit).cf .beamTotal 30 16 unit ≤ descField d 10 2 →
      s.does (.waitLine r) fun t => next t ∧ s.posts t r i d 9 0 0) ∧
    (beginsNew 10 → (s.beam unit).run ≠ .stopped → descField d 10 2 < (s.beam unit).cf .beamTotal 30 16 unit →
      s.does (.waitLine r) fun t => started t ∧ (t.ring r).hold = some (.line i d)) ∧
    (g.hold = some (.epoch i d) ∨ g.hold = some (.line i d) → descField d 16 4 ≠ 0 →
      s.does (.waitTimeout r) fun t => s.posts t r i d 7 0 0 ∧ (t.ring r).hold = none) ∧
    (beginsNew 0x10 → (s.chan (descField d 8 1 % 64)).active = true → s.does (.dmaStart r) fun t =>
      next t ∧ s.posts t r i d 0x0A 0 0 ∧ t.dma = s.dma) ∧
    (beginsNew 0x10 → (s.chan (descField d 8 1 % 64)).active = false → s.does (.dmaStart r) fun t =>
      let x := t.chan (descField d 8 1 % 64)
      started t ∧ x.active = true ∧ x.prog = descField d 16 8 ∧ x.host = (descField d 9 1).testBit 0 ∧ x.ring = some (r.val, i, d)) ∧
    (beginsNew 0x11 → s.does (.blit r) fun t => started t ∧ t.blt.queue = s.blt.queue ++ [⟨d, some (r.val, i)⟩]) ∧
    (beginsNew 0x18 → g.begun = [] → s.does (.hostWrite r) fun t => next t ∧ s.posts t r i d 0 0 0 ∧ (t.ring r).hold = none ∧
      .hostWrite (BitVec.ofNat 64 (descField d 8 8)) ((d.drop 16).take 8) ∈ t.out) ∧
    (beginsNew 0x18 → g.begun ≠ [] → s.does (.hostWrite r) fun t => started t ∧ (t.ring r).hold = some (.hostWrite i d))

/-- R61, R62: over words of a colour table, WRITE_IMM writes its data, WRITE_FILL its value and WRITE_IND the chunk that was read, and
they complete OK when no word is reserved; READ_REGS writes the words to host memory; a WRITE_IND first asks for up to 4,096 words,
and a failed read ends it HOST_FAULT. A COUNT of zero is ILLEGAL at byte 12.
The model's: log entries 4, 22 and 88. -/
def Obligations.RingAccesses : Prop :=
  ∀ (s : State) (r : Fin 64) (i : Nat) (d : List Byte) (n : Fin 16) (x y : Nat) (ws : List Word), s.canPost r → x < 9 →
    i ∉ (s.ring r).begun →
    let off := descField d 8 4
    let count := if descOp d = 1 then descField d 12 1 else descField d 12 4
    let src := descField d 16 8
    let inTable : Prop := off = addrOf .lutPlane n x y ∧ y + count ≤ 2048
    let good (w : Word) : Prop := w &&& 0xF000F000 = 0
    let wrote (t : State) (f : Nat → Word) : Prop :=
      (∀ j, j < count → t.rd .lutPlane n x (y + j) = f j) ∧
      (∀ a, regPart a = .tableRegs → (∀ j, j < count → a ≠ addrOf .lutPlane n x (y + j)) → t.getW a = s.getW a) ∧
      s.posts t r i d 0 0 0 ∧ (t.ring r).hold = none
    let data (j : Nat) : Word := BitVec.ofNat 32 (descField d (16 + 4 * j) 4)
    let held := Hold.writeInd i d 0 0 none
    let clean : Prop := ∀ j key, j < count → tableKeyOf (addrOf .lutPlane n x (y + j)) = some key →
      kvGet key s.tbl.err = none ∧ s.tbl.poison.contains key = false ∧ kvGet key s.tbl.off = none
    (s.begins r i d 1 → d.length = 64 → inTable → (∀ j, j < count → good (data j)) → s.does (.writeImm r) fun t => wrote t data) ∧
    (s.begins r i d 3 → inTable → good (data 0) → s.does (.writeFill r) fun t => wrote t fun _ => data 0) ∧
    (s.begins r i d 2 → s.does (.writeInd r) fun t => (t.ring r).hold = some held ∧
      t.out = s.out ++ [.hostRead (BitVec.ofNat 64 src) (4 * min 4096 count)]) ∧
    ((s.ring r).hold = some held → descOp d = 2 → ws.length = count → count ≤ 2048 → inTable → (∀ w, w ∈ ws → good w) →
      s.does (.writeIndChunkRead r ws none) fun t => wrote t fun j => ws.getD j 0) ∧
    ((s.ring r).hold = some held → descOp d = 2 → ∀ f : Word64, src ≤ f.toNat → f.toNat < src + 4 * min 4096 count →
      s.does (.writeIndChunkRead r ws (some f)) fun t => s.posts t r i d 6 0 f.toNat ∧ (t.ring r).hold = none) ∧
    (s.begins r i d 4 → inTable → clean → s.does (.readRegs r) fun t => s.posts t r i d 0 0 0 ∧ .hostWrite (BitVec.ofNat 64 src)
      ((List.range count).flatMap fun j => bytesLE 4 (s.rd .lutPlane n x (y + j)).toNat) ∈ t.out) ∧
    ((∃ rest, (s.ring r).ready = (i, d) :: rest) → s.turn r = true → descOp d = 3 → descBadByte d = none → count = 0 →
      s.does (.writeFill r) fun t => s.posts t r i d 1 0 12 ∧ ∀ a, regPart a = .tableRegs → t.getW a = s.getW a)

/-- R72, R73, R385: a host loss records its cause and stamp and enters Recovery; causes 4, 5, 6 and 8 also reset the PCIe controller
and the HST block but for HST_LOSS and its stamp, while what its rings have begun stays begun; in Recovery nothing new is recorded.
R74: RESUME leaves Recovery, restarts polling at the minimum interval and posts a record; elsewhere, and where a new loss comes
with it, it is rejected.
The model's: log entries 4, 77, 83, 89 and 117. -/
def Obligations.HostLoss : Prop :=
  ∀ (s : State), s.sys.entering = false →
    let awake := s.mode = 1 ∨ s.mode = 2 ∨ s.mode = 3 ∨ s.mode = 5
    let lost (t : State) (cause : Nat) : Prop := t.mode = 6 ∧ t.rf .sysMode 5 3 = s.mode ∧ t.rf .hstLoss 3 0 = cause ∧
      ∃ v : Nat, s.stamps 2 v ∧ t.rd .hstLossStampLo = BitVec.ofNat 32 v ∧ t.rd .hstLossStampHi = BitVec.ofNat 32 (v / 2 ^ 32)
    let kept : List RegName := [.hstLoss, .hstLossStampLo, .hstLossStampHi, .hstLost]
    let cleared (t : State) (up perst : Bool) : Prop := t.hst = { rings := t.hst.rings } ∧
      (∀ q, q < 64 → (s.ring q).waiting = [] → (∀ i d, (s.ring q).hold ≠ some (.hostWrite i d)) →
        t.ring q = { cq := (s.ring q).cq, begun := (s.ring q).begun, hold := (s.ring q).hold }) ∧
      t.pci = { linkUp := up, perst, rate := if up then s.pci.rate else 0, width := if up then s.pci.width else 0 } ∧
      ∀ a, a / 0x10000 = 1 → (∀ r, r ∈ kept → a ≠ addrOf r 0 0 0) → t.getW a = resetWord a
    let silent (t : State) : Prop := t.mode = s.mode ∧ ∀ r, r ∈ kept.take 3 → t.rd r = s.rd r
    let resets : List (Instr × Nat × Bool × Bool) := [(.dlDown, 4, false, s.pci.perst), (.hotReset, 5, s.pci.linkUp, s.pci.perst),
      (.functionLevelReset, 6, s.pci.linkUp, s.pci.perst), (.perstNAssert, 8, false, true)]
    (∀ x, x ∈ resets → s.does x.1 fun t => (awake → lost t x.2.1) ∧ (s.mode = 6 ∨ s.mode = 0 → silent t) ∧ cleared t x.2.2.1 x.2.2.2) ∧
    (awake → s.rb .hstCtrl 0 = true → s.rf .hstHb 15 0 ≠ 0 → s.does .heartbeatTimeout fun t => lost t 1 ∧ t.hst = s.hst ∧ t.pci = s.pci) ∧
    (s.rf .hstHb 15 0 = 0 → exec .heartbeatTimeout s = .next s) ∧
    (s.pci.busMaster = true → s.does .busMasterEnableClear fun t => t.pci = { s.pci with busMaster := false } ∧
      (s.rb .hstCtrl 0 = true → awake → lost t 3) ∧ (s.rb .hstCtrl 0 = false → t.regs = s.regs)) ∧
    (s.pci.d3hot = false → s.does .d3hotEntry fun t => t.pci = { s.pci with d3hot := true } ∧ (awake → lost t 7) ∧
      (s.mode = 6 → silent t)) ∧
    (s.mode = 6 → s.sys.lossAt ≠ some s.now → s.canPostEvent → s.does .resume fun t => s.postsEvent t 5 0xFF 0 0 ∧ t.rf .hstPoll 25 16 = s.rf .hstPoll 9 0 ∧
      t.hst.failed = 0 ∧ t.mode = if s.sys.lossProv = true then 1 else if s.allVigil = true then 3 else 2) ∧
    (s.mode ≠ 6 ∨ s.sys.lossAt = some s.now → s.does .resume fun t => t = s.reject 0x10000)

/-- R1, R47, R48, R54, R331, R417: a configuration request is retried until the boot sequence is over; then it is answered, a read with
its value, and its write made: Memory Space and Bus Master Enable, the MSI-X function mask and enable, the power state, the BAR
addresses, the BAR2 size, the request and payload sizes, Relaxed Ordering and ASPM L1; a write for an absent option changes nothing,
and a read of it gives zero. The link trains at the first request, and when PERST_N is released.
The model's: log entries 4, 11, 13 and 107. -/
def Obligations.Configuration : Prop :=
  ∀ (s : State) (q : ConfigReq) (on two : Bool) (n : Fin 7) (m : Fin 6) (z : Fin 3) (a : Word64),
    let answered (v : Option Nat) : List OutEvent := s.out ++ [.configCompletion v]
    let reads (f : ConfigField) (v : Nat) : Prop :=
      s.does (.configurationRequest (.read f)) fun t => t = { s with out := answered (some v) }
    let writes (q : ConfigReq) (p : Pci) : Prop := s.does (.configurationRequest q) fun t => t.pci = p
    let sets (q : ConfigReq) (p : Pci) : Prop :=
      s.does (.configurationRequest q) fun t => t = { s with pci := p, out := answered none }
    let trains (t : State) : Prop := (∃ r, r < 5 ∧ t.pci.rate = r + 1) ∧ ∃ w, w < 5 ∧ t.pci.width = 2 ^ w
    (s.pci.perst = true → exec (.configurationRequest q) s = .next s) ∧
    (s.pci.perst = false → s.sys.reset ≠ .up → s.scanned = false → s.does (.configurationRequest q) fun t => t = { s with out := s.out ++ [.configRetry] }) ∧
    (s.pci.perst = false → s.sys.reset = .up → s.pci.linkUp = false → s.does (.configurationRequest .absent) fun t => trains t ∧
      t.pci = { s.pci with linkUp := true, rate := t.pci.rate, width := t.pci.width }) ∧
    (s.pci.perst = false → s.sys.reset = .up → s.pci.linkUp = true → s.scanned = false →
      reads .identity (s.rd .sysId).toNat ∧ reads .classCode 0x038000 ∧ reads .interruptPin 0 ∧ reads .absent 0 ∧
      reads (.serial false) (s.rd .sysSerialLo).toNat ∧ reads (.serial true) (s.rd .sysSerialHi).toNat ∧
      reads .bar2Size s.pci.bar2Size ∧ reads .bar2Sizes 0x7F ∧
      writes (.command on true) { s.pci with memSpace := on, busMaster := true } ∧
      writes (.command on false) { s.pci with memSpace := on, busMaster := false } ∧
      writes (.functionMask on) { s.pci with fnMask := on } ∧ writes (.power on) { s.pci with d3hot := on } ∧
      sets .absent s.pci ∧ sets (.msixEnable on) { s.pci with msixEnable := on } ∧
      sets (.bar2Size n) { s.pci with bar2Size := n } ∧ sets (.readSize m) { s.pci with readCode := m } ∧
      sets (.payloadSize z) { s.pci with payloadCode := z } ∧
      sets (.barAddress two a) (if two then { s.pci with bar2 := a } else { s.pci with bar0 := a }) ∧
      sets (.relaxedOrdering on) { s.pci with relaxed := on } ∧ sets (.aspmL1 on) { s.pci with aspmL1 := on }) ∧
    s.does .perstNRelease (fun t =>
      t = { s with free := t.free, pci := { s.pci with
        perst := false, linkUp := t.pci.linkUp, rate := t.pci.rate, width := t.pci.width } } ∧
      (s.sys.reset = .up → t.pci.linkUp = true ∧ (s.pci.linkUp = false → trains t)))

/-- R29, R30, R32, R35, R36, R40, R79, R80, R132, R163: a COMMIT takes the group's next epoch, or the newer one it names, and hands
the group's shadow to its members as of that moment: each gets every shadowed word of its own and of its OAT entries, but a timing
set that fails its checks, or a layer order that is no permutation, stays as adopted before; a member that runs holds them as its
pending bank and goes on as before, one that is stopped adopts them at once. The Transform entries whose shadow names the group become
committed, and no others. An epoch that is not newer completes EPOCH_STALE and changes no bank; a COMMIT that the census holds waits
in order. A group becomes ready with its newest epoch when the last member's transfer has arrived: without fences at once, a leader
when its guard has expired, a follower when its fence has come or its time for it expires, which is noted; otherwise these commands
change nothing. A new map of groups holds from then on, a field for each beam.
The model's: log entries 4, 5, 24, 27 and 111. -/
def Obligations.Commits : Prop :=
  ∀ (s : State) (r : Fin 64) (i : Nat) (d : List Byte) (race : Bool) (g : Fin 16) (half : Fin 2) (w : Word),
    let last := s.rd .sysCgEpoch g
    let named : Word := BitVec.ofNat 32 (descField d 12 4)
    let explicit := (descField d 9 1).testBit 0
    let epoch := if explicit then named else last + 1
    let begins := s.begins r i d 8 ∧ descField d 8 1 = g.val
    let own (n a : Nat) : Prop := shadowed a = true ∧ ttIndex a = none ∧
      (ownerBeam a = some n ∨ ∃ j, oatIndex a = some j ∧ oatBeam s.regs j = n)
    let timing (n a : Nat) : Prop := ∃ x, x ∈ timingSet ∧ a = addrOf x n 0 0
    let order (n a : Nat) : Prop := a = addrOf .cmpOrder0 n 0 0 ∨ a = addrOf .cmpOrder1 n 0 0
    let stays (t : State) (n a : Nat) : Prop := (timing n a ∧ t.rf .beamStatus 11 8 n ≠ 0) ∨
      (order n a ∧ orderOk (s.rd .cmpOrder0 n) (s.rd .cmpOrder1 n) = false)
    let handed (t : State) (n : Nat) (img : RegFile) : Prop := ∀ a, own n a →
      (stays t n a → rfGet img a = rfGet (s.beam n).live a) ∧ (¬stays t n a → rfGet img a = s.getW a)
    let x := s.grp g
    let fences := s.rb .sysCgCtrl 0 g
    let follows := s.rb .sysCgCtrl 1 g
    let others (t : State) : Prop := ∀ k, k < 16 → k ≠ g.val → t.grp k = s.grp k
    let ready (t : State) : Prop := t.grp g = { x with ready := some last, want := false, moving := false, guard := false } ∧ others t
    let becomes (i : Instr) (y : Group) : Prop := s.does i fun t => t.grp g = y ∧ t.beams = s.beams ∧ others t
    (begins → s.cenHolds g = false → explicit = true → newer named last = false → s.canPost r → i ∉ (s.ring r).begun →
      s.does (.commit r race) fun t => s.posts t r i d 2 named.toNat 0 ∧ t.rd .sysCgEpoch g = last ∧ t.beams = s.beams ∧ t.oat = s.oat) ∧
    (begins → s.cenHolds g = false → explicit = false ∨ newer named last = true → s.does (.commit r race) fun t =>
      t.rd .sysCgEpoch g = epoch ∧
      (∀ n, n < 16 → s.groupOf n = g → (s.beam n).run ≠ .stopped → ∃ img, handed t n img ∧ (t.beam n).pend = some (g.val, epoch, img) ∧
        (t.beam n).live = (s.beam n).live ∧ t.rd .sysBeamEpoch n = s.rd .sysBeamEpoch n) ∧
      (∀ n, n < 16 → s.groupOf n = g → (s.beam n).run = .stopped → handed t n (t.beam n).live ∧ t.rd .sysBeamEpoch n = epoch) ∧
      (∀ n, n < 16 → s.groupOf n ≠ g → t.rd .sysBeamEpoch n = s.rd .sysBeamEpoch n ∧ (t.beam n).live = (s.beam n).live) ∧
      (∀ a j, ttIndex a = some j → rfGet t.oat.tt a = if ttGroup s.regs j = g then s.getW a else rfGet s.oat.tt a)) ∧
    (begins → s.cenHolds g = true → s.does (.commit r race) fun t => (t.ring r).hold = some (.commit i d) ∧
      (t.grp g).held = x.held ++ [(r.val, i, d)] ∧ t.rd .sysCgEpoch g = last ∧ t.beams = s.beams ∧ t.oat = s.oat) ∧
    (x.moving = false → exec (.groupReady g) s = .next s) ∧
    (x.moving = true → fences = false → s.does (.groupReady g) ready) ∧
    (x.moving = true → fences = true → follows = false → becomes (.groupReady g) { x with moving := false, guard := true }) ∧
    (x.moving = true → fences = true → follows = true → x.fence = some last ∨ x.waived = true → s.does (.groupReady g) ready) ∧
    (x.moving = true → fences = true → follows = true → x.fence ≠ some last → x.waived = false →
      becomes (.groupReady g) { x with moving := false }) ∧
    (x.guard = true → s.does (.fenceGuardExpiry g) ready) ∧ (x.guard = false → exec (.fenceGuardExpiry g) s = .next s) ∧
    (fences = true → follows = true → x.want = true → x.fence ≠ some last → s.does (.fenceTimeout g) fun t =>
      t.rb .sysCgStatus 2 g = true ∧ (x.moving = true → t.grp g = { x with waived := true } ∧ others t) ∧ (x.moving = false → ready t)) ∧
    (fences = false ∨ follows = false ∨ x.want = false ∨ x.fence = some last → exec (.fenceTimeout g) s = .next s) ∧
    s.does (.cgMapWrite half w) (fun t => t.rd .sysCgMap half = w ∧ (∀ n, n < 16 →
      t.groupOf n = if n / 8 = half.val then w.toNat / 16 ^ (n % 8) % 16 else s.groupOf n) ∧ t.beams = s.beams ∧ t.groups = s.groups)

/-- R41, R42, R45: START begins a census over SCOPE, or holds it in Sleep; while one waits or streams, and in Reset, it is recorded in
SYS_REJECT. ABORT ends a waiting census, and one that has reached a group, as Aborted, and makes the record being written the last.
At a group the cut waits until every member has adopted and then fixes the section; a record that fits is written whole at the next offset;
with no room for a header the census ends as Overflow, after its last record as Done.
The model's: log entries 4, 74, 78, 103, 104 and 110. -/
def Obligations.Census : Prop :=
  ∀ (s : State) (g : Nat) (bs : List Byte) (rest : List CenItem), g < 16 →
    let st := s.cenState
    let todo := s.census.todo
    let size := s.rf .sysCenSize 19 0 * 4096
    let base := s.addr64 .sysCenBaseLo .sysCenBaseHi
    let used := s.census.bytes
    let n := used + (bs.length + 31) / 32 * 32
    let open_ := s.rb .sysCenStatus 8 = false
    let idle := st ≠ 1 ∧ st ≠ 2
    (s.mode = 0 ∨ ¬idle → s.does .censusStart fun t => t = s.reject (addrOf .sysCenCtrl 0 0 0)) ∧
    (s.mode ≠ 0 → s.asleep = true → idle → s.does .censusStart fun t => t.cenState = 1 ∧ t.census = {} ∧ t.rd .sysCenBytes = s.rd .sysCenBytes) ∧
    (s.mode ≠ 0 → s.asleep = false → idle → size ≠ 0 → s.does .censusStart fun t =>
      t.cenState = 2 ∧ t.rd .sysCenBytes = 0 ∧ t.census = { todo := cenPlan (s.rd .sysCenScope) } ∧
        ((cenPlan (s.rd .sysCenScope)).head? = some (.group g) → s.rf .pwrStatus 1 0 ≠ 2 → t.cenHolds g = true)) ∧
    (s.mode ≠ 0 → s.asleep = false → idle → open_ → size = 0 → s.does .censusStart fun t => t.cenState = 4) ∧
    (idle → exec .censusAbort s = .next s) ∧
    (st = 1 → open_ → s.does .censusAbort fun t => t.cenState = 5 ∧ t.census.todo = []) ∧
    (st = 2 → todo = .record bs :: rest → rest ≠ [] → open_ → 32 ≤ size - used → used + bs.length ≤ size → s.does .censusAbort fun t =>
      t.cenState = 5 ∧ t.census.todo = [] ∧ t.rd .sysCenBytes = BitVec.ofNat 32 (n / 32)) ∧
    (st = 2 → open_ → todo = .group g :: rest → s.does .censusAbort fun t => t.cenState = 5 ∧ t.census.todo = []) ∧
    (st = 2 → todo = .group g :: rest → s.rf .pwrStatus 1 0 ≠ 2 → s.does .censusGroupCut fun t => t.cenHolds g = true ∧
      ((s.grp g).commits ≠ [] → t.census = s.census) ∧
      ((s.grp g).commits = [] → ∃ (first last : List Byte) (mid : List (List Byte)),
        t.census = { s.census with todo := (.record first :: mid.map .record) ++ .endGroup g last :: rest } ∧
        first.take 4 = [1, 0, 1, BitVec.ofNat 8 g] ∧ last.take 4 = [5, 0, 1, BitVec.ofNat 8 g] ∧
        (first.drop 16).take 4 = bytesLE 4 (s.rd .sysCgEpoch g).toNat)) ∧
    (st = 2 → todo = .record bs :: rest → rest ≠ [] → s.census.abort = false → used + bs.length ≤ size → 32 ≤ size - used →
      s.does .censusRecordWritten fun t => t.census.todo = rest ∧ t.census.bytes = n ∧ t.census.lastAt = some used ∧
        t.rd .sysCenBytes = BitVec.ofNat 32 (n / 32) ∧ t.cenState = 2 ∧
        s.sendsData t (base + used) (pad32 bs)) ∧
    (st = 2 → todo = .record bs :: rest → open_ → size < used + 32 → s.does .censusRecordWritten fun t =>
      t.cenState = 4 ∧ t.rd .sysCenBytes = s.rd .sysCenBytes ∧ t.census.todo = []) ∧
    (st = 2 → todo = [.done] → open_ → s.census.abort = false → s.rf .pwrStatus 1 0 ≠ 2 → used + 40 ≤ size → s.does .censusRecordWritten fun t =>
      t.cenState = 3 ∧ t.rd .sysCenBytes = BitVec.ofNat 32 ((used + 64) / 32))

/-- R22, R36, R77, R78, R81 to R83, R85, R86, R88, R94, R186: at a Calends that is due the beam takes the ready epoch of its group, else nothing, and
with RUN = 0 in what it holds then it will stop where the next frame would start; at a frame start the frame number counts on, the
frame's lines begin at line 0 and their count is fixed, that of a genlock jump within its limits, or the beam stops and shows no clock;
a locked clock lets the beam run; holdover holds the clock; a 32-bit read of BEAM_FRAME_LO latches the high half and a 64-bit one
returns both; a line that begins shows its position, and an active one leaves the emission buffer.
The model's: log entries 4, 5, 32, 33, 102, 113 and 117. -/
def Obligations.BeamFrames : Prop :=
  ∀ (s : State) (n : Fin 16) (g : Fin 16) (epoch : Word) (img : RegFile) (e : Emit) (drained : Fin 5),
    let b := s.beam n
    let f := s.frameNo n + 1
    let l := b.nextLine
    let lead := b.emf .beamCalends 7 0 n
    let total := b.cf .beamTotal 30 16 n
    let jumped (j : Int) : Int := min (max (total + j) (min (b.lines n + b.cf .beamCalends 7 0 n) total : Nat)) (max 16384 total : Nat)
    let due := b.run = .running ∧ b.calDone = false ∧ b.atStart = false ∧ b.curLines ≤ l + lead
    let starts := b.run = .running ∧ b.calDone = true ∧ (b.atStart = true ∨ l = b.curLines)
    let begun (t : State) (x : Beam) : Prop := x.calDone = true ∧ (x.cf .beamCtrl 0 0 n = 0 → x.stopping = true ∧ x.generating = false) ∧
      (x.cf .beamCtrl 0 0 n ≠ 0 → x.fg = min f (2 ^ 48 - 1) ∧ x.stopping = b.stopping) ∧ t.frameNo n = s.frameNo n
    (due → b.pend = some (g.val, epoch, img) → (s.grp g).ready = some epoch → s.does (.calends n) fun t =>
      begun t (t.beam n) ∧ (t.beam n).live = img ++ s.oat.tt ∧ (t.beam n).pend = none ∧ t.rd .sysBeamEpoch n = epoch) ∧
    (due → b.pend = none ∨ (b.pend = some (g.val, epoch, img) ∧ (s.grp g).ready ≠ some epoch) → s.does (.calends n) fun t =>
      begun t (t.beam n) ∧ (t.beam n).live = b.live ∧ (t.beam n).pend = b.pend ∧ t.rd .sysBeamEpoch n = s.rd .sysBeamEpoch n) ∧
    (¬due → exec (.calends n) s = .next s) ∧
    (starts → b.stopping = false → s.does (.beamFrameStart n) fun t =>
      let x := t.beam n
      (f < 2 ^ 48 → t.frameNo n = f) ∧ (2 ^ 48 ≤ f → t.frameNo n = s.frameNo n ∧ t.rb .beamFrameHi 31 n = true) ∧
        x.atStart = false ∧ x.calDone = false ∧ x.nextLine = 0 ∧ x.curKind = b.nextKind ∧
        x.startAt = s.now ∧ x.live = b.live ∧ x.em = emTiming b.live n ∧
        t.rd .beamPos n = BitVec.ofNat 32 (t.frameNo n % 2 ^ 16 * 2 ^ 16) ∧
        (b.genlock.jump = none → x.curLines = total ∧ t.rd .beamJumps n = s.rd .beamJumps n) ∧
        (∀ j, b.genlock.jump = some j → (x.curLines : Int) = jumped j ∧ (jumped j ≠ total → t.rb .beamStatus 6 n = true ∧
          t.rd .beamJumps n = countWord (s.rd .beamJumps n) 1))) ∧
    (starts → b.stopping = true → b.pend = none → b.plPend = none → s.does (.beamFrameStart n) fun t =>
      (t.beam n).run = .stopped ∧ t.rb .beamStatus 0 n = false ∧ t.rb .beamStatus 1 n = false ∧ t.view (addrOf .beamClkActual n 0 0) = 0 ∧
        (t.beam n).live = b.live) ∧
    (¬starts → exec (.beamFrameStart n) s = .next s) ∧
    (b.run = .starting → (s.rail (n.val / 8)).ready = true → s.does (.beamPllLock n) fun t =>
      (t.beam n).run = .running ∧ (t.beam n).calDone = true ∧ (t.beam n).curLines = 0) ∧
    (b.run ≠ .starting ∨ (s.rail (n.val / 8)).ready = false → exec (.beamPllLock n) s = .next s) ∧
    (s.rf .beamStatus 3 2 n = 1 ∨ s.rf .beamStatus 3 2 n = 2 → s.does (.genlockHoldover n) fun t =>
      t.rf .beamStatus 3 2 n = 3 ∧ t.rb .beamStatus 7 n = true ∧
        t.beam n = { b with genlock := { b.genlock with jump := none } }) ∧
    (s.scanned = false → s.does (.beamFrameLoRead n ⟨false, 0xF⟩) fun t => t.regs = s.regs ∧
      t.out = s.out ++ [.completion (bytesLE 4 (s.rd .beamFrameLo n).toNat) false] ∧
        t.beam n = { b with frameLatch := some (s.rd .beamFrameHi n) }) ∧
    (s.scanned = false → s.does (.beamFrameLoRead n ⟨true, 0xFF⟩) fun t => t = { s with out := s.out ++
      [.completion (bytesLE 4 (s.rd .beamFrameLo n).toNat ++ bytesLE 4 (s.rd .beamFrameHi n).toNat) false] }) ∧
    (b.run = .running → b.atStart = false → l < b.curLines → b.calDone = true ∨ l + lead < b.curLines →
      s.does (.lineEmissionStart n drained) fun t => (t.beam n).nextLine = l + 1 ∧
        t.rd .beamPos n = BitVec.ofNat 32 (l % 2 ^ 14 + s.frameNo n % 2 ^ 16 * 2 ^ 16) ∧
        (b.routePend = none → l < b.lines n → b.curKind ≠ .repeated → b.calDone = false → b.dl ≠ l → b.copied = some e →
          e.line = l → (t.beam n).emitted = l + 1 ∧ (t.beam n).last = some e))

/-- R186 to R198, R203: the generator begins its next line with the effective values of the entries up to it, completes it once its
band list and imported rows are there, and restarts where a squash or an abandoned line left it; at a deadline the emission
buffer takes the current version, else the superseded one, else the last line again, else the idle item, and counts all but the
first; an entry that arrives enters the queue in line order, squashes lines generated past it, is relabelled when late, and is
rejected with its reason.
The model's: log entries 4, 21, 35, 73 and 99. -/
def Obligations.RunAhead : Prop :=
  ∀ (s : State) (n : Fin 16) (gl : GenLine) (band : List Nat) (v : Version) (e : Rec4) (rest : List Rec4) (r : Nat),
    let b := s.beam n
    let lines := b.lines n
    let next := max b.g b.dl
    let d := (entryFrame e + (256 - b.fg % 256)) % 256
    let l := entryLine e
    let entry : LqEntry := ⟨e.w0, e.w1, entryOff e, b.fg + d, l, false⟩
    let begins (t : State) (l : Nat) : Prop := (t.beam n).gen = some ⟨l, b.effFor n l⟩ ∧ (t.beam n).g = l + 1 ∧ (t.beam n).restart = none ∧
      (t.beam n).window = some s.store.log.length ∧ ∃ x, x ∈ (t.beam n).slots ∧ x.line = l ∧ x.held = true ∧ x.cur = none
    let may := b.run = .running ∧ b.generating = true ∧ b.gen = none ∧ b.restart = none ∧ next < lines ∧
      b.heldLines < b.leadLimit n (s.rd .lpRaCtrl n) ∧ (b.slotsUsed < b.slotsN n ∨ ∃ x, x ∈ b.slots ∧ x.sup.isSome = true)
    let source (src : Nat) (v : Version) : Prop := b.run = .running → b.generating = true → b.dl < lines → b.dl = b.emitted →
      b.dl ≠ 0 ∨ b.atStart = true ∨ b.nextLine = b.curLines → s.does (.lineDeadline n []) fun t =>
        (t.beam n).copied = some ⟨b.dl, src, src != 1, v⟩ ∧ (t.beam n).dl = b.dl + 1 ∧
        (src ≠ 1 → t.rd .lpRaCount n (src + 1) = countWord (s.rd .lpRaCount n (src + 1)) 1) ∧
        (b.gen = some gl → gl.line = b.dl → (t.beam n).gen = none ∧
          (t.beam n).restart = if b.dl + 1 < lines then some (b.dl + 1) else none)
    let slot := b.slots.find? (fun x => x.line == b.dl)
    let arrives (p : State → Prop) : Prop := b.crossing = e :: rest → s.does (.lsqEntryArrival n) fun t => (t.beam n).crossing = rest ∧ p t
    let counted (t : State) (k : Nat) : Prop := t.rd .lpRaCount n k = countWord (s.rd .lpRaCount n k) 1
    let good := b.run ≠ .stopped ∧ entryReason n lines e = 0
    (may → s.does (.lineGenerationStart n) fun t => begins t next) ∧
    (¬may → exec (.lineGenerationStart n) s = .next s) ∧
    (b.gen = some gl → b.bandOf gl.line = some band → s.lineReady n gl = true → s.does (.lineComplete n) fun t =>
      (t.beam n).gen = none ∧ (t.beam n).window = none ∧ ∃ v : Version, v.epoch = s.rd .sysBeamEpoch n ∧ v.plBank = b.plBank ∧
        v.eff = gl.eff ∧ v.bad = false ∧
        (t.beam n).slots = b.slots.map (fun x => if x.line = gl.line then { x with cur := some v, sup := none } else x)) ∧
    (b.gen = none ∨ (b.gen = some gl ∧ (b.bandOf gl.line = none ∨ s.lineReady n gl = false)) → exec (.lineComplete n) s = .next s) ∧
    ((∃ x, slot = some x ∧ x.cur = some v) → v.bad = false → source 1 v) ∧
    ((∃ x, slot = some x ∧ x.cur = none ∧ x.sup = some v) → v.bad = false → source 2 v) ∧
    (slot = none → (∃ x, b.last = some x ∧ x.src ≠ 4 ∧ x.ver = v) → source 3 v) ∧
    (slot = none → b.last = none → (∀ x, b.gen = some x → x.line ≠ b.dl) → source 4 (s.idleVersion n)) ∧
    (b.restart = none → exec (.generationRestart n) s = .next s) ∧
    (b.restart = some r → b.run = .running → b.generating = true → max r b.dl < lines →
      s.does (.generationRestart n) fun t => begins t (max r b.dl)) ∧
    (b.crossing = [] → exec (.lsqEntryArrival n) s = .next s) ∧
    (b.run = .stopped → arrives fun t => counted t 7 ∧ (t.beam n).queue = b.queue) ∧
    (b.run ≠ .stopped → entryReason n lines e ≠ 0 → arrives fun t => counted t 6 ∧ (t.beam n).queue = b.queue ∧
      t.rd .lpLsqReject n = BitVec.ofNat 32 (entryOff e + entryReason n lines e * 2 ^ 20 + 2 ^ 31)) ∧
    (good → d < 128 → d ≠ 0 ∨ (b.emitted ≤ l ∧ (b.generating = false ∨ b.g ≤ l)) → arrives fun t =>
      (t.beam n).queue = lqInsert entry b.queue ∧ (t.beam n).gen = b.gen ∧ t.regs = s.regs) ∧
    (good → d = 0 → b.generating = true → b.emitted ≤ l → l < b.g → arrives fun t =>
      (t.beam n).queue = lqInsert entry b.queue ∧ (t.beam n).gen = none ∧ counted t 0 ∧ (t.beam n).g = max l b.dl ∧
        (t.beam n).restart = if max l b.dl < lines then some (max l b.dl) else none) ∧
    (good → 128 ≤ d ∨ (d = 0 ∧ l < b.emitted) → arrives fun t =>
      let to_ := if b.generating = true ∧ next < lines then (b.fg, next) else (b.fg + 1, 0)
      (t.beam n).queue = lqInsert { entry with frame := to_.1, line := to_.2 } b.queue ∧ counted t 2 ∧
        t.rd .lpLsqLateLast n = BitVec.ofNat 32 (l + to_.2 * 2 ^ 16 + 2 ^ 31)) ∧
    s.does (.raMinHeldClear n) (fun t => t.rf .lpRaMinHeld 14 0 n = 0x7FFF ∧ ∀ a, a ≠ addrOf .lpRaMinHeld n 0 0 → t.getW a = s.getW a)

/-- R29, R129, R130, R137 to R140, R144, R159: an OAT word is stored and its entry takes a slot of the change store, or is rejected;
the end of a sort stage leaves the entries that it keeps; a worker completes its band with the objects that touch it, in shed order;
a line that an import ring does not hold by its grace is missing.
The model's: log entries 4, 17, 28, 37, 38 and 98. -/
def Obligations.Objects : Prop :=
  ∀ (s : State) (i : Fin 131072) (j : Fin 8) (w : Word) (desc : Bool) (n k : Fin 16) (p : Fin 3) (band : Nat) (gl : GenLine),
    let b := s.beam n
    let enabled (f : RegFile) (m : Nat) : Prop := bit (oatW f i 0) 0 = true ∧ oatBeam f i = m
    let moves := j.val = 0 ∧ ∃ m, m < 16 ∧ (enabled s.regs m ∨ enabled (s.committedOf m) m) ∧ s.groupOf m ≠ s.groupOf (fld w 4 1)
    let full := i.val ∉ s.oat.slots ∧ 32768 ≤ s.oat.slots.length
    let rejected (t : State) : Prop := t.rd .sysReject = BitVec.ofNat 32 (addrOf .oat i j 0 + 2 ^ 31) ∧ t.oat = s.oat ∧
      ∀ a, 0x1100000 ≤ a → t.getW a = s.getW a
    let all := bandAll n (s.seen b.live) b.sorted band
    let imp := vget b.imports p {}
    let clean := s.tbl.err = [] ∧ s.tbl.off = [] ∧ ∀ x, x < 131072 → s.tbl.poison.contains x = false
    (wordOk .oat j w = true → ¬moves → ¬full → s.does (.oatWrite i j w desc) fun t =>
      t.rd .oat i j = w ∧ i.val ∈ t.oat.slots ∧ i.val ∈ t.oat.dirty ∧ (∀ a, a ≠ addrOf .oat i j 0 → t.getW a = s.getW a) ∧
        s.onlyChanges t [.oatRegs, .attributes]) ∧
    (wordOk .oat j w = false → s.does (.oatWrite i j w desc) rejected) ∧
    (wordOk .oat j w = true → moves → s.does (.oatWrite i j w true) fun t => t = s) ∧
    (wordOk .oat j w = true → moves → s.does (.oatWrite i j w false) rejected) ∧
    (wordOk .oat j w = true → ¬moves → full → s.does (.oatWrite i j w desc) fun t => rejected t ∧ t.rb .objBinStatus 16 = true) ∧
    (b.sorting = true → clean → s.does (.sortStageEnd n) fun t =>
      t.beam n = { b with sorting := false, sorted := (oatListed b.live).filter (sortKeeps n b.live (b.lines n)) } ∧ t.tbl = s.tbl) ∧
    (b.sorting = false → exec (.sortStageEnd n) s = .next s) ∧
    (vget s.bin.work k none = some (n.val, band) → b.bandStore n + (all.take 16384).length ≤ 131072 →
      s.does (.bandListComplete k) fun t =>
        t.beam n = { b with bands := b.bands.set band ⟨some (all.take 16384), (b.bands[band]?.map (·.late)).getD false⟩ } ∧
        t.rd .objBinBands k = countWord (s.rd .objBinBands k) 1 ∧
        t.rd .objBandDrop n = if all.length ≤ 16384 then s.rd .objBandDrop n else countWord (s.rd .objBandDrop n) (all.length - 16384)) ∧
    (vget s.bin.work k none = none ∨ (vget s.bin.work k none = some (n.val, band) ∧
      131072 < b.bandStore n + (all.take 16384).length) → exec (.bandListComplete k) s = .next s) ∧
    s.does (.objPeakClear n) (fun t => t.rf .objPeak 14 0 n = 0 ∧ ∀ a, a ≠ addrOf .objPeak n 0 0 → t.getW a = s.getW a) ∧
    (b.gen = some gl → (s.lineCtx n gl).bmpReady p imp = false → b.graceOver gl.line ((s.lineCtx n gl).f .bmpImp 11 8 p) = true →
      s.does (.importLineMissing n p) fun t => t.rd .bmpImpMiss n p = countWord (s.rd .bmpImpMiss n p) 1 ∧
        t.beam n = { b with imports := vset b.imports p { imp with missing := imp.missing ++ [gl.line], missRaised := true } }) ∧
    (b.gen = none ∨ (b.gen = some gl ∧ (s.lineCtx n gl).bmpReady p imp = true) → exec (.importLineMissing n p) s = .next s)

/-- R173 to R175: GO fetches a package, or waits for the end of Sleep, and is recorded while a package is in work and in Retired; a
package that the host delivers is verified, one whose fetch fails, or finds Bus Master Enable clear, ends with 1; a package
ends with the number of the first check that it fails, all later state unchanged: among them the digest of its key against the
sealed ones and its signature, once PL is sealed; one that passes all sets the sequence number, the key and the region, its data are
written there, and its banks reach its beams. In any other state of the engine these commands change nothing. Whether a tile area
without a stated size fits the region is open.
The model's: log entries 4, 40, 41, 78 and 105. -/
def Obligations.PlPackages : Prop :=
  ∀ (s : State) (n m : Fin 16) (p : List Byte) (q : Option (List Byte)),
    let st := s.rf .cmpPleStatus 2 0
    let sealed := s.rb .cmpPleStatus 3
    let busy := (2 ≤ st ∧ st ≤ 4) ∨ s.lcState = 5
    let ended (t : State) (result : Nat) : Prop := t.rf .cmpPleStatus 2 0 = 5 ∧ t.rf .cmpPleStatus 7 4 = result ∧ t.ple.pkg = [] ∧
      t.ple.sent = false ∧ t.rd .cmpPleSeqLo = s.rd .cmpPleSeqLo ∧ t.rd .cmpPleRegionBase = s.rd .cmpPleRegionBase
    let len := pkgField p 24 4
    let key := 64 + 192 * (pkgBeams p).length + len
    let checks (tile : Bool) : List (Nat × Bool) := [(2, pkgFormatOk p), (3, decide (len ≤ 2 ^ 24 ∧ len % 64 = 0)),
      (4, !sealed || s.digestIs 2 (sha384 (padTo 97 ((p.drop key).take 97)))), (5, !sealed || signedAt p key),
      (6, decide (s.addr64 .cmpPleSeqLo .cmpPleSeqHi < pkgField p 8 8)),
      (7, !(pkgField p 20 1).testBit 0 || pkgField p 16 4 == (s.rd .cmpPleNonce).toNat), (8, s.regionOk p tile)]
    let accepted (t : State) : Prop := t.rf .cmpPleStatus 2 0 = 4 ∧ t.addr64 .cmpPleSeqLo .cmpPleSeqHi = pkgField p 8 8 ∧
      t.rd .cmpPleKeyid = BitVec.ofNat 32 (pkgField p 4 4) ∧ t.ple.accepted = s.ple.accepted + 1 ∧ t.ple.pkg = p ∧
      ((pkgField p 20 1).testBit 1 = true → t.rf .cmpPleRegionBase 15 0 = pkgField p 32 4 ∧
        t.rf .cmpPleRegionSize 11 0 = pkgField p 36 4) ∧
      ((pkgField p 20 1).testBit 1 = false → t.rd .cmpPleRegionBase = s.rd .cmpPleRegionBase ∧
        t.rd .cmpPleRegionSize = s.rd .cmpPleRegionSize)
    let base := s.rf .cmpPleRegionBase 15 0 * 2 ^ 20 + pkgField p 28 4 * 64
    let data := (p.drop (64 + 192 * (pkgBeams p).length)).take len
    let bank (j : Nat) : List Word := plWords (pkgImage p j)
    (busy → s.does (.pleGo n) fun t => t.rd .beamReject n = BitVec.ofNat 32 (0x100000 * (n.val + 1) + 0x40C08 + 2 ^ 31) ∧
      ∀ a, a ≠ addrOf .beamReject n 0 0 → t.getW a = s.getW a) ∧
    (¬busy → s.asleep = true → s.does (.pleGo n) fun t => t.rf .cmpPleStatus 2 0 = 1 ∧ t.out = s.out) ∧
    (¬busy → s.asleep = false → s.does (.pleGo n) fun t => t.rf .cmpPleStatus 2 0 = 2 ∧
      t.out = if s.pci.busMaster = true ∧ s.scanned = false then
        s.out ++ [.hostRead (BitVec.ofNat 64 (s.addr64 .cmpPleAddrLo .cmpPleAddrHi)) 64] else s.out) ∧
    (st = 2 → q = none ∨ s.pci.busMaster = false → s.does (.pleFetchDone q) fun t => ended t 1) ∧
    (st = 2 → q = some p → s.pci.busMaster = true → s.does (.pleFetchDone q) fun t =>
      t.rf .cmpPleStatus 2 0 = 3 ∧ t.ple = { s.ple with pkg := p }) ∧
    (st ≠ 2 → exec (.pleFetchDone q) s = .next s) ∧
    (st = 3 → s.ple.pkg = p → s.does .pleVerifyDone fun t => ∃ tile, match (checks tile).find? (fun c => !c.2) with
      | some c => ended t c.1
      | none => accepted t) ∧
    (st ≠ 3 → exec .pleVerifyDone s = .next s) ∧
    (st = 4 → s.ple.sent = false → s.ple.pkg = p → len % 64 = 0 → base + len ≤ 0xC00000000 →
      (∀ ln, base ≤ 64 * ln → 64 * ln < base + len → s.fenced (20 + stackOf (64 * ln)) = false) →
      s.does .pleWriteDone fun t => t.ple = { s.ple with sent := true } ∧ ∀ y, y < 0xC00000000 →
        memGet t.store.mem y = if base ≤ y ∧ y < base + len then data.getD (y - base) 0 else memGet s.store.mem y) ∧
    (st ≠ 4 ∨ s.ple.sent = true → exec .pleWriteDone s = .next s) ∧
    (st = 4 → s.ple.sent = true → s.ple.pkg = p → s.does .plBankArrival fun t => ended t 0 ∧
      ∀ j, (pkgBeams p)[j]? = some m.val →
        ((s.beam m).run ≠ .stopped → t.beam m = { s.beam m with plPend := some (s.ple.accepted, bank j) }) ∧
        ((s.beam m).run = .stopped → (t.beam m).plPend = none ∧
          (∀ k, k < 32 → t.rd .cmpPlPal m k = (bank j).getD (7 + k) 0) ∧
          [t.rd .cmpPlCtrl m, t.rd .cmpPlMap m, t.rd .cmpPlTile m, t.rd .cmpPlSize m, t.rd .cmpPlPos m, t.rd .cmpPlFaultRg m,
            t.rd .cmpPlFaultB m] = (List.range 7).map fun k => (bank j).getD k 0)) ∧
    (st ≠ 4 ∨ s.ple.sent = false → exec .plBankArrival s = .next s)

/-- R209, R210, R239, R242, R245: a posted store takes effect as a steward's register write; a load of the pattern window brings the
stored bytes, and a store there changes exactly its bytes, and the core goes on. RUN takes a line processor out of reset at its
first instruction and back with its memories kept; HALT stops it before the next instruction and abandons a wait, but lets a window
access end first; the length of a wait or an access is open; a resumed core passes its breakpoint; STEP executes the instruction at
pc and halts again, and takes no interrupt, so that a RETI returns whatever is pending.
The model's: log entries 4, 46, 47, 53, 54 and 97. -/
def Obligations.LpControl : Prop :=
  ∀ (s : State) (n : Fin 16) (c : Fin 20) (a v : Word) (rest : List (Word × Word)) (signed halt : Bool) (rd : Fin 32) (i : Instr) (u : State),
    let k := s.core n
    let x := s.core c
    let p := a.toNat - 0x80000000 + x.pswin.toNat * 2 ^ 30
    let window := 16 ≤ c.val ∧ 0x80000000 ≤ a.toNat ∧ a.toNat < 0xC0000000 ∧ p < 0xC00000000 ∧ s.lineErr (p / 64) = [] ∧
      s.fenced (20 + stackOf p) = false ∧ s.store.poison.contains (p / 64) = false ∧ s.store.inject = none
    let quiet := x.run = .waiting ∧ x.posted = [] ∧ x.pend = [] ∧ x.div = none ∧ x.ld = 0 ∧ x.stepped = false ∧ s.mode ≠ 7
    let on : Core := { x with run := .running, wait := .none }
    let alone (t : State) (m : Nat) : Prop := ∀ j, j ≠ m → t.core j = s.core j
    let told (i : Instr) (y : Core) : Prop := s.does i fun t => t.core n = y ∧ alone t n
    let set := s.rb .lpCtrl 1 n = k.pipeX ∧ s.rb .lpCtrl 3 n = false
    let up := set ∧ s.rb .lpCtrl 0 n = true
    let idle := k.pend = [] ∧ k.div = none
    let sp := (k.gr 30).toNat
    let ctrl := setBit (setBit (s.rd .lpCtrl n) 2 halt) 3 false
    let s1 := (s.wr .lpCtrl ctrl n).setCore n { k with run := .running, why := 0, skipBp := true }
    (x.posted = (a, v) :: rest → x.run ≠ .waiting → a.toNat % 4 = 0 → s.mode ≠ 0 → exec (.registerWrite .steward (a.truncate 26) v none true)
      (s.setCore c { x with posted := rest }) = .next u → (u.core c).run ≠ .waiting → s.does (.windowAccessDone c) fun t => t = u) ∧
    (∀ size, size = 1 ∨ size = 2 ∨ size = 4 → window → p % size = 0 → quiet →
      let w : Nat := ((memBytes s.store.mem p size).zipIdx.map (fun b => b.1.toNat * 256 ^ b.2)).sum
      let z : Int := if signed = true ∧ 256 ^ size ≤ 2 * w then (w : Int) - (256 ^ size : Nat) else w
      (x.wait = .load a size signed rd → s.does (.windowAccessDone c) fun t => alone t c ∧ t.store = s.store ∧
        ∃ w : Nat, (t.core c).pass 2 = { on.advanced 3 with
          cyc := x.cyc + BitVec.ofNat 32 (w + 3), g := if rd = 0 then x.g else vset x.g rd (BitVec.ofInt 32 z) }) ∧
      (x.wait = .store a size v → s.inPlRegion p size = false → s.does (.windowAccessDone c) fun t => alone t c ∧
        (∃ w : Nat, t.core c = { on.advanced 1 with cyc := x.cyc + BitVec.ofNat 32 (w + 1) }) ∧ ∀ y, y < 0xC00000000 →
          memGet t.store.mem y = if p ≤ y ∧ y < p + size then byteAt v.toNat (y - p) else memGet s.store.mem y)) ∧
    (set → s.rb .lpCtrl 2 n = false → k.run = .reset → s.mode ≠ 7 →
      told (.lpRun n) { itcm := k.itcm, dtcm := k.dtcm, pipeX := k.pipeX, run := .running }) ∧
    (set → s.does (.lpReset n) fun t => t.core n = { itcm := k.itcm, dtcm := k.dtcm, pipeX := k.pipeX } ∧ alone t n ∧
      t.rb .lpCtrl 0 n = false ∧ ∀ y, y ∈ t.evt.active → y.core ≠ n.val) ∧
    (up → idle → k.run = .running → told (.lpHalt n) { k with run := .halted, wait := .none, why := 1, stepped := false }) ∧
    (up → idle → k.run = .waiting → k.inWindow = false → s.does (.lpHalt n) fun t => alone t n ∧ ∃ w : Nat, t.core n = { k with
      run := .halted, wait := .none, why := 1, stepped := false
      t := if k.wait = .lsw then k.t else k.t + w, cyc := k.cyc + BitVec.ofNat 32 w }) ∧
    (up → k.run = .waiting → k.inWindow = true → told (.lpHalt n) { k with stepped := false }) ∧
    (up → k.run = .halted → s.mode ≠ 7 → told (.lpResume n) { k with run := .running, why := 0, skipBp := true }) ∧
    (up → k.run = .halted → s.mode = 7 → told (.lpResume n) k) ∧
    (up → k.run = .halted → s.mode ≠ 7 → decodeFanel (n.castLE (by decide)) (k.tcmWord k.pc.toNat) = some i → exec i s1 = .next u →
      (∀ x o during, i = .reti x o during → s.pendingSrcs = []) → (u.core n).run = .running → (u.core n).pend = [] → (u.core n).div = none → u.mode ≠ 7 → s.does (.lpStep n halt) fun t =>
        t.core n = (if halt = true then { u.core n with run := .halted, wait := .none, why := 4 }
          else { u.core n with run := .running, wait := .none, why := 0, skipBp := true }) ∧ t.store = u.store) ∧
    (up → idle → k.run = .halted → s.mode ≠ 7 → decodeFanel (n.castLE (by decide)) (k.tcmWord k.pc.toNat) =
        some (.reti (n.castLE (by decide)) ⟨0, 0, 0, 0⟩ []) → k.pc.toNat < 0x10000 → s.tcmClean n k.pc.toNat → k.ipl ≠ 0 → sp % 4 = 0 →
      0x10000 ≤ sp → sp + 8 ≤ 0x20000 → s.tcmClean n sp → s.tcmClean n (sp + 4) → told (.lpStep n true) { k with
        run := .halted, wait := .none, why := 4, skipBp := false, t := k.t + 4, cyc := k.cyc + 4, g := vset k.g 30 (k.gr 30 + 8)
        st := setBit (BitVec.ofNat 32 ((k.tcmWord sp).toNat % 2 ^ 16)) 7 false
        pc := BitVec.ofNat 32 ((k.tcmWord (sp + 4)).toNat / 4 * 4) }) ∧
    (up → k.run = .running → k.stepped = false → s.mode ≠ 7 → told (.lpStep n false) k)

/-- R246, R250, R256 to R258, R260: EN starts an attempt in Base at the first rate outside Sleep, and its clearing disables the port; a
training frame shows the polarity of its pair, its control and its status field are each acted on once received alike three times, and it
renegotiates an Active port; a tap request is answered with updated or at limit, and the answer stays until the request holds; a lane is graded by its
errors, or fails after its time; complete grades lead from Base to Descent and from Descent to Align in the mode found; an attempt
that fails, or outlives its state, waits in Fault and then begins again.
The model's: log entries 4, 58, 59 and 101. -/
def Obligations.LinkTraining : Prop :=
  ∀ (s : State) (p : Fin 8) (k : Fin 4) (control status : Word) (inverted : Bool) (errors : Fin 1000000001),
    let st := s.portState p
    let g := s.port p
    let x := g.lane k
    let quiet (y : Port) : Prop := y.credit = [] ∧ y.cap = [] ∧ y.ctl = [] ∧ y.audio = [] ∧ y.pixels = [] ∧ y.late = [] ∧ y.rxLines = []
    let inBase (t : State) : Prop := t.portState p = 1 ∧ t.rf .lnkPStatus 9 3 p = 0 ∧ t.rd .lnkPGrade p = 0x10000 ∧
      (t.port p).rate = 1 ∧ (t.port p).trained = [] ∧ (t.port p).ctl0 = t.rd .lnkPCtrl p ∧ quiet (t.port p)
    let failed (t : State) : Prop := t.portState p = 6 ∧ t.rf .lnkPStatus 9 3 p = 0 ∧ quiet (t.port p) ∧
      t.rf .lnkPStatus 19 16 p = min (s.rf .lnkPStatus 19 16 p + 1) 15 ∧ (t.port p).longWait = decide (2 ≤ s.rf .lnkPStatus 19 16 p)
    let trains := g.rate ≠ 0 ∧ k.val ∈ g.mask
    let alike (old new : Word) (same : Nat) : Nat := if old = new then min (same + 1) 3 else 1
    let frame (q : State → Prop) : Prop := s.does (.trainingFrameRx p k control status inverted) q
    let grade := if errors.val = 0 then 3 else if errors.val ≤ 200000 then 2 else 1
    let done := g.allGraded = true ∧ g.fecBad = false ∧ g.usable ≠ []
    (s.rb .lnkPCtrl 11 p = false → st = 0 → s.mode ≠ 4 → s.does (.lnkPortEnable p) fun t => inBase t ∧ t.rb .lnkPCtrl 0 p = true) ∧
    (s.rb .lnkPCtrl 11 p = false → st ≠ 0 ∨ s.mode = 4 → s.does (.lnkPortEnable p) fun t => t.rb .lnkPCtrl 0 p = true ∧
      t.portState p = st ∧ t.ports = s.ports) ∧
    (st ≠ 0 → s.does (.lnkPortDisable p) fun t => t.portState p = 0 ∧ t.rb .lnkPCtrl 0 p = false ∧ t.rf .lnkPStatus 9 3 p = 0 ∧
      quiet (t.port p)) ∧
    (st = 5 → frame fun t => inBase t ∧ t.rf .lnkPStatus 15 13 p = 6) ∧
    (st ≠ 1 → st ≠ 2 → st ≠ 5 → frame fun t => t = s) ∧
    (st = 1 → alike x.ctl control x.ctlSame < 3 → alike x.status status x.statusSame < 3 → frame fun t =>
      t = s.setPort p { g with lanes := vset g.lanes k { x with
        ctl := control, status, ctlSame := alike x.ctl control x.ctlSame, statusSame := alike x.status status x.statusSame, inverted } }) ∧
    (st = 1 → alike x.status status x.statusSame = 3 → frame fun t =>
      let y := (t.port p).lane k
      y.remoteGrade = (if bit status 15 = true then fld status 14 13 else x.remoteGrade) ∧ y.statusSame = 3 ∧ y.inverted = inverted ∧
        y.peerLane = fld status 17 16 ∧ y.localGrade = x.localGrade ∧ (t.port p).common = fld g.ctl0 3 1 &&& fld status 10 8 ∧
        (t.port p).fec = (bit status 11 && bit g.ctl0 8) ∧ t.rf .lnkPGrade (2 * k.val + 9) (2 * k.val + 8) p = y.remoteGrade % 4) ∧
    (st = 1 → alike x.ctl control x.ctlSame = 3 → frame fun t => ((t.port p).lane k).ctlSame = 3 ∧ ∀ j : Fin 4,
      let asked := fld control (2 * j.val + 1) (2 * j.val)
      let old := nfld x.tapStatus (2 * j.val + 1) (2 * j.val)
      let new := nfld ((t.port p).lane k).tapStatus (2 * j.val + 1) (2 * j.val)
      (asked = 0 → new = 0) ∧ (asked ≠ 0 → old ≠ 0 → new = old) ∧ (asked = 3 → old = 0 → new = 3) ∧
        (asked = 1 ∨ asked = 2 → old = 0 → new = 1 ∨ new = 2)) ∧
    (st = 1 → trains → x.localGrade = 0 → s.does (.laneGraded p k errors) fun t => ((t.port p).lane k).localGrade = grade ∧
      bit ((t.port p).lane k).own 10 = true ∧ t.rf .lnkPGrade (2 * k.val + 1) (2 * k.val) p = grade ∧ t.portState p = 1) ∧
    (x.localGrade ≠ 0 → exec (.laneGraded p k errors) s = .next s) ∧
    (st = 1 → trains → x.localGrade = 0 ∨ x.remoteGrade = 0 → s.does (.laneGradeTimeout p k) fun t =>
      ((t.port p).lane k).localGrade = 1 ∧ ((t.port p).lane k).remoteGrade = 1 ∧ t.portState p = 1) ∧
    (x.localGrade ≠ 0 → x.remoteGrade ≠ 0 → exec (.laneGradeTimeout p k) s = .next s) ∧
    (st = 1 → g.allGraded = true → g.fecBad = true ∨ g.common = 0 → s.does (.baseComplete p) failed) ∧
    (st = 1 → done → g.common.testBit 1 = true ∨ g.common.testBit 2 = true → s.does (.baseComplete p) fun t =>
      let rate := if g.common.testBit 2 then 3 else 2
      t.portState p = 2 ∧ (t.port p).rate = rate ∧ (t.port p).base = g.usable ∧ t.rd .lnkPGrade p = BitVec.ofNat 32 (rate * 2 ^ 16)) ∧
    (st = 1 → done → g.common = 1 → g.lastRate = 1 → g.trained = [] → s.does (.baseComplete p) fun t =>
      t.portState p = 2 ∧ (t.port p).rate = 0 ∧ (t.port p).mode = g.usable) ∧
    (st ≠ 1 ∨ g.allGraded = false → exec (.baseComplete p) s = .next s) ∧
    (st = 2 → g.rate = 0 → g.fecBad = false → g.mode ≠ [] → s.does (.descentComplete p) fun t => t.portState p = 3 ∧ (t.port p).nextLane = 0 ∧
      (t.port p).lane k = { inverted := x.inverted, peerLane := x.peerLane } ∧ t.rf .lnkPStatus 4 3 p = g.lastRate % 4 ∧ t.rf .lnkPStatus 8 5 p = (g.mode.map (2 ^ ·)).sum % 16 ∧ t.rb .lnkPStatus 9 p = g.fec) ∧
    (st = 2 → g.rate = 0 → g.fecBad = true ∨ g.mode = [] → s.does (.descentComplete p) failed) ∧
    (st = 3 ∨ st = 4 ∨ (st = 1 ∧ g.usable = []) → s.does (.portStateTimeout p) failed) ∧
    (st = 0 ∨ st = 2 ∨ st = 5 ∨ st = 6 → exec (.portStateTimeout p) s = .next s) ∧
    (st = 6 → s.does (.faultWaitExpiry p) inBase) ∧
    (st ≠ 6 → exec (.faultWaitExpiry p) s = .next s)

/-- R247, R249 to R252, R255, R257, R259, R260, R263, R264, R270: two valid alignment markers lock a lane and say what it carries, all
lanes locked and deskewed end Align, and the third missing marker of an Active port renegotiates it; codeword and cell errors are
counted, and too many within a millisecond renegotiate; a credit and a capability cell leave when due; a cell goes to the next active
lane. A cell slot sends a held cell that is due, else credits first, then the ready cell of highest priority while credit lasts, else an
idle cell, and counts once each cell that credit holds back; while a port trains it sends a training frame on each lane it trains;
Masquerade drops a candidate it takes, and an idle cell takes its slot.
The model's: log entries 4, 58 to 61, 63 and 100. -/
def Obligations.LinkFlow : Prop :=
  ∀ (s : State) (p : Fin 8) (k : Fin 4) (bs : List Byte) (skew : Fin 4000) (errors : Fin 545) (cells : Fin 5) (wrong badType : Bool)
    (c : Cell) (rest : List Cell) (h : Nat × List Byte),
    let st := s.portState p
    let g := s.port p
    let x := g.lane k
    let live := 3 ≤ st ∧ st ≤ 5
    let used := k.val ∈ s.modeLanes p
    let count (t : State) (j n : Nat) : Prop := t.rd .lnkPCount p j = if n = 0 then s.rd .lnkPCount p j else countWord (s.rd .lnkPCount p j) n
    let again (t : State) (cause : Nat) : Prop := t.portState p = 1 ∧ t.rf .lnkPStatus 15 13 p = cause ∧ count t 4 1 ∧
      (t.port p).rate = 1 ∧ (t.port p).pixels = []
    let lane (y : Lane) : Vector Lane 4 := vset g.lanes k y
    let bad : Lane := { x with amGood := 0, amBad := x.amBad + 1, locked := x.locked && decide (x.amBad < 2) }
    let told (i : Nat) : Nat := (bs.getD i 0).toNat
    let good : Lane := { x with amGood := x.amGood + 1, amBad := 0, locked := x.locked || decide (1 ≤ x.amGood), skew := skew
                                peerLane := told 5, marker := some (told 4, told 5, told 6, told 7) }
    let valid := crc32c (bs.take 28) = leNat ((bs.drop 28).take 4)
    let fec := s.rb .lnkPStatus 9 p
    let recent (ts : List Nat) : List Nat := ts.filter fun u => (s.now + 2 ^ 64 - u) % 2 ^ 64 ≤ 1000000
    let seen := recent (g.ucw.getD k [])
    let fails := recent g.crcBad
    let limit := s.rf .lnkPCtrl 23 16 p
    let codeword (q : State → Prop) : Prop := s.does (.fecCodewordRx p k errors wrong cells) q
    let clear := s.rf .lnkPMasqCtrl 2 0 p = 0 ∧ s.scanned = false
    let slot (q : State → Prop) : Prop := s.does (.cellSlot p) q
    let free := ∀ h, h ∈ g.held → h.1 ≠ 0
    let lanes := max 1 (s.modeLanes p).length
    let next := g.nextLane % lanes
    let sends (t : State) (b : List Byte) : Prop := (t.port p).nextLane = (next + 1) % lanes ∧
      ∃ es, t.out = s.out ++ .cell p ((s.modeLanes p).getD next 0) b :: es ∧
        ∀ e, e ∈ es → ∃ pam n v, e = .lane p ((s.modeLanes p).getD next 0) pam n v
    let credit := s.rf .lnkPPeerDepth 15 0 p = 0 ∨ (g.txSeq + (2 ^ 16 - g.next)) % 2 ^ 16 < s.rf .lnkPPeerDepth 15 0 p
    let ready := g.readyCells s.now
    (live → used → valid → s.does (.alignmentMarkerRx p k bs skew) fun t => t.port p = { g with lanes := lane good } ∧
      t.portState p = if st = 3 ∧ (∀ j, j ∈ s.modeLanes p → ((t.port p).lane j).locked = true ∧
        ∀ i, i ∈ s.modeLanes p → ((t.port p).lane j).skew ≤ ((t.port p).lane i).skew + 32) then 4 else st) ∧
    (¬valid → exec (.alignmentMarkerRx p k bs skew) s = exec (.alignmentMarkerMissing p k) s) ∧
    (live → used → x.locked = false ∨ x.amBad < 2 → s.does (.alignmentMarkerMissing p k) fun t =>
      t = s.setPort p { g with lanes := lane bad }) ∧
    (st = 5 → used → x.locked = true → 2 ≤ x.amBad → s.does (.alignmentMarkerMissing p k) fun t => again t 1) ∧
    (live → fec = true → errors.val ≤ 15 → codeword fun t => t = s.bump .lnkPFecCe p k 0 errors.val) ∧
    (live → fec = true → 15 < errors.val → wrong = true → codeword fun t => ∃ v, v < 16 ∧
      t = { s.bump .lnkPFecCe p k 0 v with free := t.free }) ∧
    (live → fec = true → 15 < errors.val → wrong = false → g.ucw.length = 4 → seen.length < limit ∨ st ≠ 5 → codeword fun t =>
      t.rd .lnkPFecUe p k = countWord (s.rd .lnkPFecUe p k) 1 ∧ count t 6 cells ∧ (t.port p).ucw.getD k [] = seen ++ [s.now] ∧
        t.portState p = st) ∧
    (st = 5 → fec = true → 15 < errors.val → wrong = false → limit ≤ seen.length → codeword fun t =>
      t.rd .lnkPFecUe p k = countWord (s.rd .lnkPFecUe p k) 1 ∧ count t 6 cells ∧ again t 2) ∧
    (¬live ∨ fec = false → codeword fun t => t = s) ∧
    (st = 4 ∨ st = 5 → s.does (.cellCrcFailRx p true) fun t => t = s.portCount p 9 1) ∧
    (st = 4 ∨ st = 5 → fec = true → s.does (.cellCrcFailRx p false) fun t => t = s.portCount p 5 1) ∧
    (st = 4 ∨ st = 5 → fec = false → fails.length < limit ∨ st ≠ 5 → s.does (.cellCrcFailRx p false) fun t => count t 5 1 ∧
      (t.port p).crcBad = fails ++ [s.now] ∧ t.portState p = st) ∧
    (st = 5 → fec = false → limit ≤ fails.length → s.does (.cellCrcFailRx p false) fun t => count t 5 1 ∧ again t 2) ∧
    (st ≠ 4 → st ≠ 5 → exec (.cellCrcFailRx p badType) s = .next s) ∧
    (st = 5 → s.rf .lnkPPeerDepth 15 0 p ≠ 0 → s.does (.creditTimeout p) fun t => again t 3) ∧
    (s.rf .lnkPPeerDepth 15 0 p = 0 → exec (.creditTimeout p) s = .next s) ∧
    (st = 5 → s.does (.reneg p) fun t => again t 4) ∧
    (st ≠ 5 → exec (.reneg p) s = .next s ∧ exec (.creditSendTimer p) s = .next s) ∧
    (st = 5 → s.does (.creditSendTimer p) fun t =>
      t = s.setPort p { g with credit := g.credit ++ [creditCell g.rxSeq], freed := g.rxSeq }) ∧
    (st = 4 → clear → s.does (.capSendTimer p) fun t =>
      (∃ v, v < 2 ^ 16 ∧ .cell p ((s.modeLanes p).getD next 0) ((s.capCell p g.capHeld false).bytes v) ∈ t.out) ∧
      (t.port p).okSent = (g.okSent || g.capHeld) ∧
      t.portState p = if (g.okSent = true ∨ g.capHeld = true) ∧ g.okGot = true then 5 else 4) ∧
    (st ≠ 4 → exec (.capSendTimer p) s = .next s) ∧
    (st = 0 ∨ 5 < st ∨ ((st = 1 ∨ st = 2) ∧ g.rate = 0) → slot fun t => t = s) ∧
    (st = 1 ∨ st = 2 → g.rate ≠ 0 → s.scanned = false → slot fun t => t.ports = s.ports ∧ ∃ es, t.out = s.out ++ es ∧
      es.length = g.mask.length ∧ ∀ (i j : Nat), g.mask[i]? = some j → ∃ v : Nat, es[i]? = some
        (OutEvent.training p j (g.lane j).own (BitVec.ofNat 32 (g.statusWord j)) (decide (2 ≤ g.rate)) v)) ∧
    (st = 3 → s.scanned = false → slot fun t => sends t (idleCell.bytes 0)) ∧
    (st = 4 ∨ st = 5 → s.scanned = false → g.held.find? (fun h => h.1 == 0) = some h → slot fun t => sends t h.2 ∧
      (t.port p).held = g.held.filter (fun y => y != h)) ∧
    (st = 4 ∨ st = 5 → clear → free → g.credit = c :: rest → slot fun t => sends t (c.bytes 0) ∧ (t.port p).credit = rest ∧
      (t.port p).txSeq = g.txSeq) ∧
    (st = 5 → clear → free → g.credit = [] → g.headSeq s.now = some c → credit → slot fun t => sends t (c.bytes g.txSeq) ∧
      (t.port p).txSeq = (g.txSeq + 1) % 2 ^ 16 ∧ (t.port p).cap = g.popSeq.cap ∧ (t.port p).pixels = g.popSeq.pixels) ∧
    (st = 5 → free → s.scanned = false → g.credit = [] → g.headSeq s.now = some c → ¬credit → slot fun t => sends t (idleCell.bytes 0) ∧
      (t.port p).starved = max g.starved ready ∧ count t 3 (ready - g.starved)) ∧
    (st = 4 ∨ st = 5 → free → s.scanned = false → g.credit = [] → g.headSeq s.now = none → slot fun t => sends t (idleCell.bytes 0) ∧
      t.port p = { g with nextLane := (t.port p).nextLane, tx := (t.port p).tx }) ∧
    (st = 5 → free → s.scanned = false → g.credit = [] → g.headSeq s.now = some c → credit → s.rf .lnkPMasqCtrl 2 0 p = 1 →
      s.rb .lnkPMasqCtrl 20 p = false → s.masqCandidate p c = true → s.masqSpent p = false →
      s.rf .lnkPMasqPeriod 23 0 p ≤ g.masqCount + 1 → slot fun t =>
        t.rf .lnkPMasqStatus 15 0 p = min (s.rf .lnkPMasqStatus 15 0 p + 1) 0xFFFF ∧ (t.port p).txSeq = (g.txSeq + 1) % 2 ^ 16 ∧
        (t.port p).masqCount = 0 ∧ ∀ j b, .cell p j b ∈ t.out → .cell p j b ∈ s.out ∨ b = idleCell.bytes 0)

/-- R13, R40, R158, R160, R161, R247, R259 to R264, R269: an idle cell is discarded; a cell that carries SEQ is taken by an Active port in
order, counted as stale when behind, and as a gap when ahead; then audio and what nothing uses is counted, route cells are
discarded, frame starts and repeats tell the importing planes, a fence reaches the follower group that it names, pixels join their line and an
ended line is in the ring; a capability cell completes Exchange or fails it; a credit advances NEXT.
The model's: log entries 4, 13, 61, 62 and 124. -/
def Obligations.LinkCells : Prop :=
  ∀ (s : State) (p : Fin 8) (seq : BitVec 16) (c : PixelCell) (cap : CapFields) (beam n g : Fin 16) (k : Fin 3) (repeated : Bool) (lines : Fin 8193)
    (epoch : Word) (next : BitVec 16) (l : RxLine),
    let st := s.portState p
    let x := s.port p
    let d := (seq.toNat + 2 ^ 16 - x.rxSeq) % 2 ^ 16
    let carried : List Instr := [.cellPixelRx p seq c, .cellAudioRx p seq, .cellFrameStartRx p seq beam repeated lines, .cellRepeatRx p seq beam,
      .cellFenceRx p seq g epoch, .cellRouteRx p seq, .cellCapRx p seq cap]
    let counted (t : State) (j n : Nat) : Prop := t.rd .lnkPCount p j = countWord (s.rd .lnkPCount p j) n
    let next_ := (seq.toNat + 1) % 2 ^ 16
    let takes (i : Instr) (q : State → Prop) : Prop := st = 5 → d = 0 → s.does i fun t => (t.port p).rxSeq = next_ ∧ q t
    let unused (t : State) : Prop := counted t 10 1 ∧ t.beams = s.beams
    let used (b : Fin 16) : Prop := (n.val, k.val) ∈ s.importers p b
    let ip (t : State) : ImportPlane := vget (t.beam n).imports k {}
    let follows := s.rb .sysCgCtrl 0 g = true ∧ s.rb .sysCgCtrl 1 g = true ∧ s.rb .sysCgCtrl (2 + p.val) g = true
    let fence : Word := match (s.grp g).fence with | none => epoch | some e => if newer epoch e = true then epoch else e
    let px := unpackPixels c.depth c.ycc (leNat (padTo 240 c.payload)) c.count
    let line (t : State) : Option RxLine := (t.port p).rxLines.find? (fun l => l.beam == c.beam.val)
    let b := s.beam n
    let slot := c.line.val % b.cf .bmpImp 26 13 n k
    let a := b.cf .bmpBaseY 27 0 n k * 256 + slot * (b.cf .bmpPitch 11 0 n k * 256)
    let whole := (l.pixels ++ px).take (b.cf .bmpSize 13 0 n k + 1)
    let fits := s.writableAt a (8 * whole.length)
    let peer := cap.formats.toNat + cap.audio.toNat % 64 * 2 ^ 6 + cap.flags.toNat % 4 * 2 ^ 12
    s.does (.cellIdleRx p) (fun t => t = s) ∧
    (st = 5 → 32768 ≤ d → ∀ i, i ∈ carried → s.does i fun t => t = s.portCount p 8 1) ∧
    (st ≠ 4 → st ≠ 5 → ∀ i, i ∈ carried → s.does i fun t => t = s) ∧
    (st = 5 → 0 < d → d < 32768 → s.does (.cellRouteRx p seq) fun t => counted t 7 d ∧ (t.port p).rxSeq = next_ ∧
      ∀ y, y ∈ (t.port p).rxLines → y.next = brokenIdx) ∧
    takes (.cellRouteRx p seq) (fun t => t.regs = s.regs ∧ t.beams = s.beams ∧
      (64 ≤ (next_ + 2 ^ 16 - x.freed) % 2 ^ 16 → (t.port p).credit = x.credit ++ [creditCell next_] ∧ (t.port p).freed = next_)) ∧
    takes (.cellAudioRx p seq) unused ∧
    (s.rf .lnkPRxCtrl 3 0 p ≠ beam.val → takes (.cellFrameStartRx p seq beam true lines) unused) ∧
    (used beam → (ip s).repeating = true → takes (.cellFrameStartRx p seq beam false lines) fun t =>
      (ip t).repeating = false ∧ (ip t).slots = (ip s).slots ∧ t.rb .bmpImpStatus 17 n k = true) ∧
    (s.importers p beam = [] → takes (.cellRepeatRx p seq beam) unused) ∧
    (used beam → takes (.cellRepeatRx p seq beam) fun t => (ip t).repeating = true ∧ t.rb .bmpImpStatus 16 n k = true ∧
      ∀ y, y ∈ (ip t).slots → y.2.used = none) ∧
    (¬follows → takes (.cellFenceRx p seq g epoch) unused) ∧
    (follows → takes (.cellFenceRx p seq g epoch) fun t => (t.grp g).fence = some fence ∧
      ((s.grp g).want = true → (s.grp g).moving = false → fence = s.rd .sysCgEpoch g → (t.grp g).ready = some fence)) ∧
    (s.importers p c.beam = [] → takes (.cellPixelRx p seq c) unused) ∧
    (used c.beam → c.cidx.val = 0 → c.eol = false → line s = none → takes (.cellPixelRx p seq c) fun t =>
      line t = some ⟨c.beam, c.line, 1, c.epochLo.toNat, px⟩) ∧
    (used c.beam → c.cidx.val ≠ 0 → line s = some l → l.line = c.line.val → l.epochLo = c.epochLo.toNat → l.next = c.cidx.val →
      c.eol = false → takes (.cellPixelRx p seq c) fun t => line t = some { l with next := c.cidx.val + 1, pixels := l.pixels ++ px }) ∧
    (s.importers p c.beam = [(n.val, k.val)] → c.cidx.val ≠ 0 → line s = some l → l.line = c.line.val → l.epochLo = c.epochLo.toNat →
      l.next = c.cidx.val → c.eol = true → fits → takes (.cellPixelRx p seq c) fun t => line t = none ∧
        kvGet slot (ip t).slots = some ⟨c.line, c.epochLo.toNat, whole.length, none⟩ ∧ t.rb .bmpImpStatus 16 n k = true ∧
        ∀ y, y < 0xC00000000 → memGet t.store.mem y =
          if a ≤ y ∧ y < a + 8 * whole.length then (whole.flatMap ringBytes).getD (y - a) 0 else memGet s.store.mem y) ∧
    (st = 4 → s.capMatches p cap = true → s.does (.cellCapRx p seq cap) fun t => t.rd .lnkPPeer p = BitVec.ofNat 32 peer ∧
      t.rf .lnkPPeerDepth 15 0 p = cap.depth.toNat ∧ (t.port p).capHeld = true ∧
      t.portState p = if x.okSent = true ∧ (x.okGot = true ∨ cap.flags.getLsbD 2 = true) then 5 else 4) ∧
    (st = 4 → s.capMatches p cap = false → s.does (.cellCapRx p seq cap) fun t => t.portState p = 6 ∧ t.rf .lnkPStatus 15 13 p = 5) ∧
    (cap.flags.getLsbD 3 = false → takes (.cellCapRx p seq cap) fun t => t.regs = s.regs) ∧
    (st = 5 → (next.toNat + 2 ^ 16 - x.next) % 2 ^ 16 < 32768 → s.does (.cellCreditRx p next) fun t =>
      t = s.setPort p { x with next := next.toNat, gotCredit := true }) ∧
    (st ≠ 5 → exec (.cellCreditRx p next) s = .next s) ∧
    s.does (.arrivingLapse n k) (fun t => t.rb .bmpImpStatus 16 n k = false ∧ ∀ y, y ≠ addrOf .bmpImpStatus n k 0 → t.getW y = s.getW y)

/-- R272, R273, R280, R281, R283 to R286, R288, R290 to R292: at a sample boundary the count advances, the last frame goes to the TDM
ports, due voice events and swaps take effect, and a frame is computed, silent where nothing is routed; a pushed record or sample
waits in its queue or is lost with its mark; a written crosspoint crossfades from its old word, a written gain keeps the value in
use, and waits no longer than its time; a TDM port sends the next frame, or silence with a slip, as slot words and as the levels of
its pins, the data of an I²S port one bit clock behind the frame sync; a frame of too few bit clocks is counted.
The model's: log entries 4, 65 and 67. -/
def Obligations.Audio : Prop :=
  ∀ (s : State) (late : List (Fin 1024 × Fin 4294967296)) (lateBuses : List (Fin 64)) (f : List Int) (rest : List (List Int)) (g : Fin 16)
    (feed : Fin 8) (x : Fin 2048) (w : Word) (v : Fin 1024) (b : Fin 64) (set i : Fin 2) (gain : Fin 1152) (a : Fin 4) (clocks : BitVec 10)
    (r : Rec4) (y : AudGain) (to_ : Nat),
    let on := s.rb .audCtrl 0 = true ∧ s.mode ≠ 4
    let tdm := (kvGet a.val s.aud.tdm).getD []
    let fifo := (kvGet feed.val s.aud.feeds).getD []
    let same (t : State) (a : Nat) : Prop := ∀ z, z ≠ a → t.getW z = s.getW z
    let ctrl := s.rd .audTdmCtrl a
    let silent := s.aud.xpDirty = [] ∧ s.aud.fades = [] ∧ ∀ x, x < 2048 → fld (s.rd .audXp x) 31 18 = 0
    let staged : Rec4 := ⟨s.rd .audVeqW g 0, s.rd .audVeqW g 1, s.rd .audVeqW g 2, 0⟩
    let slots (f : List Int) : List Word := (List.range (fld ctrl 4 1 + 1)).map fun k =>
      BitVec.ofNat 32 ((f.getD ((fld ctrl 21 16 + k) % 64) 0 % 2 ^ 32).toNat / 2 ^ (32 - (16 + 8 * fld ctrl 6 5)))
    let width := 16 + 8 * fld ctrl 6 5
    let need := (fld ctrl 4 1 + 1) * width
    let bits (f : List Int) : List Bool := (slots f).flatMap fun x => (List.range width).map fun i => x.getLsbD (width - 1 - i)
    let last := (kvGet a.val s.aud.tdmLast).getD false
    let sync : List (Option Bool) := (List.range need).map fun i => if bit ctrl 7 = true then some (decide (need / 2 ≤ i))
      else if i = 0 then some (!bit ctrl 10) else if i + 1 = need then some (bit ctrl 10) else none
    let sends (t : State) (f : List Int) : Prop :=
      t.out = s.out ++ [.tdm a (slots f), .tdmPins a (bit ctrl 9) (if bit ctrl 7 = true then last :: (bits f).dropLast else bits f) sync] ∧
      (kvGet a.val t.aud.tdmLast).getD false = if bit ctrl 7 = true then ((bits f).getLast?).getD false else last
    let waited := (s.now + 2 ^ 64 - y.since % 2 ^ 64) % 2 ^ 64
    let master := bit ctrl 0 = true ∧ bit ctrl 8 = true ∧ s.mode ≠ 4 ∧ s.scanned = false
    let voice := fld r.w0 25 16
    (¬on → exec (.audioSampleBoundary late lateBuses) s = .next s) ∧
    (on → s.does (.audioSampleBoundary late lateBuses) fun t => t.rd .audSample = s.rd .audSample + 1 ∧ t.aud.swaps = 0 ∧
      (∀ b, b < 64 → t.rb .audBusLive (b % 32) (b / 32) = (s.rb .audBusLive (b % 32) (b / 32) ^^ s.aud.swaps.getLsbD b)) ∧
      (silent → t.aud.frame = some (List.replicate 64 0)) ∧
      (s.aud.frame = some f → s.rb .audTdmCtrl 0 a = true → tdm.length < 16 → kvGet a.val t.aud.tdm = some (tdm ++ [f])) ∧
      (s.aud.frame = some f → s.rb .audTdmCtrl 0 a = true → 16 ≤ tdm.length → kvGet a.val t.aud.tdm = kvGet a.val s.aud.tdm ∧
        t.rd .audTdmSlip a = countWord (s.rd .audTdmSlip a) 1) ∧
      (s.queue (276 + g.val) = [r] → bit r.w0 8 = false → fld r.w0 7 0 = 3 → voice / 64 = g.val → 0x2000 ≤ r.w2.toNat →
        r.w2.toNat ≤ 0x80000 → t.rf .audV4 19 0 voice = r.w2.toNat ∧ t.queue (276 + g.val) = [])) ∧
    (s.rf .audStatus 1 0 = 1 ∨ s.rf .audStatus 1 0 = 2 → s.does .audRefLost fun t => t.rf .audStatus 1 0 = 3 ∧ t.aud = s.aud) ∧
    (s.rf .audStatus 1 0 ≠ 1 → s.rf .audStatus 1 0 ≠ 2 → exec .audRefLost s = .next s) ∧
    (s.rb .audVeqW 15 g 0 = true → s.canPush (276 + g.val) = true → s.does (.veqPush g 0) fun t =>
      t.queue (276 + g.val) = s.queue (276 + g.val) ++ [staged]) ∧
    (s.rb .audVeqW 15 g 0 = true → s.canPush (276 + g.val) = false → s.does (.veqPush g 0) fun t =>
      t.queue (276 + g.val) = s.queue (276 + g.val) ∧ t.rb .audVeqStatus 16 g = true) ∧
    (s.rb .audVeqW 15 g 0 = false → s.does (.veqPush g 0) fun t => t.rd .audVevBad = countWord (s.rd .audVevBad) 1 ∧ t.evt = s.evt) ∧
    (w ≠ 0 → s.does (.veqPush g w) fun t => t = s.reject (addrOf .audVeqW g 3 0)) ∧
    (fifo.length < 4096 → s.does (.feedPush feed w) fun t => kvGet feed.val t.aud.feeds = some (fifo ++ [w]) ∧ t.regs = s.regs) ∧
    (4096 ≤ fifo.length → s.does (.feedPush feed w) fun t => t.rb .audFeedStatus 14 feed = true ∧ t.aud = s.aud) ∧
    (wordOk .audXp 0 w = true → s.does (.crosspointWrite x w) fun t => t.rd .audXp x = w ∧
      kvGet x.val t.aud.xpDirty = some ((kvGet x.val s.aud.xpDirty).getD (s.rd .audXp x)) ∧
      (kvGet x.val s.aud.fades = none → same t (addrOf .audXp x 0 0))) ∧
    (wordOk .audXp 0 w = false → s.does (.crosspointWrite x w) fun t => t = s.reject (addrOf .audXp x 0 0)) ∧
    (wordOk .audV5 0 w = true → s.does (.gainChange (.voice v) w) fun t => t.rd .audV5 v = w ∧ same t (addrOf .audV5 v 0 0) ∧
      kvGet v.val t.aud.gains = some ((kvGet v.val s.aud.gains).getD { cur := ((s.rf .audV5 13 0 v : Nat), 0) })) ∧
    (s.liveSet b = set.val * 64 + b.val → s.does (.gainChange (.bus b set) w) fun t =>
      t = s.reject (addrOf .audBusGain (set.val * 64 + b.val) 0 0)) ∧
    (s.liveSet b ≠ set.val * 64 + b.val → wordOk .audBusGain 0 w = true → s.does (.gainChange (.bus b set) w) fun t =>
      t.rd .audBusGain (set.val * 64 + b.val) = w ∧ t.aud = s.aud) ∧
    (kvGet gain.val s.aud.gains = some y → y.wait = some to_ → s.rf .audCtrl 15 8 * 1000000 ≤ waited → s.does (.zcTimeout gain) fun t =>
      kvGet gain.val t.aud.gains = some { cur := y.cur, ramp := some (y.cur, to_, 0) } ∧ t.regs = s.regs) ∧
    (kvGet gain.val s.aud.gains = none ∨ (kvGet gain.val s.aud.gains = some y ∧ (y.wait = none ∨ waited < s.rf .audCtrl 15 8 * 1000000)) →
      exec (.zcTimeout gain) s = .next s) ∧
    s.does (.busSwap i w) (fun t => t.regs = s.regs ∧ ∀ j, j < 64 →
      t.aud.swaps.getLsbD j = (s.aud.swaps.getLsbD j || (j / 32 == i.val && w.getLsbD (j % 32)))) ∧
    (bit ctrl 0 = false ∨ s.mode = 4 → exec (.tdmFrameStart a clocks) s = .next s) ∧
    (master → s.rb .audCtrl 0 = false → s.does (.tdmFrameStart a clocks) fun t => sends t [] ∧ t.regs = s.regs) ∧
    (master → s.rb .audCtrl 0 = true → tdm = f :: rest → s.does (.tdmFrameStart a clocks) fun t => sends t f ∧
      (kvGet a.val t.aud.tdm).getD [] = rest) ∧
    (master → s.rb .audCtrl 0 = true → tdm = [] → s.does (.tdmFrameStart a clocks) fun t => sends t [] ∧
      t.rd .audTdmSlip a = countWord (s.rd .audTdmSlip a) 1) ∧
    (bit ctrl 0 = true → bit ctrl 8 = false → s.mode ≠ 4 → s.does (.tdmFrameStart a clocks) fun t => t.rd .audTdmFrameErr a =
      if clocks.toNat < need then countWord (s.rd .audTdmFrameErr a) 1 else s.rd .audTdmFrameErr a)

/-- R296, R298, R300 to R305, R308: the lowest-numbered idle engine takes the oldest blit, checks it, and runs, waits for its line or
stages its source; a row of a fill holds the fill pixel and a row of a copy the source's pixels, and no other byte changes; after
the last row the blit completes; a direct blit is accepted or recorded in BLT_REJECT.
The model's: log entries 4 and 69. -/
def Obligations.Blits : Prop :=
  ∀ (s : State) (k : Fin 4) (j : Blit) (rest : List Blit) (st r i : Nat),
    let d := j.desc
    let e := s.eng k
    let w := bltWidth d
    let row := s.rf .bltEProgress 16 0 k
    let stages := bltMeets d = true ∧ bltSrcPitch d ≠ bltDstPitch d
    let takes (p : State → Prop) : Prop := s.blt.queue = j :: rest → s.asleep = false → s.rf .pwrStatus 1 0 = 0 → e.job = none →
      s.rb .bltCtrl k = true → (∀ m, m < k.val → (s.eng m).job ≠ none ∨ s.rb .bltCtrl m = false) →
      s.does .blitDispatch fun t => t.blt.queue = rest ∧ p t
    let good := s.bltCheck d = (0, none)
    let runs (t : State) (job : Engine) (state : Nat) : Prop := t.eng k = job ∧ t.engState k = state
    let visible (p : State → Prop) : Prop := e.job = some j → s.engState k = 2 → row < bltHeight d → s.does (.blitRowVisible k) fun t =>
      t.rf .bltEProgress 16 0 k = row + 1 ∧ p t
    let ends := e.job = some j ∧ s.engState k = 2 ∧ row = bltHeight d
    let dz := bltSize (bltDstFmt d)
    let to_ := bltDst d + row * bltDstPitch d
    let at_ := bltSrc d + row * bltSrcPitch d
    let stage := s.rf .bltStageBase 19 0 * 65536 + k.val * (s.rf .bltStageSize 15 0 * 65536 / 4)
    let len := w * bltSize (bltSrcFmt d)
    takes (fun t => good → bltSync d = false → ¬stages → runs t { job := some j } 2 ∧ t.rf .bltEProgress 16 0 k = 0) ∧
    takes (fun t => good → bltSync d = false → stages → runs t { job := some j, staged := true } 3) ∧
    takes (fun t => good → bltSync d = true → runs t { job := some j } 1) ∧
    takes (fun t => j.ring = none → s.bltCheck d = (st, none) → 2 ≤ st → runs t {} 0 ∧ t.rd .bltDirectStatus = BitVec.ofNat 32 st) ∧
    (s.blt.queue = [] ∨ s.asleep = true → exec .blitDispatch s = .next s) ∧
    (e.job = some j → s.engState k = 1 → e.seen = true → ¬stages → s.does (.blitSyncStart k) fun t => runs t { e with staged := false } 2) ∧
    (e.seen = false ∨ e.job = none → exec (.blitSyncStart k) s = .next s) ∧
    (e.job = some j → s.engState k = 3 → s.does (.blitStageDone k) fun t => runs t e 2 ∧
      (bltHeight d = 1 → s.cleanAt (bltSrc d) len → s.writableAt stage len →
        s.stores t stage (memBytes s.store.mem (bltSrc d) len))) ∧
    (e.job = none ∨ s.engState k ≠ 3 → exec (.blitStageDone k) s = .next s) ∧
    visible (fun t => bltOp d = 0 → s.writableAt to_ (w * dz) →
      s.stores t to_ (List.replicate w (bytesLE dz (descField d 48 8))).flatten) ∧
    visible (fun t => bltOp d = 1 → bltSrcFmt d = bltDstFmt d → bltMeets d = false → e.staged = false → e.saved = [] →
      s.cleanAt at_ (w * dz) → s.writableAt to_ (w * dz) → s.stores t to_ (memBytes s.store.mem at_ (w * dz))) ∧
    (e.job = none ∨ s.engState k ≠ 2 → exec (.blitRowVisible k) s = .next s ∧ exec (.blitComplete k) s = .next s) ∧
    (ends → j.ring = some (r, i) → r < 64 → s.canPost r → s.does (.blitComplete k) fun t => s.posts t r i d 0 0 0 ∧ runs t {} 0) ∧
    (ends → j.ring = none → s.does (.blitComplete k) fun t => t.rd .bltDirectStatus = 0 ∧ runs t {} 0) ∧
    (s.mode = 4 ∨ s.rb .bltDirectStatus 8 = true ∨ 32 ≤ s.blt.queue.length → s.does .bltDirectGo fun t =>
      t = s.reject (addrOf .bltDirectCtrl 0 0 0)) ∧
    (s.mode ≠ 4 → s.rb .bltDirectStatus 8 = false → s.blt.queue.length < 32 → s.does .bltDirectGo fun t => t.rb .bltDirectStatus 8 = true ∧
      t.blt.queue = s.blt.queue ++ [⟨List.replicate 8 0 ++ (List.range 14).flatMap (fun i => bytesLE 4 (s.rd .bltDirect i).toNat), none⟩])

/-- R310 to R312, R314, R317 to R319: GO starts an idle channel at its program, with its records cleared and its first lines asked for;
STOP ends a program at the next boundary, which comes for a MOVE with the last read of its block; a line that arrives is held, and one
that fails, or was asked for without Bus Master Enable, ends the program when it is needed; a JUMP, a LOOP, a WAIT and a SIGNAL move
execution on as their fields say, and execution that does not move forward reads its lines anew; a TIME wait ends when its time has
passed, across the wrap of the time base; END completes a program whose blocks and signals are done with its
status, and waits for them else.
The model's: log entries 4, 70, 71 and 115. -/
def Obligations.DmaPrograms : Prop :=
  ∀ (s : State) (c : Fin 64) (d bs dd : List Byte) (i : Fin 4) (l r j start ns : Nat) (k : DmaBlock) (refused : Bool)
    (data : Option (List Byte)),
    let x := s.chan c
    let op (n : Nat) : Prop := s.dmaAt c n = some d
    let free (y : DmaChan) : Prop := y.fetched = none ∨ ∃ e, y.fetched = some (some e) ∧ y.badByte e = none
    let goes (i : Instr) (y : DmaChan) (q : State → Prop) : Prop := free y → s.does i fun t =>
      (t.chan c).active = true ∧ (t.chan c).ending = none ∧ (t.chan c).pc = y.pc ∧ (t.chan c).loops = y.loops ∧
      (t.chan c).wait = y.wait ∧ (t.chan c).blocks = y.blocks ∧ (t.chan c).signals = y.signals ∧ q t
    let moved (pc : Int) (loops : List DmaLoop) : DmaChan := { x with pc, loops, lines := if pc ≤ x.pc then [] else x.lines }
    let after (last : Int) : DmaChan := moved (dmaNext last x.loops).1 (dmaNext last x.loops).2
    let passed := (s.now + 2 ^ 64 - start % 2 ^ 64) % 2 ^ 64
    let holds (w : DmaWait) : Prop := s.does (.dmaWait c) fun t => t.chan c = { after x.pc with wait := some w }
    let target := descField d 4 4
    let jump : Int := if target < 2 ^ 31 then target else (target : Int) - 2 ^ 32
    let step (o : Nat) : Int := if descField d o 8 < 2 ^ 63 then descField d o 8 else (descField d o 8 : Int) - 2 ^ 64
    let body := descField d 1 1
    let kind := descField d 1 1
    let beam := descField d 2 1
    let line := descField d 4 2
    let past := (s.beam beam).run = .stopped ∨ (s.beam beam).cf .beamTotal 30 16 beam ≤ line
    let idle := x.blocks = [] ∧ x.signals = []
    let sig : DmaSignal := ⟨if x.next = 0 then none else some (x.next - 1), x.lastBad, body.testBit 0, body.testBit 1, body.testBit 2,
      BitVec.ofNat 32 target, descField d 8 8⟩
    let tag := (if x.next = 0 then 0xFFFFFFFF else x.next - 1) % 2 ^ 32
    let bad := s.rd .dmaChBad c ≠ 0
    let code := if bad then 0x0B else 0
    let base := s.addr64 .dmaChProgLo .dmaChProgHi c
    let first := (List.range 4).map fun i => (base / 64 + i) % 2 ^ 58
    let held : DmaChan := { x with fetching := x.fetching.filter (·.1 ≠ l), lines := kvSet l (some (padTo 64 bs)) x.lines }
    (x.active = false → s.asleep = false → s.does (.dmaGo c) fun t =>
      t.chan c = { active := true, host := s.rb .dmaChCtrl 2 c, prog := base,
                    fetching := first.map (·, s.rb .dmaChCtrl 2 c && !s.pci.busMaster) } ∧ t.rd .dmaChBlock c = 0 ∧
      t.rd .dmaChBad c = 0 ∧ t.rd .dmaChErr c = 0 ∧
      (s.rb .dmaChCtrl 2 c = true → s.pci.busMaster = true → s.scanned = false →
        t.out = s.out ++ first.map fun l => .hostRead (BitVec.ofNat 64 (l * 64)) 64)) ∧
    (x.active = true → s.does (.dmaGo c) fun t => t.dma = s.dma ∧ t.rd .dmaReject = BitVec.ofNat 32 (addrOf .dmaChCtrl c 0 0 + 2 ^ 31)) ∧
    (x.active = true → x.ending = none → idle → x.ring = none → s.does (.dmaStop c) fun t => t.chan c = {} ∧
      t.rb .dmaChStatus 11 c = true ∧ t.rf .dmaChStatus 10 3 c = code) ∧
    (x.active = true → x.ending = none → x.issuing = true → (∀ k, k ∈ x.blocks → k.reqs ≠ []) → x.signals = [] → s.does (.dmaStop c) fun t =>
      t.chan c = { x with stop := true, wait := none }) ∧
    (x.active = false → s.does (.dmaStop c) fun t => t.dma = s.dma ∧ t.rd .dmaChStatus c = s.rd .dmaChStatus c) ∧
    (x.fetching[i.val]? = some (l, false) → l ∈ x.wanted → x.stop = false → free held → x.host = true →
      s.does (.dmaProgFetchDone c i (some bs)) fun t => kvGet l (t.chan c).lines = some (some (padTo 64 bs)) ∧ (t.chan c).pc = x.pc) ∧
    (x.fetching[i.val]? = some (l, refused) → refused = true ∨ data = none → l = x.line x.pc → x.boundary = true → x.stop = false → s.asleep = false → idle → x.ring = none →
      x.host = true → s.does (.dmaProgFetchDone c i data) fun t => t.chan c = {} ∧ t.rf .dmaChStatus 10 3 c = 6) ∧
    (x.fetching[i.val]? = none → exec (.dmaProgFetchDone c i data) s = .next s) ∧
    (op 5 → goes (.dmaJump c) (moved (x.pc + 1 + jump) x.loops) fun t => t.regs = s.regs) ∧
    (op 2 → target = 0 → goes (.dmaLoop c) (after (x.pc + body)) fun t => t.regs = s.regs) ∧
    (op 2 → target ≠ 0 → goes (.dmaLoop c) { x with
      pc := x.pc + 1, loops := ⟨x.pc + 1, x.pc + body, target, 0, step 8, step 16⟩ :: x.loops } fun t => t.regs = s.regs) ∧
    (op 3 → kind = 0 → idle → goes (.dmaWait c) (after x.pc) fun t => t.regs = s.regs) ∧
    (op 3 → kind = 0 → ¬idle → holds .drain) ∧
    (op 3 → kind = 1 → past → goes (.dmaWait c) (after x.pc) fun t => t.rb .dmaChStatus 12 c = true) ∧
    (op 3 → kind = 1 → ¬past → holds (.line beam line)) ∧
    (op 3 → kind = 2 → descField d 8 8 = 0 → goes (.dmaWait c) (after x.pc) fun t => t.regs = s.regs) ∧
    (op 3 → kind = 2 → descField d 8 8 ≠ 0 → holds (.time s.now (descField d 8 8))) ∧
    (x.wait = some (.time start ns) → ns ≤ passed → x.active = true → x.ending = none → x.stop = false →
      goes (.dmaWaitTimeExpiry c) { x with wait := none } fun t => t.regs = s.regs) ∧
    (x.wait = some (.time start ns) → passed < ns → exec (.dmaWaitTimeExpiry c) s = .next s) ∧
    (op 4 → idle → body.testBit 1 = false → goes (.dmaSignal c) (after x.pc) fun t =>
      t.rd .dmaChSigLast c = BitVec.ofNat 32 (tag % 2 ^ 31 + x.lastBad.toNat * 2 ^ 31)) ∧
    (op 4 → idle → body.testBit 1 = true → body.testBit 2 = true → s.pci.busMaster = true → s.scanned = false →
      goes (.dmaSignal c) (after x.pc) fun t => .hostWrite (BitVec.ofNat 64 (descField d 8 8))
        (bytesLE 4 target ++ bytesLE 4 tag ++ [BitVec.ofNat 8 x.lastBad.toNat] ++ List.replicate 7 0) s.pci.relaxed ∈ t.out) ∧
    (op 4 → x.blocks = [k] → k.reqs ≠ [] → x.next = k.num + 1 → x.signals = [] →
      goes (.dmaSignal c) { after x.pc with signals := [sig] } fun t => t.regs = s.regs ∧ t.store = s.store) ∧
    (op 6 → idle → x.ring = none → s.does (.dmaEnd c) fun t => t.chan c = {} ∧ t.rf .dmaChStatus 10 3 c = code) ∧
    (op 6 → idle → x.ring = some (r, j, dd) → r < 64 → s.canPost r → s.does (.dmaEnd c) fun t => t.chan c = {} ∧
      s.posts t r j dd code (if bad then (s.rd .dmaChBadFirst c).toNat else 0) 0) ∧
    (op 6 → x.blocks = [k] → k.reqs ≠ [] → x.signals = [] → s.does (.dmaEnd c) fun t =>
      t.chan c = { x with ending := some (0, 0), wait := none, fetching := [] })

/-- R313, R315, R316: a MOVE begins the next block and asks for its source in pieces of a line of the pattern store, or of a block of
the read request size; not while Scarce outside Recovery, nor as a fifth block; a device range outside one row is an error of the
block. A response writes exactly its bytes at the block's destination, to the host in writes of at most the Maximum Payload Size; a failed
one, and one to a read made without Bus Master Enable, marks the block BAD.
The model's: log entries 4, 70, 71, 77, 107 and 121. -/
def Obligations.DmaData : Prop :=
  ∀ (s : State) (c : Fin 64) (d bs : List Byte) (k : DmaBlock) (off len : Nat) (refused : Bool) (data : Option (List Byte)),
    let x := s.chan c
    let op := s.dmaAt c 1 = some d
    let ss := descField d 1 1 % 4
    let ds := descField d 1 1 / 4
    let n := descField d 4 4
    let src := x.src d
    let dst := x.dst d
    let unit := if ss = 0 then 64 else s.pci.readSize
    let block (reqs : List DmaReq) (next : Nat) : DmaBlock := ⟨x.next, ss, ds, src, dst, n, next, reqs, false⟩
    let pc := (dmaNext x.pc x.loops).1
    let y : DmaChan := { x with
      pc, loops := (dmaNext x.pc x.loops).2, lines := if pc ≤ x.pc then [] else x.lines, next := x.next + 1, lastBad := false
      blocks := x.blocks ++ [block [{ off := 0, len := n, refused := ss == 1 && !s.pci.busMaster }] n] }
    let may := op ∧ (s.rf .pwrStatus 1 0 ≠ 2 ∨ s.runMode = 6) ∧ x.blocks.length < 4 ∧ ds ≠ 2
    let flying := (x.blocks.map (fun k => k.reqs.length)).sum
    let single := ss < 2 ∧ src % unit + n ≤ unit ∧ flying < 32 ∧ (y.fetched = none ∨ ∃ e, y.fetched = some (some e) ∧ y.badByte e = none)
    let only := x.blocks = [k] ∧ k.reqs = [{ off, len, refused }] ∧ k.bad = false ∧ x.signals = []
    let at_ := k.dst + off
    let from_ := k.src + off
    let small := from_ + len < 2 ^ 64 ∧ at_ + len < 2 ^ 64
    let answered (data : Option (List Byte)) (q : State → Prop) : Prop := only → small → s.does (.dmaResponse c 0 0 data) q
    (may → single → s.does (.dmaMove c) fun t => t.rd .dmaChBlock c = BitVec.ofNat 32 (x.next + 1) ∧
      (t.chan c).blocks = y.blocks ∧ (t.chan c).pc = y.pc ∧ (t.chan c).next = y.next ∧ t.store = s.store ∧
      (ss = 1 → s.pci.busMaster = true → s.scanned = false → .hostRead (BitVec.ofNat 64 src) n ∈ t.out)) ∧
    (op → (s.rf .pwrStatus 1 0 = 2 ∧ s.runMode ≠ 6) ∨ 4 ≤ x.blocks.length → exec (.dmaMove c) s = .next s) ∧
    (op → ss = 2 → rowRange src n = false → s.rf .pwrStatus 1 0 ≠ 2 → x.blocks = [] → x.signals = [] → s.rf .dmaChErr 2 0 c = 0 →
      s.does (.dmaMove c) fun t => t.rf .dmaChErr 2 0 c = 5 ∧ t.rd .dmaChErrAddrLo c = BitVec.ofNat 32 src ∧
        t.rd .dmaChBad c = countWord (s.rd .dmaChBad c) 1 ∧ t.store = s.store) ∧
    (k.sspace = 0 → k.dspace = 0 → s.cleanAt from_ len → s.writableAt at_ len → answered none fun t =>
      s.stores t at_ (memBytes s.store.mem from_ len)) ∧
    (k.sspace = 1 → refused = false → k.dspace = 0 → s.writableAt at_ len → answered (some bs) fun t => s.stores t at_ (padTo len bs)) ∧
    (k.sspace = 0 → k.dspace = 1 → s.pci.busMaster = true → s.scanned = false → s.cleanAt from_ len → answered none fun t =>
      (∃ es more, t.out = s.out ++ es ++ more ∧ laysDown s.pci.payload s.pci.relaxed at_ (memBytes s.store.mem from_ len) es) ∧
        t.store = s.store) ∧
    (k.sspace = 1 → refused = true ∨ data = none → s.rf .dmaChErr 2 0 c = 0 → answered data fun t =>
      t.rd .dmaChErr c = BitVec.ofNat 32 ((if refused = true then 4 else 1) + 8) ∧
      t.rd .dmaChErrAddrLo c = BitVec.ofNat 32 from_ ∧ t.rd .dmaChBad c = countWord (s.rd .dmaChBad c) 1 ∧
      (∀ z, memGet t.store.mem z = memGet s.store.mem z)) ∧
    (x.blocks = [] → exec (.dmaResponse c 0 0 none) s = .next s)

/-- R325 to R327, R331, R333, R335: an arrival of an enabled source is pending and counted, saturating, with the stamp of the first one,
and one of a disabled source leaves nothing; a deliverable source of a vector that can send goes out as its message, by its arrival
or when its time has passed, and is no longer pending; withdrawal clears it undelivered; a new target holds from the next
delivery; a queue is read from its head; a software word raises the sources of its bits.
The model's: log entries 4, 5, 6 and 112. -/
def Obligations.EventDelivery : Prop :=
  ∀ (s : State) (src : Fin 1024) (n : Fin 1023) (target : Fin 512) (q : Fin 276) (w : Word) (v : Nat) (r : Rec4) (rest : List Rec4),
    let st := s.rd .evtSrcStatus src
    let enabled (n : Nat) : Prop := s.rb .evtSrcCfg 0 n = true
    let off := s.rb .evtCtrl 0 = false
    let count := fld st 31 16 + 1
    let same (t : State) (a : Nat) : Prop := ∀ z, z ≠ a → t.getW z = s.getW z
    let vector (n : Nat) : Prop := v < 256 ∧ s.rf .evtSrcCfg 14 6 n = 256 + v ∧ s.rb .hstMsixMask 0 v = false ∧
      (s.rd .hstMsixAddrLo v ≠ 0 ∨ s.rd .hstMsixAddrHi v ≠ 0) ∧ s.pci.fnMask = false ∧ s.pci.busMaster = true ∧ s.scanned = false
    let sends (t : State) (n : Nat) : Prop := t.out = s.out ++ [.msix v (s.rd .hstMsixAddrHi v ++ s.rd .hstMsixAddrLo v) (s.rd .hstMsixData v)] ∧
      t.rb .evtSrcStatus 0 n = false ∧ t.rf .evtSrcStatus 31 16 n = 0
    let deliverable (n : Nat) : Prop := enabled n ∧ s.rb .evtSrcStatus 1 n = false ∧ s.rb .evtCtrl 0 = true
    let unseen := ∀ k, k < 32 → s.rb .tmrCapCtrl 10 k = false ∨ s.rf .tmrCapCtrl 9 0 k ≠ src.val
    let time := s.rf .evtSrcCoal 23 8 n
    (isSource src = false → exec (.eventArrival src) s = .next s) ∧
    (isSource src = true → ¬enabled src → s.does (.eventArrival src) fun t => t.rd .evtSrcStatus src = st) ∧
    (isSource src = true → enabled src → off → s.does (.eventArrival src) fun t => t.rb .evtSrcStatus 0 src = true ∧
      t.rf .evtSrcStatus 31 16 src = min count 0xFFFF ∧ t.rb .evtSrcStatus 3 src = (bit st 3 || decide (2 ^ 16 ≤ count)) ∧
      (kvGet src.val s.evt.stamps = none → ∃ x : Nat, s.stamps (srcDomain src) x ∧ kvGet src.val t.evt.stamps = some (BitVec.ofNat 64 x)) ∧
      ∀ y, kvGet src.val s.evt.stamps = some y → kvGet src.val t.evt.stamps = some y) ∧
    (isSource src = true → deliverable src → s.rf .evtSrcCoal 7 0 src ≤ 1 → vector src → s.pendingSrcs = [] → unseen →
      s.does (.eventArrival src) fun t => sends t src) ∧
    (s.pendingSrcs = [n.val] → s.rb .evtSrcStatus 0 n = true → deliverable n → time ≠ 0 →
      time * 1000 ≤ (s.now + 2 ^ 64 - ((kvGet n.val s.evt.stamps).getD 0).toNat) % 2 ^ 64 → vector n → s.does (.coalesceTimeout n) fun t => sends t n) ∧
    (off → exec (.coalesceTimeout n) s = .next s) ∧
    s.does (.evtWithdraw n false) (fun t => t.rb .evtSrcStatus 0 n = false ∧ t.rf .evtSrcStatus 31 16 n = 0 ∧
      kvGet n.val t.evt.stamps = none ∧ same t (addrOf .evtSrcStatus n 0 0) ∧ t.out = s.out) ∧
    (off → s.does (.evtWithdraw n true) fun t => t.rb .evtSrcStatus 0 n = false ∧ t.rf .evtSrcStatus 31 16 n = 0 ∧
      t.rd .evtSrcCfg n = setBit (s.rd .evtSrcCfg n) 0 false ∧ t.out = s.out) ∧
    (20 ≤ target.val → target.val < 256 → s.does (.evtRetarget n target) fun t => t = s.reject (addrOf .evtSrcCfg n 0 0)) ∧
    (target.val < 20 ∨ 256 ≤ target.val → off → enabled n → s.does (.evtRetarget n target) fun t =>
      t.rf .evtSrcCfg 14 6 n = target.val ∧ same t (addrOf .evtSrcCfg n 0 0) ∧ t.evt = s.evt) ∧
    (s.queue q = r :: rest → s.scanned = false → s.does (.evtQueuePop q ⟨false, 0xF⟩) fun t => t.queue q = rest ∧ kvGet q.val t.evt.latch = some r ∧
      t.out = s.out ++ [.completion (bytesLE 4 r.w0.toNat) false] ∧ t.regs = s.regs) ∧
    (s.queue q = [] → s.scanned = false → s.does (.evtQueuePop q ⟨false, 0xF⟩) fun t => t.queue q = [] ∧ kvGet q.val t.evt.latch = some idleRec ∧
      t.out = s.out ++ [.completion (bytesLE 4 idleRec.w0.toNat) false]) ∧
    (off → s.does (.evtSwi w) fun t => ∀ i, i < 32 → t.rb .evtSrcStatus 0 (704 + i) =
      (s.rb .evtSrcStatus 0 (704 + i) || (w.getLsbD i && s.rb .evtSrcCfg 0 (704 + i))))

/-- R22, R336 to R344: the count wraps, is read with its high half latched, or whole, is advanced by a tick of the always-on clock, and is loaded
forward only; a compare channel is armed by its value, and fires at a match or when told; a capture and a log entry are read once, a capture of the same cycle not yet;
an interval timer starts from its reload value, expires, and takes a new count while it runs.
The model's: log entries 3 and 4. -/
def Obligations.Timers : Prop :=
  ∀ (s : State) (c : Fin 64) (k : Fin 32) (v : Word) (y : Word64) (rest : List Word64) (oneshot : Bool) (o : CapBefore),
    let runs := s.tmr.slow = false ∧ s.rf .sysMode 2 0 ≠ 0
    let armed := s.rb .tmrCmpStatus 0 c = true
    let period := (s.rd .tmrCmpPeriod c).toNat
    let mode := s.rf .tmrCmpCtrl 3 2 c
    let old := s.tmr.cmpOut.getLsbD c
    let fired (t : State) : Prop := t.rb .tmrCmpStatus 2 c = true ∧
      t.tmr.cmpOut.getLsbD c = if mode = 0 then old else if mode = 1 then true else if mode = 2 then false else !old
    let next (t : State) : Prop := t.rd .tmrCmpValue c = s.rd .tmrCmpValue c + s.rd .tmrCmpPeriod c ∧
      t.rb .tmrCmpStatus 0 c = decide (period ≠ 0)
    let set := s.addr64 .tmrTbSetLo .tmrTbSetHi
    let open_ := s.rf .sysMode 2 0 = 1 ∨ s.rf .sysMode 2 0 = 5
    let reads (t : State) (w : Word) : Prop := t.out = s.out ++ [.completion (bytesLE 4 w.toNat) false]
    let behind := (s.now + (2 ^ 32 - v.toNat)) % 2 ^ 32 < 2 ^ 31
    let log := s.capLogOf k
    let ns := if s.tmr.acc + 37 < 64 then 30517 else 30518
    (runs → s.now = 2 ^ 64 - 1 → s.does .tbWrap fun t => t.now = 0) ∧
    (¬runs ∨ s.now ≠ 2 ^ 64 - 1 → exec .tbWrap s = .next s) ∧
    (s.sys.aonClock = true → s.tmr.slow = true → s.does .aonTick fun t => t.now = (s.now + ns) % 2 ^ 64 ∧
      t.tmr.acc = (if s.tmr.acc + 37 < 64 then s.tmr.acc + 37 else s.tmr.acc + 37 - 64) ∧ t.tmr.slow = (s.mode == 4 || s.mode == 7)) ∧
    (s.sys.aonClock = true → s.tmr.slow = false → s.does .aonTick fun t => t.now = s.now ∧ t.tmr.slow = (s.mode == 4 || s.mode == 7)) ∧
    (s.sys.aonClock = false → exec .aonTick s = .next s) ∧
    (s.scanned = false → s.does (.tbLoRead ⟨false, 0xF⟩) fun t => reads t (BitVec.ofNat 32 s.now) ∧ t.regs = s.regs ∧
      t.tmr = { s.tmr with tbLatch := some (BitVec.ofNat 32 (s.now / 2 ^ 32)) }) ∧
    (s.scanned = false → s.does (.tbLoRead ⟨true, 0xFF⟩) fun t => t = { s with out := s.out ++ [.completion (bytesLE 8 s.now) false] }) ∧
    (open_ → s.now < set → s.does .tbLoad fun t => t.now = set) ∧
    (¬open_ ∨ set ≤ s.now → s.does .tbLoad fun t => t = s.reject (addrOf .tmrTbCtrl 0 0 0)) ∧
    (s.rb .tmrCmpCtrl 0 c = true → s.does (.cmpValueWrite c v) fun t => t.rd .tmrCmpValue c = v ∧ t.rb .tmrCmpStatus 0 c = true ∧
      t.rb .tmrCmpStatus 1 c = (s.rb .tmrCmpStatus 1 c || decide behind) ∧ t.tmr = s.tmr) ∧
    (s.rb .tmrCmpCtrl 0 c = false → s.does (.cmpValueWrite c v) fun t => t = s.wr .tmrCmpValue v c) ∧
    (runs → armed → (s.now + 1) % 2 ^ 32 = (s.rd .tmrCmpValue c).toNat → s.does (.cmpMatch c) fun t =>
      t.now = (s.now + 1) % 2 ^ 64 ∧ fired t ∧ next t) ∧
    (¬armed ∨ (s.now + 1) % 2 ^ 32 ≠ (s.rd .tmrCmpValue c).toNat → exec (.cmpMatch c) s = .next s) ∧
    (armed → s.does (.cmpFire c) fun t => t.now = s.now ∧ fired t ∧ next t) ∧
    (¬armed → s.does (.cmpFire c) fun t => fired t ∧ t.rd .tmrCmpValue c = s.rd .tmrCmpValue c ∧ t.rb .tmrCmpStatus 0 c = false) ∧
    (s.scanned = false → (∀ o, kvGet k.val s.tmr.capOld = some o → o.at_ ≠ s.tmr.tb) → s.does (.capRead k ⟨false, 0xF⟩) fun t => reads t (s.rd .tmrCapLo k) ∧ t.rb .tmrCapStatus 0 k = false ∧
      kvGet k.val t.tmr.capHi = some (s.rd .tmrCapHi k) ∧ t.rd .tmrCapHi k = s.rd .tmrCapHi k) ∧
    (s.scanned = false → kvGet k.val s.tmr.capOld = some o → o.at_ = s.tmr.tb → s.does (.capRead k ⟨false, 0xF⟩) fun t => reads t o.lo ∧
      t.rb .tmrCapStatus 0 k = s.rb .tmrCapStatus 0 k ∧ t.rb .tmrCapStatus 1 k = o.ovr ∧ kvGet k.val t.tmr.capHi = some o.hi) ∧
    (log = y :: rest → s.scanned = false → s.does (.capLogPop k ⟨false, 0xF⟩) fun t => reads t (BitVec.ofNat 32 y.toNat) ∧ t.capLogOf k = rest ∧
      kvGet k.val t.tmr.capLatch = some ⟨BitVec.ofNat 32 y.toNat, BitVec.ofNat 32 (y.toNat / 2 ^ 32), 1, 0⟩) ∧
    (log = [] → s.scanned = false → s.does (.capLogPop k ⟨false, 0xF⟩) fun t => reads t idleRec.w0 ∧ t.capLogOf k = []) ∧
    s.does (.itEnable k oneshot) (fun t => t.rb .tmrItCtrl 0 k = true ∧ t.rb .tmrItCtrl 1 k = oneshot ∧
      t.rd .tmrItCount k = if s.rb .tmrItCtrl 0 k = true then s.rd .tmrItCount k else s.rd .tmrItReload k) ∧
    (runs → s.rb .tmrItCtrl 0 k = true → s.rd .tmrItCount k = 1 → s.does (.itExpiry k) fun t =>
      t.rd .tmrItExp k = countWord (s.rd .tmrItExp k) 1 ∧ t.rb .tmrItCtrl 0 k = !s.rb .tmrItCtrl 1 k ∧
        t.rd .tmrItCount k = if s.rb .tmrItCtrl 1 k = true then 0 else s.rd .tmrItReload k) ∧
    (s.rb .tmrItCtrl 0 k = false ∨ s.rd .tmrItCount k ≠ 1 → exec (.itExpiry k) s = .next s) ∧
    (v ≠ 0 → s.rb .tmrItCtrl 0 k = true → s.does (.itLoad k v) fun t => t = s.wr .tmrItCount v k) ∧
    (v = 0 ∨ s.rb .tmrItCtrl 0 k = false → s.does (.itLoad k v) fun t => t = s.reject (addrOf .tmrItLoad k 0 0))

/-- R347, R348, R352 to R355: a pad that the block does not drive shows its outside driver, else its pull; the output bits drive a pad
whose function they are; a level is accepted once it was sampled alike often enough; a function is changed unless its word is
reserved; a bank without supply reads 0.
The model's: log entries 4, 13, 72 and 122. -/
def Obligations.Gpio : Prop :=
  ∀ (s : State) (p : Fin 64) (x : Fin 2) (b : Fin 4) (w : Word) (level supply : Option Bool) (v : Bool) (m : Nat),
    let pin (t : State) (r : RegName) (p : Nat) : Bool := t.rb r (p % 32) (p / 32)
    let powered (p : Nat) : Prop := s.rb .gpioBank (p / 16) = true
    let input := s.rf .gpioPCtrl 3 0 p = 0 ∧ s.rb .gpioPCtrl 10 p = false
    let pull := s.rf .gpioPCtrl 13 12 p
    let samples := (kvGet p.val s.gpio.samples).getD 0 + 1
    let drives (p : Nat) : Prop := s.rf .gpioPCtrl 3 0 p = 0 ∧ s.rb .gpioPCtrl 10 p = true ∧ s.rb .gpioPCtrl 11 p = false ∧
      kvGet p s.gpio.outside = none ∧ powered p
    let outputs (t : State) (o : Word) : Prop := t.rd .gpioOut x = o ∧ (s.mode ≠ 4 → ∀ i, i < 32 → drives (32 * x.val + i) →
      pin t .gpioPad (32 * x.val + i) = o.getLsbD i)
    let sampled (q : State → Prop) : Prop := s.mode ≠ 4 → powered p → input → kvGet p.val s.gpio.outside = some v →
      s.does (.gpioFilterSample p) fun t => pin t .gpioPad p = v ∧ q t
    s.does (.gpioPadChange p level) (fun t => kvGet p.val t.gpio.outside = level ∧ (s.mode ≠ 4 → powered p → input →
      (level = some v → pin t .gpioPad p = v) ∧ (level = none → pull = 1 → pin t .gpioPad p = true) ∧
      (level = none → pull = 2 → pin t .gpioPad p = false)) ∧ (s.mode ≠ 4 → ¬powered p → pin t .gpioPad p = false) ∧
      (s.mode = 4 → t.regs = s.regs)) ∧
    sampled (fun t => pin s .gpioFilt p = v → pin t .gpioFilt p = v ∧ kvGet p.val t.gpio.samples = none) ∧
    sampled (fun t => pin s .gpioFilt p ≠ v → samples < s.rf .gpioPIn 11 4 p →
      pin t .gpioFilt p ≠ v ∧ kvGet p.val t.gpio.samples = some samples) ∧
    sampled (fun t => pin s .gpioFilt p ≠ v → s.rf .gpioPIn 11 4 p ≤ samples →
      pin t .gpioFilt p = v ∧ kvGet p.val t.gpio.samples = none) ∧
    (s.mode = 4 ∨ ¬powered p → exec (.gpioFilterSample p) s = .next s) ∧
    s.does (.gpioSet x w) (fun t => outputs t (s.rd .gpioOut x ||| w)) ∧
    s.does (.gpioClr x w) (fun t => outputs t (s.rd .gpioOut x &&& ~~~w)) ∧
    (wordOk .gpioPCtrl 0 w = true → s.does (.gpioFunctionChange p w) fun t => t.rd .gpioPCtrl p = w ∧
      ∀ a, a ≠ addrOf .gpioPCtrl p 0 0 → a ≠ addrOf .gpioPad (p.val / 32) 0 0 → t.getW a = s.getW a) ∧
    (wordOk .gpioPCtrl 0 w = false → s.does (.gpioFunctionChange p w) fun t => t = s.reject (addrOf .gpioPCtrl p 0 0)) ∧
    s.does (.gpioBankSupplyChange b supply) (fun t => t.rb .gpioBank b = supply.isSome ∧ t.rb .gpioBank (4 + b.val) = supply.getD false ∧
      ∀ i, i < 16 → kvGet (16 * b.val + i) t.gpio.samples = none ∧
        (supply = none → pin t .gpioPad (16 * b.val + i) = false ∧ pin t .gpioFilt (16 * b.val + i) = false) ∧
        (supply ≠ none → m = 16 * b.val + i → pin t .gpioFilt m = pin s .gpioFilt m))

/-- R358 to R363, R365, R367, R369, R370, R379: the end of a window of WIN µs shows the powers, both floors and each group's band, and the effective
state and the ladder targets follow; a thermal trip begins at 112 °C and ends at 105 °C; a write by firmware restarts its
watchdog, even one that is rejected, whose expiry makes the state at least Lean; a voltage write that is acknowledged is followed by
Status reads until VDone, which lets clocks slew that waited for it; the third failure in a row is a rail's fault; a PMBus
transaction starts and ends. Where the sum of the powers exceeds its field the statement says nothing of it.
The model's: log entries 4, 13, 75, 116, 117 and 118. -/
def Obligations.PowerLedger : Prop :=
  ∀ (s : State) (mw temps : List (BitVec 16)) (g : Fin 4) (i : Fin 38) (k : Fin 48) (n : Fin 16) (w : Word) (mv : BitVec 16)
      (d : Bool) (data : List Byte) (from_ ms : Nat),
    let since (a : Nat) : Nat := (s.now + 2 ^ 64 - a % 2 ^ 64) % 2 ^ 64
    let idle := s.mode = 0 ∨ s.mode = 4 ∨ since s.pwr.windowAt < s.rf .pwrCfg 9 0 * 1000
    let power (i : Nat) : Nat := (mw.getD i 0).toNat
    let total : Nat := ((List.range 38).map power).sum
    let group : Nat := (((List.range 38).filter (fun i => islandGroup i == g.val)).map power).sum
    let load := min 3 (4 * group / railRating g)
    let band := s.rf .pwrRailStatus 11 10 g
    let run := if (s.rail g).low = load then (s.rail g).lowRun + 1 else 1
    let floor (p : Nat) (x lean scarce hyst : Int) : Nat :=
      if x ≥ scarce then 2 else if p = 2 ∧ x ≥ scarce - hyst then 2 else if x ≥ lean then 1
      else if (p = 1 ∨ p = 2) ∧ x ≥ lean - hyst then 1 else 0
    let watts (hi lo : Nat) : Int := 1000 * (s.rf .pwrCap hi lo : Int)
    let degrees (hi lo : Nat) : Int := 16 * (s.rf .pwrTherm hi lo : Int)
    let temp (k : Nat) : Int := (temps.getD k 0).toInt
    let hot := ∃ j, j < 48 ∧ temp j ≥ 112 * 16
    let cool := ∀ j, j < 48 → temp j ≤ 105 * 16
    let trip := s.rb .pwrStatus 9 = true
    let settled (t : State) : Prop :=
      (t.rf .pwrStatus 1 0 = if t.rb .pwrStatus 9 = true then 2
        else max (t.rf .pwrStatus 3 2) (max (t.rf .pwrStatus 5 4) (t.rf .pwrStatus 7 6))) ∧
      t.rf .cmpLadderStatus 7 4 n = max (max (s.rf .pwrBeamTgt 3 0 n) (if t.rf .pwrStatus 1 0 = 1 then s.rf .pwrBeamMin 3 0 n
        else if t.rf .pwrStatus 1 0 = 2 then s.rf .pwrBeamMin 7 4 n else 0)) (if t.rb .pwrStatus 9 = true then 8 else 0)
    let rail := s.rf .pwrRailCfg 3 0 g
    let clk := s.rf .pwrRailCfg 5 4 g
    let r := s.rail g
    let sent := if r.ready = true then OutEvent.avsRead g rail clk else if r.reading = true then .avsStatus g rail clk
      else .avsWrite g (s.rf .pwrRailStatus 25 16 g) rail clk
    let answers (x : AvsReply) (y : Rail) (q : State → Prop) : Prop := s.does (.avsResponse g x) fun t =>
      t.rail g = { y with fails := 0, faulted := false } ∧ q t
    let quiet (t : State) : Prop := t.regs = s.regs ∧ t.out = s.out
    let asks (t : State) : Prop := t.regs = s.regs ∧ (s.scanned = false → t.out = s.out ++ [.avsStatus g rail clk])
    let bytes := if bit w 19 = true then [] else bytesLE (fld w 18 16) (s.rd .pwrPmbData).toNat
    let busy (s : State) : Prop := s.rb .pwrPmbStatus 0 = true
    (idle → exec (.ledgerWindowEnd mw) s = .next s) ∧
    (¬idle → total < 2 ^ 18 → s.does (.ledgerWindowEnd mw) fun t =>
      t.rd .pwrIsl i = BitVec.ofNat 32 (power i) ∧ t.rd .pwrTotal = BitVec.ofNat 32 total ∧
      t.rf .pwrStatus 5 4 = floor (s.rf .pwrStatus 5 4) total (watts 7 0) (watts 15 8) (watts 23 16) ∧
      t.rf .pwrStatus 7 6 =
        floor (s.rf .pwrStatus 7 6) (sx 16 (s.rf .pwrTmax 15 0)) (degrees 7 0) (degrees 15 8) (degrees 23 16) ∧
      t.rf .pwrStatus 3 2 = s.rf .pwrStatus 3 2 ∧ t.rb .pwrStatus 9 = s.rb .pwrStatus 9 ∧ settled t ∧
      t.rf .pwrRailStatus 11 10 g = if band ≤ load then load else if run < 10 then band else load) ∧
    (r.ready = true ∨ r.reading = true → answers .ack r quiet) ∧
    (r.ready = false → r.reading = false → answers .ack { r with reading := true } asks) ∧
    (r.ready = true ∨ r.reading = false → answers (.status d) r quiet) ∧
    (r.ready = false → r.reading = true → answers (.status false) r asks) ∧
    (r.ready = false → r.reading = true → answers (.status true) { r with ready := true, reading := false } fun t => quiet t ∧
      (g.val = n.val / 8 → (s.beam n).slewWait = true → t.beam n = { s.beam n with slewWait := false, slewAt := s.now })) ∧
    answers (.volts mv) r (fun t => t.rd .pwrRailRead g = BitVec.ofNat 32 mv.toNat ∧ t.out = s.out) ∧
    ((s.rail g).faulted = false → (s.rail g).fails < 2 → s.scanned = false → s.does (.avsResponse g .failed) fun t =>
      (t.rail g).fails = (s.rail g).fails + 1 ∧ t.out = s.out ++ [sent] ∧ t.regs = s.regs) ∧
    ((s.rail g).faulted = false → 2 ≤ (s.rail g).fails → s.does (.avsResponse g .failed) fun t =>
      (t.rail g).faulted = true ∧ t.rb .pwrRailStatus 14 g = true) ∧
    ((s.rail g).faulted = true → exec (.avsResponse g .failed) s = .next s) ∧
    ((s.rail g).faulted = true → s.scanned = false → s.does (.avsRetry g) fun t => t = { s with out := s.out ++ [sent] }) ∧
    ((s.rail g).faulted = false → exec (.avsRetry g) s = .next s) ∧
    s.does (.tempSensorRead temps) (fun t => t.rd .pwrTs k = BitVec.ofNat 32 (temps.getD k 0).toNat ∧
      t.rf .pwrTmax 21 16 < 48 ∧ sx 16 (t.rf .pwrTmax 15 0) = temp (t.rf .pwrTmax 21 16) ∧ temp k ≤ sx 16 (t.rf .pwrTmax 15 0) ∧
      (t.rb .pwrStatus 9 = true ↔ hot ∨ (trip ∧ ¬cool)) ∧ (¬trip → hot → t.rb .pwrStatus 10 = true ∧ settled t ∧
        (s.scanned = false → .thermN true ∈ t.out)) ∧
      (trip → cool → settled t ∧ (s.scanned = false → .thermN false ∈ t.out)) ∧
      ((trip ∧ ¬cool) ∨ (¬trip ∧ ¬hot) → t.rd .pwrStatus = s.rd .pwrStatus ∧ t.out = s.out)) ∧
    (wordOk .pwrLedger 0 w = true → s.does (.pwrLedgerWrite w) fun t => t.rd .pwrLedger = w ∧ t.rf .pwrStatus 3 2 = fld w 1 0 ∧
      t.rb .pwrStatus 8 = false ∧ t.pwr.watch = some (s.now, s.rf .pwrCfg 23 16) ∧ settled t) ∧
    (wordOk .pwrLedger 0 w = false → s.does (.pwrLedgerWrite w) fun t => t = { s.reject (addrOf .pwrLedger 0 0 0) with
      pwr := { s.pwr with watch := some (s.now, s.rf .pwrCfg 23 16) } }) ∧
    (s.pwr.watch = some (from_, ms) → ms * 1000000 ≤ since from_ → s.does .ledgerStale fun t => t.rb .pwrStatus 8 = true ∧
      (t.rf .pwrStatus 3 2 = if s.rf .pwrStatus 3 2 = 0 then 1 else s.rf .pwrStatus 3 2) ∧ t.pwr.watch = none ∧ settled t) ∧
    (s.pwr.watch = none ∨ (s.pwr.watch = some (from_, ms) ∧ since from_ < ms * 1000000) → exec .ledgerStale s = .next s) ∧
    (wordOk .pwrPmbCtrl 0 w = true → ¬busy s → s.scanned = false → s.does (.pmbGo w) fun t =>
      t.out = s.out ++ [.pmbus (fld w 6 0) (fld w 15 8) bytes (bit w 19) (bit w 20)] ∧ busy t ∧
      t.rd .pwrPmbCtrl = setBit w 21 false) ∧
    (wordOk .pwrPmbCtrl 0 w = true → busy s → s.does (.pmbGo w) fun t => t.out = s.out ∧ t.rb .pwrReject 31 = true) ∧
    (wordOk .pwrPmbCtrl 0 w = false → s.does (.pmbGo w) fun t => t = s.reject (addrOf .pwrPmbCtrl 0 0 0)) ∧
    (¬busy s → exec (.pmbDone (.ok data)) s = .next s) ∧
    (busy s → data.length = s.rf .pwrPmbCtrl 18 16 → s.does (.pmbDone (.ok data)) fun t => ¬busy t ∧
      t.rd .pwrPmbData = if s.rb .pwrPmbCtrl 19 = true then BitVec.ofNat 32 (leNat data) else s.rd .pwrPmbData) ∧
    (busy s → s.does (.pmbDone .nack) fun t => ¬busy t ∧ t.rb .pwrPmbStatus 1 = true) ∧
    (busy s → s.does (.pmbDone .pecErr) fun t => ¬busy t ∧ t.rb .pwrPmbStatus 2 = true)

/-- R372 to R374, R376, R377, R380: a plan is checked in order, installed for verification, and after its time kept or taken back; a sample set begins each period and
reads every monitor at its end; a record is programmed with its number, hours and check code, and read back from the newest;
the powered hours rise.
The model's: log entries 4, 13, 75 and 76. -/
def Obligations.Almanac : Prop :=
  ∀ (s : State) (rise : BitVec 32) (slack : BitVec 16) (vals : List (BitVec 16)) (g : Nat) (p rec_ : List Byte) (plan : List Word)
      (kind f : Bool) (m : Fin 256) (k : Fin 16) (ty : Nat) (v : Word64) (x : LogOp) (rest : List LogOp),
    let since (a : Nat) : Nat := (s.now + 2 ^ 64 - a % 2 ^ 64) % 2 ^ 64
    let checked := s.rf .almLeap 9 0 * 1000000 ≤ since s.pwr.verifyAt
    let due := s.rf .almCtrl 15 4 * 1000000000 ≤ since s.pwr.sampleAt
    let w := s.stagedPlan
    let group := fld (w.getD 1 0) 1 0
    let mVolt (k : Nat) : Nat := planV w k + planGuard w
    let outOfSeq := (w.getD 0 0).toNat ≤ (s.rd .pwrLive group 0).toNat
    let outOfRange := ∃ k, k < 8 ∧ (mVolt k < 650 ∨ 850 < mVolt k)
    let outOfOrder := ∃ k, k < 7 ∧ planV w (k + 1) < planV w k
    let tooLow := ∃ k, k < 8 ∧ mVolt k + 60 < planV (cornerPlan group) k
    let stale := planBand w < s.rf .pwrRailStatus 11 10 group ∧
      s.droopEntry group (planBand w) (s.rf .pwrRailStatus 11 10 group) = 255
    let free := s.pwr.verify = none
    let kept (result : Nat) (t : State) : Prop := t = s.wr .pwrPlanStatus (BitVec.ofNat 32 (2 + 4 * result))
    let inForce (t : State) (g : Nat) (w : List Word) (leap : Bool) : Prop :=
      (∀ k, k < 6 → t.rd .pwrLive g k = w.getD k 0) ∧ t.rb .pwrRailStatus 12 g = leap
    let bad := s.rf .almLeap 17 10 < rise.toNat ∨ slack.toInt < s.rf .almLeap 25 18
    let logs (t : State) (ty : Nat) (bytes : List Byte) (fuse : Bool) : Prop := s.pwr.op = none →
      ∃ v : Word64, s.stamps 3 v.toNat ∧ t.pwr.op = some (.write ty bytes v fuse) ∧ t.rb .almLogStatus 0 = true
    let verified (t : State) (result : Nat) : Prop := t.pwr.verify = none ∧ t.rd .pwrPlanStatus = BitVec.ofNat 32 (2 + 4 * result)
    let staged := (List.range 16).flatMap (fun k => bytesLE 4 (s.rd .almLogData k).toNat)
    let writes (i : Instr) (fuse : Bool) : Prop :=
      (s.pwr.op = none → 0x80 ≤ (staged.getD 0 0).toNat → s.does i fun t =>
        logs t (staged.getD 0 0).toNat ((staged.drop 20).take 40) fuse) ∧
      (s.pwr.op ≠ none ∨ (staged.getD 0 0).toNat < 0x80 → s.does i fun t => t = s.reject (addrOf .almLogCtrl 0 0 0))
    let room := s.pwr.fuses.length < 1024
    let record (r : List Byte) : Prop := r.length = 64 ∧ descField r 0 1 = ty ∧ descField r 1 3 = (f && decide room).toNat ∧
      descField r 4 4 = s.pwr.seq ∧ descField r 8 8 = v.toNat ∧ descField r 16 4 = (s.rd .almHours).toNat ∧
      (r.drop 20).take 40 = p ++ List.replicate (40 - p.length) 0 ∧ r.drop 60 = bytesLE 4 (crc32c (r.take 60))
    (free → outOfSeq → s.does .leap (kept 1)) ∧
    (free → ¬outOfSeq → outOfRange → s.does .leap (kept 2)) ∧
    (free → ¬outOfSeq → ¬outOfRange → outOfOrder → s.does .leap (kept 3)) ∧
    (free → ¬outOfSeq → ¬outOfRange → ¬outOfOrder → tooLow → s.does .leap (kept 4)) ∧
    (free → ¬outOfSeq → ¬outOfRange → ¬outOfOrder → ¬tooLow → stale → s.does .leap fun t =>
      verified t 5 ∧ inForce t group (cornerPlan group) false ∧ t.rb .pwrRailStatus 13 group = true) ∧
    (free → ¬outOfSeq → ¬outOfRange → ¬outOfOrder → ¬tooLow → ¬stale → s.does .leap fun t =>
      t.rd .pwrPlanStatus = 1 ∧ inForce t group w true ∧
      t.pwr.verify = some (group, s.livePlan group, s.rb .pwrRailStatus 12 group) ∧ t.pwr.verifyAt = s.now) ∧
    (¬free → s.does .leap fun t => t = s.reject (addrOf .pwrPlanCtrl 0 0 0)) ∧
    (s.pwr.verify = some (g, plan, kind) → g < 4 → checked → bad → s.does (.leapVerifyEnd rise slack) fun t =>
      verified t 6 ∧ inForce t g plan kind ∧ logs t 1 (wordBytes (s.livePlan g) ++ [6]) false) ∧
    (s.pwr.verify = some (g, plan, kind) → g < 4 → checked → ¬bad → s.does (.leapVerifyEnd rise slack) fun t =>
      verified t 0 ∧ inForce t g (s.livePlan g) (s.rb .pwrRailStatus 12 g) ∧ logs t 1 (wordBytes (s.livePlan g) ++ [0]) true) ∧
    (free ∨ ¬checked → exec (.leapVerifyEnd rise slack) s = .next s) ∧
    (s.pwr.sampling = false → s.rb .almCtrl 0 = true → s.mode ≠ 0 → s.mode ≠ 4 → due →
      s.does .almSamplePeriod fun t => t = { s with pwr := { s.pwr with sampling := true, sampleAt := s.now } }) ∧
    (s.pwr.sampling = true ∨ s.rb .almCtrl 0 = false ∨ s.mode = 0 ∨ s.mode = 4 ∨ ¬due → exec .almSamplePeriod s = .next s) ∧
    (s.pwr.sampling = false → s.does .almSampleNow fun t => t = { s with pwr := { s.pwr with sampling := true } }) ∧
    (s.pwr.sampling = true → s.does .almSampleNow fun t => t = s.reject (addrOf .almCtrl 0 0 0)) ∧
    (s.pwr.sampling = true → s.does (.almSampleSetEnd vals) fun t => t.pwr.sampling = false ∧
      t.rd .almMVal m = BitVec.ofNat 32 (vals.getD m 0).toNat ∧
      (t.rd .almMTed m = if s.rf .almMId 1 0 m = 2 then countWord (s.rd .almMTed m) (vals.getD m 0).toNat else s.rd .almMTed m) ∧
      ∃ y, s.stamps 3 y ∧ t.rd .almStampLo = BitVec.ofNat 32 y ∧ t.rd .almStampHi = BitVec.ofNat 32 (y / 2 ^ 32)) ∧
    (s.pwr.sampling = false → exec (.almSampleSetEnd vals) s = .next s) ∧
    writes .almLogWriteFlash false ∧ writes .almLogWriteFuse true ∧
    (s.pwr.op = none → s.does .almLogRead fun t => t.pwr.op = some .read ∧ t.rb .almLogStatus 0 = true ∧ t.out = s.out) ∧
    (s.pwr.op ≠ none → s.does .almLogRead fun t => t = s.reject (addrOf .almLogCtrl 0 0 0)) ∧
    (s.pwr.op = none → exec .almLogOpDone s = .next s) ∧
    (s.pwr.op = some (.write ty p v f) → ty < 256 → p.length ≤ 40 → s.pwr.seq < 2 ^ 32 → s.does .almLogOpDone fun t =>
      ∃ r, record r ∧ t.pwr.flash.getLast? = some (some r) ∧ t.pwr.seq = (s.pwr.seq + 1) % 2 ^ 32 ∧
        (t.pwr.fuses = if f = true ∧ room then s.pwr.fuses ++ [r] else s.pwr.fuses) ∧
        (s.pwr.queue = [] → t.pwr.op = none ∧ t.rb .almLogStatus 0 = false) ∧
        (s.pwr.queue = x :: rest → t.pwr.op = some x ∧ t.pwr.queue = rest ∧ t.rb .almLogStatus 0 = true)) ∧
    (s.pwr.op = some .read → s.rb .almLogIdx 12 = false →
      (s.pwr.flash.filterMap id).reverse[s.rf .almLogIdx 11 0]? = some rec_ → s.does .almLogOpDone fun t =>
        t.rd .almLogData k = BitVec.ofNat 32 (descField rec_ (4 * k) 4)) ∧
    s.does .poweredHour fun t => t = s.wr .almHours (s.rd .almHours + 1)


/-- R382 to R386, R417: a request is taken in the modes that the mode table lists, and otherwise recorded as rejected; Service and Vigil
follow the beams; Sleep is entered once everything rests, with every port Disabled, and a wake ends it, once every rail is up, in the
mode before, or in Recovery after a loss; Debug Halt stops the cores that run, those in a window access once it ends, and lets them run on. What a paused unit does as it goes on is
not said here: the mode after Sleep is stated for a device in which none is paused.
The model's: log entries 4, 77, 78 and 120. -/
def Obligations.Modes : Prop :=
  ∀ (s : State) (p : Fin 8) (c : Fin 20),
    let m := s.mode
    let prev := s.rf .sysMode 5 3
    let recovery := s.rb .sysMode 6 = true
    let runs (n : Nat) : Prop := n < 16 ∧ s.rb .beamStatus 0 n = true
    let vigil := (∃ n, runs n) ∧ ∀ n, runs n → s.rb .beamStatus 1 n = true
    let asleep := m = 4 ∨ s.sys.entering = true
    let barred := (∃ n, runs n) ∨ (∃ g, g < 16 ∧ s.rb .sysCgStatus 0 g = true) ∨ (2 ≤ s.pleState ∧ s.pleState ≤ 4) ∨
      s.sys.aonClock = false
    let refused (t : State) : Prop := t = s.reject (addrOf .sysModeReq 0 0 0)
    let into (t : State) (n : Nat) : Prop := t.mode = n ∧ t.rf .sysMode 5 3 = m
    let leavesEmber (t : State) : Prop := m = 5 → t.rf .lnkPMasqCtrl 2 0 p = 0
    let quiet := (∀ c, c < 64 → (s.chan c).boundary = false) ∧ s.blt.queue = [] ∧ s.pleState ≠ 1 ∧ s.cenState ≠ 1
    let due := s.rb .sysWake 8 = true ∧ s.addr64 .sysWakeTimeLo .sysWakeTimeHi ≤ s.now
    let after := if s.sys.wakeLoss = true then 6 else prev
    let halts := (s.lcState ≤ 1 ∨ s.lcState = 4) ∧ s.sys.aonClock = true ∧ s.sys.entering = false ∧
      (m = 1 ∨ m = 2 ∨ m = 3 ∨ m = 5 ∨ m = 6)
    let goes := (s.core c).run = .running ∨ ((s.core c).run = .waiting ∧ (s.core c).inWindow = false)
    let held := (s.core c).run = .halted ∧ (s.core c).why = 7
    let resumed := if recovery then 6 else if prev = 3 then 2 else prev
    (asleep → s.does .modeReqService fun t => t.mode = m ∧ t.rb .sysWakeStatus 0 = true ∧
      t.sys.waking = (s.sys.waking || decide (m = 4))) ∧
    (¬asleep → m = 1 ∨ m = 5 → vigil → s.does .modeReqService fun t => t.mode = 3 ∧ leavesEmber t) ∧
    (¬asleep → m = 1 ∨ m = 5 → ¬vigil → s.does .modeReqService fun t => into t 2 ∧ leavesEmber t) ∧
    (¬asleep → m ≠ 1 → m ≠ 5 → s.does .modeReqService refused) ∧
    (¬asleep → 1 ≤ m → m ≤ 3 → s.does .modeReqEmber fun t => into t 5) ∧
    (asleep ∨ m = 0 ∨ 3 < m → s.does .modeReqEmber refused) ∧
    (¬asleep → 1 ≤ m → m ≤ 3 → ¬barred → s.does .modeReqSleep fun t => t.mode = m ∧ t.rf .sysWakeStatus 4 0 = 0 ∧
      t.sys = { s.sys with entering := true, waking := false, wakeLoss := false }) ∧
    (asleep ∨ m = 0 ∨ 3 < m ∨ barred → s.does .modeReqSleep refused) ∧
    (s.sys.entering = true → m ≠ 4 → (∀ n, ¬runs n) → s.rested = true → s.does .sleepEntryComplete fun t =>
      into t 4 ∧ t.portState p = 0 ∧ t.rb .sysPsStatus 0 = true ∧ t.sys.entering = false ∧
      (t.sys.waking = true ↔ s.rf .sysWakeStatus 4 0 ≠ 0 ∨ s.sys.wakeLoss = true ∨ due)) ∧
    (s.sys.entering = true → (∃ n, runs n) → s.does .sleepEntryComplete fun t => t.sys.entering = false ∧
      (quiet → t.mode = (if s.sys.wakeLoss = true then 6 else m) ∧ t.rd .sysReject = BitVec.ofNat 32 (0x18 + 2 ^ 31))) ∧
    (s.sys.entering = false ∨ ((∀ n, ¬runs n) ∧ s.rested = false) → exec .sleepEntryComplete s = .next s) ∧
    (m = 4 → s.sys.waking = true → (∀ g, g < 4 → (s.rail g).ready = true) → s.does .wakeComplete fun t => t.sys.waking = false ∧ t.sys.wakeLoss = false ∧
      (quiet → after ≠ 4 → into t after ∧ t.rb .sysPsStatus 0 = false ∧
        (s.rb .lnkPCtrl 0 p = true → s.portState p = 0 → t.portState p = 1))) ∧
    (m ≠ 4 ∨ s.sys.waking = false ∨ (∃ g, g < 4 ∧ (s.rail g).ready = false) → exec .wakeComplete s = .next s) ∧
    (halts → s.does .sysDbgHalt fun t => into t 7 ∧ t.rb .sysDbg 0 = true ∧
      (goes → (t.core c).run = .halted ∧ (t.core c).why = 7) ∧ (¬goes → t.core c = s.core c)) ∧
    (m = 7 → exec .sysDbgHalt s = .next s) ∧
    (m ≠ 7 → ¬halts → s.does .sysDbgHalt fun t => t = s.reject (addrOf .sysDbg 0 0 0)) ∧
    (m = 7 → s.does .sysDbgResume fun t => (resumed = 2 → vigil → t.mode = 3) ∧
      (resumed ≠ 2 ∨ ¬vigil → t.mode = resumed) ∧ t.rb .sysMode 6 = false ∧
      t.rb .sysDbg 0 = false ∧ (held → (t.core c).run = .running ∧ (t.core c).pc = (s.core c).pc) ∧
      (¬held → t.core c = s.core c)) ∧
    (m ≠ 7 → exec .sysDbgResume s = .next s) ∧
    s.does .alwaysOnOscillatorStart fun t => t = { s with sys := { s.sys with aonClock := true } }

/-- R387, R388, R417, R418, R421: a cold reset and a warm reset leave what the survival table says, the warm one upon its one
trigger, and bring the balls to their levels; the release of the reset ball starts the boot sequence, whose steps load the fused words,
train the host link, send the corner plans, train the stacks, keep the cause and report Provisioning in turn. GPIO_BANK shows what a
bank's supply is through every reset, and a warm reset adopts a PL bank that waits (the model's reading, log entries 106 and 122).
The model's: log entries 4, 9, 13, 79, 106, 107 and 122. -/
def Obligations.Resets : Prop :=
  ∀ (s : State) (straps trained : BitVec 2) (vdone : BitVec 4) (lock steward testmode warm : Bool) (n cause a k : Nat)
      (g : Fin 4) (j : Fin 6) (b : Fin 16) (ws : List Word) (r : RegName) (ix : Nat × Nat × Nat),
    let idle := s.sys.lc = none ∧ s.pwr.op = none ∧ s.sys.bist.op = none ∧ s.sys.bist.fixing = false
    let balls : List OutEvent := .tdmLow :: if s.rb .pwrStatus 9 = true then [.thermN false] else []
    let fresh (t : State) : Prop := t.cores = State.reset.cores ∧ t.beams = State.reset.beams ∧ t.groups = State.reset.groups ∧
      t.ports = State.reset.ports ∧ t.dma = State.reset.dma ∧ t.hst = {} ∧ t.evt = {} ∧ t.tbl = {} ∧ t.blt = {} ∧
      t.aud = {} ∧ t.oat = {} ∧ t.census = {} ∧ t.now = 0 ∧ t.mode = 0 ∧ t.sys.warm = none ∧ t.pci = { perst := s.pci.perst } ∧
      t.gpio = { outside := s.gpio.outside } ∧ t.out = (if s.scanned = true then s.out else s.out ++ balls) ∧
      t.store.mem = s.store.mem ∧ t.store.poison = s.store.poison ∧ t.rd .gpioBank = s.rd .gpioBank ∧ t.pending = s.pending
    let fused (t : State) : Prop := idle → t.sys.fuses = s.sys.fuses ∧ t.pwr.flash = s.pwr.flash ∧ t.pwr.fuses = s.pwr.fuses ∧
      t.sys.bist.log = s.sys.bist.log ∧ t.sys.bist.fused = s.sys.bist.fused
    let settled := ∀ n, n < 16 → (s.beam n).plPend = none
    let protected_ := r = .cmpPlPal ∨ r ∈ plRegs
    let kept := r ∈ [RegName.hstLoss, .hstLossStampLo, .hstLossStampHi, .sysBootAddrLo, .sysBootAddrHi, .sysBootCtrl, .almHours,
      .cmpPleSeqLo, .cmpPleSeqHi, .cmpPleRegionBase, .cmpPleRegionSize, .cmpPleKeyid, .cmpPleNonce, .gpioBank] ∨ protected_
    let step := Instr.bootStepDone vdone trained lock
    let at_ (n : Nat) : Prop := s.sys.reset = .boot n warm cause
    let on (t : State) : Prop := t.sys.reset = if n < 9 then .boot (n + 1) warm cause else .up
    let copy (i : Nat) : Nat := (s.fuse (lcKey i)).toNat % 6
    s.does .coldReset (fun t => fresh t ∧ fused t ∧ t.sys.reset = .held ∧ t.ple = {} ∧ t.tmr = {} ∧
      (a ≠ addrOf .gpioBank 0 0 0 → t.getW a = State.reset.getW a)) ∧
    (s.sys.reset = .held → s.does (.sysResetNRelease straps testmode) fun t =>
      t = { s with sys := { s.sys with straps := straps.toNat, reset := if testmode = true then .stuck false else .boot 1 false 1 } }) ∧
    (s.sys.reset ≠ .held → exec (.sysResetNRelease straps testmode) s = .next s) ∧
    (s.sys.warm = none → s.sys.reset = .up → s.does (.warmResetRequest steward) fun t =>
      t = { s with sys := { s.sys with warm := some (if steward = true then 5 else 2) } }) ∧
    (s.sys.warm ≠ none ∨ s.sys.reset ≠ .up → exec (.warmResetRequest steward) s = .next s) ∧
    (s.sys.warm = some cause → s.does .warmResetBegin fun t => fresh t ∧ fused t ∧ t.sys.reset = .boot 1 true cause ∧
      t.tmr = { acc := s.tmr.acc } ∧ t.ple = { accepted := s.ple.accepted, old := t.ple.old } ∧ (settled → t.ple.old = s.ple.old) ∧
      (regAt a = some (r, ix) → kept → (protected_ → settled) → t.getW a = s.getW a) ∧
      ((s.beam b).plPend = some (k, ws) → (∀ i, i < 7 → t.rd (plRegs.getD i .cmpPlCtrl) b = ws.getD i 0) ∧
        ∀ i, i < 32 → t.rd .cmpPlPal b i = ws.getD (7 + i) 0) ∧
      (regAt a = some (r, ix) → ¬kept → t.getW a = State.reset.getW a)) ∧
    (s.sys.warm = none → exec .warmResetBegin s = .next s) ∧
    (at_ n → n ≠ 2 ∨ lock = true → s.does step on) ∧
    (at_ 2 → lock = false → s.does step fun t => t.sys.reset = .stuck true ∧ t.sys.mgmtUp = false ∧ t.mode = s.mode) ∧
    ((∀ n w c, s.sys.reset ≠ .boot n w c) → exec step s = .next s) ∧
    (at_ 1 → s.does step fun t => t.sys.mgmtUp = true ∧ t.rd .sysId = s.fuse (addrOf .sysId 0 0 0) ∧
      t.rd .sysSerialLo = s.fuse (addrOf .sysSerialLo 0 0 0) ∧ t.rd .sysSerialHi = s.fuse (addrOf .sysSerialHi 0 0 0) ∧
      t.lcState = min (copy 0) (copy 1) ∧ t.rb .sysLcStatus 5 = decide (copy 0 ≠ copy 1)) ∧
    (at_ 2 → lock = true → s.pci.perst = false → s.pci.linkUp = false → s.does step fun t =>
      ∃ rate w, 1 ≤ rate ∧ rate ≤ 5 ∧ w ≤ 4 ∧ t.pci = { s.pci with linkUp := true, rate, width := 2 ^ w }) ∧
    (at_ 2 → lock = true → s.pci.perst = true → s.does step fun t => t.pci = s.pci) ∧
    (at_ 3 → s.does step fun t => t.rd .pwrLive g j = (cornerPlan g).getD j 0 ∧ t.rb .pwrRailStatus 12 g = false ∧
      (vdone.getLsbD g = true → (t.rail g).ready = true) ∧ (vdone.getLsbD g = false → t.rb .pwrRailStatus 14 g = true)) ∧
    (at_ 4 → s.does step fun t => t.rf .bistRepairStatus 9 0 = s.sys.bist.log.countP (·.isSome) % 1024) ∧
    (at_ 5 → warm = false → s.does step fun t => t.store.mem = [] ∧ t.store.poison = []) ∧
    (at_ 5 → warm = true → s.lcState ≠ 5 → s.does step fun t => t.store = s.store) ∧
    (at_ 5 → s.does step fun t => trained.toNat ≠ 3 → t.rb .sysBootStatus 9 = true) ∧
    (at_ 6 → warm = true → s.does step fun t => t.regs = s.regs) ∧
    (at_ 7 → s.does step fun t => t.rd .sysResetCause = BitVec.ofNat 32 cause) ∧
    (at_ 8 → s.rb .sysBootCtrl 2 = false ∨ s.rb .sysBootCtrl 1 = true → s.does step fun t => t.cores = s.cores ∧ t.regs = s.regs) ∧
    (at_ 8 → s.rb .sysBootCtrl 2 = true → s.rb .sysBootCtrl 1 = false → s.does step fun t =>
      t.rf .sysBootStatus 2 0 = 3 ∨ (t.rf .sysBootStatus 2 0 = 4 ∧ 1 ≤ t.rf .sysBootStatus 6 3 ∧ ∀ k, 16 ≤ k → k < 20 → t.core k = {})) ∧
    (at_ 9 → s.does step fun t => t.mode = 1 ∧ t.pwr.watch = some (s.now, s.rf .pwrCfg 23 16) ∧ t.pwr.windowAt = s.now ∧
      t.pwr.sampleAt = s.now ∧ t.sys.reset = .up)

/-- R389, R390, R244: a core held in reset has empty memories; the boot engine resets every steward core, fetches the image and checks
its form and its size, places its sections, and starts the cores that it names, unless the key, the signature or the sequence number fails.
The model's: log entries 4, 40 and 105. -/
def Obligations.StewardBoot : Prop :=
  ∀ (s : State) (mask : BitVec 4) (k : Fin 4) (image : List Byte) (key j i : Nat),
    let state := s.rf .sysBootStatus 2 0
    let free := s.mode ≠ 0 ∧ s.mode ≠ 4 ∧ s.lcState ≠ 5 ∧ state ≠ 1 ∧ state ≠ 2
    let reset (t : State) (k : Nat) : Prop := t.core (16 + k) = {}
    let fetching (t : State) : Prop := t.rf .sysBootStatus 8 0 = 1 ∧ (∀ k, k < 4 → reset t k) ∧
      (s.rb .sysBootCtrl 1 = true → s.pci.busMaster = true → s.scanned = false →
        ∃ es, t.out = s.out ++ es ++ [.hostRead (BitVec.ofNat 64 (s.addr64 .sysBootAddrLo .sysBootAddrHi)) 320])
    let fails (t : State) (r : Nat) : Prop := t.rf .sysBootStatus 2 0 = 4 ∧ t.rf .sysBootStatus 6 3 = r ∧ ∀ k, k < 4 → reset t k
    let hosted := state = 1 ∧ s.rb .sysBootCtrl 1 = true
    let f (at_ n : Nat) : Nat := descField image at_ n
    let sections := f 28 4
    let core := f (32 + 16 * j) 1
    let mem := f (33 + 16 * j) 1
    let off := f (36 + 16 * j) 4
    let p := s.sys.image
    let keyAt := 320 + descField p 24 4
    let matches_ (k : Nat) : Prop := (k = 1 ∨ k = 2) ∧ s.admits k = true ∧ s.digestIs (k - 1) (keyDigest p keyAt) = true
    let admitted := matches_ key ∧ (key = 2 → ¬matches_ 1)
    let sig := signedAt p keyAt
    let floor := s.floor (key - 1)
    let named (k : Nat) : Prop := (descField p 6 1).testBit k = true ∧ s.rb .sysScCtrl k = false
    let heads := f 0 4 = 0x4C4E4146 ∧ f 4 2 = 1 ∧ 1 ≤ sections ∧ sections ≤ 16
    s.does (.scReset mask) (fun t => t.rf .sysScCtrl 3 0 = mask.toNat ∧
      if mask.getLsbD k = true then reset t k else t.core (16 + k) = s.core (16 + k)) ∧
    (free → s.does (.scReload mask) fun t => t.rf .sysScCtrl 3 0 = mask.toNat ∧ fetching t) ∧
    (¬free → s.does (.scReload mask) fun t => t.rd .sysReject = BitVec.ofNat 32 (0x40 + 2 ^ 31)) ∧
    (free → s.does .bootGo fetching) ∧
    (¬free → s.does .bootGo fun t => t = s.reject (addrOf .sysBootCtrl 0 0 0)) ∧
    (state ≠ 1 → exec (.bootImageFetched (some image)) s = .next s) ∧
    (hosted → s.does (.bootImageFetched none) fun t => fails t 1) ∧
    (hosted → s.pci.busMaster = true → ¬heads → s.does (.bootImageFetched (some image)) fun t => fails t 2) ∧
    (hosted → s.pci.busMaster = true → imageFormat image ≠ 0 → s.does (.bootImageFetched (some image)) fun t =>
      fails t (imageFormat image)) ∧
    (hosted → s.pci.busMaster = true → imageFormat image = 0 → s.does (.bootImageFetched (some image)) fun t =>
      t.rf .sysBootStatus 2 0 = 2 ∧ t.sys.image = image ∧ heads ∧ f 24 4 ≤ 524288 ∧
      (j < sections → 4 * i < f (40 + 16 * j) 4 → core ≤ 3 ∧ mem ≤ 1 ∧
        (t.core (16 + core)).tcmWord (0x10000 * mem + off + 4 * i) = BitVec.ofNat 32 (f (320 + f (44 + 16 * j) 4 + 4 * i) 4))) ∧
    (state ≠ 2 → exec .bootImageChecked s = .next s) ∧
    (state = 2 → ¬matches_ 1 → ¬matches_ 2 → s.does .bootImageChecked fun t => fails t 4) ∧
    (state = 2 → admitted → sig = false → s.does .bootImageChecked fun t => fails t 5) ∧
    (state = 2 → admitted → sig = true → descField p 16 8 < floor → s.does .bootImageChecked fun t => fails t 6) ∧
    (state = 2 → admitted → sig = true → floor ≤ descField p 16 8 → s.does .bootImageChecked fun t =>
      t.rf .sysBootStatus 2 0 = 3 ∧ t.rf .sysBootStatus 6 3 = 0 ∧ t.rf .sysBootStatus 8 7 = key ∧
      t.rd .sysBootKeyid = BitVec.ofNat 32 (descField p 8 4) ∧ t.addr64 .sysBootSeqLo .sysBootSeqHi = descField p 16 8 ∧
      (named k → s.mode = 7 → (t.core (16 + k)).run = .halted) ∧
      (named k → s.mode ≠ 7 → (t.core (16 + k)).run = .running ∧ (t.core (16 + k)).pc = 0x80 ∧ (t.core (16 + k)).vbase = 0 ∧
        (t.core (16 + k)).pipeX = (descField p 7 1).testBit k ∧ (t.core (16 + k)).dtcm = (s.core (16 + k)).dtcm ∧
        (t.core (16 + k)).itcm = (s.core (16 + k)).itcm) ∧
      (¬named k → reset t k))


/-- R391 to R394, R177, R404: a life-cycle command begins in Provisioning or Ember while none runs, asks for its operand, and ends with
the result of its first failed check or with its effect: the next state, a sealed digest, a raised rollback minimum, a cleared PL
region; the management port answers with the words of its table, least significant byte first, wakes the device when enabled,
and triggers a warm reset on the value 0xA5 alone.
The model's: log entries 4, 40, 80 and 105. -/
def Obligations.LifeCycle : Prop :=
  ∀ (s : State) (p : List Byte) (y : Nat) (r : RegName) (value : Byte) (a : Nat) (ix : Nat × Nat × Nat),
    let st := s.lcState
    let up := s.sys.mgmtUp = true
    let open_ := (s.mode = 1 ∨ s.mode = 5) ∧ s.rb .sysLcStatus 6 = false
    let asked (n : Nat) : List OutEvent := if n = 0 then [] else
      [.hostRead (BitVec.ofNat 64 (s.addr64 .sysLcAddrLo .sysLcAddrHi)) n]
    let command (i : Instr) (c n : Nat) : Prop :=
      (open_ → s.does i fun t => t.sys.lc = some c ∧ t.rb .sysLcStatus 6 = true ∧ t.lcState = st ∧
        (n = 0 ∨ (s.pci.busMaster = true ∧ s.scanned = false) → t.out = s.out ++ asked n)) ∧
      (¬open_ → s.does i fun t => t = s.reject (addrOf .sysLcCmd 0 0 0))
    let ended (t : State) (result : Nat) : Prop :=
      t.sys.lc = none ∧ t.rb .sysLcStatus 6 = false ∧ t.rf .sysLcStatus 10 7 = result
    let ends (c : Nat) (operand : Option (List Byte)) (q : State → Prop) : Prop :=
      s.sys.lc = some c → s.does (.lcDone operand) q
    let fails (c : Nat) (operand : Option (List Byte)) (result : Nat) : Prop :=
      ends c operand fun t => ended t result ∧ t.sys.fuses = s.sys.fuses ∧ t.lcState = st ∧ t.sys.warm = s.sys.warm
    let moves (c : Nat) (operand : Option (List Byte)) (n : Nat) : Prop :=
      ends c operand fun t => ended t 0 ∧ t.lcState = n ∧ (∀ j, j < 2 → t.fuse (lcKey j) = BitVec.ofNat 32 n) ∧
        (t.sys.warm = if n ≤ 3 then s.sys.warm else if s.sys.warm = none ∧ s.sys.reset = .up then some 6 else s.sys.warm)
    let read := s.pci.busMaster = true
    let seals (c d : Nat) : Prop :=
      fails c none 1 ∧ (s.pci.busMaster = false → fails c (some p) 1) ∧ (read → st ≠ 2 → fails c (some p) 2) ∧
      (read → st = 2 → s.sealedDigest d = true → fails c (some p) 3) ∧
      (read → st = 2 → s.sealedDigest d = false → s.freeSlot d = none → fails c (some p) 8) ∧
      (read → st = 2 → s.sealedDigest d = false → s.freeSlot d ≠ none → ends c (some p) fun t => ended t 0 ∧
        t.sealedDigest d = true ∧ t.rb .sysLcStatus (d + 2) = true ∧
        ∃ j, j < 2 ∧ ∀ k, k < 12 → t.fuse (digestKey d j k) = BitVec.ofNat 32 (descField p (4 * k) 4))
    let key := s.rf .sysBootStatus 8 7 - 1
    let running := s.rf .sysBootStatus 2 0 = 3
    let f (at_ n : Nat) : Nat := descField p at_ n
    let formed (target : Nat) : Prop := f 0 4 = 0x4E4B4F54 ∧ f 4 2 = 1 ∧ f 6 1 = target ∧ f 7 1 = 0 ∧ f 20 44 = 0
    let keyOk := s.digestIs 2 (keyDigest p 64)
    let sigOk := signedAt p 64
    let bound := f 8 8 = s.addr64 .sysSerialLo .sysSerialHi ∧ f 16 4 = (s.rd .cmpPleNonce).toNat
    let token (c target : Nat) (q : List Byte → Prop) : Prop :=
      fails c none 1 ∧ (read → ¬formed target → fails c (some p) 4) ∧ (read → formed target → keyOk = false → fails c (some p) 5) ∧
      (read → formed target → keyOk = true → sigOk = false → fails c (some p) 6) ∧
      (read → formed target → keyOk = true → sigOk = true → ¬bound → fails c (some p) 7) ∧
      (read → formed target → keyOk = true → sigOk = true → bound → q p)
    let base := s.rf .cmpPleRegionBase 15 0 * 2 ^ 20
    let region := s.rf .cmpPleRegionSize 11 0 * 2 ^ 20
    let wakes := s.rb .sysWake 9 = true ∧ s.asleep = true
    let reads (i : Instr) (regs : List RegName) : Prop :=
      (up → s.scanned = false → s.does i fun t =>
        (∃ es, t.out = s.out ++ es ++ [.mgmt (regs.flatMap (fun r => bytesLE 4 (s.rd r).toNat))] ∧ (¬wakes → es = [])) ∧
        (wakes → t.rb .sysWakeStatus 3 = true ∧ (s.mode = 4 → t.sys.waking = true)) ∧
        (¬wakes → t = { s with out := t.out })) ∧
      (¬up → exec i s = .next s)
    command .provision 1 0 ∧ command .sealSteward 2 48 ∧ command .sealPl 3 48 ∧ command .deploy 4 0 ∧ command .raiseFloor 5 0 ∧
    command .lcReturn 6 257 ∧ command .retire 7 (if st = 3 then 257 else 0) ∧
    (s.sys.lc = none → ∀ o, exec (.lcDone o) s = .next s) ∧
    (st = 1 → moves 1 none 2) ∧ (st ≠ 1 → fails 1 none 2) ∧
    seals 2 1 ∧ seals 3 2 ∧
    (st = 2 → s.sealedDigest 2 = true → moves 4 none 3) ∧ (st ≠ 2 ∨ s.sealedDigest 2 = false → fails 4 none 2) ∧
    (st ≠ 2 → st ≠ 3 → fails 5 none 2) ∧ (st = 2 ∨ st = 3 → ¬running → fails 5 none 9) ∧
    (st = 2 ∨ st = 3 → running → s.floorsUsed key = 32 → fails 5 none 8) ∧
    (st = 2 ∨ st = 3 → running → s.floorsUsed key < 32 → ends 5 none fun t => ended t 0 ∧
      t.floor key = s.addr64 .sysBootSeqLo .sysBootSeqHi ∧ t.rf .sysLcStatus 16 11 = 31 - s.floorsUsed key) ∧
    (read → st ≠ 3 → fails 6 (some p) 2) ∧
    (st = 3 → token 6 4 fun p => moves 6 (some p) 4 ∧ ends 6 (some p) fun t =>
      (base ≤ y → y < base + region → memGet t.store.mem y = 0) ∧ (y < base ∨ base + region ≤ y → memGet t.store.mem y = memGet s.store.mem y) ∧
      (regAt a = some (r, ix) → r = .cmpPlPal ∨ r ∈ plRegs → t.getW a = 0) ∧ ∀ n, n < 16 → (t.beam n).plPend = none) ∧
    (st = 2 ∨ st = 4 → moves 7 none 5) ∧ (st ≠ 2 → st ≠ 3 → st ≠ 4 → fails 7 none 2) ∧
    (st = 3 → token 7 5 fun p => moves 7 (some p) 5) ∧
    reads .mgmtReadIdentity [.sysId, .sysStep, .sysSerialLo, .sysSerialHi] ∧ reads .mgmtReadMode [.sysMode, .sysLcStatus] ∧
    reads .mgmtReadThermal [.pwrTmax, .pwrTotal] ∧ reads .mgmtReadResetCause [.sysResetCause, .almHours] ∧
    reads .mgmtReadBoot [.sysBootStatus, .sysBootKeyid, .sysBootSeqLo, .sysBootSeqHi] ∧
    (up → value = 0xA5 → s.rb .sysMgmtCtrl 0 = true → s.sys.warm = none → s.sys.reset = .up → s.does (.warmReset value) fun t =>
      t.sys.warm = some 3) ∧
    (up → value ≠ 0xA5 ∨ s.rb .sysMgmtCtrl 0 = false → s.does (.warmReset value) fun t => t.sys.warm = s.sys.warm ∧
      (wakes → t.rb .sysWakeStatus 3 = true ∧ (s.mode = 4 → t.sys.waking = true)) ∧ (¬wakes → t = s)) ∧
    (¬up → exec (.warmReset value) s = .next s)

/-- R423, R424, R386, R387: an instruction becomes current in the TAP; one that takes the balls from the functional logic ends every
Active port and the PCI Express link, as a host loss of cause 4; the debug instructions act in the life-cycle states that permit them
once the fuses are sensed, and are BYPASS elsewhere; LC_MANUFACTURE moves a Blank device with a sealed Kamnor digest.
The model's: log entries 4 and 81. -/
def Obligations.TestPort : Prop :=
  ∀ (s : State) (p : Fin 8) (c : Fin 20) (k : Fin 15),
    let takes (op : Nat) : Prop := op = 0 ∨ op = 4 ∨ op = 5 ∨ op = 6 ∨ op = 7
    let m := s.mode
    let only (op : Nat) (t : State) : Prop := t = { s with sys := { s.sys with tapIr := op } }
    let loads (i : Instr) (op : Nat) : Prop :=
      (s.scanned = true ∨ ¬takes op → s.does i (only op)) ∧
      (s.scanned = false → takes op → s.does i fun t => t.sys.tapIr = op ∧ t.scanned = true ∧ t.out = s.out ∧
        (t.portState p = if s.portState p = 5 then 1 else s.portState p) ∧ t.pci.linkUp = false ∧ t.pci.busMaster = false ∧
        (∀ q, q < 64 → (t.ring q).begun = (s.ring q).begun ∨ (s.ring q).waiting ≠ [] ∨ ∃ i d, (s.ring q).hold = some (.hostWrite i d)) ∧
        t.hst = { rings := t.hst.rings } ∧
        (m ≠ 0 → m ≠ 6 → t.rf .hstLoss 3 0 = 4) ∧ (m ≠ 0 → m ≠ 7 → s.asleep = false → t.mode = 6) ∧
        (m = 7 → s.asleep = false → t.mode = 7 ∧ t.rb .sysMode 6 = true))
    let sensed := s.sys.reset = .up ∨ s.sys.reset = .stuck true ∨ ∃ n w x, s.sys.reset = .boot n w x ∧ n ≠ 1
    let permitted := sensed ∧ (s.lcState ≤ 1 ∨ s.lcState = 4)
    let halts := s.sys.aonClock = true ∧ s.sys.entering = false ∧ (m = 1 ∨ m = 2 ∨ m = 3 ∨ m = 5 ∨ m = 6)
    let goes := (s.core c).run = .running ∨ ((s.core c).run = .waiting ∧ (s.core c).inWindow = false)
    let sealed := sensed ∧ s.lcState = 0 ∧ s.sealedDigest 0 = true
    loads .tapReset 0x01 ∧ loads .extest 0x00 ∧ loads .idcode 0x01 ∧ loads .samplePreload 0x02 ∧ loads .extestPulse 0x04 ∧
    loads .extestTrain 0x05 ∧ loads .clamp 0x06 ∧ loads .highz 0x07 ∧ loads .bypass 0xFF ∧
    (permitted → loads (.stewardDebugAccess k) (0x31 + k.val)) ∧
    (¬permitted → loads (.stewardDebugAccess k) 0xFF ∧ loads .dbgHalt 0xFF ∧ loads .dbgResume 0xFF ∧ loads .warm 0xFF) ∧
    (permitted → halts → s.does .dbgHalt fun t => t.sys.tapIr = 0x20 ∧ t.mode = 7 ∧ t.rf .sysMode 5 3 = m ∧
      (goes → (t.core c).run = .halted ∧ (t.core c).why = 7) ∧ (¬goes → t.core c = s.core c)) ∧
    (permitted → ¬halts → loads .dbgHalt 0x20) ∧
    (permitted → m = 7 → s.does .dbgResume fun t => t.sys.tapIr = 0x21 ∧ t.rb .sysDbg 0 = false ∧ t.rb .sysMode 6 = false ∧
      (s.rb .sysMode 6 = true → t.mode = 6) ∧ (s.rb .sysMode 6 = false → s.rf .sysMode 5 3 = 1 → t.mode = 1)) ∧
    (permitted → m ≠ 7 → loads .dbgResume 0x21) ∧
    (permitted → s.does .warm fun t => t = { s with sys := { s.sys with
      tapIr := 0x22, warm := if s.sys.warm = none ∧ s.sys.reset = .up then some 4 else s.sys.warm } }) ∧
    (sealed → s.does .lcManufacture fun t => t.sys.tapIr = 0x30 ∧ t.lcState = 1 ∧
      ∀ j, j < 2 → t.fuse (lcKey j) = 1) ∧
    (¬sealed → loads .lcManufacture 0xFF)

/-- R397 to R409: GO fetches a program where the access level permits, after the slice that runs; a program runs when its form, its
access, its slices' time, its key and its signature pass, in that order; a slice begins when the engine, the ledger, the mode and its
beam permit; what follows a slice, a fault, a pre-emption and a pause is as the program says; a repair slice adds its entry to the
log; OP 1 repairs the recorded fault, and OP 2 fuses the log at ACCESS 2.
The model's: log entries 4, 13, 40, 77, 82, 105 and 119. -/
def Obligations.SelfTest : Prop :=
  ∀ (s : State) (p : List Byte) (hit : Bool) (e : BistEntry) (q : BistFault) (r : Repair) (rest : List Repair) (from_ : Nat)
      (fault : Option Repair) (b : Fin 16),
    let x := s.sys.bist
    let access := s.rf .bistStatus 8 7
    let st := s.rf .bistStatus 2 0
    let spaceHost := s.rb .bistProgCtrl 2 = true
    let i := s.rf .bistStatus 16 9
    let busy := x.slice = true ∧ x.fixing = false
    let ended (t : State) (result : Nat) : Prop := t.rf .bistStatus 2 0 = 5 ∧ t.rf .bistStatus 6 3 = result ∧
      t.sys.bist.entries = [] ∧ t.sys.bist.pausing = none ∧ t.sys.bist.stop = false ∧ t.sys.bist.goNext = false
    let fetching (t : State) : Prop := t.rf .bistStatus 6 0 = 1 ∧ t.rf .bistStatus 16 9 = 0
    let asked := OutEvent.hostRead (BitVec.ofNat 64 (s.addr64 .bistProgLo .bistProgHi)) 64
    let f (at_ n : Nat) : Nat := descField p at_ n
    let n := f 6 2
    let signed := (f 8 1).testBit 0 = true
    let repeats := (f 8 1).testBit 1 = true
    let entry (j : Nat) : BistEntry := bistEntryOf p j
    let formed := f 0 4 = 0x54534942 ∧ f 4 2 = 1 ∧ 1 ≤ n ∧ n ≤ 256 ∧ f 8 1 < 4 ∧ f 9 3 = 0 ∧ f 20 44 = 0 ∧
      (repeats → 1 ≤ f 16 4 ∧ f 16 4 ≤ 86400000) ∧
      ∀ j, j < n → (entry j).cls ≤ 6 ∧ (entry j).part < bistParts (entry j).cls ∧ (entry j).unit < bistUnits (entry j).cls ∧
        (entry j).alg ≤ 1 ∧ f (67 + 16 * j) 1 < 32 ∧ f (76 + 16 * j) 4 = 0 ∧ 1 ≤ (entry j).rows ∧
        ((entry j).offline = true → (entry j).rows ≤ 1048576) ∧ (entry j).first + (entry j).rows ≤ bistRows (entry j).cls
    let allowed := access = 2 ∨ (signed ∧ ∀ j, j < n → (entry j).offline = false)
    let short := ∀ j, j < n → (entry j).offline = true ∨ ((entry j).rows ≤ 64 ∧ s.inBudget (s.sliceTime (entry j)) = true)
    let keyAt := 64 + 16 * n
    let admitted := signed → ∃ k, 1 ≤ k ∧ k ≤ 2 ∧ s.admits k = true ∧ s.digestIs (k - 1) (keyDigest p keyAt) = true
    let verified := signed → signedAt p keyAt = true
    let host := st = 1 ∧ spaceHost ∧ s.pci.busMaster = true
    let fetched (c : State → Prop) : Prop := s.does (.bistProgFetched (some p)) c
    let current := st = 3 ∧ x.entries[i]? = some e
    let gate := s.rb .bistCtrl 0 = true ∧ s.rf .pwrStatus 1 0 ≠ 2 ∧ s.mode ≠ 0 ∧ s.mode ≠ 4 ∧ x.slice = false ∧ s.retryDue = true
    let quiet (e : BistEntry) : Prop := e.offline = true ∨ s.runMode = 5 ∨ s.boundBeam e = none ∨
      (s.boundBeam e = some b.val ∧ ((s.beam b).run = .stopped ∨ (s.beam b).curKind = .repeated))
    let slow := e.offline = false ∧ s.boundBeam e ≠ none ∧ s.inBudget (s.sliceTime e) = false
    let count (t : State) (k n : Nat) : Prop := t.rd .bistCount k = countWord (s.rd .bistCount k) n
    let done (fs : List BistFault) : Instr := .bistSliceEnd (.done fs) false false
    let cut : Instr := .bistSliceEnd .preempted false hit
    let unskipped (row : Nat) : Prop := s.bistSkips e row = false
    let later (t : State) : Prop := t.sys.bist.retry = some (s.now, 400 * s.rf .bistCtrl 15 8)
    let still (t : State) : Prop := t.store.mem = s.store.mem ∧ t.store.err = s.store.err ∧ t.store.poison = s.store.poison ∧
      t.tbl = s.tbl ∧ ∀ j, (t.core j).itcm = (s.core j).itcm ∧ (t.core j).dtcm = (s.core j).dtcm
    let past (from_ : Nat) : Prop := x.pause * 1000000 ≤ (s.now + 2 ^ 64 - from_ % 2 ^ 64) % 2 ^ 64
    let spare (k : Nat) : Prop := s.freeSpare e.cls e.part e.unit false = some k
    let wait := s.rb .bistRepairStatus 19 = true
    let w := s.rd .bistFailHi
    let repaired (t : State) (result : Nat) : Prop := t.sys.bist.op = none ∧ t.rb .bistRepairStatus 19 = false ∧
      t.rf .bistRepairStatus 21 20 = result
    (access = 0 → s.does .bistGo fun t => t = s.reject (addrOf .bistProgCtrl 0 0 0)) ∧
    (access ≠ 0 → st ≠ 3 → s.does .bistGo fun t => fetching t ∧
      (spaceHost → s.pci.busMaster = true → s.scanned = false → t.out = s.out ++ [asked])) ∧
    (access ≠ 0 → st = 3 → busy → s.does .bistGo fun t => t = s.setBist { x with goNext := true }) ∧
    (access ≠ 0 → st = 3 → ¬busy → s.does .bistGo fun t => fetching t ∧ t.sys.bist.entries = []) ∧
    (st ≠ 3 → exec .bistStop s = .next s) ∧
    (st = 3 → busy → s.does .bistStop fun t => t = s.setBist { x with stop := true }) ∧
    (st = 3 → ¬busy → s.does .bistStop fun t => ended t 0) ∧
    (st ≠ 1 → exec (.bistProgFetched (some p)) s = .next s) ∧
    (st = 1 → spaceHost → s.does (.bistProgFetched none) fun t => ended t 1) ∧
    (host → ¬formed → fetched fun t => ended t 2) ∧
    (host → formed → ¬allowed → fetched fun t => ended t 3) ∧
    (host → formed → allowed → ¬short → fetched fun t => ended t 4) ∧
    (host → formed → allowed → short → ¬admitted → fetched fun t => ended t 5) ∧
    (host → formed → allowed → short → admitted → ¬verified → fetched fun t => ended t 6) ∧
    (host → formed → allowed → short → admitted → verified → fetched fun t => t.rf .bistStatus 2 0 = 3 ∧
      t.rd .bistKeyid = BitVec.ofNat 32 (f 12 4) ∧ t.sys.bist.entries = (List.range n).map entry ∧
      (t.sys.bist.repeated = true ↔ repeats) ∧ t.sys.bist.pause = f 16 4) ∧
    (¬gate → exec .bistSliceBegin s = .next s) ∧
    (gate → x.fix = [] → current → x.pausing = none → quiet e → ¬slow → s.does .bistSliceBegin fun t =>
      t = s.setBist { x with slice := true }) ∧
    (gate → x.fix = [] → current → x.pausing = none → quiet e → slow → s.does .bistSliceBegin fun t => count t 4 1 ∧
      t.sys.bist.slice = false) ∧
    (gate → x.fix = r :: rest → quiet r.entry → s.does .bistSliceBegin fun t => t = s.setBist { x with slice := true, fixing := true }) ∧
    (x.slice = false → exec (done []) s = .next s) ∧
    (busy → current → x.stop = false → x.goNext = false → i + 1 < x.entries.length → i + 1 < 256 → s.does (done []) fun t =>
      t.sys.bist.slice = false ∧ t.rf .bistStatus 16 9 = i + 1 ∧ t.sys.bist.cut = 0 ∧ count t 0 1 ∧ count t 6 0) ∧
    (busy → current → x.stop = false → x.goNext = false → i + 1 = x.entries.length → x.repeated = true → s.does (done []) fun t =>
      t.sys.bist.slice = false ∧ t.rf .bistStatus 16 9 = 0 ∧ t.sys.bist.pausing = some s.now) ∧
    (busy → current → x.stop = true ∨ (i + 1 = x.entries.length ∧ x.repeated = false) → x.goNext = false → s.does (done []) fun t =>
      ended t 0) ∧
    (busy → current → x.goNext = true → s.does (done []) fetching) ∧
    (busy → current → e.first ≤ q.row.toNat → q.row.toNat < e.first + e.rows → unskipped q.row.toNat → s.does (done [q]) fun t =>
      count t 6 1 ∧ t.rd .bistFailLo = BitVec.ofNat 32 q.row.toNat ∧
      (e.cls < 16 → e.part < 64 → e.unit < 64 → t.rb .bistFailHi 31 = true ∧ t.rf .bistFailHi 3 0 = e.cls ∧ t.rf .bistFailHi 9 4 = e.part ∧
        t.rf .bistFailHi 15 10 = e.unit ∧ t.rf .bistFailHi 27 18 = q.bit.val ∧
        t.rf .bistFailHi 29 28 = if q.column = true then 2 else 1) ∧
      (∀ k, s.rb .bistCtrl 1 = true → q.column = false → e.cls ≠ 6 → spare k → x.log.length + x.fix.length < 512 →
        t.sys.bist.fix = x.fix ++ [⟨e.cls, e.part, e.unit, false, q.row.toNat, k⟩]) ∧
      (s.rb .bistCtrl 1 = false → t.sys.bist.fix = x.fix)) ∧
    (busy → x.stop = false → x.goNext = false → x.cut < 15 → s.does cut fun t => still t ∧ t.sys.bist.slice = false ∧
      t.sys.bist.cut = x.cut + 1 ∧ later t ∧ count t 2 1 ∧ t.sys.bist.entries = x.entries ∧ t.rd .bistStatus = s.rd .bistStatus) ∧
    (busy → current → x.stop = false → x.goNext = false → 15 ≤ x.cut → s.does cut fun t => still t ∧ t.sys.bist.slice = false ∧
      count t 2 1 ∧ count t 3 1 ∧ (i + 1 < x.entries.length → i + 1 < 256 → t.rf .bistStatus 16 9 = i + 1 ∧ t.sys.bist.cut = 0)) ∧
    (x.slice = true → x.fixing = true → x.fixCut < 15 → s.does cut fun t => still t ∧ t.sys.bist.slice = false ∧ t.sys.bist.fixing = false ∧
      t.sys.bist.fix = x.fix ∧ t.sys.bist.fixCut = x.fixCut + 1 ∧ later t ∧ count t 2 1 ∧ count t 3 0) ∧
    (x.slice = true → x.fixing = true → x.fix = r :: rest → 15 ≤ x.fixCut → s.does cut fun t => still t ∧ t.sys.bist.slice = false ∧
      t.sys.bist.fixing = false ∧ t.sys.bist.fix = rest ∧ t.sys.bist.fixCut = 0 ∧ t.sys.bist.log = x.log ∧ count t 2 1 ∧ count t 3 1) ∧
    (x.slice = true → x.fixing = true → x.fix = r :: rest → s.does (done []) fun t => t.sys.bist.slice = false ∧
      t.sys.bist.fixing = false ∧ t.sys.bist.fix = rest ∧ t.sys.bist.log = x.log ++ [some r]) ∧
    (x.slice = true → s.does (.bistSliceEnd (.done []) true false) fun t => count t 1 1) ∧
    (x.pausing = some from_ → past from_ → s.does .bistPauseExpiry fun t => t = s.setBist { x with pausing := none }) ∧
    (x.pausing = none ∨ (x.pausing = some from_ ∧ ¬past from_) → exec .bistPauseExpiry s = .next s) ∧
    (wait → s.does .bistRepairSoft fun t => t = s.reject (addrOf .bistRepairCtrl 0 0 0)) ∧
    (wait → s.does .bistRepairFuse fun t => t = s.reject (addrOf .bistRepairCtrl 0 0 0)) ∧
    (¬wait → s.does .bistRepairFuse fun t => t.sys.bist.op = some (2, none) ∧ t.rb .bistRepairStatus 19 = true) ∧
    (∀ k, ¬wait → bit w 31 = true → fld w 29 28 = 1 → fld w 3 0 ≠ 6 → x.log.length < 512 →
      s.freeSpare (fld w 3 0) (fld w 9 4) (fld w 15 10) false = some k → s.does .bistRepairSoft fun t =>
        t.rb .bistRepairStatus 19 = true ∧
        t.sys.bist.op = some (1, some ⟨fld w 3 0, fld w 9 4, fld w 15 10, false, s.rf .bistFailLo 23 0, k⟩)) ∧
    (¬wait → bit w 31 = false → s.does .bistRepairSoft fun t => t.sys.bist.op = some (1, none)) ∧
    (x.op = none → exec .repairDone s = .next s) ∧
    (x.op = some (1, some r) → s.does .repairDone fun t => repaired t 0 ∧ t.sys.bist.log = x.log ++ [some r]) ∧
    (x.op = some (2, fault) → access ≠ 2 → s.does .repairDone fun t => repaired t 2 ∧ t.sys.bist.fused = x.fused ∧ t.sys.bist.log = x.log) ∧
    (x.op = some (2, fault) → access = 2 → x.fused.length + x.log.length ≤ 256 → (∀ r, some r ∈ x.log → r.cls ≠ 6) →
      s.does .repairDone fun t => repaired t 0 ∧ t.sys.bist.fused = x.fused ++ x.log.filterMap id ∧ ∀ r, r ∈ t.sys.bist.log → r = none)


/-- A step with a command at the front of the queue is that command's effect on the state with the queue's rest: what the statements
say of commands holds of steps. -/
def Obligations.StepRunsCommand : Prop :=
  ∀ (s : State) (c : Instr) (rest : List Instr), step { s with pending := c :: rest } = exec c { s with pending := rest }

/-- With no command waiting, a step is one tick of 1 ns of the central fabric (the model's choice, log entry 3; R336): the count advances
while the fabric runs it, and nothing else acts but the timers and the events that they raise. -/
def Obligations.IdleStepTicks : Prop :=
  ∀ s : State, s.pending = [] → ∃ t, step s = .next t ∧ t.pending = [] ∧
    t.now = (if s.tmr.slow = false ∧ s.mode ≠ 0 then (s.now + 1) % 2 ^ 64 else s.now) ∧ s.onlyChanges t (raising [])

/-- R6, R14, R363, R388, R395, R398 and the field maps of the blocks: after cold reset the device is in Reset with its time base 0,
its registers at the values of their maps, its cores in reset with empty memories, its beams stopped, its ports Disabled, its
queues empty and the pattern store zero. The value of a register whose map gives none is the model's (log entries 10 and 11). -/
def Obligations.ResetValues : Prop :=
  let s := State.reset
  s.mode = 0 ∧ s.now = 0 ∧ s.rd .pwrStatus = 0x5 ∧ s.rd .pwrLedger = 1 ∧ s.rf .pwrCfg 9 0 = 100 ∧ s.rf .pwrCfg 23 16 = 10 ∧
  s.rf .pwrCap 7 0 = 140 ∧ s.rf .pwrCap 15 8 = 155 ∧ s.rf .pwrCap 23 16 = 5 ∧ s.rf .pwrTherm 7 0 = 95 ∧ s.rf .pwrTherm 15 8 = 102 ∧
  s.rf .pwrTherm 23 16 = 3 ∧ s.rb .almCtrl 0 = true ∧ s.rf .almCtrl 15 4 = 60 ∧ s.rf .almLeap 9 0 = 100 ∧ s.rf .bistCtrl 15 8 = 20 ∧
  s.rf .hstPoll 9 0 = 1 ∧ s.rf .hstPollCeil0 9 0 = 16 ∧ s.rf .hstPollCeil0 25 16 = 80 ∧
  (∀ n : Fin 16, s.rb .beamStatus 0 n = false) ∧ (∀ p : Fin 8, s.portState p = 0) ∧
  (∀ c : Fin 20, (s.core c).run = .reset ∧ (s.core c).itcm = [] ∧ (s.core c).dtcm = []) ∧
  (∀ a, memGet s.store.mem a = 0) ∧ (∀ q, s.queue q = []) ∧ s.pendingSrcs = [] ∧ s.pending = [] ∧ s.out = []

/-- The tables of the state after reset are in canonical form. -/
def Obligations.ResetCanonical : Prop := State.reset.canonical = true

/-- The canonical form of the register table and of the pattern store is an invariant of every step, whatever command it takes: equal
registers and equal memories stay equal data. -/
def Obligations.StepKeepsCanonical : Prop :=
  ∀ s t : State, s.canonical = true → step s = .next t → t.canonical = true

/-- Every command completes in every state, changes only the parts of the block that its footprint names, leaves the queue of the
commands that wait, and takes back nothing that has left the block.
The model's: log entries 4 and 12. -/
def Obligations.CommandsKeepToTheirParts : Prop :=
  ∀ (s : State) (i : Instr), ∃ t, exec i s = .next t ∧ s.onlyChanges t (footprint i) ∧ t.pending = s.pending ∧ s.out <+: t.out

/-- R205, R212: a Fanel instruction's word and the instruction are read from each other, with every bit of the word: encoding an instruction
of a core gives a word exactly when decoding that word on that core gives the instruction.
The model's: log entry 43. -/
def Obligations.FanelCodec : Prop :=
  ∀ (i : Instr) (c : Fin 20) (w : Word), encodeFanel i = some (c, w) ↔ decodeFanel c w = some i

/-- R212: words written out from the opcode tables stand for their instructions, one of each format, and the all-zero word and an OP that
no table lists stand for none. -/
def Obligations.FanelWords : Prop :=
  ∀ c : Fin 20, decodeFanel c 0x00082301 = some (.add c ⟨0, 0, 2, 1, 3⟩) ∧ decodeFanel c 0xFFFC0120 = some (.addi c ⟨-1, 0, 1⟩) ∧
    decodeFanel c 0x2468A526 = some (.movu c ⟨0x12345, 5⟩) ∧ decodeFanel c 0xFFF84150 = some (.beq c ⟨-2, 2, 1⟩) ∧
    decodeFanel c 0x00000158 = some (.j c 1) ∧ decodeFanel c 0x00C00565 = some (.loopi c ⟨3, 5, 1⟩) ∧
    decodeFanel c 0x00100170 = some (.callm c ⟨4, 1⟩) ∧ decodeFanel c 0x004440E2 = some (.mts c ⟨0, 17, 2, 0⟩) ∧
    decodeFanel c 0 = none ∧ decodeFanel c 0xFF = none
end

