-- ==== Sys2Proof/Laws/Bits.lean ====
section
/-! SUPPORT. Laws of bit fields: a field written reads back, and every other bit keeps its value. -/

namespace Sys2Proof.Machine

/-- Bit i of a word with field [hi:lo] written: the bit of v inside the field, else the bit of the word. -/
theorem getLsbD_setFld (w : Word) (hi lo v i : Nat) (h : lo ≤ hi) (h32 : hi < 32) :
    (setFld w hi lo v).getLsbD i = if lo ≤ i ∧ i ≤ hi then v.testBit (i - lo) else w.getLsbD i := by
  have hw : w.toNat < 2 ^ 32 := w.isLt
  obtain ⟨n, hn⟩ : ∃ n, n = hi + 1 - lo := ⟨_, rfl⟩
  have key : w.toNat - fld w hi lo * 2 ^ lo + v % 2 ^ n * 2 ^ lo =
      w.toNat % 2 ^ lo + 2 ^ lo * (v % 2 ^ n + 2 ^ n * (w.toNat / 2 ^ (hi + 1))) := by
    have e1 : w.toNat = w.toNat % 2 ^ lo + 2 ^ lo * (w.toNat / 2 ^ lo) := (Nat.mod_add_div _ _).symm
    have e2 : w.toNat / 2 ^ lo = w.toNat / 2 ^ lo % 2 ^ n + 2 ^ n * (w.toNat / 2 ^ lo / 2 ^ n) :=
      (Nat.mod_add_div _ _).symm
    have e3 : w.toNat / 2 ^ lo / 2 ^ n = w.toNat / 2 ^ (hi + 1) := by
      rw [Nat.div_div_eq_div_mul, ← Nat.pow_add]; congr 2; omega
    have e4 : fld w hi lo = w.toNat / 2 ^ lo % 2 ^ n := by rw [hn]; rfl
    rw [e4]
    rw [e3] at e2
    obtain ⟨x, hx⟩ : ∃ x, x = w.toNat / 2 ^ lo % 2 ^ n := ⟨_, rfl⟩
    obtain ⟨y, hy⟩ : ∃ y, y = w.toNat / 2 ^ (hi + 1) := ⟨_, rfl⟩
    obtain ⟨r, hr⟩ : ∃ r, r = w.toNat % 2 ^ lo := ⟨_, rfl⟩
    rw [← hx, ← hy] at e2
    rw [← hr, e2, Nat.mul_add] at e1
    rw [← hx, ← hy, ← hr, e1, Nat.mul_add, Nat.mul_comm x, Nat.mul_comm (v % 2 ^ n)]
    omega
  unfold setFld
  rw [← hn, key, BitVec.getLsbD_ofNat]
  by_cases hi32 : i < 32
  · have hlo : w.toNat % 2 ^ lo < 2 ^ lo := Nat.mod_lt _ (Nat.two_pow_pos _)
    have hv : v % 2 ^ n < 2 ^ n := Nat.mod_lt _ (Nat.two_pow_pos _)
    simp only [hi32, decide_true, Bool.true_and]
    rw [Nat.add_comm, Nat.testBit_two_pow_mul_add _ hlo, Nat.add_comm (v % 2 ^ n), Nat.testBit_two_pow_mul_add _ hv]
    simp only [Nat.testBit_mod_two_pow, Nat.testBit_div_two_pow]
    by_cases h1 : i < lo
    · have : ¬(lo ≤ i ∧ i ≤ hi) := by omega
      simp [h1, this, BitVec.getLsbD]
    · by_cases h2 : i - lo < n
      · have : lo ≤ i ∧ i ≤ hi := by omega
        simp [h1, h2, this]
      · have h3 : ¬(lo ≤ i ∧ i ≤ hi) := by omega
        have h4 : i - lo - n + (hi + 1) = i := by omega
        simp [h1, h2, h3, BitVec.getLsbD, h4]
  · have : ¬(lo ≤ i ∧ i ≤ hi) := by omega
    simp [hi32, this, BitVec.getLsbD_of_ge _ _ (Nat.le_of_not_lt hi32)]

/-- A field written reads back. -/
theorem fld_setFld_same (w : Word) (hi lo v : Nat) (h : lo ≤ hi) (h32 : hi < 32) :
    fld (setFld w hi lo v) hi lo = v % 2 ^ (hi + 1 - lo) := by
  apply Nat.eq_of_testBit_eq
  intro i
  have := getLsbD_setFld w hi lo v (i + lo) h h32
  unfold fld
  simp only [Nat.testBit_mod_two_pow, Nat.testBit_div_two_pow]
  by_cases hi' : i < hi + 1 - lo
  · have e : lo ≤ i + lo ∧ i + lo ≤ hi := by omega
    simp only [e, and_self, if_true, Nat.add_sub_cancel, BitVec.getLsbD] at this
    simp [hi', this]
  · simp [hi']

/-- A field that a write of another field does not meet. -/
theorem fld_setFld_other (w : Word) (hi lo v a b : Nat) (h : lo ≤ hi) (h32 : hi < 32) (d : a < lo ∨ hi < b) :
    fld (setFld w hi lo v) a b = fld w a b := by
  apply Nat.eq_of_testBit_eq
  intro i
  have := getLsbD_setFld w hi lo v (i + b) h h32
  unfold fld
  simp only [Nat.testBit_mod_two_pow, Nat.testBit_div_two_pow]
  by_cases hi' : i < a + 1 - b
  · have e : ¬(lo ≤ i + b ∧ i + b ≤ hi) := by omega
    simp only [e, if_false, BitVec.getLsbD] at this
    simp [hi', this]
  · simp [hi']

theorem bit_setFld (w : Word) (hi lo v i : Nat) (h : lo ≤ hi) (h32 : hi < 32) :
    bit (setFld w hi lo v) i = if lo ≤ i ∧ i ≤ hi then v.testBit (i - lo) else bit w i :=
  getLsbD_setFld w hi lo v i h h32

/-- A bit written reads back. -/
theorem bit_setBit_same (w : Word) (i : Nat) (b : Bool) (h : i < 32) : bit (setBit w i b) i = b := by
  rw [setBit, bit_setFld w i i _ i (Nat.le_refl _) h]
  cases b <;> simp

/-- Another bit keeps its value. -/
theorem bit_setBit_other (w : Word) (i j : Nat) (b : Bool) (h : i < 32) (hj : j ≠ i) :
    bit (setBit w i b) j = bit w j := by
  rw [setBit, bit_setFld w i i _ j (Nat.le_refl _) h, if_neg (by omega)]

theorem fld_setBit_other (w : Word) (i a b : Nat) (v : Bool) (h : i < 32) (d : a < i ∨ i < b) :
    fld (setBit w i v) a b = fld w a b := fld_setFld_other w i i _ a b (Nat.le_refl _) h d

theorem vget_eq {α : Type} {n : Nat} (v : Vector α n) (i : Nat) (d : α) : vget v i d = v.toArray[i]?.getD d := by
  unfold vget
  cases v
  simp only [Vector.getD]
  exact Array.getD_eq_getD_getElem?

theorem vget_vset_same {α : Type} {n : Nat} (v : Vector α n) (i : Nat) (x d : α) (h : i < n) :
    vget (vset v i x) i d = x := by
  rw [vget_eq]
  simp [vset, h]

theorem vget_vset_other {α : Type} {n : Nat} (v : Vector α n) (i j : Nat) (x d : α) (h : j ≠ i) :
    vget (vset v i x) j d = vget v j d := by
  rw [vget_eq, vget_eq]
  simp [vset, Array.getElem?_setIfInBounds, Ne.symm h]

end Sys2Proof.Machine
end

