-- ==== Sys2Proof/Laws/Parts.lean ====
section
/-! SUPPORT. Sets of parts as masks, and the part in which a register lies. -/

namespace Sys2Proof.Machine

/-- The number of a part. -/
def Part.index : Part → Nat
  | .sysRegs => 0
  | .hstRegs => 1
  | .evtRegs => 2
  | .tmrRegs => 3
  | .gpioRegs => 4
  | .pwrRegs => 5
  | .bistRegs => 6
  | .dmaRegs => 7
  | .bltRegs => 8
  | .audRegs => 9
  | .lnkRegs => 10
  | .beamRegs => 11
  | .tmapRegs => 12
  | .objRegs => 13
  | .bmpRegs => 14
  | .cmpRegs => 15
  | .lpRegs => 16
  | .tableRegs => 17
  | .oatRegs => 18
  | .ttRegs => 19
  | .commitRegs => 20
  | .pci => 21
  | .host => 22
  | .timers => 23
  | .events => 24
  | .store => 25
  | .tables => 26
  | .cores => 27
  | .beams => 28
  | .binning => 29
  | .groups => 30
  | .census => 31
  | .attributes => 32
  | .pl => 33
  | .ports => 34
  | .audio => 35
  | .blitter => 36
  | .dma => 37
  | .gpio => 38
  | .power => 39
  | .device => 40
  | .output => 41

theorem Part.index_inj {p q : Part} (h : p.index = q.index) : p = q := by
  cases p <;> cases q <;> first | rfl | exact absurd h (by decide)

/-- The parts of one mask are among those of another. -/
abbrev Sub (a m : Nat) : Prop := a &&& m = a

theorem Sub.mono {a b m : Nat} (hb : Sub b m) (ha : Sub a b) : Sub a m := by
  unfold Sub at *
  rw [← ha, Nat.and_assoc, hb]

theorem Sub.bit {a m k : Nat} (h : Sub a m) (hk : a.testBit k = true) : m.testBit k = true := by
  unfold Sub at h
  rw [← h, Nat.testBit_and] at hk
  exact (Bool.and_eq_true _ _ ▸ hk).2

/-- The mask of a list of parts. -/
def partMask : List Part → Nat
  | [] => 0
  | p :: l => 2 ^ p.index ||| partMask l

theorem testBit_partMask {p : Part} {l : List Part} (h : p ∉ l) : (partMask l).testBit p.index = false := by
  induction l with
  | nil => exact Nat.zero_testBit _
  | cons q l ih =>
    simp only [List.mem_cons, not_or] at h
    rw [partMask, Nat.testBit_or, ih h.2, Nat.testBit_two_pow, Bool.or_false]
    simp only [decide_eq_false_iff_not]
    exact fun e => h.1 (Part.index_inj e.symm)

/-- The part of a register. -/
def RegName.part : RegName → Part
  | .sysId | .sysStep | .sysSerialLo | .sysSerialHi | .sysReject | .sysMode | .sysModeReq | .sysDbg
  | .sysReset | .sysResetCause | .sysWake | .sysWakeStatus | .sysWakeTimeLo | .sysWakeTimeHi | .sysScCtrl
  | .sysScStatus | .sysBootCtrl | .sysBootAddrLo | .sysBootAddrHi | .sysBootStatus | .sysBootKeyid
  | .sysBootSeqLo | .sysBootSeqHi | .sysLcStatus | .sysLcCmd | .sysLcAddrLo | .sysLcAddrHi | .sysMgmtCtrl
  | .sysFdrop | .sysPsCtrl | .sysPsScrub | .sysPsCache | .sysPsStatus | .sysPsScrubPos | .sysPsOor
  | .sysPsInjectLo | .sysPsInjectHi | .sysPsInjectCtrl | .sysPsRes | .sysPsResmiss | .sysPsSCe1 | .sysPsSCe2
  | .sysPsSUe | .sysPsSPoison | .sysPsSLogLo | .sysPsSLogHi | .sysPsTblCe1 | .sysPsTblCe2 | .sysPsTblUe
  | .sysPsTblPoison | .sysPsTblLogLo | .sysPsTblLogHi => .sysRegs
  | .hstCtrl | .hstStatus | .hstReject | .hstDbBaseLo | .hstDbBaseHi | .hstWbBaseLo | .hstWbBaseHi | .hstPoll
  | .hstPollCeil0 | .hstPollCeil1 | .hstHb | .hstLoss | .hstLossStampLo | .hstLossStampHi | .hstLost
  | .hstBar2Offset | .hstEqBaseLo | .hstEqBaseHi | .hstEqCtrl | .hstEqStatus | .hstCrBaseLo | .hstCrBaseHi
  | .hstCrCtrl | .hstCrStatus | .hstCqBaseLo | .hstCqBaseHi | .hstCqCtrl | .hstCqStatus | .hstMsixAddrLo
  | .hstMsixAddrHi | .hstMsixData | .hstMsixMask | .hstMsixPba => .hstRegs
  | .evtCtrl | .evtReject | .evtStranded | .evtSpurious | .evtSwi | .evtCoreCtrl | .evtCoreStatus | .evtPend
  | .evtActive | .evtQRec | .evtQRes | .evtQStatus | .evtSrcCfg | .evtSrcCoal | .evtSrcStatus => .evtRegs
  | .tmrTbLo | .tmrTbHi | .tmrTbSetLo | .tmrTbSetHi | .tmrTbCtrl | .tmrReject | .tmrCmpValue | .tmrCmpPeriod
  | .tmrCmpCtrl | .tmrCmpStatus | .tmrCapCtrl | .tmrCapLo | .tmrCapHi | .tmrCapStatus | .tmrCapLog
  | .tmrItCtrl | .tmrItReload | .tmrItLoad | .tmrItCount | .tmrItExp => .tmrRegs
  | .gpioReject | .gpioBank | .gpioOut | .gpioSet | .gpioClr | .gpioPad | .gpioFilt | .gpioPCtrl | .gpioPIn => .gpioRegs
  | .pwrReject | .pwrStatus | .pwrLedger | .pwrCfg | .pwrCap | .pwrTherm | .pwrTotal | .pwrTmax | .pwrBeamMin
  | .pwrBeamTgt | .pwrIsl | .pwrTs | .pwrRailCfg | .pwrRailCtrl | .pwrRailStatus | .pwrRailRead | .pwrPlanW0
  | .pwrPlanW1 | .pwrPlanW | .pwrPlanCtrl | .pwrPlanStatus | .pwrLive | .pwrDat | .pwrPmbCtrl | .pwrPmbData
  | .pwrPmbStatus | .almCtrl | .almStampLo | .almStampHi | .almHours | .almLeap | .almLogCtrl | .almLogIdx
  | .almLogStatus | .almLogTorn | .almLogData | .almMId | .almMVal | .almMRef | .almMTed => .pwrRegs
  | .bistCtrl | .bistStatus | .bistReject | .bistProgLo | .bistProgHi | .bistProgCtrl | .bistKeyid
  | .bistCount | .bistFailLo | .bistFailHi | .bistRepairCtrl | .bistRepairStatus => .bistRegs
  | .dmaRun | .dmaReject | .dmaChCtrl | .dmaChStatus | .dmaChProgLo | .dmaChProgHi | .dmaChBlock | .dmaChBad
  | .dmaChBadFirst | .dmaChBadLast | .dmaChErr | .dmaChErrAddrLo | .dmaChErrAddrHi | .dmaChSigLast => .dmaRegs
  | .bltCtrl | .bltStatus | .bltReject | .bltStageBase | .bltStageSize | .bltEStatus | .bltEProgress
  | .bltDeny | .bltPoison | .bltDirect | .bltDirectCtrl | .bltDirectStatus => .bltRegs
  | .audCtrl | .audStatus | .audReject | .audClk | .audClkSpf | .audPhaseErr | .audSample | .audFrameSample
  | .audSwap | .audBusLive | .audBusOpt | .audFetchLate | .audVevBad | .audVevLate | .audXfadeCut
  | .audDataBad | .audVend | .audOc | .audTdmCtrl | .audTdmSlip | .audTdmFrameErr | .audLinkBase
  | .audFeedData | .audFeedStatus | .audFeedUnder | .audBusEnd | .audVeqW | .audVeqRes | .audVeqStatus | .audBusBq0
  | .audBusBq | .audBusBqen | .audBusComp | .audBusThresh | .audBusTime | .audBusDlyBase | .audBusDlyLen
  | .audBusFbwet | .audBusDry | .audBusGain | .audXp | .audV0 | .audV1 | .audV2 | .audV3 | .audV4 | .audV5
  | .audV6 | .audV7 => .audRegs
  | .lnkReject | .lnkRoute | .lnkPCtrl | .lnkPAudio | .lnkPRxCtrl | .lnkPStatus | .lnkPPeer | .lnkPPeerDepth
  | .lnkPPeerIdLo | .lnkPPeerIdHi | .lnkPGrade | .lnkPCredit | .lnkPLoad | .lnkPCount | .lnkPFecCe
  | .lnkPFecUe | .lnkPMasqCtrl | .lnkPMasqBeams | .lnkPMasqLine | .lnkPMasqPeriod | .lnkPMasqLimit
  | .lnkPMasqStatus => .lnkRegs
  | .beamCtrl | .beamClk | .beamClkFrac | .beamActive | .beamTotal | .beamHsync | .beamVsync | .beamCalends
  | .beamGenlock | .beamGenlockOfs | .beamGenlockWin | .beamVigil | .beamLineMatch | .beamStatus | .beamPos
  | .beamFrameLo | .beamFrameHi | .beamPhaseErr | .beamClkActual | .beamVigilFrames | .beamJumps
  | .beamReject => .beamRegs
  | .tmapCtrl | .tmapMapBase | .tmapTileBase | .tmapMapSize | .tmapScroll | .tmapVel | .tmapPal | .tmapMosaic
  | .tmapWinX | .tmapWinY | .tmapAffO | .tmapAffD | .tmapBadent => .tmapRegs
  | .objCtrl | .objOfsX | .objOfsY | .objPal | .objAlpha | .objWinX | .objWinY | .objSpanLimit | .objDebug
  | .objShedSpans | .objShedLines | .objBandDrop | .objXgroup | .objLateBands | .objPeak | .objShedLast
  | .objFrameShed | .objBinStatus | .objBinBands | .objBinSteals => .objRegs
  | .bmpCtrl | .bmpBaseY | .bmpBaseC | .bmpPitch | .bmpSize | .bmpSrc | .bmpPos | .bmpAlpha | .bmpWinX
  | .bmpWinY | .bmpM | .bmpOfs | .bmpImp | .bmpImpStatus | .bmpImpMiss | .bmpImpLost => .bmpRegs
  | .cmpCtrl | .cmpOrder0 | .cmpOrder1 | .cmpBgRg | .cmpBgB | .cmpBlend | .cmpLadder | .cmpWbCtrl
  | .cmpWbBase | .cmpWbPitch | .cmpWbRec | .cmpWbSkip | .cmpShedFrames | .cmpStatus | .cmpLadderStatus
  | .cmpPlCtrl | .cmpPlMap | .cmpPlTile | .cmpPlSize | .cmpPlPos | .cmpPlFaultRg | .cmpPlFaultB | .cmpPlPal
  | .cmpPlBadent | .cmpPleAddrLo | .cmpPleAddrHi | .cmpPleCtrl | .cmpPleStatus | .cmpPleNonce | .cmpPleSeqLo
  | .cmpPleSeqHi | .cmpPleRegionBase | .cmpPleRegionSize | .cmpPleDeny | .cmpPleKeyid => .cmpRegs
  | .lpCtrl | .lpStatus | .lpPc | .lpXcause | .lpXaddr | .lpExc | .lpDbgCtrl | .lpBkpt | .lpWatch | .lpDbgG
  | .lpDbgS | .lpRaCtrl | .lpRaPos | .lpRaHeld | .lpRaMinHeld | .lpLsqStatus | .lpLsqReject | .lpLsqLateLast
  | .lpRaCount => .lpRegs
  | .lutPlane | .lutOut | .paletteLow | .paletteHigh | .lpItcm | .lpDtcm => .tableRegs
  | .oat => .oatRegs
  | .tt => .ttRegs
  | .sysCenCtrl | .sysCenScope | .sysCenBaseLo | .sysCenBaseHi | .sysCenSize | .sysCenStatus | .sysCenBytes
  | .sysCgMap | .sysCgCtrl | .sysCgEpoch | .sysCgStatus | .sysCgSuperseded | .sysBeamEpoch => .commitRegs

theorem RegName.part_eq (r : RegName) : r.part = regPart (rowOf r).base := by cases r <;> rfl

/-- The number of the part of a register. -/
abbrev RegName.bit (r : RegName) : Nat := r.part.index

/-- A row of the map lies inside one part. -/
def RegRow.inPart (w : RegRow) : Bool :=
  let d := (w.n2 - 1) * w.s2 + (w.n3 - 1) * w.s3
  let top := w.base + (w.n1 - 1) * w.s1 + d
  0 < w.n1 && 0 < w.n2 && 0 < w.n3 &&
  (if w.base < 0x100000 then top < 0x100000 && top / 0x10000 == w.base / 0x10000
   else if w.base < 0x1100000 then
     if w.s1 = 0x100000 then
       w.n1 ≤ 16 && w.base < 0x200000 && w.base % 0x100000 + d < 0x100000 &&
       ((w.base % 0x100000 + d) / 0x10000 == w.base % 0x100000 / 0x10000 || 0x60000 ≤ w.base % 0x100000)
     else top < 0x200000 && top / 0x10000 == w.base / 0x10000
   else if w.base < 0x3000000 then top < 0x3000000
   else if w.base < 0x3100000 then top < 0x3100000 else true)

theorem RegName.inPart (r : RegName) : (rowOf r).inPart = true := by cases r <;> rfl

/-- Every address of a row lies in the row's part. -/
theorem regPart_addrOf (r : RegName) (i j k : Nat) : regPart (addrOf r i j k) = r.part := by
  have h := r.inPart
  rw [r.part_eq]
  unfold addrOf
  generalize rowOf r = w at h
  unfold RegRow.inPart at h
  simp only [Bool.and_eq_true, decide_eq_true_eq] at h
  obtain ⟨⟨⟨h1, h2⟩, h3⟩, h⟩ := h
  have e1 : i % w.n1 ≤ w.n1 - 1 := Nat.le_sub_one_of_lt (Nat.mod_lt _ h1)
  have e2 : j % w.n2 * w.s2 ≤ (w.n2 - 1) * w.s2 := Nat.mul_le_mul_right _ (Nat.le_sub_one_of_lt (Nat.mod_lt _ h2))
  have e3 : k % w.n3 * w.s3 ≤ (w.n3 - 1) * w.s3 := Nat.mul_le_mul_right _ (Nat.le_sub_one_of_lt (Nat.mod_lt _ h3))
  have e4 : i % w.n1 * w.s1 ≤ (w.n1 - 1) * w.s1 := Nat.mul_le_mul_right _ e1
  generalize hx : i % w.n1 * w.s1 = x at e4
  generalize j % w.n2 * w.s2 = y at e2
  generalize k % w.n3 * w.s3 = z at e3
  generalize (w.n1 - 1) * w.s1 = X at *
  generalize (w.n2 - 1) * w.s2 = Y at *
  generalize (w.n3 - 1) * w.s3 = Z at *
  have page : ∀ a b : Nat, a < 0x1100000 → b < 0x1100000 →
      (if a < 0x100000 then a / 0x10000 else 16 + a % 0x100000 / 0x10000) =
        (if b < 0x100000 then b / 0x10000 else 16 + b % 0x100000 / 0x10000) → regPart a = regPart b := by
    intro a b ha hb e
    unfold regPart
    rw [if_neg (c := 0x3100000 ≤ a) (by omega), if_neg (c := 0x3000000 ≤ a) (by omega),
      if_neg (c := 0x1100000 ≤ a) (by omega), if_neg (c := 0x3100000 ≤ b) (by omega),
      if_neg (c := 0x3000000 ≤ b) (by omega), if_neg (c := 0x1100000 ≤ b) (by omega), e]
  have table : ∀ a : Nat, 0x100000 ≤ a → a < 0x1100000 → 0x60000 ≤ a % 0x100000 → regPart a = .tableRegs := by
    intro a h0 ha h6
    unfold regPart
    rw [if_neg (by omega), if_neg (by omega), if_neg (by omega), if_neg (by omega)]
    obtain ⟨n, hn⟩ : ∃ n, 16 + a % 0x100000 / 0x10000 = 22 + n := ⟨16 + a % 0x100000 / 0x10000 - 22, by omega⟩
    rw [hn]
    split <;> first | omega | rfl
  split at h
  · simp only [Bool.and_eq_true, decide_eq_true_eq, beq_iff_eq] at h
    refine page _ _ (by omega) (by omega) ?_
    rw [if_pos (by omega), if_pos (by omega)]
    omega
  · split at h
    · split at h
      · rename_i hs
        simp only [Bool.and_eq_true, Bool.or_eq_true, decide_eq_true_eq, beq_iff_eq] at h
        have hq : x = 0x100000 * (i % w.n1) := by rw [← hx, hs, Nat.mul_comm]
        obtain ⟨⟨⟨h4, h5⟩, h6⟩, h7⟩ := h
        obtain h7 | h7 := h7
        · refine page _ _ (by omega) (by omega) ?_
          rw [if_neg (by omega), if_neg (by omega)]
          omega
        · rw [table _ (by omega) (by omega) (by omega), table _ (by omega) (by omega) (by omega)]
      · simp only [Bool.and_eq_true, decide_eq_true_eq, beq_iff_eq] at h
        refine page _ _ (by omega) (by omega) ?_
        rw [if_neg (by omega), if_neg (by omega)]
        omega
    · unfold regPart
      split at h
      · simp only [decide_eq_true_eq] at h
        rw [if_neg (by omega), if_neg (by omega), if_pos (by omega), if_neg (by omega), if_neg (by omega), if_pos (by omega)]
      · split at h
        · simp only [decide_eq_true_eq] at h
          rw [if_neg (by omega), if_pos (by omega), if_neg (by omega), if_pos (by omega)]
        · rw [if_pos (by omega), if_pos (by omega)]

/-- The part whose REJECT register records a write to an address of a part. -/
def Part.rej : Part → Part
  | .tmapRegs => .beamRegs
  | .objRegs => .beamRegs
  | .bmpRegs => .beamRegs
  | .cmpRegs => .beamRegs
  | .lpRegs => .beamRegs
  | .tableRegs => .beamRegs
  | .oatRegs => .sysRegs
  | .ttRegs => .sysRegs
  | .commitRegs => .sysRegs
  | p => p

theorem rejectReg_part (a : Nat) : (rejectReg a).1.part = (regPart a).rej := by
  unfold rejectReg regPart
  by_cases h : a < 0xB0000
  · rw [if_neg (c := 0x3100000 ≤ a) (by omega), if_neg (c := 0x3000000 ≤ a) (by omega),
      if_neg (c := 0x1100000 ≤ a) (by omega), if_pos (c := a < 0x100000) (by omega)]
    have hn : a / 0x10000 < 11 := by omega
    generalize hp : a / 0x10000 = n at hn
    have hx : ∀ k, a < k * 0x10000 ↔ n < k := by omega
    have hs : ∀ k m, m = k * 0x10000 → (a < m ↔ n < k) := fun k m e => e ▸ hx k
    simp only [hs 1 0x10000 rfl, hs 2 0x20000 rfl, hs 3 0x30000 rfl, hs 4 0x40000 rfl, hs 5 0x50000 rfl,
      hs 6 0x60000 rfl, hs 7 0x70000 rfl, hs 8 0x80000 rfl, hs 9 0x90000 rfl, hs 10 0xA0000 rfl, hs 11 0xB0000 rfl]
    have : n = 0 ∨ n = 1 ∨ n = 2 ∨ n = 3 ∨ n = 4 ∨ n = 5 ∨ n = 6 ∨ n = 7 ∨ n = 8 ∨ n = 9 ∨ n = 10 := by omega
    rcases this with e | e | e | e | e | e | e | e | e | e | e <;> subst e <;>
      simp only [Nat.reduceLT, if_true, if_false] <;> rfl
  · iterate 11 rw [if_neg (by omega)]
    by_cases h3 : 0x100000 ≤ a ∧ a < 0x1100000
    · have hb : beamOf a = some (a / 0x100000 - 1) := if_pos h3
      rw [hb, if_neg (c := 0x3100000 ≤ a) (by omega), if_neg (c := 0x3000000 ≤ a) (by omega),
        if_neg (c := 0x1100000 ≤ a) (by omega), if_neg (c := a < 0x100000) (by omega)]
      generalize a % 0x100000 / 0x10000 = n
      dsimp only
      rw [show RegName.beamReject.part = .beamRegs from rfl]
      split <;> first | omega | rfl
    · have hb : beamOf a = none := if_neg h3
      rw [hb]
      dsimp only
      rw [show RegName.sysReject.part = .sysRegs from rfl]
      split
      · rfl
      · split
        · rfl
        · split
          · rfl
          · rw [if_pos (c := a < 0x100000) (by omega)]
            have : a / 0x10000 = 11 ∨ a / 0x10000 = 12 ∨ a / 0x10000 = 13 ∨ a / 0x10000 = 14 ∨ a / 0x10000 = 15 := by
              omega
            rcases this with e | e | e | e | e <;> rw [e] <;> rfl

end Sys2Proof.Machine
end

