-- ==== Sys2Proof/Laws/Tables.lean ====
section
/-! SUPPORT. Laws of the sparse tables: reading after writing, and the canonical form that every write keeps. -/

namespace Sys2Proof.Machine

variable {α : Type}

theorem kvGet_kvSet_same (k : Nat) (x : α) (t : List (Nat × α)) : kvGet k (kvSet k x t) = some x := by
  induction t with
  | nil => simp [kvSet, kvGet]
  | cons p t ih =>
    obtain ⟨a, v⟩ := p
    unfold kvSet
    split
    · simp [kvGet]
    · split
      · simp [kvGet]
      · simp [kvGet, *]

theorem kvGet_kvSet_other {k j : Nat} (h : j ≠ k) (x : α) (t : List (Nat × α)) :
    kvGet j (kvSet k x t) = kvGet j t := by
  induction t with
  | nil => simp [kvSet, kvGet, Ne.symm h]
  | cons p t ih =>
    obtain ⟨a, v⟩ := p
    unfold kvSet
    split
    · subst_vars; simp [kvGet, Ne.symm h]
    · split
      · simp [kvGet, Ne.symm h]
      · simp [kvGet, ih]

/-- Every key of a table is above a bound. -/
def kvAbove (b : Nat) (t : List (Nat × α)) : Prop := ∀ p ∈ t, b < p.1

theorem kvSorted_cons (a : Nat) (v : α) (t : List (Nat × α)) :
    kvSorted ((a, v) :: t) = true ↔ kvAbove a t ∧ kvSorted t = true := by
  induction t generalizing a v with
  | nil => simp [kvSorted, kvAbove]
  | cons p t ih =>
    obtain ⟨b, w⟩ := p
    simp only [kvSorted, Bool.and_eq_true, decide_eq_true_eq, ih, kvAbove, List.mem_cons, forall_eq_or_imp]
    constructor
    · rintro ⟨h1, h2, h3⟩
      exact ⟨⟨h1, fun p hp => Nat.lt_trans h1 (h2 p hp)⟩, h2, h3⟩
    · rintro ⟨⟨h1, _⟩, h2, h3⟩
      exact ⟨h1, h2, h3⟩

theorem kvAbove_kvSet {b k : Nat} {x : α} {t : List (Nat × α)} (h : kvAbove b t) (hk : b < k) :
    kvAbove b (kvSet k x t) := by
  induction t with
  | nil => intro p hp; simp [kvSet] at hp; subst hp; exact hk
  | cons q t ih =>
    obtain ⟨a, v⟩ := q
    have ha : b < a := h _ (List.mem_cons_self ..)
    have ht : kvAbove b t := fun p hp => h p (List.mem_cons_of_mem _ hp)
    unfold kvSet
    split
    · intro p hp; rcases List.mem_cons.1 hp with rfl | hp
      · exact hk
      · exact ht p hp
    · split
      · intro p hp; rcases List.mem_cons.1 hp with rfl | hp
        · exact hk
        · exact h p hp
      · intro p hp; rcases List.mem_cons.1 hp with rfl | hp
        · exact ha
        · exact ih ht p hp

theorem kvSorted_kvSet (k : Nat) (x : α) {t : List (Nat × α)} (h : kvSorted t = true) :
    kvSorted (kvSet k x t) = true := by
  induction t with
  | nil => simp [kvSet, kvSorted]
  | cons q t ih =>
    obtain ⟨a, v⟩ := q
    obtain ⟨ha, ht⟩ := (kvSorted_cons a v t).1 h
    unfold kvSet
    split
    · subst_vars; exact (kvSorted_cons _ _ _).2 ⟨ha, ht⟩
    · split
      · rename_i hk
        refine (kvSorted_cons _ _ _).2 ⟨fun p hp => ?_, h⟩
        rcases List.mem_cons.1 hp with rfl | hp
        · exact hk
        · exact Nat.lt_trans hk (ha p hp)
      · exact (kvSorted_cons _ _ _).2 ⟨kvAbove_kvSet ha (by omega), ih ht⟩

theorem mem_kvDel {k : Nat} {p : Nat × α} {t : List (Nat × α)} (h : p ∈ kvDel k t) : p ∈ t := by
  induction t with
  | nil => simp [kvDel] at h
  | cons q t ih =>
    obtain ⟨a, v⟩ := q
    unfold kvDel at h
    split at h
    · exact List.mem_cons_of_mem _ (ih h)
    · rcases List.mem_cons.1 h with rfl | h
      · exact List.mem_cons_self ..
      · exact List.mem_cons_of_mem _ (ih h)

theorem kvSorted_kvDel (k : Nat) {t : List (Nat × α)} (h : kvSorted t = true) : kvSorted (kvDel k t) = true := by
  induction t with
  | nil => simp [kvDel, kvSorted]
  | cons q t ih =>
    obtain ⟨a, v⟩ := q
    obtain ⟨ha, ht⟩ := (kvSorted_cons a v t).1 h
    unfold kvDel
    split
    · exact ih ht
    · exact (kvSorted_cons _ _ _).2 ⟨fun p hp => ha p (mem_kvDel hp), ih ht⟩

theorem mem_kvSet {k : Nat} {x : α} {p : Nat × α} {t : List (Nat × α)} (h : p ∈ kvSet k x t) :
    p = (k, x) ∨ p ∈ t := by
  induction t with
  | nil => simpa [kvSet] using h
  | cons q t ih =>
    obtain ⟨a, v⟩ := q
    unfold kvSet at h
    split at h
    · rcases List.mem_cons.1 h with rfl | h
      · exact .inl rfl
      · exact .inr (List.mem_cons_of_mem _ h)
    · split at h
      · rcases List.mem_cons.1 h with rfl | h
        · exact .inl rfl
        · exact .inr h
      · rcases List.mem_cons.1 h with rfl | h
        · exact .inr (List.mem_cons_self ..)
        · rcases ih h with rfl | h
          · exact .inl rfl
          · exact .inr (List.mem_cons_of_mem _ h)

theorem kvSorted_filter (f : Nat × α → Bool) {t : List (Nat × α)} (h : kvSorted t = true) :
    kvSorted (t.filter f) = true := by
  induction t with
  | nil => simp [kvSorted]
  | cons q t ih =>
    obtain ⟨a, v⟩ := q
    obtain ⟨ha, ht⟩ := (kvSorted_cons a v t).1 h
    rw [List.filter_cons]
    split
    · exact (kvSorted_cons _ _ _).2 ⟨fun p hp => ha p (List.mem_filter.1 hp).1, ih ht⟩
    · exact ih ht

theorem kvGet_kvDel_same (k : Nat) (t : List (Nat × α)) : kvGet k (kvDel k t) = none := by
  induction t with
  | nil => rfl
  | cons q t ih =>
    obtain ⟨a, v⟩ := q
    unfold kvDel
    split
    · exact ih
    · simp [kvGet, *]

theorem kvGet_kvDel_other {k j : Nat} (h : j ≠ k) (t : List (Nat × α)) : kvGet j (kvDel k t) = kvGet j t := by
  induction t with
  | nil => rfl
  | cons q t ih =>
    obtain ⟨a, v⟩ := q
    unfold kvDel
    split
    · subst_vars; simp [kvGet, Ne.symm h, ih]
    · simp [kvGet, ih]

/-- A byte written reads back (R101). -/
theorem memGet_memSet_same (m : List Host.Cell) (a : Nat) (b : Byte) :
    memGet (memSet m a b) a = b := by
  unfold memGet memSet kvPut
  split
  · subst_vars; simp [kvGet_kvDel_same]
  · simp [kvGet_kvSet_same]

/-- A write leaves every other byte alone. -/
theorem memGet_memSet_other {a c : Nat} (h : c ≠ a) (m : List Host.Cell) (b : Byte) :
    memGet (memSet m a b) c = memGet m c := by
  unfold memGet memSet kvPut
  split
  · rw [kvGet_kvDel_other h]
  · rw [kvGet_kvSet_other h]

/-- Writing a byte keeps the memory's canonical form. -/
theorem Memory.wf_memSet {m : List Host.Cell} (h : Memory.wf m = true) (a : Nat) (b : Byte) :
    Memory.wf (memSet m a b) = true := by
  simp only [Memory.wf, Bool.and_eq_true, List.all_eq_true, bne_iff_ne] at h ⊢
  unfold memSet kvPut
  split
  · exact ⟨kvSorted_kvDel _ h.1, fun p hp => h.2 p (mem_kvDel hp)⟩
  · refine ⟨kvSorted_kvSet _ _ h.1, fun p hp => ?_⟩
    rcases mem_kvSet hp with rfl | hp
    · assumption
    · exact h.2 p hp

theorem Memory.wf_memSetBytes (bs : List (Option Byte)) {m : List Host.Cell} (h : Memory.wf m = true) (a : Nat) :
    Memory.wf (memSetBytes m a bs) = true := by
  induction bs generalizing m a with
  | nil => exact h
  | cons b bs ih =>
    cases b with
    | none => exact ih h (a + 1)
    | some b => exact ih (Memory.wf_memSet h a b) (a + 1)

theorem Memory.wf_filter (f : Host.Cell → Bool) {m : List Host.Cell} (h : Memory.wf m = true) :
    Memory.wf (m.filter f) = true := by
  simp only [Memory.wf, Bool.and_eq_true, List.all_eq_true, bne_iff_ne] at h ⊢
  exact ⟨kvSorted_filter f h.1, fun p hp => h.2 p (List.mem_filter.1 hp).1⟩

/-- Storing a register word keeps the register table's canonical form. -/
theorem RegFile.wf_rfSet {f : RegFile} (h : RegFile.wf f = true) (a : Nat) (w : Word) :
    RegFile.wf (rfSet f a w) = true := by
  simp only [RegFile.wf, Bool.and_eq_true, List.all_eq_true, bne_iff_ne] at h ⊢
  unfold rfSet kvPut
  split
  · exact ⟨kvSorted_kvDel _ h.1, fun p hp => h.2 p (mem_kvDel hp)⟩
  · refine ⟨kvSorted_kvSet _ _ h.1, fun p hp => ?_⟩
    rcases mem_kvSet hp with rfl | hp
    · assumption
    · exact h.2 p hp

theorem RegFile.wf_filter (g : Nat × Word → Bool) {f : RegFile} (h : RegFile.wf f = true) :
    RegFile.wf (f.filter g) = true := by
  simp only [RegFile.wf, Bool.and_eq_true, List.all_eq_true, bne_iff_ne] at h ⊢
  exact ⟨kvSorted_filter g h.1, fun p hp => h.2 p (List.mem_filter.1 hp).1⟩

theorem rfGet_rfSet_same (f : RegFile) (a : Nat) (w : Word) :
    rfGet (rfSet f a w) a = w := by
  unfold rfGet rfSet kvPut
  split
  · subst_vars; simp [kvGet_kvDel_same]
  · simp [kvGet_kvSet_same]

theorem rfGet_rfSet_other {a b : Nat} (h : b ≠ a) (f : RegFile) (w : Word) : rfGet (rfSet f a w) b = rfGet f b := by
  unfold rfGet rfSet kvPut
  split
  · rw [kvGet_kvDel_other h]
  · rw [kvGet_kvSet_other h]

end Sys2Proof.Machine
end

