-- ==== Sys2Proof/Laws/Keeps.lean ====
section
/-! SUPPORT. What an operation of the machine does at most: it keeps the tables canonical, leaves the queue of waiting
commands, takes back nothing that has left the block, and changes only the parts of a mask. The relation, and the steps
from which the lemmas of the other Keeps files are built. -/

namespace Sys2Proof.Machine

/-- From s0 to s, canonical tables stay canonical, the queue is the same, what has left the block has left it, and no part
outside the mask changes. -/
def State.Keeps (s0 : State) (m : Nat) (s : State) : Prop :=
  (s0.canonical = true → s.canonical = true) ∧ s.pending = s0.pending ∧ s0.out <+: s.out ∧
    ∀ p : Part, m.testBit p.index = false → p.same s0 s

theorem Part.same_refl (p : Part) (s : State) : p.same s s := by cases p <;> first | rfl | exact fun _ _ => rfl

theorem Part.same_trans {p : Part} {a b c : State} (h : p.same a b) (k : p.same b c) : p.same a c := by
  cases p <;> first | exact Eq.trans k h | exact fun x hx => (k x hx).trans (h x hx)

theorem State.Keeps.refl (m : Nat) (s : State) : s.Keeps m s :=
  ⟨id, rfl, List.prefix_refl _, fun p _ => p.same_refl s⟩

theorem State.Keeps.trans {m : Nat} {a b c : State} (h : a.Keeps m b) (k : b.Keeps m c) : a.Keeps m c :=
  ⟨k.1 ∘ h.1, k.2.1.trans h.2.1, h.2.2.1.trans k.2.2.1, fun p hp => Part.same_trans (h.2.2.2 p hp) (k.2.2.2 p hp)⟩

theorem State.Keeps.mono {m n : Nat} {a b : State} (h : a.Keeps m b) (hs : Sub m n) : a.Keeps n b :=
  ⟨h.1, h.2.1, h.2.2.1, fun p hp => h.2.2.2 p (Bool.eq_false_iff.2 fun e => Bool.eq_false_iff.1 hp (hs.bit e))⟩

variable {m : Nat} {s0 s : State}

/-- Any update of the units but of the memory. -/
theorem keeps_fields {pci hst tmr evt err poison inject promoted log tbl cores beams bin groups census oat ple ports aud
    blt dma gpio pwr sys free} (h : s0.Keeps m s)
    (h_pci : m.testBit 21 = true ∨ pci = s.pci)
    (h_hst : m.testBit 22 = true ∨ hst = s.hst)
    (h_tmr : m.testBit 23 = true ∨ tmr = s.tmr)
    (h_evt : m.testBit 24 = true ∨ evt = s.evt)
    (h_store : m.testBit 25 = true ∨ ⟨s.store.mem, err, poison, inject, promoted, log⟩ = s.store)
    (h_tbl : m.testBit 26 = true ∨ tbl = s.tbl)
    (h_cores : m.testBit 27 = true ∨ cores = s.cores)
    (h_beams : m.testBit 28 = true ∨ beams = s.beams)
    (h_bin : m.testBit 29 = true ∨ bin = s.bin)
    (h_groups : m.testBit 30 = true ∨ groups = s.groups)
    (h_census : m.testBit 31 = true ∨ census = s.census)
    (h_oat : m.testBit 32 = true ∨ oat = s.oat)
    (h_ple : m.testBit 33 = true ∨ ple = s.ple)
    (h_ports : m.testBit 34 = true ∨ ports = s.ports)
    (h_aud : m.testBit 35 = true ∨ aud = s.aud)
    (h_blt : m.testBit 36 = true ∨ blt = s.blt)
    (h_dma : m.testBit 37 = true ∨ dma = s.dma)
    (h_gpio : m.testBit 38 = true ∨ gpio = s.gpio)
    (h_pwr : m.testBit 39 = true ∨ pwr = s.pwr)
    (h_sys : m.testBit 40 = true ∨ sys = s.sys) :
    s0.Keeps m ⟨s.regs, pci, hst, tmr, evt, ⟨s.store.mem, err, poison, inject, promoted, log⟩, tbl, cores, beams, bin,
      groups, census, oat, ple, ports, aud, blt, dma, gpio, pwr, sys, free, s.out, s.pending⟩ := by
  refine ⟨h.1, h.2.1, h.2.2.1, fun p hp => Part.same_trans (h.2.2.2 p hp) ?_⟩
  cases p
  · exact fun _ _ => rfl
  · exact fun _ _ => rfl
  · exact fun _ _ => rfl
  · exact fun _ _ => rfl
  · exact fun _ _ => rfl
  · exact fun _ _ => rfl
  · exact fun _ _ => rfl
  · exact fun _ _ => rfl
  · exact fun _ _ => rfl
  · exact fun _ _ => rfl
  · exact fun _ _ => rfl
  · exact fun _ _ => rfl
  · exact fun _ _ => rfl
  · exact fun _ _ => rfl
  · exact fun _ _ => rfl
  · exact fun _ _ => rfl
  · exact fun _ _ => rfl
  · exact fun _ _ => rfl
  · exact fun _ _ => rfl
  · exact fun _ _ => rfl
  · exact fun _ _ => rfl
  · exact h_pci.resolve_left (Bool.eq_false_iff.1 hp)
  · exact h_hst.resolve_left (Bool.eq_false_iff.1 hp)
  · exact h_tmr.resolve_left (Bool.eq_false_iff.1 hp)
  · exact h_evt.resolve_left (Bool.eq_false_iff.1 hp)
  · exact h_store.resolve_left (Bool.eq_false_iff.1 hp)
  · exact h_tbl.resolve_left (Bool.eq_false_iff.1 hp)
  · exact h_cores.resolve_left (Bool.eq_false_iff.1 hp)
  · exact h_beams.resolve_left (Bool.eq_false_iff.1 hp)
  · exact h_bin.resolve_left (Bool.eq_false_iff.1 hp)
  · exact h_groups.resolve_left (Bool.eq_false_iff.1 hp)
  · exact h_census.resolve_left (Bool.eq_false_iff.1 hp)
  · exact h_oat.resolve_left (Bool.eq_false_iff.1 hp)
  · exact h_ple.resolve_left (Bool.eq_false_iff.1 hp)
  · exact h_ports.resolve_left (Bool.eq_false_iff.1 hp)
  · exact h_aud.resolve_left (Bool.eq_false_iff.1 hp)
  · exact h_blt.resolve_left (Bool.eq_false_iff.1 hp)
  · exact h_dma.resolve_left (Bool.eq_false_iff.1 hp)
  · exact h_gpio.resolve_left (Bool.eq_false_iff.1 hp)
  · exact h_pwr.resolve_left (Bool.eq_false_iff.1 hp)
  · exact h_sys.resolve_left (Bool.eq_false_iff.1 hp)
  · rfl

/-- Any update of the units but the store. -/
theorem keeps_store {pci hst tmr evt tbl cores beams bin groups census oat ple ports aud
    blt dma gpio pwr sys free} (h : s0.Keeps m s)
    (h_pci : m.testBit 21 = true ∨ pci = s.pci)
    (h_hst : m.testBit 22 = true ∨ hst = s.hst)
    (h_tmr : m.testBit 23 = true ∨ tmr = s.tmr)
    (h_evt : m.testBit 24 = true ∨ evt = s.evt)
    (h_tbl : m.testBit 26 = true ∨ tbl = s.tbl)
    (h_cores : m.testBit 27 = true ∨ cores = s.cores)
    (h_beams : m.testBit 28 = true ∨ beams = s.beams)
    (h_bin : m.testBit 29 = true ∨ bin = s.bin)
    (h_groups : m.testBit 30 = true ∨ groups = s.groups)
    (h_census : m.testBit 31 = true ∨ census = s.census)
    (h_oat : m.testBit 32 = true ∨ oat = s.oat)
    (h_ple : m.testBit 33 = true ∨ ple = s.ple)
    (h_ports : m.testBit 34 = true ∨ ports = s.ports)
    (h_aud : m.testBit 35 = true ∨ aud = s.aud)
    (h_blt : m.testBit 36 = true ∨ blt = s.blt)
    (h_dma : m.testBit 37 = true ∨ dma = s.dma)
    (h_gpio : m.testBit 38 = true ∨ gpio = s.gpio)
    (h_pwr : m.testBit 39 = true ∨ pwr = s.pwr)
    (h_sys : m.testBit 40 = true ∨ sys = s.sys) :
    s0.Keeps m ⟨s.regs, pci, hst, tmr, evt, s.store, tbl, cores, beams, bin,
      groups, census, oat, ple, ports, aud, blt, dma, gpio, pwr, sys, free, s.out, s.pending⟩ := by
  refine ⟨h.1, h.2.1, h.2.2.1, fun p hp => Part.same_trans (h.2.2.2 p hp) ?_⟩
  cases p
  · exact fun _ _ => rfl
  · exact fun _ _ => rfl
  · exact fun _ _ => rfl
  · exact fun _ _ => rfl
  · exact fun _ _ => rfl
  · exact fun _ _ => rfl
  · exact fun _ _ => rfl
  · exact fun _ _ => rfl
  · exact fun _ _ => rfl
  · exact fun _ _ => rfl
  · exact fun _ _ => rfl
  · exact fun _ _ => rfl
  · exact fun _ _ => rfl
  · exact fun _ _ => rfl
  · exact fun _ _ => rfl
  · exact fun _ _ => rfl
  · exact fun _ _ => rfl
  · exact fun _ _ => rfl
  · exact fun _ _ => rfl
  · exact fun _ _ => rfl
  · exact fun _ _ => rfl
  · exact h_pci.resolve_left (Bool.eq_false_iff.1 hp)
  · exact h_hst.resolve_left (Bool.eq_false_iff.1 hp)
  · exact h_tmr.resolve_left (Bool.eq_false_iff.1 hp)
  · exact h_evt.resolve_left (Bool.eq_false_iff.1 hp)
  · rfl
  · exact h_tbl.resolve_left (Bool.eq_false_iff.1 hp)
  · exact h_cores.resolve_left (Bool.eq_false_iff.1 hp)
  · exact h_beams.resolve_left (Bool.eq_false_iff.1 hp)
  · exact h_bin.resolve_left (Bool.eq_false_iff.1 hp)
  · exact h_groups.resolve_left (Bool.eq_false_iff.1 hp)
  · exact h_census.resolve_left (Bool.eq_false_iff.1 hp)
  · exact h_oat.resolve_left (Bool.eq_false_iff.1 hp)
  · exact h_ple.resolve_left (Bool.eq_false_iff.1 hp)
  · exact h_ports.resolve_left (Bool.eq_false_iff.1 hp)
  · exact h_aud.resolve_left (Bool.eq_false_iff.1 hp)
  · exact h_blt.resolve_left (Bool.eq_false_iff.1 hp)
  · exact h_dma.resolve_left (Bool.eq_false_iff.1 hp)
  · exact h_gpio.resolve_left (Bool.eq_false_iff.1 hp)
  · exact h_pwr.resolve_left (Bool.eq_false_iff.1 hp)
  · exact h_sys.resolve_left (Bool.eq_false_iff.1 hp)
  · rfl

/-- An update of the memory that keeps its form, and of any unit. -/
theorem keeps_mem {pci hst tmr evt mem err poison inject promoted log tbl cores beams bin groups census oat ple ports aud
    blt dma gpio pwr sys free} (h : s0.Keeps m s) (hm : Memory.wf s.store.mem = true → Memory.wf mem = true)
    (h_store : m.testBit 25 = true)
    (h_pci : m.testBit 21 = true ∨ pci = s.pci)
    (h_hst : m.testBit 22 = true ∨ hst = s.hst)
    (h_tmr : m.testBit 23 = true ∨ tmr = s.tmr)
    (h_evt : m.testBit 24 = true ∨ evt = s.evt)
    (h_tbl : m.testBit 26 = true ∨ tbl = s.tbl)
    (h_cores : m.testBit 27 = true ∨ cores = s.cores)
    (h_beams : m.testBit 28 = true ∨ beams = s.beams)
    (h_bin : m.testBit 29 = true ∨ bin = s.bin)
    (h_groups : m.testBit 30 = true ∨ groups = s.groups)
    (h_census : m.testBit 31 = true ∨ census = s.census)
    (h_oat : m.testBit 32 = true ∨ oat = s.oat)
    (h_ple : m.testBit 33 = true ∨ ple = s.ple)
    (h_ports : m.testBit 34 = true ∨ ports = s.ports)
    (h_aud : m.testBit 35 = true ∨ aud = s.aud)
    (h_blt : m.testBit 36 = true ∨ blt = s.blt)
    (h_dma : m.testBit 37 = true ∨ dma = s.dma)
    (h_gpio : m.testBit 38 = true ∨ gpio = s.gpio)
    (h_pwr : m.testBit 39 = true ∨ pwr = s.pwr)
    (h_sys : m.testBit 40 = true ∨ sys = s.sys) :
    s0.Keeps m ⟨s.regs, pci, hst, tmr, evt, ⟨mem, err, poison, inject, promoted, log⟩, tbl, cores, beams, bin,
      groups, census, oat, ple, ports, aud, blt, dma, gpio, pwr, sys, free, s.out, s.pending⟩ := by
  refine ⟨fun c => ?_, h.2.1, h.2.2.1, fun p hp => Part.same_trans (h.2.2.2 p hp) ?_⟩
  · have := h.1 c
    simp only [State.canonical, Bool.and_eq_true] at this ⊢
    exact ⟨this.1, hm this.2⟩
  cases p
  · exact fun _ _ => rfl
  · exact fun _ _ => rfl
  · exact fun _ _ => rfl
  · exact fun _ _ => rfl
  · exact fun _ _ => rfl
  · exact fun _ _ => rfl
  · exact fun _ _ => rfl
  · exact fun _ _ => rfl
  · exact fun _ _ => rfl
  · exact fun _ _ => rfl
  · exact fun _ _ => rfl
  · exact fun _ _ => rfl
  · exact fun _ _ => rfl
  · exact fun _ _ => rfl
  · exact fun _ _ => rfl
  · exact fun _ _ => rfl
  · exact fun _ _ => rfl
  · exact fun _ _ => rfl
  · exact fun _ _ => rfl
  · exact fun _ _ => rfl
  · exact fun _ _ => rfl
  · exact h_pci.resolve_left (Bool.eq_false_iff.1 hp)
  · exact h_hst.resolve_left (Bool.eq_false_iff.1 hp)
  · exact h_tmr.resolve_left (Bool.eq_false_iff.1 hp)
  · exact h_evt.resolve_left (Bool.eq_false_iff.1 hp)
  · exact absurd h_store (Bool.eq_false_iff.1 hp)
  · exact h_tbl.resolve_left (Bool.eq_false_iff.1 hp)
  · exact h_cores.resolve_left (Bool.eq_false_iff.1 hp)
  · exact h_beams.resolve_left (Bool.eq_false_iff.1 hp)
  · exact h_bin.resolve_left (Bool.eq_false_iff.1 hp)
  · exact h_groups.resolve_left (Bool.eq_false_iff.1 hp)
  · exact h_census.resolve_left (Bool.eq_false_iff.1 hp)
  · exact h_oat.resolve_left (Bool.eq_false_iff.1 hp)
  · exact h_ple.resolve_left (Bool.eq_false_iff.1 hp)
  · exact h_ports.resolve_left (Bool.eq_false_iff.1 hp)
  · exact h_aud.resolve_left (Bool.eq_false_iff.1 hp)
  · exact h_blt.resolve_left (Bool.eq_false_iff.1 hp)
  · exact h_dma.resolve_left (Bool.eq_false_iff.1 hp)
  · exact h_gpio.resolve_left (Bool.eq_false_iff.1 hp)
  · exact h_pwr.resolve_left (Bool.eq_false_iff.1 hp)
  · exact h_sys.resolve_left (Bool.eq_false_iff.1 hp)
  · rfl

/-- An update of the registers that keeps their form, by a command that may change every part. -/
theorem keeps_regs {regs pci hst tmr evt} {store : Store} {tbl cores beams bin groups census oat ple
    ports aud blt dma gpio pwr sys free} (h : s0.Keeps m s)
    (hr : RegFile.wf s.regs = true → RegFile.wf regs = true)
    (hm : Memory.wf s.store.mem = true → Memory.wf store.mem = true)
    (hp : ∀ p : Part, m.testBit p.index = false → p.same s ⟨regs, pci, hst, tmr, evt, store, tbl, cores, beams, bin, groups,
      census, oat, ple, ports, aud, blt, dma, gpio, pwr, sys, free, s.out, s.pending⟩) :
    s0.Keeps m ⟨regs, pci, hst, tmr, evt, store, tbl, cores, beams, bin, groups, census, oat, ple, ports, aud, blt, dma, gpio,
      pwr, sys, free, s.out, s.pending⟩ := by
  refine ⟨fun c => ?_, h.2.1, h.2.2.1, fun p q => Part.same_trans (h.2.2.2 p q) (hp p q)⟩
  have := h.1 c
  simp only [State.canonical, Bool.and_eq_true] at this ⊢
  exact ⟨hr this.1, hm this.2⟩

/-- A mask of every part. -/
theorem all_parts {p : Part} (hm : Sub (2 ^ 42 - 1) m) : m.testBit p.index = true := by
  refine hm.bit ?_
  cases p <;> rfl

/-- A part of a mask of every part is the same: there is none. -/
theorem no_part {p : Part} {a b : State} (hm : Sub (2 ^ 42 - 1) m) (h : m.testBit p.index = false) : p.same a b :=
  absurd (all_parts hm) (Bool.eq_false_iff.1 h)

/-- A register table without some addresses of the parts that may change keeps every other word. -/
theorem rfGet_filter (g : Nat × Word → Bool) (f : RegFile) (a : Nat) (h : ∀ w, g (a, w) = true) :
    rfGet (f.filter g) a = rfGet f a := by
  unfold rfGet
  congr 1
  induction f with
  | nil => rfl
  | cons p t ih =>
    obtain ⟨b, v⟩ := p
    rw [List.filter_cons]
    by_cases e : b = a
    · subst e; simp [h v, kvGet]
    · split <;> simp [kvGet, e, ih]

theorem keeps_foldl {α : Type} (l : List α) (f : State → α → State) (h : s0.Keeps m s)
    (hf : ∀ s x, s0.Keeps m s → s0.Keeps m (f s x)) : s0.Keeps m (l.foldl f s) := by
  induction l generalizing s with
  | nil => exact h
  | cons x l ih => exact ih (hf s x h)

theorem keeps_foldl2 {α β : Type} (l : List α) (f : β × State → α → β × State) (a : β × State) (h : s0.Keeps m a.2)
    (hf : ∀ a x, s0.Keeps m a.2 → s0.Keeps m (f a x).2) : s0.Keeps m (l.foldl f a).2 := by
  induction l generalizing a with
  | nil => exact h
  | cons x l ih => exact ih (f a x) (hf a x h)

theorem keeps_foldl3 {α β γ : Type} (l : List α) (f : β × γ × State → α → β × γ × State) (a : β × γ × State)
    (h : s0.Keeps m a.2.2) (hf : ∀ a x, s0.Keeps m a.2.2 → s0.Keeps m (f a x).2.2) : s0.Keeps m (l.foldl f a).2.2 := by
  induction l generalizing a with
  | nil => exact h
  | cons x l ih => exact ih (f a x) (hf a x h)

theorem keeps_ite {c : Prop} [Decidable c] {a b : State} (ha : s0.Keeps m a) (hb : s0.Keeps m b) :
    s0.Keeps m (if c then a else b) := by split <;> assumption

theorem keeps_ite2 {α : Type} {c : Prop} [Decidable c] {a b : α × State} (ha : s0.Keeps m a.2) (hb : s0.Keeps m b.2) :
    s0.Keeps m (if c then a else b).2 := by split <;> assumption

theorem keeps_ite3 {α β : Type} {c : Prop} [Decidable c] {a b : α × β × State} (ha : s0.Keeps m a.2.2)
    (hb : s0.Keeps m b.2.2) : s0.Keeps m (if c then a else b).2.2 := by split <;> assumption

theorem State.putW_keeps (a : Nat) (w : Word) (h : s0.Keeps m s) (ha : m.testBit (regPart a).index = true) :
    s0.Keeps m (s.putW a w) := by
  refine ⟨fun c => ?_, h.2.1, h.2.2.1, fun p hp => Part.same_trans (h.2.2.2 p hp) ?_⟩
  · have := h.1 c
    simp only [State.canonical, Bool.and_eq_true, State.putW] at this ⊢
    exact ⟨RegFile.wf_rfSet this.1 a w, this.2⟩
  · cases p <;> first
      | rfl
      | exact fun b hb => rfGet_rfSet_other (fun e => by rw [← e, hb, hp] at ha; exact absurd ha (by decide)) s.regs w

theorem State.wr_keeps (r : RegName) (w : Word) (i j k : Nat) (h : s0.Keeps m s) (hr : m.testBit r.bit = true) :
    s0.Keeps m (s.wr r w i j k) := State.putW_keeps _ _ h (by rw [regPart_addrOf]; exact hr)

theorem State.wf_keeps (r : RegName) (hi lo v i j k : Nat) (h : s0.Keeps m s) (hr : m.testBit r.bit = true) :
    s0.Keeps m (s.wf r hi lo v i j k) := State.wr_keeps _ _ _ _ _ h hr

theorem State.wb_keeps (r : RegName) (b : Nat) (v : Bool) (i j k : Nat) (h : s0.Keeps m s) (hr : m.testBit r.bit = true) :
    s0.Keeps m (s.wb r b v i j k) := State.wf_keeps _ _ _ _ _ _ _ h hr

theorem State.bump_keeps (r : RegName) (i j k n : Nat) (h : s0.Keeps m s) (hr : m.testBit r.bit = true) :
    s0.Keeps m (s.bump r i j k n) := by
  unfold State.bump
  split
  · exact h
  · exact State.wr_keeps _ _ _ _ _ h hr

theorem State.reject_keeps (a : Nat) (h : s0.Keeps m s) (ha : m.testBit (regPart a).rej.index = true) :
    s0.Keeps m (s.reject a) :=
  State.wr_keeps _ _ _ _ _ h (by rw [RegName.bit, rejectReg_part]; exact ha)

theorem State.rejectAt_keeps (r : RegName) (i j k : Nat) (h : s0.Keeps m s) (hr : m.testBit r.part.rej.index = true) :
    s0.Keeps m (s.reject (addrOf r i j k)) := State.reject_keeps _ h (by rw [regPart_addrOf]; exact hr)

/-- Every register part is in a mask of all of them. -/
theorem reg_parts (a : Nat) (hm : Sub 2097151 m) : m.testBit (regPart a).index = true := by
  unfold regPart
  repeat' split
  all_goals exact hm.bit rfl

theorem reg_bit (r : RegName) (hm : Sub 2097151 m) : m.testBit r.bit = true := by
  rw [RegName.bit, r.part_eq]
  exact reg_parts _ hm

theorem bit_ite {c : Prop} [Decidable c] {r q : RegName} (hr : m.testBit r.bit = true) (hq : m.testBit q.bit = true) :
    m.testBit (if c then r else q).bit = true := by split <;> assumption

theorem rej_parts (a : Nat) (hm : Sub 4095 m) : m.testBit (regPart a).rej.index = true := by
  unfold regPart
  repeat' split
  all_goals exact hm.bit rfl

theorem rej_bit (r : RegName) (hm : Sub 4095 m) : m.testBit r.part.rej.index = true := by
  rw [r.part_eq]
  exact rej_parts _ hm

theorem State.emit_keeps (e : OutEvent) (h : s0.Keeps m s) (ho : m.testBit 41 = true) : s0.Keeps m (s.emit e) := by
  unfold State.emit
  split
  · exact h
  · refine ⟨h.1, h.2.1, h.2.2.1.trans (List.prefix_append _ _), fun p hp => Part.same_trans (h.2.2.2 p hp) ?_⟩
    cases p <;> first | rfl | exact fun _ _ => rfl | exact absurd ho (Bool.eq_false_iff.1 hp)

end Sys2Proof.Machine
end

