-- ==== Sys2Proof/Laws/KeepsOps.lean ====
section
/-! SUPPORT. What the operations of Machine/Ops.lean keep, and the parts they may change. -/

namespace Sys2Proof.Machine

variable {fp : Nat} {s0 : State}

theorem State.fenceDrop_keeps {s : State} (d : Nat) (h : s0.Keeps fp s)
    (hm : Sub 1 fp) :
    s0.Keeps fp (State.fenceDrop s d) := by
  unfold State.fenceDrop
  try dsimp only
  repeat' first
    | with_reducible assumption
    | ((with_reducible refine Sub.bit hm ?_); exact rfl)
    | ((with_reducible refine Sub.mono hm ?_); exact rfl)
    | ((with_reducible refine .inl (Sub.bit hm ?_)); exact rfl)
    | with_reducible exact .inr rfl
    | ((with_reducible refine reg_bit _ (Sub.mono hm ?_)); exact rfl)
    | ((with_reducible refine rej_bit _ (Sub.mono hm ?_)); exact rfl)
    | with_reducible apply keeps_ite
    | with_reducible apply keeps_ite2
    | with_reducible apply keeps_ite3
    | with_reducible apply State.bump_keeps
    | (intro _ _ _)
    | (intro _ _)
    | (intro _)
    | (split; rename_i e; have e3 := congrArg (fun p => p.2.2) e; dsimp only at e3; subst e3)
    | (split; rename_i e; have e2 := congrArg Prod.snd e; dsimp only at e2; subst e2)
    | dsimp only
    | split
    | with_reducible apply keeps_fields
    | with_reducible apply keeps_store

theorem State.fresh_keeps {s : State} (n : Nat) (h : s0.Keeps fp s)
    (hm : Sub 0 fp) :
    s0.Keeps fp (State.fresh s n).2 := by
  unfold State.fresh
  try dsimp only
  repeat' first
    | with_reducible assumption
    | ((with_reducible refine Sub.bit hm ?_); exact rfl)
    | ((with_reducible refine Sub.mono hm ?_); exact rfl)
    | ((with_reducible refine .inl (Sub.bit hm ?_)); exact rfl)
    | with_reducible exact .inr rfl
    | dsimp only
    | with_reducible apply keeps_fields
    | with_reducible apply keeps_store

theorem State.freshWord_keeps {s : State} (h : s0.Keeps fp s)
    (hm : Sub 0 fp) :
    s0.Keeps fp (State.freshWord s).2 := by
  unfold State.freshWord
  try dsimp only
  repeat' first
    | with_reducible assumption
    | ((with_reducible refine Sub.bit hm ?_); exact rfl)
    | ((with_reducible refine Sub.mono hm ?_); exact rfl)
    | with_reducible apply State.fresh_keeps
    | dsimp only

theorem State.askHost_keeps {s : State} (a : Nat) (n : Nat) (h : s0.Keeps fp s)
    (hm : Sub 0x20000000000 fp) :
    s0.Keeps fp (State.askHost s a n) := by
  unfold State.askHost
  try dsimp only
  repeat' first
    | with_reducible assumption
    | ((with_reducible refine Sub.bit hm ?_); exact rfl)
    | ((with_reducible refine Sub.mono hm ?_); exact rfl)
    | ((with_reducible refine .inl (Sub.bit hm ?_)); exact rfl)
    | with_reducible exact .inr rfl
    | ((with_reducible refine reg_bit _ (Sub.mono hm ?_)); exact rfl)
    | ((with_reducible refine rej_bit _ (Sub.mono hm ?_)); exact rfl)
    | with_reducible apply keeps_ite
    | with_reducible apply keeps_ite2
    | with_reducible apply keeps_ite3
    | with_reducible apply State.emit_keeps
    | (intro _ _ _)
    | (intro _ _)
    | (intro _)
    | (split; rename_i e; have e3 := congrArg (fun p => p.2.2) e; dsimp only at e3; subst e3)
    | (split; rename_i e; have e2 := congrArg Prod.snd e; dsimp only at e2; subst e2)
    | dsimp only
    | split
    | with_reducible apply keeps_fields
    | with_reducible apply keeps_store

theorem State.putHost_keeps {s : State} (a : Nat) (bs : List Byte) (h : s0.Keeps fp s)
    (hm : Sub 0x20000000000 fp) :
    s0.Keeps fp (State.putHost s a bs) := by
  unfold State.putHost
  try dsimp only
  repeat' first
    | with_reducible assumption
    | ((with_reducible refine Sub.bit hm ?_); exact rfl)
    | ((with_reducible refine Sub.mono hm ?_); exact rfl)
    | ((with_reducible refine .inl (Sub.bit hm ?_)); exact rfl)
    | with_reducible exact .inr rfl
    | ((with_reducible refine reg_bit _ (Sub.mono hm ?_)); exact rfl)
    | ((with_reducible refine rej_bit _ (Sub.mono hm ?_)); exact rfl)
    | with_reducible apply keeps_ite
    | with_reducible apply keeps_ite2
    | with_reducible apply keeps_ite3
    | with_reducible apply State.emit_keeps
    | (intro _ _ _)
    | (intro _ _)
    | (intro _)
    | (split; rename_i e; have e3 := congrArg (fun p => p.2.2) e; dsimp only at e3; subst e3)
    | (split; rename_i e; have e2 := congrArg Prod.snd e; dsimp only at e2; subst e2)
    | dsimp only
    | split
    | with_reducible apply keeps_fields
    | with_reducible apply keeps_store

theorem State.putData_keeps {s : State} (a : Nat) (bs : List Byte) (h : s0.Keeps fp s)
    (hm : Sub 0x20000000000 fp) :
    s0.Keeps fp (State.putData s a bs) := by
  unfold State.putData
  try dsimp only
  repeat' first
    | with_reducible assumption
    | ((with_reducible refine Sub.bit hm ?_); exact rfl)
    | ((with_reducible refine Sub.mono hm ?_); exact rfl)
    | with_reducible apply keeps_ite
    | with_reducible refine keeps_foldl _ _ ?_ ?_
    | with_reducible refine keeps_foldl2 _ _ _ ?_ ?_
    | with_reducible apply State.emit_keeps
    | (intro _ _ _)
    | (intro _ _)
    | (intro _)
    | dsimp only
    | split

theorem State.stamp_keeps {s : State} (d : Nat) (h : s0.Keeps fp s)
    (hm : Sub 0x800000 fp) :
    s0.Keeps fp (State.stamp s d).2 := by
  unfold State.stamp
  try dsimp only
  repeat' first
    | with_reducible assumption
    | ((with_reducible refine Sub.bit hm ?_); exact rfl)
    | ((with_reducible refine Sub.mono hm ?_); exact rfl)
    | ((with_reducible refine .inl (Sub.bit hm ?_)); exact rfl)
    | with_reducible exact .inr rfl
    | ((with_reducible refine reg_bit _ (Sub.mono hm ?_)); exact rfl)
    | ((with_reducible refine rej_bit _ (Sub.mono hm ?_)); exact rfl)
    | with_reducible apply keeps_ite
    | with_reducible apply keeps_ite2
    | with_reducible apply keeps_ite3
    | with_reducible apply State.fresh_keeps
    | (intro _ _ _)
    | (intro _ _)
    | (intro _)
    | (split; rename_i e; have e3 := congrArg (fun p => p.2.2) e; dsimp only at e3; subst e3)
    | (split; rename_i e; have e2 := congrArg Prod.snd e; dsimp only at e2; subst e2)
    | dsimp only
    | split
    | with_reducible apply keeps_fields
    | with_reducible apply keeps_store

theorem State.setCore_keeps {s : State} (c : Nat) (x : Core) (h : s0.Keeps fp s)
    (hm : Sub 0x8000000 fp) :
    s0.Keeps fp (State.setCore s c x) := by
  unfold State.setCore
  try dsimp only
  repeat' first
    | with_reducible assumption
    | ((with_reducible refine Sub.bit hm ?_); exact rfl)
    | ((with_reducible refine Sub.mono hm ?_); exact rfl)
    | ((with_reducible refine .inl (Sub.bit hm ?_)); exact rfl)
    | with_reducible exact .inr rfl
    | dsimp only
    | with_reducible apply keeps_fields
    | with_reducible apply keeps_store

end Sys2Proof.Machine
end

