-- ==== Sys2Proof/Laws/KeepsEvents.lean ====
section
/-! SUPPORT. What the operations of Machine/Events.lean keep, and the parts they may change. -/

namespace Sys2Proof.Machine

variable {fp : Nat} {s0 : State}

theorem State.pushRec_keeps {s : State} (q : Nat) (st : RegName) (i : Nat) (r : Rec4) (h : s0.Keeps fp s)
    (hm : Sub 0x1000000 fp) (hb_st : fp.testBit st.bit = true) :
    s0.Keeps fp (State.pushRec s q st i r) := by
  unfold State.pushRec
  try dsimp only
  repeat' first
    | with_reducible assumption
    | ((with_reducible refine Sub.bit hm ?_); exact rfl)
    | ((with_reducible refine Sub.mono hm ?_); exact rfl)
    | ((with_reducible refine .inl (Sub.bit hm ?_)); exact rfl)
    | with_reducible exact .inr rfl
    | ((with_reducible refine reg_bit _ (Sub.mono hm ?_)); exact rfl)
    | ((with_reducible refine rej_bit _ (Sub.mono hm ?_)); exact rfl)
    | with_reducible apply keeps_ite
    | with_reducible apply State.wb_keeps
    | dsimp only
    | split
    | with_reducible apply keeps_fields
    | with_reducible apply keeps_store

theorem State.dropHead_keeps {s : State} (q : Nat) (h : s0.Keeps fp s)
    (hm : Sub 0x1000000 fp) :
    s0.Keeps fp (State.dropHead s q) := by
  unfold State.dropHead
  try dsimp only
  repeat' first
    | with_reducible assumption
    | ((with_reducible refine Sub.bit hm ?_); exact rfl)
    | ((with_reducible refine Sub.mono hm ?_); exact rfl)
    | ((with_reducible refine .inl (Sub.bit hm ?_)); exact rfl)
    | with_reducible exact .inr rfl
    | dsimp only
    | with_reducible apply keeps_fields
    | with_reducible apply keeps_store

theorem State.clearPending_keeps {s : State} (n : Nat) (h : s0.Keeps fp s)
    (hm : Sub 0x1000004 fp) :
    s0.Keeps fp (State.clearPending s n) := by
  unfold State.clearPending
  try dsimp only
  repeat' first
    | with_reducible assumption
    | ((with_reducible refine Sub.bit hm ?_); exact rfl)
    | ((with_reducible refine Sub.mono hm ?_); exact rfl)
    | ((with_reducible refine .inl (Sub.bit hm ?_)); exact rfl)
    | with_reducible exact .inr rfl
    | with_reducible apply State.wr_keeps
    | dsimp only
    | with_reducible apply keeps_fields
    | with_reducible apply keeps_store

theorem State.deliver_keeps {s : State} (n : Nat) (t : Nat) (h : s0.Keeps fp s)
    (hm : Sub 0x1000004 fp) :
    s0.Keeps fp (State.deliver s n t) := by
  unfold State.deliver
  try dsimp only
  repeat' first
    | with_reducible assumption
    | ((with_reducible refine Sub.bit hm ?_); exact rfl)
    | ((with_reducible refine Sub.mono hm ?_); exact rfl)
    | ((with_reducible refine .inl (Sub.bit hm ?_)); exact rfl)
    | with_reducible exact .inr rfl
    | with_reducible apply keeps_ite
    | with_reducible apply State.pushRec_keeps
    | with_reducible apply State.clearPending_keeps
    | dsimp only
    | split
    | with_reducible apply keeps_fields
    | with_reducible apply keeps_store

theorem State.sendVector_keeps {s : State} (v : Nat) (h : s0.Keeps fp s)
    (hm : Sub 0x20001000004 fp) :
    s0.Keeps fp (State.sendVector s v) := by
  unfold State.sendVector
  try dsimp only
  repeat' first
    | with_reducible assumption
    | ((with_reducible refine Sub.bit hm ?_); exact rfl)
    | ((with_reducible refine Sub.mono hm ?_); exact rfl)
    | ((with_reducible refine .inl (Sub.bit hm ?_)); exact rfl)
    | with_reducible exact .inr rfl
    | with_reducible refine keeps_foldl _ _ ?_ ?_
    | with_reducible refine keeps_foldl2 _ _ _ ?_ ?_
    | with_reducible apply State.emit_keeps
    | with_reducible apply State.deliver_keeps
    | (intro _ _ _)
    | (intro _ _)
    | (intro _)
    | dsimp only
    | split
    | with_reducible apply keeps_fields
    | with_reducible apply keeps_store

theorem State.sendDue_keeps (n : Nat) {s : State} (h : s0.Keeps fp s) (hm : Sub 0x20001000004 fp) :
    s0.Keeps fp (State.sendDue n s) := by
  induction n generalizing s with
  | zero => exact h
  | succ k ih =>
    unfold State.sendDue
    split
    · exact h
    · exact ih (State.sendVector_keeps _ h (Sub.mono hm rfl))

theorem State.strand_keeps {s : State} (h : s0.Keeps fp s)
    (hm : Sub 0x1000004 fp) :
    s0.Keeps fp (State.strand s) := by
  unfold State.strand
  try dsimp only
  repeat' first
    | with_reducible assumption
    | ((with_reducible refine Sub.bit hm ?_); exact rfl)
    | ((with_reducible refine Sub.mono hm ?_); exact rfl)
    | ((with_reducible refine .inl (Sub.bit hm ?_)); exact rfl)
    | with_reducible exact .inr rfl
    | with_reducible apply keeps_ite
    | with_reducible refine keeps_foldl _ _ ?_ ?_
    | with_reducible refine keeps_foldl2 _ _ _ ?_ ?_
    | with_reducible apply State.wb_keeps
    | with_reducible apply State.bump_keeps
    | (intro _ _ _)
    | (intro _ _)
    | (intro _)
    | dsimp only
    | split
    | with_reducible apply keeps_fields
    | with_reducible apply keeps_store

theorem State.arbitrate_keeps {s : State} (h : s0.Keeps fp s)
    (hm : Sub 0x20001000004 fp) :
    s0.Keeps fp (State.arbitrate s) := by
  unfold State.arbitrate
  try dsimp only
  repeat' first
    | with_reducible assumption
    | ((with_reducible refine Sub.bit hm ?_); exact rfl)
    | ((with_reducible refine Sub.mono hm ?_); exact rfl)
    | ((with_reducible refine .inl (Sub.bit hm ?_)); exact rfl)
    | with_reducible exact .inr rfl
    | ((with_reducible refine reg_bit _ (Sub.mono hm ?_)); exact rfl)
    | ((with_reducible refine rej_bit _ (Sub.mono hm ?_)); exact rfl)
    | with_reducible apply keeps_ite
    | with_reducible apply keeps_ite2
    | with_reducible apply keeps_ite3
    | with_reducible apply State.sendDue_keeps
    | with_reducible apply State.strand_keeps
    | (intro _ _ _)
    | (intro _ _)
    | (intro _)
    | (split; rename_i e; have e3 := congrArg (fun p => p.2.2) e; dsimp only at e3; subst e3)
    | (split; rename_i e; have e2 := congrArg Prod.snd e; dsimp only at e2; subst e2)
    | dsimp only
    | split
    | with_reducible apply keeps_fields
    | with_reducible apply keeps_store

theorem State.arrive_keeps {s : State} (n : Nat) (k : Nat) (stamp : Word64) (h : s0.Keeps fp s)
    (hm : Sub 0x1000004 fp) :
    s0.Keeps fp (State.arrive s n k stamp) := by
  unfold State.arrive
  try dsimp only
  repeat' first
    | with_reducible assumption
    | ((with_reducible refine Sub.bit hm ?_); exact rfl)
    | ((with_reducible refine Sub.mono hm ?_); exact rfl)
    | ((with_reducible refine .inl (Sub.bit hm ?_)); exact rfl)
    | with_reducible exact .inr rfl
    | with_reducible apply keeps_ite
    | with_reducible apply State.wr_keeps
    | dsimp only
    | split
    | with_reducible apply keeps_fields
    | with_reducible apply keeps_store

theorem State.capture_keeps {s : State} (k : Nat) (stamp : Word64) (h : s0.Keeps fp s)
    (hm : Sub 0x800008 fp) :
    s0.Keeps fp (State.capture s k stamp) := by
  unfold State.capture
  try dsimp only
  repeat' first
    | with_reducible assumption
    | ((with_reducible refine Sub.bit hm ?_); exact rfl)
    | ((with_reducible refine Sub.mono hm ?_); exact rfl)
    | ((with_reducible refine .inl (Sub.bit hm ?_)); exact rfl)
    | with_reducible exact .inr rfl
    | with_reducible apply bit_ite
    | with_reducible apply keeps_ite
    | with_reducible apply State.wr_keeps
    | with_reducible apply State.wb_keeps
    | dsimp only
    | split
    | with_reducible apply keeps_fields
    | with_reducible apply keeps_store

theorem State.captureSecond_keeps {s : State} (j : Nat) (stamp : Word64) (h : s0.Keeps fp s)
    (hm : Sub 0x180000C fp) :
    s0.Keeps fp (State.captureSecond s j stamp) := by
  unfold State.captureSecond
  try dsimp only
  repeat' first
    | with_reducible assumption
    | ((with_reducible refine Sub.bit hm ?_); exact rfl)
    | ((with_reducible refine Sub.mono hm ?_); exact rfl)
    | with_reducible refine keeps_foldl _ _ ?_ ?_
    | with_reducible refine keeps_foldl2 _ _ _ ?_ ?_
    | with_reducible apply State.arrive_keeps
    | with_reducible apply State.capture_keeps
    | (intro _ _ _)
    | (intro _ _)
    | (intro _)
    | dsimp only

theorem State.captureAll_keeps {s : State} (n : Nat) (stamp : Word64) (h : s0.Keeps fp s)
    (hm : Sub 0x180000C fp) :
    s0.Keeps fp (State.captureAll s n stamp) := by
  unfold State.captureAll
  try dsimp only
  repeat' first
    | with_reducible assumption
    | ((with_reducible refine Sub.bit hm ?_); exact rfl)
    | ((with_reducible refine Sub.mono hm ?_); exact rfl)
    | with_reducible apply keeps_ite
    | with_reducible refine keeps_foldl _ _ ?_ ?_
    | with_reducible refine keeps_foldl2 _ _ _ ?_ ?_
    | with_reducible apply State.arrive_keeps
    | with_reducible apply State.capture_keeps
    | with_reducible apply State.captureSecond_keeps
    | (intro _ _ _)
    | (intro _ _)
    | (intro _)
    | dsimp only
    | split

theorem State.record_keeps {s : State} (n : Nat) (d : Nat) (k : Nat) (h : s0.Keeps fp s)
    (hm : Sub 0x180000C fp) :
    s0.Keeps fp (State.record s n d k) := by
  unfold State.record
  try dsimp only
  repeat' first
    | with_reducible assumption
    | ((with_reducible refine Sub.bit hm ?_); exact rfl)
    | ((with_reducible refine Sub.mono hm ?_); exact rfl)
    | ((with_reducible refine .inl (Sub.bit hm ?_)); exact rfl)
    | with_reducible exact .inr rfl
    | with_reducible apply keeps_ite
    | with_reducible apply State.stamp_keeps
    | with_reducible apply State.arrive_keeps
    | with_reducible apply State.captureAll_keeps
    | (split; rename_i e; have e3 := congrArg (fun p => p.2.2) e; dsimp only at e3; subst e3)
    | (split; rename_i e; have e2 := congrArg Prod.snd e; dsimp only at e2; subst e2)
    | dsimp only
    | split
    | with_reducible apply keeps_fields
    | with_reducible apply keeps_store

theorem State.raiseN_keeps {s : State} (n : Nat) (d : Nat) (k : Nat) (h : s0.Keeps fp s)
    (hm : Sub 0x2000180000C fp) :
    s0.Keeps fp (State.raiseN s n d k) := by
  unfold State.raiseN
  try dsimp only
  repeat' first
    | with_reducible assumption
    | ((with_reducible refine Sub.bit hm ?_); exact rfl)
    | ((with_reducible refine Sub.mono hm ?_); exact rfl)
    | with_reducible apply keeps_ite
    | with_reducible apply State.arbitrate_keeps
    | with_reducible apply State.record_keeps
    | dsimp only
    | split

theorem State.raise_keeps {s : State} (n : Nat) (d : Nat) (h : s0.Keeps fp s)
    (hm : Sub 0x2000180000C fp) :
    s0.Keeps fp (State.raise s n d) := by
  unfold State.raise
  try dsimp only
  repeat' first
    | with_reducible assumption
    | ((with_reducible refine Sub.bit hm ?_); exact rfl)
    | ((with_reducible refine Sub.mono hm ?_); exact rfl)
    | with_reducible apply State.raiseN_keeps
    | dsimp only

theorem arrival_keeps (n : Nat) {s : State} (h : s0.Keeps fp s)
    (hm : Sub 0x2000180000C fp) :
    s0.Keeps fp (arrival n s) := by
  unfold arrival
  try dsimp only
  repeat' first
    | with_reducible assumption
    | ((with_reducible refine Sub.bit hm ?_); exact rfl)
    | ((with_reducible refine Sub.mono hm ?_); exact rfl)
    | with_reducible apply keeps_ite
    | with_reducible apply State.raise_keeps
    | dsimp only
    | split

theorem coalesceTimeout_keeps (_n : Nat) {s : State} (h : s0.Keeps fp s)
    (hm : Sub 0x20001000004 fp) :
    s0.Keeps fp (coalesceTimeout _n s) := by
  unfold coalesceTimeout
  try dsimp only
  repeat' first
    | with_reducible assumption
    | ((with_reducible refine Sub.bit hm ?_); exact rfl)
    | ((with_reducible refine Sub.mono hm ?_); exact rfl)
    | with_reducible apply State.arbitrate_keeps
    | dsimp only

theorem withdraw_keeps (n : Nat) {s : State} (h : s0.Keeps fp s)
    (hm : Sub 0x1000004 fp) :
    s0.Keeps fp (withdraw n s) := by
  unfold withdraw
  try dsimp only
  repeat' first
    | with_reducible assumption
    | ((with_reducible refine Sub.bit hm ?_); exact rfl)
    | ((with_reducible refine Sub.mono hm ?_); exact rfl)
    | with_reducible apply State.clearPending_keeps
    | dsimp only

theorem srcCfgWrite_keeps (n : Nat) (w : Word) {s : State} (h : s0.Keeps fp s)
    (hm : Sub 0x20001000004 fp) :
    s0.Keeps fp (srcCfgWrite n w s) := by
  unfold srcCfgWrite
  try dsimp only
  repeat' first
    | with_reducible assumption
    | ((with_reducible refine Sub.bit hm ?_); exact rfl)
    | ((with_reducible refine Sub.mono hm ?_); exact rfl)
    | ((with_reducible refine .inl (Sub.bit hm ?_)); exact rfl)
    | with_reducible exact .inr rfl
    | with_reducible apply bit_ite
    | with_reducible apply keeps_ite
    | with_reducible apply State.wr_keeps
    | with_reducible apply State.arbitrate_keeps
    | with_reducible apply withdraw_keeps
    | dsimp only
    | split
    | with_reducible apply keeps_fields
    | with_reducible apply keeps_store

theorem retarget_keeps (n : Nat) (t : Nat) {s : State} (h : s0.Keeps fp s)
    (hm : Sub 0x20001000004 fp) :
    s0.Keeps fp (retarget n t s) := by
  unfold retarget
  try dsimp only
  repeat' first
    | with_reducible assumption
    | ((with_reducible refine Sub.bit hm ?_); exact rfl)
    | ((with_reducible refine Sub.mono hm ?_); exact rfl)
    | ((with_reducible refine rej_parts _ (Sub.mono hm ?_)); exact rfl)
    | with_reducible apply keeps_ite
    | with_reducible apply State.rejectAt_keeps
    | with_reducible apply State.reject_keeps
    | with_reducible apply srcCfgWrite_keeps
    | dsimp only
    | split

theorem srcStatusWrite_keeps (n : Nat) (w : Word) {s : State} (h : s0.Keeps fp s)
    (hm : Sub 0x1000004 fp) :
    s0.Keeps fp (srcStatusWrite n w s) := by
  unfold srcStatusWrite
  try dsimp only
  repeat' first
    | with_reducible assumption
    | ((with_reducible refine Sub.bit hm ?_); exact rfl)
    | ((with_reducible refine Sub.mono hm ?_); exact rfl)
    | ((with_reducible refine .inl (Sub.bit hm ?_)); exact rfl)
    | with_reducible exact .inr rfl
    | with_reducible apply keeps_ite
    | with_reducible apply State.wb_keeps
    | with_reducible apply withdraw_keeps
    | dsimp only
    | split
    | with_reducible apply keeps_fields
    | with_reducible apply keeps_store

theorem State.claim_keeps {s : State} (c : Nat) (L : Nat) (h : s0.Keeps fp s)
    (hm : Sub 0x1000004 fp) :
    s0.Keeps fp (State.claim s c L).2 := by
  unfold State.claim
  try dsimp only
  repeat' first
    | with_reducible assumption
    | ((with_reducible refine Sub.bit hm ?_); exact rfl)
    | ((with_reducible refine Sub.mono hm ?_); exact rfl)
    | ((with_reducible refine .inl (Sub.bit hm ?_)); exact rfl)
    | with_reducible exact .inr rfl
    | with_reducible apply State.wf_keeps
    | with_reducible apply State.wb_keeps
    | with_reducible apply State.bump_keeps
    | with_reducible apply State.deliver_keeps
    | dsimp only
    | split
    | with_reducible apply keeps_fields
    | with_reducible apply keeps_store

theorem State.endActive_keeps {s : State} (c : Nat) (bound : Nat) (h : s0.Keeps fp s)
    (hm : Sub 0x1000004 fp) :
    s0.Keeps fp (State.endActive s c bound) := by
  unfold State.endActive
  try dsimp only
  repeat' first
    | with_reducible assumption
    | ((with_reducible refine Sub.bit hm ?_); exact rfl)
    | ((with_reducible refine Sub.mono hm ?_); exact rfl)
    | ((with_reducible refine .inl (Sub.bit hm ?_)); exact rfl)
    | with_reducible exact .inr rfl
    | with_reducible refine keeps_foldl _ _ ?_ ?_
    | with_reducible refine keeps_foldl2 _ _ _ ?_ ?_
    | with_reducible apply State.wb_keeps
    | (intro _ _ _)
    | (intro _ _)
    | (intro _)
    | dsimp only
    | with_reducible apply keeps_fields
    | with_reducible apply keeps_store

theorem queuePop_keeps (t : Nat) {s : State} (h : s0.Keeps fp s)
    (hm : Sub 0x1000000 fp) :
    s0.Keeps fp (queuePop t s).2 := by
  unfold queuePop
  try dsimp only
  repeat' first
    | with_reducible assumption
    | ((with_reducible refine Sub.bit hm ?_); exact rfl)
    | ((with_reducible refine Sub.mono hm ?_); exact rfl)
    | ((with_reducible refine .inl (Sub.bit hm ?_)); exact rfl)
    | with_reducible exact .inr rfl
    | with_reducible apply State.dropHead_keeps
    | dsimp only
    | with_reducible apply keeps_fields
    | with_reducible apply keeps_store

theorem swiWrite_keeps (w : Word) {s : State} (h : s0.Keeps fp s)
    (hm : Sub 0x2000180000C fp) :
    s0.Keeps fp (swiWrite w s) := by
  unfold swiWrite
  try dsimp only
  repeat' first
    | with_reducible assumption
    | ((with_reducible refine Sub.bit hm ?_); exact rfl)
    | ((with_reducible refine Sub.mono hm ?_); exact rfl)
    | with_reducible apply keeps_ite
    | with_reducible refine keeps_foldl _ _ ?_ ?_
    | with_reducible refine keeps_foldl2 _ _ _ ?_ ?_
    | with_reducible apply State.arbitrate_keeps
    | with_reducible apply State.record_keeps
    | (intro _ _ _)
    | (intro _ _)
    | (intro _)
    | dsimp only
    | split

end Sys2Proof.Machine
end

