-- ==== Sys2Proof/Laws/KeepsTimers.lean ====
section
/-! SUPPORT. What the operations of Machine/Timers.lean keep, and the parts they may change. -/

namespace Sys2Proof.Machine

variable {fp : Nat} {s0 : State}

theorem State.driveCmp_keeps {s : State} (c : Nat) (n : Nat) (h : s0.Keeps fp s)
    (hm : Sub 0x800000 fp) :
    s0.Keeps fp (State.driveCmp s c n) := by
  unfold State.driveCmp
  try dsimp only
  repeat' first
    | with_reducible assumption
    | ((with_reducible refine Sub.bit hm ?_); exact rfl)
    | ((with_reducible refine Sub.mono hm ?_); exact rfl)
    | ((with_reducible refine .inl (Sub.bit hm ?_)); exact rfl)
    | with_reducible exact .inr rfl
    | with_reducible apply bit_ite
    | with_reducible apply keeps_ite
    | dsimp only
    | split
    | with_reducible apply keeps_fields
    | with_reducible apply keeps_store

theorem State.cmpFired_keeps {s : State} (c : Nat) (n : Nat) (h : s0.Keeps fp s)
    (hm : Sub 0x180000C fp) :
    s0.Keeps fp (State.cmpFired s c n) := by
  unfold State.cmpFired
  try dsimp only
  repeat' first
    | with_reducible assumption
    | ((with_reducible refine Sub.bit hm ?_); exact rfl)
    | ((with_reducible refine Sub.mono hm ?_); exact rfl)
    | with_reducible apply State.wb_keeps
    | with_reducible apply State.record_keeps
    | with_reducible apply State.driveCmp_keeps
    | dsimp only

theorem State.cmpPeriod_keeps {s : State} (c : Nat) (n : Nat) (h : s0.Keeps fp s)
    (hm : Sub 8 fp) :
    s0.Keeps fp (State.cmpPeriod s c n) := by
  unfold State.cmpPeriod
  try dsimp only
  repeat' first
    | with_reducible assumption
    | ((with_reducible refine Sub.bit hm ?_); exact rfl)
    | ((with_reducible refine Sub.mono hm ?_); exact rfl)
    | ((with_reducible refine .inl (Sub.bit hm ?_)); exact rfl)
    | with_reducible exact .inr rfl
    | with_reducible apply keeps_ite
    | with_reducible apply State.wr_keeps
    | with_reducible apply State.wb_keeps
    | dsimp only
    | split
    | with_reducible apply keeps_fields
    | with_reducible apply keeps_store

theorem State.cmpStep_keeps {s : State} (t : Nat) (k : Nat) (c : Nat) (h : s0.Keeps fp s)
    (hm : Sub 0x180000C fp) :
    s0.Keeps fp (State.cmpStep s t k c) := by
  unfold State.cmpStep
  try dsimp only
  repeat' first
    | with_reducible assumption
    | ((with_reducible refine Sub.bit hm ?_); exact rfl)
    | ((with_reducible refine Sub.mono hm ?_); exact rfl)
    | ((with_reducible refine .inl (Sub.bit hm ?_)); exact rfl)
    | with_reducible exact .inr rfl
    | with_reducible apply keeps_ite
    | with_reducible apply State.cmpFired_keeps
    | with_reducible apply State.cmpPeriod_keeps
    | dsimp only
    | split
    | with_reducible apply keeps_fields
    | with_reducible apply keeps_store

theorem State.itStep_keeps {s : State} (k : Nat) (i : Nat) (h : s0.Keeps fp s)
    (hm : Sub 0x180000C fp) :
    s0.Keeps fp (State.itStep s k i) := by
  unfold State.itStep
  try dsimp only
  repeat' first
    | with_reducible assumption
    | ((with_reducible refine Sub.bit hm ?_); exact rfl)
    | ((with_reducible refine Sub.mono hm ?_); exact rfl)
    | ((with_reducible refine .inl (Sub.bit hm ?_)); exact rfl)
    | with_reducible exact .inr rfl
    | with_reducible apply keeps_ite
    | with_reducible apply State.wr_keeps
    | with_reducible apply State.wb_keeps
    | with_reducible apply State.bump_keeps
    | with_reducible apply State.record_keeps
    | dsimp only
    | split
    | with_reducible apply keeps_fields
    | with_reducible apply keeps_store

theorem State.advance_keeps {s : State} (k : Nat) (h : s0.Keeps fp s)
    (hm : Sub 0x2000180000C fp) :
    s0.Keeps fp (State.advance s k) := by
  unfold State.advance
  try dsimp only
  repeat' first
    | with_reducible assumption
    | ((with_reducible refine Sub.bit hm ?_); exact rfl)
    | ((with_reducible refine Sub.mono hm ?_); exact rfl)
    | ((with_reducible refine .inl (Sub.bit hm ?_)); exact rfl)
    | with_reducible exact .inr rfl
    | with_reducible apply keeps_ite
    | with_reducible refine keeps_foldl _ _ ?_ ?_
    | with_reducible refine keeps_foldl2 _ _ _ ?_ ?_
    | with_reducible apply State.arbitrate_keeps
    | with_reducible apply State.record_keeps
    | with_reducible apply State.cmpStep_keeps
    | with_reducible apply State.itStep_keeps
    | (intro _ _ _)
    | (intro _ _)
    | (intro _)
    | dsimp only
    | split
    | with_reducible apply keeps_fields
    | with_reducible apply keeps_store

theorem tbLoRead_keeps {s : State} (h : s0.Keeps fp s)
    (hm : Sub 0x800000 fp) :
    s0.Keeps fp (tbLoRead s).2 := by
  unfold tbLoRead
  try dsimp only
  repeat' first
    | with_reducible assumption
    | ((with_reducible refine Sub.bit hm ?_); exact rfl)
    | ((with_reducible refine Sub.mono hm ?_); exact rfl)
    | ((with_reducible refine .inl (Sub.bit hm ?_)); exact rfl)
    | with_reducible exact .inr rfl
    | dsimp only
    | with_reducible apply keeps_fields
    | with_reducible apply keeps_store

theorem tbHiRead_keeps {s : State} (h : s0.Keeps fp s)
    (hm : Sub 0x800000 fp) :
    s0.Keeps fp (tbHiRead s).2 := by
  unfold tbHiRead
  try dsimp only
  repeat' first
    | with_reducible assumption
    | ((with_reducible refine Sub.bit hm ?_); exact rfl)
    | ((with_reducible refine Sub.mono hm ?_); exact rfl)
    | ((with_reducible refine .inl (Sub.bit hm ?_)); exact rfl)
    | with_reducible exact .inr rfl
    | dsimp only
    | split
    | with_reducible apply keeps_fields
    | with_reducible apply keeps_store

theorem tbLoad_keeps {s : State} (h : s0.Keeps fp s)
    (hm : Sub 0x2000180000C fp) :
    s0.Keeps fp (tbLoad s) := by
  unfold tbLoad
  try dsimp only
  repeat' first
    | with_reducible assumption
    | ((with_reducible refine Sub.bit hm ?_); exact rfl)
    | ((with_reducible refine Sub.mono hm ?_); exact rfl)
    | ((with_reducible refine .inl (Sub.bit hm ?_)); exact rfl)
    | with_reducible exact .inr rfl
    | ((with_reducible refine rej_parts _ (Sub.mono hm ?_)); exact rfl)
    | with_reducible apply keeps_ite
    | with_reducible apply State.rejectAt_keeps
    | with_reducible apply State.reject_keeps
    | with_reducible apply State.advance_keeps
    | dsimp only
    | split
    | with_reducible apply keeps_fields
    | with_reducible apply keeps_store

theorem State.armCmp_keeps {s : State} (c : Nat) (h : s0.Keeps fp s)
    (hm : Sub 8 fp) :
    s0.Keeps fp (State.armCmp s c) := by
  unfold State.armCmp
  try dsimp only
  repeat' first
    | with_reducible assumption
    | ((with_reducible refine Sub.bit hm ?_); exact rfl)
    | ((with_reducible refine Sub.mono hm ?_); exact rfl)
    | ((with_reducible refine .inl (Sub.bit hm ?_)); exact rfl)
    | with_reducible exact .inr rfl
    | with_reducible apply keeps_ite
    | with_reducible apply State.wb_keeps
    | dsimp only
    | split
    | with_reducible apply keeps_fields
    | with_reducible apply keeps_store

theorem cmpValueWrite_keeps (c : Nat) (v : Word) {s : State} (h : s0.Keeps fp s)
    (hm : Sub 8 fp) :
    s0.Keeps fp (cmpValueWrite c v s) := by
  unfold cmpValueWrite
  try dsimp only
  repeat' first
    | with_reducible assumption
    | ((with_reducible refine Sub.bit hm ?_); exact rfl)
    | ((with_reducible refine Sub.mono hm ?_); exact rfl)
    | ((with_reducible refine .inl (Sub.bit hm ?_)); exact rfl)
    | with_reducible exact .inr rfl
    | with_reducible apply keeps_ite
    | with_reducible apply State.wr_keeps
    | with_reducible apply State.armCmp_keeps
    | dsimp only
    | split
    | with_reducible apply keeps_fields
    | with_reducible apply keeps_store

theorem cmpFire_keeps (c : Nat) {s : State} (h : s0.Keeps fp s)
    (hm : Sub 0x2000180000C fp) :
    s0.Keeps fp (cmpFire c s) := by
  unfold cmpFire
  try dsimp only
  repeat' first
    | with_reducible assumption
    | ((with_reducible refine Sub.bit hm ?_); exact rfl)
    | ((with_reducible refine Sub.mono hm ?_); exact rfl)
    | with_reducible apply bit_ite
    | with_reducible apply keeps_ite
    | with_reducible apply State.arbitrate_keeps
    | with_reducible apply State.cmpFired_keeps
    | with_reducible apply State.cmpPeriod_keeps
    | dsimp only
    | split

theorem cmpCtrlWrite_keeps (c : Nat) (w : Word) {s : State} (h : s0.Keeps fp s)
    (hm : Sub 0x2000180000C fp) :
    s0.Keeps fp (cmpCtrlWrite c w s) := by
  unfold cmpCtrlWrite
  try dsimp only
  repeat' first
    | with_reducible assumption
    | ((with_reducible refine Sub.bit hm ?_); exact rfl)
    | ((with_reducible refine Sub.mono hm ?_); exact rfl)
    | ((with_reducible refine .inl (Sub.bit hm ?_)); exact rfl)
    | with_reducible exact .inr rfl
    | with_reducible apply bit_ite
    | with_reducible apply keeps_ite
    | with_reducible apply State.wr_keeps
    | with_reducible apply State.wb_keeps
    | with_reducible apply State.armCmp_keeps
    | with_reducible apply cmpFire_keeps
    | dsimp only
    | split
    | with_reducible apply keeps_fields
    | with_reducible apply keeps_store

theorem capTake_keeps (k : Nat) {s : State} (h : s0.Keeps fp s)
    (hm : Sub 8 fp) :
    s0.Keeps fp (capTake k s) := by
  unfold capTake
  try dsimp only
  repeat' first
    | with_reducible assumption
    | ((with_reducible refine Sub.bit hm ?_); exact rfl)
    | ((with_reducible refine Sub.mono hm ?_); exact rfl)
    | with_reducible apply keeps_ite
    | with_reducible apply State.wb_keeps
    | dsimp only
    | split

theorem capLoRead_keeps (k : Nat) {s : State} (h : s0.Keeps fp s)
    (hm : Sub 0x800008 fp) :
    s0.Keeps fp (capLoRead k s).2 := by
  unfold capLoRead
  try dsimp only
  repeat' first
    | with_reducible assumption
    | ((with_reducible refine Sub.bit hm ?_); exact rfl)
    | ((with_reducible refine Sub.mono hm ?_); exact rfl)
    | ((with_reducible refine .inl (Sub.bit hm ?_)); exact rfl)
    | with_reducible exact .inr rfl
    | with_reducible apply capTake_keeps
    | dsimp only
    | with_reducible apply keeps_fields
    | with_reducible apply keeps_store

theorem capHiRead_keeps (k : Nat) {s : State} (h : s0.Keeps fp s)
    (hm : Sub 0x800000 fp) :
    s0.Keeps fp (capHiRead k s).2 := by
  unfold capHiRead
  try dsimp only
  repeat' first
    | with_reducible assumption
    | ((with_reducible refine Sub.bit hm ?_); exact rfl)
    | ((with_reducible refine Sub.mono hm ?_); exact rfl)
    | ((with_reducible refine .inl (Sub.bit hm ?_)); exact rfl)
    | with_reducible exact .inr rfl
    | dsimp only
    | split
    | with_reducible apply keeps_fields
    | with_reducible apply keeps_store

theorem capLogPop_keeps (k : Nat) {s : State} (h : s0.Keeps fp s)
    (hm : Sub 0x800000 fp) :
    s0.Keeps fp (capLogPop k s).2 := by
  unfold capLogPop
  try dsimp only
  repeat' first
    | with_reducible assumption
    | ((with_reducible refine Sub.bit hm ?_); exact rfl)
    | ((with_reducible refine Sub.mono hm ?_); exact rfl)
    | ((with_reducible refine .inl (Sub.bit hm ?_)); exact rfl)
    | with_reducible exact .inr rfl
    | dsimp only
    | with_reducible apply keeps_fields
    | with_reducible apply keeps_store

theorem itCtrlWrite_keeps (k : Nat) (w : Word) {s : State} (h : s0.Keeps fp s)
    (hm : Sub 8 fp) :
    s0.Keeps fp (itCtrlWrite k w s) := by
  unfold itCtrlWrite
  try dsimp only
  repeat' first
    | with_reducible assumption
    | ((with_reducible refine Sub.bit hm ?_); exact rfl)
    | ((with_reducible refine Sub.mono hm ?_); exact rfl)
    | ((with_reducible refine .inl (Sub.bit hm ?_)); exact rfl)
    | with_reducible exact .inr rfl
    | with_reducible apply keeps_ite
    | with_reducible apply State.wr_keeps
    | dsimp only
    | split
    | with_reducible apply keeps_fields
    | with_reducible apply keeps_store

theorem itLoadWrite_keeps (k : Nat) (v : Word) {s : State} (h : s0.Keeps fp s)
    (hm : Sub 8 fp) :
    s0.Keeps fp (itLoadWrite k v s) := by
  unfold itLoadWrite
  try dsimp only
  repeat' first
    | with_reducible assumption
    | ((with_reducible refine Sub.bit hm ?_); exact rfl)
    | ((with_reducible refine Sub.mono hm ?_); exact rfl)
    | ((with_reducible refine rej_parts _ (Sub.mono hm ?_)); exact rfl)
    | with_reducible apply keeps_ite
    | with_reducible apply State.wr_keeps
    | with_reducible apply State.rejectAt_keeps
    | with_reducible apply State.reject_keeps
    | dsimp only
    | split

theorem fabricTick_keeps {s : State} (h : s0.Keeps fp s)
    (hm : Sub 0x2000180000C fp) :
    s0.Keeps fp (fabricTick s) := by
  unfold fabricTick
  try dsimp only
  repeat' first
    | with_reducible assumption
    | ((with_reducible refine Sub.bit hm ?_); exact rfl)
    | ((with_reducible refine Sub.mono hm ?_); exact rfl)
    | with_reducible apply keeps_ite
    | with_reducible apply State.advance_keeps
    | dsimp only
    | split

end Sys2Proof.Machine
end

