-- ==== Sys2Proof/Laws/KeepsStore.lean ====
section
/-! SUPPORT. What the operations of Machine/Store.lean keep, and the parts they may change. -/

namespace Sys2Proof.Machine

variable {fp : Nat} {s0 : State}

theorem State.setLineErr_keeps {s : State} (ln : Nat) (e : List (Nat × Byte)) (h : s0.Keeps fp s)
    (hm : Sub 0x2000000 fp) :
    s0.Keeps fp (State.setLineErr s ln e) := by
  unfold State.setLineErr
  try dsimp only
  repeat' first
    | with_reducible assumption
    | ((with_reducible refine Sub.bit hm ?_); exact rfl)
    | ((with_reducible refine Sub.mono hm ?_); exact rfl)
    | ((with_reducible refine .inl (Sub.bit hm ?_)); exact rfl)
    | with_reducible exact .inr rfl
    | dsimp only
    | with_reducible apply keeps_fields
    | with_reducible apply keeps_store

theorem State.logError_keeps {s : State} (lo : RegName) (hi : RegName) (k : Nat) (ln : Nat) (extra : Nat) (kind : Nat) (h : s0.Keeps fp s)
    (hm : Sub 0 fp) (hb_lo : fp.testBit lo.bit = true) (hb_hi : fp.testBit hi.bit = true) :
    s0.Keeps fp (State.logError s lo hi k ln extra kind) := by
  unfold State.logError
  try dsimp only
  repeat' first
    | with_reducible assumption
    | ((with_reducible refine Sub.bit hm ?_); exact rfl)
    | ((with_reducible refine Sub.mono hm ?_); exact rfl)
    | ((with_reducible refine .inl (Sub.bit hm ?_)); exact rfl)
    | with_reducible exact .inr rfl
    | ((with_reducible refine reg_bit _ (Sub.mono hm ?_)); exact rfl)
    | ((with_reducible refine rej_bit _ (Sub.mono hm ?_)); exact rfl)
    | with_reducible apply keeps_ite
    | with_reducible apply State.wr_keeps
    | dsimp only
    | split
    | with_reducible apply keeps_fields
    | with_reducible apply keeps_store

theorem State.decodeLine_keeps {s : State} (client : Nat) (l : OldLine) (h : s0.Keeps fp s)
    (hm : Sub 0x2000180000D fp) :
    s0.Keeps fp (State.decodeLine s client l).2.2 := by
  unfold State.decodeLine
  try dsimp only
  repeat' first
    | with_reducible assumption
    | ((with_reducible refine Sub.bit hm ?_); exact rfl)
    | ((with_reducible refine Sub.mono hm ?_); exact rfl)
    | ((with_reducible refine .inl (Sub.bit hm ?_)); exact rfl)
    | with_reducible exact .inr rfl
    | ((with_reducible refine reg_bit _ (Sub.mono hm ?_)); exact rfl)
    | ((with_reducible refine rej_bit _ (Sub.mono hm ?_)); exact rfl)
    | with_reducible apply bit_ite
    | with_reducible apply keeps_ite
    | with_reducible apply keeps_ite3
    | with_reducible refine keeps_foldl _ _ ?_ ?_
    | with_reducible refine keeps_foldl2 _ _ _ ?_ ?_
    | with_reducible apply State.wb_keeps
    | with_reducible apply State.bump_keeps
    | with_reducible apply State.raise_keeps
    | with_reducible apply State.logError_keeps
    | dsimp only
    | split
    | with_reducible apply keeps_fields
    | with_reducible apply keeps_store

theorem State.readLine_keeps {s : State} (client : Nat) (ln : Nat) (h : s0.Keeps fp s)
    (hm : Sub 0x2000380000D fp) :
    s0.Keeps fp (State.readLine s client ln).2.2 := by
  unfold State.readLine
  try dsimp only
  repeat' first
    | with_reducible assumption
    | ((with_reducible refine Sub.bit hm ?_); exact rfl)
    | ((with_reducible refine Sub.mono hm ?_); exact rfl)
    | ((with_reducible refine .inl (Sub.bit hm ?_)); exact rfl)
    | with_reducible exact .inr rfl
    | with_reducible apply keeps_ite
    | with_reducible apply keeps_ite3
    | with_reducible apply State.decodeLine_keeps
    | (split; rename_i e; have e3 := congrArg (fun p => p.2.2) e; dsimp only at e3; subst e3)
    | (split; rename_i e; have e2 := congrArg Prod.snd e; dsimp only at e2; subst e2)
    | dsimp only
    | split
    | with_reducible refine keeps_mem ?_ (fun hm => Memory.wf_memSetBytes _ hm _) ?_ ?_ ?_ ?_ ?_ ?_ ?_ ?_ ?_ ?_ ?_ ?_ ?_ ?_ ?_ ?_ ?_ ?_ ?_ ?_
    | with_reducible apply keeps_fields
    | with_reducible apply keeps_store

theorem State.oor_keeps {s : State} (h : s0.Keeps fp s)
    (hm : Sub 1 fp) :
    s0.Keeps fp (State.oor s) := by
  unfold State.oor
  try dsimp only
  repeat' first
    | with_reducible assumption
    | ((with_reducible refine Sub.bit hm ?_); exact rfl)
    | ((with_reducible refine Sub.mono hm ?_); exact rfl)
    | with_reducible apply State.wb_keeps
    | with_reducible apply State.bump_keeps
    | dsimp only

theorem State.psRead_keeps {s : State} (client : Nat) (a : Nat) (n : Nat) (h : s0.Keeps fp s)
    (hm : Sub 0x2000380000D fp) :
    s0.Keeps fp (State.psRead s client a n).2.2 := by
  unfold State.psRead
  try dsimp only
  repeat' first
    | with_reducible assumption
    | ((with_reducible refine Sub.bit hm ?_); exact rfl)
    | ((with_reducible refine Sub.mono hm ?_); exact rfl)
    | ((with_reducible refine .inl (Sub.bit hm ?_)); exact rfl)
    | with_reducible exact .inr rfl
    | ((with_reducible refine reg_bit _ (Sub.mono hm ?_)); exact rfl)
    | ((with_reducible refine rej_bit _ (Sub.mono hm ?_)); exact rfl)
    | with_reducible apply keeps_ite
    | with_reducible apply keeps_ite2
    | with_reducible apply keeps_ite3
    | with_reducible refine keeps_foldl _ _ ?_ ?_
    | with_reducible refine keeps_foldl2 _ _ _ ?_ ?_
    | with_reducible refine keeps_foldl3 _ _ _ ?_ ?_
    | with_reducible apply State.readLine_keeps
    | with_reducible apply State.oor_keeps
    | (intro _ _ _)
    | (intro _ _)
    | (intro _)
    | (split; rename_i e; have e3 := congrArg (fun p => p.2.2) e; dsimp only at e3; subst e3)
    | (split; rename_i e; have e2 := congrArg Prod.snd e; dsimp only at e2; subst e2)
    | dsimp only
    | split
    | with_reducible apply keeps_fields
    | with_reducible apply keeps_store

theorem State.deny_keeps {s : State} (a : Nat) (n : Nat) (h : s0.Keeps fp s)
    (hm : Sub 0x8000 fp) :
    s0.Keeps fp (State.deny s a n) := by
  unfold State.deny
  try dsimp only
  repeat' first
    | with_reducible assumption
    | ((with_reducible refine Sub.bit hm ?_); exact rfl)
    | ((with_reducible refine Sub.mono hm ?_); exact rfl)
    | with_reducible apply State.bump_keeps
    | (intro _ _ _)
    | (intro _ _)
    | (intro _)
    | dsimp only

theorem State.writePiece_keeps {s : State} (client : Nat) (a : Nat) (bs : List (Option Byte)) (h : s0.Keeps fp s)
    (hm : Sub 0x2000380000D fp) : s0.Keeps fp (State.writePiece s client a bs) := by
  unfold State.writePiece
  lift_lets
  extract_lets ln full st sa sb st2 sc
  have ha : s0.Keeps fp sa := by
    show s0.Keeps fp (if _ then _ else _)
    refine keeps_ite ?_ h
    repeat' first
      | with_reducible assumption
      | ((with_reducible refine Sub.bit hm ?_); exact rfl)
      | ((with_reducible refine Sub.mono hm ?_); exact rfl)
      | ((with_reducible refine .inl (Sub.bit hm ?_)); exact rfl)
      | with_reducible exact .inr rfl
      | ((with_reducible refine reg_bit _ (Sub.mono hm ?_)); exact rfl)
      | ((with_reducible refine rej_parts _ (Sub.mono hm ?_)); exact rfl)
      | with_reducible apply keeps_fields
  have hb : s0.Keeps fp sb := by
    show s0.Keeps fp (if _ then _ else _)
    refine keeps_ite ha ?_
    have hl : s0.Keeps fp (State.readLine sa client ln).2.2 := State.readLine_keeps _ _ ha (Sub.mono hm rfl)
    dsimp only
    generalize State.readLine sa client ln = p at hl
    obtain ⟨d, b, q⟩ := p
    refine keeps_ite hl ?_
    refine keeps_mem hl (fun hm => Memory.wf_memSetBytes _ hm _) (Sub.bit hm rfl) ?_ ?_ ?_ ?_ ?_ ?_ ?_ ?_ ?_ ?_ ?_ ?_ ?_ ?_ ?_ ?_ ?_ ?_ ?_
    all_goals with_reducible exact .inr rfl
  have hc : s0.Keeps fp sc := by
    refine keeps_mem hb (fun hm => Memory.wf_memSetBytes _ hm _) (Sub.bit hm rfl) ?_ ?_ ?_ ?_ ?_ ?_ ?_ ?_ ?_ ?_ ?_ ?_ ?_ ?_ ?_ ?_ ?_ ?_ ?_
    all_goals with_reducible exact .inr rfl
  clear_value sc
  split
  · refine keeps_ite ?_ hc
    have hd := keeps_ite (s0 := s0) (c := sc.inPlRegion (64 * ln) 64 = true) hc
      (State.setLineErr_keeps ln (injected ‹_›) hc (Sub.mono hm rfl))
    exact State.wb_keeps _ _ _ _ _ _ (keeps_fields hd (.inr rfl) (.inr rfl) (.inr rfl) (.inr rfl) (.inl (Sub.bit hm rfl))
      (.inr rfl) (.inr rfl) (.inr rfl) (.inr rfl) (.inr rfl) (.inr rfl) (.inr rfl) (.inr rfl) (.inr rfl) (.inr rfl)
      (.inr rfl) (.inr rfl) (.inr rfl) (.inr rfl) (.inr rfl)) (Sub.bit hm rfl)
  · exact hc

theorem State.psWrite_keeps {s : State} (client : Nat) (a : Nat) (bs : List (Option Byte)) (h : s0.Keeps fp s)
    (hm : Sub 0x2000380000D fp) :
    s0.Keeps fp (State.psWrite s client a bs) := by
  unfold State.psWrite
  try dsimp only
  repeat' first
    | with_reducible assumption
    | ((with_reducible refine Sub.bit hm ?_); exact rfl)
    | ((with_reducible refine Sub.mono hm ?_); exact rfl)
    | ((with_reducible refine .inl (Sub.bit hm ?_)); exact rfl)
    | with_reducible exact .inr rfl
    | ((with_reducible refine reg_bit _ (Sub.mono hm ?_)); exact rfl)
    | ((with_reducible refine rej_bit _ (Sub.mono hm ?_)); exact rfl)
    | with_reducible apply keeps_ite
    | with_reducible apply keeps_ite2
    | with_reducible apply keeps_ite3
    | with_reducible refine keeps_foldl _ _ ?_ ?_
    | with_reducible refine keeps_foldl2 _ _ _ ?_ ?_
    | with_reducible refine keeps_foldl3 _ _ _ ?_ ?_
    | with_reducible apply State.fenceDrop_keeps
    | with_reducible apply State.oor_keeps
    | with_reducible apply State.writePiece_keeps
    | (intro _ _ _)
    | (intro _ _)
    | (intro _)
    | (split; rename_i e; have e3 := congrArg (fun p => p.2.2) e; dsimp only at e3; subst e3)
    | (split; rename_i e; have e2 := congrArg Prod.snd e; dsimp only at e2; subst e2)
    | dsimp only
    | split
    | with_reducible apply keeps_fields
    | with_reducible apply keeps_store

theorem State.poisonLine_keeps {s : State} (ln : Nat) (h : s0.Keeps fp s)
    (hm : Sub 0x2000000 fp) :
    s0.Keeps fp (State.poisonLine s ln) := by
  unfold State.poisonLine
  try dsimp only
  repeat' first
    | with_reducible assumption
    | ((with_reducible refine Sub.bit hm ?_); exact rfl)
    | ((with_reducible refine Sub.mono hm ?_); exact rfl)
    | ((with_reducible refine .inl (Sub.bit hm ?_)); exact rfl)
    | with_reducible exact .inr rfl
    | dsimp only
    | with_reducible apply keeps_fields
    | with_reducible apply keeps_store

theorem State.xorTcm_keeps {s : State} (key : Nat) (e : List (Nat × Byte)) (h : s0.Keeps fp s)
    (hm : Sub 0x8000000 fp) :
    s0.Keeps fp (State.xorTcm s key e) := by
  unfold State.xorTcm
  try dsimp only
  repeat' first
    | with_reducible assumption
    | ((with_reducible refine Sub.bit hm ?_); exact rfl)
    | ((with_reducible refine Sub.mono hm ?_); exact rfl)
    | ((with_reducible refine .inl (Sub.bit hm ?_)); exact rfl)
    | with_reducible exact .inr rfl
    | with_reducible refine keeps_foldl _ _ ?_ ?_
    | with_reducible refine keeps_foldl2 _ _ _ ?_ ?_
    | with_reducible apply State.setCore_keeps
    | (intro _ _ _)
    | (intro _ _)
    | (intro _)
    | dsimp only
    | with_reducible apply keeps_fields
    | with_reducible apply keeps_store

theorem State.keepOff_keeps {s : State} (key : Nat) (e : List (Nat × Byte)) (h : s0.Keeps fp s)
    (hm : Sub 0xC000000 fp) :
    s0.Keeps fp (State.keepOff s key e) := by
  unfold State.keepOff
  try dsimp only
  repeat' first
    | with_reducible assumption
    | ((with_reducible refine Sub.bit hm ?_); exact rfl)
    | ((with_reducible refine Sub.mono hm ?_); exact rfl)
    | ((with_reducible refine .inl (Sub.bit hm ?_)); exact rfl)
    | with_reducible exact .inr rfl
    | with_reducible apply keeps_ite
    | with_reducible refine keeps_foldl _ _ ?_ ?_
    | with_reducible refine keeps_foldl2 _ _ _ ?_ ?_
    | with_reducible apply State.xorTcm_keeps
    | (intro _ _ _)
    | (intro _ _)
    | (intro _)
    | dsimp only
    | split
    | with_reducible apply keeps_fields
    | with_reducible apply keeps_store

theorem State.readTable_keeps {s : State} (key : Nat) (h : s0.Keeps fp s)
    (hm : Sub 0x2000D80000D fp) :
    s0.Keeps fp (State.readTable s key).2 := by
  unfold State.readTable
  try dsimp only
  repeat' first
    | with_reducible assumption
    | ((with_reducible refine Sub.bit hm ?_); exact rfl)
    | ((with_reducible refine Sub.mono hm ?_); exact rfl)
    | ((with_reducible refine .inl (Sub.bit hm ?_)); exact rfl)
    | with_reducible exact .inr rfl
    | ((with_reducible refine reg_bit _ (Sub.mono hm ?_)); exact rfl)
    | ((with_reducible refine rej_bit _ (Sub.mono hm ?_)); exact rfl)
    | with_reducible apply bit_ite
    | with_reducible apply keeps_ite
    | with_reducible apply keeps_ite2
    | with_reducible refine keeps_foldl _ _ ?_ ?_
    | with_reducible refine keeps_foldl2 _ _ _ ?_ ?_
    | with_reducible apply State.wb_keeps
    | with_reducible apply State.bump_keeps
    | with_reducible apply State.raise_keeps
    | with_reducible apply State.logError_keeps
    | with_reducible apply State.keepOff_keeps
    | dsimp only
    | split
    | with_reducible apply keeps_fields
    | with_reducible apply keeps_store

theorem State.cleanTable_keeps {s : State} (key : Nat) (h : s0.Keeps fp s)
    (hm : Sub 0x4000000 fp) :
    s0.Keeps fp (State.cleanTable s key) := by
  unfold State.cleanTable
  try dsimp only
  repeat' first
    | with_reducible assumption
    | ((with_reducible refine Sub.bit hm ?_); exact rfl)
    | ((with_reducible refine Sub.mono hm ?_); exact rfl)
    | ((with_reducible refine .inl (Sub.bit hm ?_)); exact rfl)
    | with_reducible exact .inr rfl
    | dsimp only
    | with_reducible apply keeps_fields
    | with_reducible apply keeps_store

theorem injectWrite_keeps (n : Nat) {s : State} (h : s0.Keeps fp s)
    (hm : Sub 0x2000001 fp) :
    s0.Keeps fp (injectWrite n s) := by
  unfold injectWrite
  try dsimp only
  repeat' first
    | with_reducible assumption
    | ((with_reducible refine Sub.bit hm ?_); exact rfl)
    | ((with_reducible refine Sub.mono hm ?_); exact rfl)
    | ((with_reducible refine .inl (Sub.bit hm ?_)); exact rfl)
    | with_reducible exact .inr rfl
    | ((with_reducible refine rej_parts _ (Sub.mono hm ?_)); exact rfl)
    | with_reducible apply keeps_ite
    | with_reducible apply State.wb_keeps
    | with_reducible apply State.rejectAt_keeps
    | with_reducible apply State.reject_keeps
    | dsimp only
    | split
    | with_reducible apply keeps_fields
    | with_reducible apply keeps_store

theorem scrubLine_keeps (upset : List (Nat × Byte)) {s : State} (h : s0.Keeps fp s)
    (hm : Sub 0x2000380000D fp) :
    s0.Keeps fp (scrubLine upset s) := by
  unfold scrubLine
  try dsimp only
  repeat' first
    | with_reducible assumption
    | ((with_reducible refine Sub.bit hm ?_); exact rfl)
    | ((with_reducible refine Sub.mono hm ?_); exact rfl)
    | ((with_reducible refine .inl (Sub.bit hm ?_)); exact rfl)
    | with_reducible exact .inr rfl
    | with_reducible apply keeps_ite
    | with_reducible refine keeps_foldl _ _ ?_ ?_
    | with_reducible refine keeps_foldl2 _ _ _ ?_ ?_
    | with_reducible apply State.wr_keeps
    | with_reducible apply State.setLineErr_keeps
    | with_reducible apply State.readLine_keeps
    | (split; rename_i e; have e3 := congrArg (fun p => p.2.2) e; dsimp only at e3; subst e3)
    | (split; rename_i e; have e2 := congrArg Prod.snd e; dsimp only at e2; subst e2)
    | dsimp only
    | split
    | with_reducible refine keeps_mem ?_ (fun hm => Memory.wf_memSetBytes _ hm _) ?_ ?_ ?_ ?_ ?_ ?_ ?_ ?_ ?_ ?_ ?_ ?_ ?_ ?_ ?_ ?_ ?_ ?_ ?_ ?_
    | with_reducible apply keeps_fields
    | with_reducible apply keeps_store

theorem tblScrub_keeps (key : Nat) (upset : List (Nat × Byte)) {s : State} (h : s0.Keeps fp s)
    (hm : Sub 0x2000D80000D fp) :
    s0.Keeps fp (tblScrub key upset s).2 := by
  unfold tblScrub
  try dsimp only
  repeat' first
    | with_reducible assumption
    | ((with_reducible refine Sub.bit hm ?_); exact rfl)
    | ((with_reducible refine Sub.mono hm ?_); exact rfl)
    | ((with_reducible refine .inl (Sub.bit hm ?_)); exact rfl)
    | with_reducible exact .inr rfl
    | with_reducible apply keeps_ite
    | with_reducible apply keeps_ite2
    | with_reducible refine keeps_foldl _ _ ?_ ?_
    | with_reducible refine keeps_foldl2 _ _ _ ?_ ?_
    | with_reducible apply State.readTable_keeps
    | dsimp only
    | split
    | with_reducible apply keeps_fields
    | with_reducible apply keeps_store

end Sys2Proof.Machine
end

