-- ==== Sys2Proof/Laws/KeepsFanelOps.lean ====
section
/-! SUPPORT. What the operations of Machine/FanelOps.lean keep, and the parts they may change. -/

namespace Sys2Proof.Machine

variable {fp : Nat} {s0 : State}

theorem State.tcmTouch_keeps {s : State} (c : Nat) (a : Nat) (n : Nat) (h : s0.Keeps fp s)
    (hm : Sub 0x2000D80000D fp) :
    s0.Keeps fp (State.tcmTouch s c a n) := by
  unfold State.tcmTouch
  try dsimp only
  repeat' first
    | with_reducible assumption
    | ((with_reducible refine Sub.bit hm ?_); exact rfl)
    | ((with_reducible refine Sub.mono hm ?_); exact rfl)
    | ((with_reducible refine .inl (Sub.bit hm ?_)); exact rfl)
    | with_reducible exact .inr rfl
    | with_reducible refine keeps_foldl _ _ ?_ ?_
    | with_reducible refine keeps_foldl2 _ _ _ ?_ ?_
    | with_reducible apply State.readTable_keeps
    | (intro _ _ _)
    | (intro _ _)
    | (intro _)
    | dsimp only
    | with_reducible apply keeps_fields
    | with_reducible apply keeps_store

theorem State.touchPush_keeps {s : State} (c : Nat) (sp : Word) (h : s0.Keeps fp s)
    (hm : Sub 0x2000D80000D fp) :
    s0.Keeps fp (State.touchPush s c sp) := by
  unfold State.touchPush
  try dsimp only
  repeat' first
    | with_reducible assumption
    | ((with_reducible refine Sub.bit hm ?_); exact rfl)
    | ((with_reducible refine Sub.mono hm ?_); exact rfl)
    | with_reducible apply keeps_ite
    | with_reducible apply State.tcmTouch_keeps
    | dsimp only
    | split

theorem State.waited_keeps {s : State} (c : Nat) (h : s0.Keeps fp s)
    (hm : Sub 0x8000000 fp) :
    s0.Keeps fp (State.waited s c) := by
  unfold State.waited
  try dsimp only
  repeat' first
    | with_reducible assumption
    | ((with_reducible refine Sub.bit hm ?_); exact rfl)
    | ((with_reducible refine Sub.mono hm ?_); exact rfl)
    | ((with_reducible refine .inl (Sub.bit hm ?_)); exact rfl)
    | with_reducible exact .inr rfl
    | with_reducible apply bit_ite
    | with_reducible apply keeps_ite
    | with_reducible apply State.fresh_keeps
    | with_reducible apply State.setCore_keeps
    | (split; rename_i e; have e3 := congrArg (fun p => p.2.2) e; dsimp only at e3; subst e3)
    | (split; rename_i e; have e2 := congrArg Prod.snd e; dsimp only at e2; subst e2)
    | dsimp only
    | split
    | with_reducible apply keeps_fields
    | with_reducible apply keeps_store

theorem lockup_keeps (c : Nat) {s : State} (h : s0.Keeps fp s)
    (hm : Sub 0x2000980000C fp) :
    s0.Keeps fp (lockup c s) := by
  unfold lockup
  try dsimp only
  repeat' first
    | with_reducible assumption
    | ((with_reducible refine Sub.bit hm ?_); exact rfl)
    | ((with_reducible refine Sub.mono hm ?_); exact rfl)
    | ((with_reducible refine .inl (Sub.bit hm ?_)); exact rfl)
    | with_reducible exact .inr rfl
    | with_reducible apply State.setCore_keeps
    | with_reducible apply State.arbitrate_keeps
    | with_reducible apply State.raise_keeps
    | with_reducible apply State.endActive_keeps
    | dsimp only
    | with_reducible apply keeps_fields
    | with_reducible apply keeps_store

theorem State.readVector_keeps (c e : Nat) (bad : State → State) {s : State} (h : s0.Keeps fp s) (hm : Sub 0x2000D80000D fp)
    (hb : ∀ s, s0.Keeps fp s → s0.Keeps fp (bad s)) : s0.Keeps fp (State.readVector s c e bad) := by
  unfold State.readVector
  dsimp only
  repeat' first
    | with_reducible assumption
    | ((with_reducible refine Sub.bit hm ?_); exact rfl)
    | ((with_reducible refine Sub.mono hm ?_); exact rfl)
    | ((with_reducible refine .inl (Sub.bit hm ?_)); exact rfl)
    | with_reducible exact .inr rfl
    | ((with_reducible refine reg_bit _ (Sub.mono hm ?_)); exact rfl)
    | ((with_reducible refine rej_parts _ (Sub.mono hm ?_)); exact rfl)
    | with_reducible apply keeps_ite
    | with_reducible apply hb
    | with_reducible apply State.tcmTouch_keeps

theorem exceptionOr_keeps (bad : State → State) (c code : Nat) (saved xaddr : Word) {s : State} (h : s0.Keeps fp s)
    (hm : Sub 0x2000D81000D fp) (hb : ∀ s, s0.Keeps fp s → s0.Keeps fp (bad s)) :
    s0.Keeps fp (exceptionOr bad c code saved xaddr s) := by
  unfold exceptionOr
  dsimp only
  repeat' first
    | with_reducible assumption
    | ((with_reducible refine Sub.bit hm ?_); exact rfl)
    | ((with_reducible refine Sub.mono hm ?_); exact rfl)
    | ((with_reducible refine .inl (Sub.bit hm ?_)); exact rfl)
    | with_reducible exact .inr rfl
    | ((with_reducible refine reg_bit _ (Sub.mono hm ?_)); exact rfl)
    | ((with_reducible refine rej_parts _ (Sub.mono hm ?_)); exact rfl)
    | with_reducible apply keeps_ite
    | with_reducible apply State.readVector_keeps
    | with_reducible apply hb
    | with_reducible apply State.touchPush_keeps
    | with_reducible apply State.bump_keeps
    | with_reducible apply State.setCore_keeps
    | with_reducible apply lockup_keeps

theorem vectorFault_keeps (c e : Nat) (saved : Word) {s : State} (h : s0.Keeps fp s) (hm : Sub 0x2000D81000D fp) :
    s0.Keeps fp (vectorFault c e saved s) :=
  exceptionOr_keeps _ c 2 _ _ h (Sub.mono hm rfl) fun _ h => lockup_keeps c h (Sub.mono hm rfl)

theorem takeException_keeps (c code : Nat) (saved xaddr : Word) {s : State} (h : s0.Keeps fp s) (hm : Sub 0x2000D81000D fp) :
    s0.Keeps fp (takeException c code saved xaddr s) :=
  exceptionOr_keeps _ c code _ _ h (Sub.mono hm rfl) fun _ h => vectorFault_keeps c code saved h (Sub.mono hm rfl)

theorem issue_keeps (c : Nat) (body : Core → State → State) {s : State} (h : s0.Keeps fp s) (hm : Sub 0x2000D81000D fp)
    (hb : ∀ k s, s0.Keeps fp s → s0.Keeps fp (body k s)) : s0.Keeps fp (issue c body s) := by
  unfold issue
  dsimp only
  repeat' first
    | with_reducible assumption
    | ((with_reducible refine Sub.bit hm ?_); exact rfl)
    | ((with_reducible refine Sub.mono hm ?_); exact rfl)
    | ((with_reducible refine .inl (Sub.bit hm ?_)); exact rfl)
    | with_reducible exact .inr rfl
    | ((with_reducible refine reg_bit _ (Sub.mono hm ?_)); exact rfl)
    | ((with_reducible refine rej_parts _ (Sub.mono hm ?_)); exact rfl)
    | with_reducible apply keeps_ite
    | with_reducible apply hb
    | with_reducible apply takeException_keeps
    | with_reducible apply State.setCore_keeps
    | with_reducible apply State.tcmTouch_keeps

theorem illegal_keeps (c : Nat) (k : Core) {s : State} (h : s0.Keeps fp s)
    (hm : Sub 0x2000D81000D fp) :
    s0.Keeps fp (illegal c k s) := by
  unfold illegal
  try dsimp only
  repeat' first
    | with_reducible assumption
    | ((with_reducible refine Sub.bit hm ?_); exact rfl)
    | ((with_reducible refine Sub.mono hm ?_); exact rfl)
    | with_reducible apply takeException_keeps
    | dsimp only

theorem issueIf_keeps (c : Nat) (ok : Core → Bool) (body : Core → State → State) {s : State} (h : s0.Keeps fp s)
    (hm : Sub 0x2000D81000D fp) (hb : ∀ k s, s0.Keeps fp s → s0.Keeps fp (body k s)) : s0.Keeps fp (issueIf c ok body s) :=
  issue_keeps c _ h (Sub.mono hm rfl) fun _ _ hs => keeps_ite (hb _ _ hs) (illegal_keeps _ _ hs (Sub.mono hm rfl))

theorem aluDone_keeps (c : Nat) (rd : Nat) (k : Core) (r : AluOut) {s : State} (h : s0.Keeps fp s)
    (hm : Sub 0x8000000 fp) :
    s0.Keeps fp (aluDone c rd k r s) := by
  unfold aluDone
  try dsimp only
  repeat' first
    | with_reducible assumption
    | ((with_reducible refine Sub.bit hm ?_); exact rfl)
    | ((with_reducible refine Sub.mono hm ?_); exact rfl)
    | ((with_reducible refine reg_bit _ (Sub.mono hm ?_)); exact rfl)
    | ((with_reducible refine rej_bit _ (Sub.mono hm ?_)); exact rfl)
    | with_reducible apply State.setCore_keeps
    | dsimp only

theorem aluRR_keeps (f : Word → Word → AluOut) (c : Nat) (o : FmtReg) {s : State} (h : s0.Keeps fp s)
    (hm : Sub 0x2000D81000D fp) :
    s0.Keeps fp (aluRR f c o s) := by
  unfold aluRR
  try dsimp only
  repeat' first
    | with_reducible assumption
    | ((with_reducible refine Sub.bit hm ?_); exact rfl)
    | ((with_reducible refine Sub.mono hm ?_); exact rfl)
    | ((with_reducible refine .inl (Sub.bit hm ?_)); exact rfl)
    | with_reducible exact .inr rfl
    | with_reducible apply issueIf_keeps
    | with_reducible apply aluDone_keeps
    | (intro _ _ _)
    | (intro _ _)
    | (intro _)
    | dsimp only
    | with_reducible apply keeps_fields
    | with_reducible apply keeps_store

theorem aluR_keeps (f : Word → AluOut) (c : Nat) (o : FmtReg) {s : State} (h : s0.Keeps fp s)
    (hm : Sub 0x2000D81000D fp) :
    s0.Keeps fp (aluR f c o s) := by
  unfold aluR
  try dsimp only
  repeat' first
    | with_reducible assumption
    | ((with_reducible refine Sub.bit hm ?_); exact rfl)
    | ((with_reducible refine Sub.mono hm ?_); exact rfl)
    | ((with_reducible refine .inl (Sub.bit hm ?_)); exact rfl)
    | with_reducible exact .inr rfl
    | with_reducible apply issueIf_keeps
    | with_reducible apply aluDone_keeps
    | (intro _ _ _)
    | (intro _ _)
    | (intro _)
    | dsimp only
    | with_reducible apply keeps_fields
    | with_reducible apply keeps_store

theorem aluSh_keeps (f : Word → Word → AluOut) (c : Nat) (o : FmtReg) {s : State} (h : s0.Keeps fp s)
    (hm : Sub 0x2000D81000D fp) :
    s0.Keeps fp (aluSh f c o s) := by
  unfold aluSh
  try dsimp only
  repeat' first
    | with_reducible assumption
    | ((with_reducible refine Sub.bit hm ?_); exact rfl)
    | ((with_reducible refine Sub.mono hm ?_); exact rfl)
    | ((with_reducible refine .inl (Sub.bit hm ?_)); exact rfl)
    | with_reducible exact .inr rfl
    | with_reducible apply issueIf_keeps
    | with_reducible apply aluDone_keeps
    | (intro _ _ _)
    | (intro _ _)
    | (intro _)
    | dsimp only
    | with_reducible apply keeps_fields
    | with_reducible apply keeps_store

theorem aluImm_keeps (f : Word → Word → AluOut) (imm : Word) (c : Nat) (o : FmtImm) {s : State} (h : s0.Keeps fp s)
    (hm : Sub 0x2000D81000D fp) :
    s0.Keeps fp (aluImm f imm c o s) := by
  unfold aluImm
  try dsimp only
  repeat' first
    | with_reducible assumption
    | ((with_reducible refine Sub.bit hm ?_); exact rfl)
    | ((with_reducible refine Sub.mono hm ?_); exact rfl)
    | ((with_reducible refine .inl (Sub.bit hm ?_)); exact rfl)
    | with_reducible exact .inr rfl
    | with_reducible apply issue_keeps
    | with_reducible apply aluDone_keeps
    | (intro _ _ _)
    | (intro _ _)
    | (intro _)
    | dsimp only
    | with_reducible apply keeps_fields
    | with_reducible apply keeps_store

theorem mulOp_keeps (signed : Bool) (acc : Bool) (c : Nat) (o : FmtReg) {s : State} (h : s0.Keeps fp s)
    (hm : Sub 0x2000D81000D fp) :
    s0.Keeps fp (mulOp signed acc c o s) := by
  unfold mulOp
  try dsimp only
  repeat' first
    | with_reducible assumption
    | ((with_reducible refine Sub.bit hm ?_); exact rfl)
    | ((with_reducible refine Sub.mono hm ?_); exact rfl)
    | ((with_reducible refine .inl (Sub.bit hm ?_)); exact rfl)
    | with_reducible exact .inr rfl
    | with_reducible apply keeps_ite
    | with_reducible apply State.setCore_keeps
    | with_reducible apply issueIf_keeps
    | (intro _ _ _)
    | (intro _ _)
    | (intro _)
    | dsimp only
    | split
    | with_reducible apply keeps_fields
    | with_reducible apply keeps_store

theorem divOp_keeps (signed : Bool) (c : Nat) (o : FmtReg) {s : State} (h : s0.Keeps fp s)
    (hm : Sub 0x2000D81000D fp) :
    s0.Keeps fp (divOp signed c o s) := by
  unfold divOp
  try dsimp only
  repeat' first
    | with_reducible assumption
    | ((with_reducible refine Sub.bit hm ?_); exact rfl)
    | ((with_reducible refine Sub.mono hm ?_); exact rfl)
    | ((with_reducible refine .inl (Sub.bit hm ?_)); exact rfl)
    | with_reducible exact .inr rfl
    | with_reducible apply keeps_ite
    | with_reducible apply State.setCore_keeps
    | with_reducible apply takeException_keeps
    | with_reducible apply issueIf_keeps
    | (intro _ _ _)
    | (intro _ _)
    | (intro _)
    | dsimp only
    | split
    | with_reducible apply keeps_fields
    | with_reducible apply keeps_store

theorem divComplete_keeps (c : Nat) {s : State} (h : s0.Keeps fp s)
    (hm : Sub 0x8000000 fp) :
    s0.Keeps fp (divComplete c s) := by
  unfold divComplete
  try dsimp only
  repeat' first
    | with_reducible assumption
    | ((with_reducible refine Sub.bit hm ?_); exact rfl)
    | ((with_reducible refine Sub.mono hm ?_); exact rfl)
    | ((with_reducible refine .inl (Sub.bit hm ?_)); exact rfl)
    | with_reducible exact .inr rfl
    | with_reducible apply keeps_ite
    | with_reducible apply State.setCore_keeps
    | dsimp only
    | split
    | with_reducible apply keeps_fields
    | with_reducible apply keeps_store

end Sys2Proof.Machine
end

