-- ==== Sys2Proof/Laws/KeepsFanel.lean ====
section
/-! SUPPORT. What the operations of Machine/Fanel.lean keep, and the parts they may change. -/

namespace Sys2Proof.Machine

variable {fp : Nat} {s0 : State}

theorem loadOp_keeps (size : Nat) (signed : Bool) (c : Nat) (o : FmtImm) {s : State} (h : s0.Keeps fp s)
    (hm : Sub 0x2000D81000D fp) :
    s0.Keeps fp (loadOp size signed c o s) := by
  unfold loadOp
  try dsimp only
  repeat' first
    | with_reducible assumption
    | ((with_reducible refine Sub.bit hm ?_); exact rfl)
    | ((with_reducible refine Sub.mono hm ?_); exact rfl)
    | ((with_reducible refine .inl (Sub.bit hm ?_)); exact rfl)
    | with_reducible exact .inr rfl
    | with_reducible apply bit_ite
    | with_reducible apply keeps_ite
    | with_reducible apply State.setCore_keeps
    | with_reducible apply State.tcmTouch_keeps
    | with_reducible apply takeException_keeps
    | with_reducible apply issue_keeps
    | (intro _ _ _)
    | (intro _ _)
    | (intro _)
    | dsimp only
    | split
    | with_reducible apply keeps_fields
    | with_reducible apply keeps_store

theorem storeOp_keeps (size : Nat) (c : Nat) (o : FmtImm) {s : State} (h : s0.Keeps fp s)
    (hm : Sub 0x2000D81000D fp) :
    s0.Keeps fp (storeOp size c o s) := by
  unfold storeOp
  try dsimp only
  repeat' first
    | with_reducible assumption
    | ((with_reducible refine Sub.bit hm ?_); exact rfl)
    | ((with_reducible refine Sub.mono hm ?_); exact rfl)
    | ((with_reducible refine .inl (Sub.bit hm ?_)); exact rfl)
    | with_reducible exact .inr rfl
    | with_reducible apply bit_ite
    | with_reducible apply keeps_ite
    | with_reducible apply State.setCore_keeps
    | with_reducible apply State.tcmTouch_keeps
    | with_reducible apply takeException_keeps
    | with_reducible apply issue_keeps
    | (intro _ _ _)
    | (intro _ _)
    | (intro _)
    | dsimp only
    | split
    | with_reducible apply keeps_fields
    | with_reducible apply keeps_store

theorem branchOp_keeps (p : Word → Word → Bool) (c : Nat) (o : FmtCmp) {s : State} (h : s0.Keeps fp s)
    (hm : Sub 0x2000D81000D fp) :
    s0.Keeps fp (branchOp p c o s) := by
  unfold branchOp
  try dsimp only
  repeat' first
    | with_reducible assumption
    | ((with_reducible refine Sub.bit hm ?_); exact rfl)
    | ((with_reducible refine Sub.mono hm ?_); exact rfl)
    | ((with_reducible refine .inl (Sub.bit hm ?_)); exact rfl)
    | with_reducible exact .inr rfl
    | with_reducible apply bit_ite
    | with_reducible apply keeps_ite
    | with_reducible apply State.setCore_keeps
    | with_reducible apply issue_keeps
    | (intro _ _ _)
    | (intro _ _)
    | (intro _)
    | dsimp only
    | split
    | with_reducible apply keeps_fields
    | with_reducible apply keeps_store

theorem jOp_keeps (link : Bool) (c : Nat) (off : BitVec 24) {s : State} (h : s0.Keeps fp s)
    (hm : Sub 0x2000D81000D fp) :
    s0.Keeps fp (jOp link c off s) := by
  unfold jOp
  try dsimp only
  repeat' first
    | with_reducible assumption
    | ((with_reducible refine Sub.bit hm ?_); exact rfl)
    | ((with_reducible refine Sub.mono hm ?_); exact rfl)
    | ((with_reducible refine .inl (Sub.bit hm ?_)); exact rfl)
    | with_reducible exact .inr rfl
    | with_reducible apply keeps_ite
    | with_reducible apply State.setCore_keeps
    | with_reducible apply issue_keeps
    | (intro _ _ _)
    | (intro _ _)
    | (intro _)
    | dsimp only
    | split
    | with_reducible apply keeps_fields
    | with_reducible apply keeps_store

theorem jrOp_keeps (link : Bool) (c : Nat) (o : FmtReg) {s : State} (h : s0.Keeps fp s)
    (hm : Sub 0x2000D81000D fp) :
    s0.Keeps fp (jrOp link c o s) := by
  unfold jrOp
  try dsimp only
  repeat' first
    | with_reducible assumption
    | ((with_reducible refine Sub.bit hm ?_); exact rfl)
    | ((with_reducible refine Sub.mono hm ?_); exact rfl)
    | ((with_reducible refine .inl (Sub.bit hm ?_)); exact rfl)
    | with_reducible exact .inr rfl
    | with_reducible apply keeps_ite
    | with_reducible apply State.setCore_keeps
    | with_reducible apply issueIf_keeps
    | (intro _ _ _)
    | (intro _ _)
    | (intro _)
    | dsimp only
    | split
    | with_reducible apply keeps_fields
    | with_reducible apply keeps_store

theorem loopStart_keeps (c : Nat) (count : Nat) (body : Nat) (k : Core) {s : State} (h : s0.Keeps fp s)
    (hm : Sub 0x8000000 fp) :
    s0.Keeps fp (loopStart c count body k s) := by
  unfold loopStart
  try dsimp only
  repeat' first
    | with_reducible assumption
    | ((with_reducible refine Sub.bit hm ?_); exact rfl)
    | ((with_reducible refine Sub.mono hm ?_); exact rfl)
    | ((with_reducible refine .inl (Sub.bit hm ?_)); exact rfl)
    | with_reducible exact .inr rfl
    | with_reducible apply keeps_ite
    | with_reducible apply State.setCore_keeps
    | (intro _ _ _)
    | (intro _ _)
    | (intro _)
    | (split; rename_i e; have e3 := congrArg (fun p => p.2.2) e; dsimp only at e3; subst e3)
    | (split; rename_i e; have e2 := congrArg Prod.snd e; dsimp only at e2; subst e2)
    | dsimp only
    | split
    | with_reducible apply keeps_fields
    | with_reducible apply keeps_store

theorem loopOp_keeps (c : Nat) (o : FmtCmp) {s : State} (h : s0.Keeps fp s)
    (hm : Sub 0x2000D81000D fp) :
    s0.Keeps fp (loopOp c o s) := by
  unfold loopOp
  try dsimp only
  repeat' first
    | with_reducible assumption
    | ((with_reducible refine Sub.bit hm ?_); exact rfl)
    | ((with_reducible refine Sub.mono hm ?_); exact rfl)
    | ((with_reducible refine .inl (Sub.bit hm ?_)); exact rfl)
    | with_reducible exact .inr rfl
    | with_reducible apply issueIf_keeps
    | with_reducible apply loopStart_keeps
    | (intro _ _ _)
    | (intro _ _)
    | (intro _)
    | dsimp only
    | with_reducible apply keeps_fields
    | with_reducible apply keeps_store

theorem loopiOp_keeps (c : Nat) (o : FmtLoopi) {s : State} (h : s0.Keeps fp s)
    (hm : Sub 0x2000D81000D fp) :
    s0.Keeps fp (loopiOp c o s) := by
  unfold loopiOp
  try dsimp only
  repeat' first
    | with_reducible assumption
    | ((with_reducible refine Sub.bit hm ?_); exact rfl)
    | ((with_reducible refine Sub.mono hm ?_); exact rfl)
    | with_reducible apply issueIf_keeps
    | with_reducible apply loopStart_keeps
    | (intro _ _ _)
    | (intro _ _)
    | (intro _)
    | dsimp only

theorem leaveOp_keeps (c : Nat) (o : FmtSpec) {s : State} (h : s0.Keeps fp s)
    (hm : Sub 0x2000D81000D fp) :
    s0.Keeps fp (leaveOp c o s) := by
  unfold leaveOp
  try dsimp only
  repeat' first
    | with_reducible assumption
    | ((with_reducible refine Sub.bit hm ?_); exact rfl)
    | ((with_reducible refine Sub.mono hm ?_); exact rfl)
    | ((with_reducible refine .inl (Sub.bit hm ?_)); exact rfl)
    | with_reducible exact .inr rfl
    | with_reducible apply State.setCore_keeps
    | with_reducible apply issueIf_keeps
    | (intro _ _ _)
    | (intro _ _)
    | (intro _)
    | dsimp only
    | with_reducible apply keeps_fields
    | with_reducible apply keeps_store

theorem State.partFrame_keeps {s : State} (c : Nat) (a : Nat) (ws : List (Option Word)) (h : s0.Keeps fp s)
    (hm : Sub 0x8000000 fp) :
    s0.Keeps fp (State.partFrame s c a ws) := by
  unfold State.partFrame
  try dsimp only
  repeat' first
    | with_reducible assumption
    | ((with_reducible refine Sub.bit hm ?_); exact rfl)
    | ((with_reducible refine Sub.mono hm ?_); exact rfl)
    | ((with_reducible refine .inl (Sub.bit hm ?_)); exact rfl)
    | with_reducible exact .inr rfl
    | with_reducible apply keeps_ite
    | with_reducible refine keeps_foldl _ _ ?_ ?_
    | with_reducible refine keeps_foldl2 _ _ _ ?_ ?_
    | with_reducible apply State.fresh_keeps
    | with_reducible apply State.freshWord_keeps
    | with_reducible apply State.setCore_keeps
    | (intro _ _ _)
    | (intro _ _)
    | (intro _)
    | (split; rename_i e; have e3 := congrArg (fun p => p.2.2) e; dsimp only at e3; subst e3)
    | (split; rename_i e; have e2 := congrArg Prod.snd e; dsimp only at e2; subst e2)
    | dsimp only
    | split
    | with_reducible apply keeps_fields
    | with_reducible apply keeps_store

theorem callmOp_keeps (c : Nat) (o : FmtCallm) {s : State} (h : s0.Keeps fp s)
    (hm : Sub 0x2000D81000D fp) :
    s0.Keeps fp (callmOp c o s) := by
  unfold callmOp
  try dsimp only
  repeat' first
    | with_reducible assumption
    | ((with_reducible refine Sub.bit hm ?_); exact rfl)
    | ((with_reducible refine Sub.mono hm ?_); exact rfl)
    | ((with_reducible refine .inl (Sub.bit hm ?_)); exact rfl)
    | with_reducible exact .inr rfl
    | with_reducible apply bit_ite
    | with_reducible apply keeps_ite
    | with_reducible apply State.setCore_keeps
    | with_reducible apply State.tcmTouch_keeps
    | with_reducible apply takeException_keeps
    | with_reducible apply issue_keeps
    | with_reducible apply State.partFrame_keeps
    | (intro _ _ _)
    | (intro _ _)
    | (intro _)
    | dsimp only
    | split
    | with_reducible apply keeps_fields
    | with_reducible apply keeps_store

theorem retmOp_keeps (c : Nat) (z : BitVec 24) {s : State} (h : s0.Keeps fp s)
    (hm : Sub 0x2000D81000D fp) :
    s0.Keeps fp (retmOp c z s) := by
  unfold retmOp
  try dsimp only
  repeat' first
    | with_reducible assumption
    | ((with_reducible refine Sub.bit hm ?_); exact rfl)
    | ((with_reducible refine Sub.mono hm ?_); exact rfl)
    | ((with_reducible refine .inl (Sub.bit hm ?_)); exact rfl)
    | with_reducible exact .inr rfl
    | with_reducible apply keeps_ite
    | with_reducible refine keeps_foldl _ _ ?_ ?_
    | with_reducible refine keeps_foldl2 _ _ _ ?_ ?_
    | with_reducible apply State.setCore_keeps
    | with_reducible apply State.tcmTouch_keeps
    | with_reducible apply takeException_keeps
    | with_reducible apply issueIf_keeps
    | (intro _ _ _)
    | (intro _ _)
    | (intro _)
    | dsimp only
    | split
    | with_reducible apply keeps_fields
    | with_reducible apply keeps_store

theorem readSpecial_keeps (c : Nat) (n : Nat) (k : Core) {s : State} (h : s0.Keeps fp s)
    (hm : Sub 0x800000 fp) :
    s0.Keeps fp (readSpecial c n k s).2.2 := by
  unfold readSpecial
  try dsimp only
  repeat' first
    | with_reducible assumption
    | ((with_reducible refine Sub.bit hm ?_); exact rfl)
    | ((with_reducible refine Sub.mono hm ?_); exact rfl)
    | ((with_reducible refine .inl (Sub.bit hm ?_)); exact rfl)
    | with_reducible exact .inr rfl
    | with_reducible apply State.stamp_keeps
    | (split; rename_i e; have e3 := congrArg (fun p => p.2.2) e; dsimp only at e3; subst e3)
    | (split; rename_i e; have e2 := congrArg Prod.snd e; dsimp only at e2; subst e2)
    | dsimp only
    | split
    | with_reducible apply keeps_fields
    | with_reducible apply keeps_store

theorem mfsOp_keeps (c : Nat) (o : FmtSpec) {s : State} (h : s0.Keeps fp s)
    (hm : Sub 0x2000D81000D fp) :
    s0.Keeps fp (mfsOp c o s) := by
  unfold mfsOp
  try dsimp only
  repeat' first
    | with_reducible assumption
    | ((with_reducible refine Sub.bit hm ?_); exact rfl)
    | ((with_reducible refine Sub.mono hm ?_); exact rfl)
    | ((with_reducible refine .inl (Sub.bit hm ?_)); exact rfl)
    | with_reducible exact .inr rfl
    | with_reducible apply bit_ite
    | with_reducible apply keeps_ite
    | with_reducible apply State.setCore_keeps
    | with_reducible apply issueIf_keeps
    | with_reducible apply readSpecial_keeps
    | (intro _ _ _)
    | (intro _ _)
    | (intro _)
    | (split; rename_i e; have e3 := congrArg (fun p => p.2.2) e; dsimp only at e3; subst e3)
    | (split; rename_i e; have e2 := congrArg Prod.snd e; dsimp only at e2; subst e2)
    | dsimp only
    | split
    | with_reducible apply keeps_fields
    | with_reducible apply keeps_store

theorem mtsOp_keeps (c : Nat) (o : FmtSpec) {s : State} (h : s0.Keeps fp s)
    (hm : Sub 0x2000D81000D fp) :
    s0.Keeps fp (mtsOp c o s) := by
  unfold mtsOp
  try dsimp only
  repeat' first
    | with_reducible assumption
    | ((with_reducible refine Sub.bit hm ?_); exact rfl)
    | ((with_reducible refine Sub.mono hm ?_); exact rfl)
    | ((with_reducible refine .inl (Sub.bit hm ?_)); exact rfl)
    | with_reducible exact .inr rfl
    | with_reducible apply bit_ite
    | with_reducible apply keeps_ite
    | with_reducible apply State.setCore_keeps
    | with_reducible apply illegal_keeps
    | with_reducible apply issueIf_keeps
    | (intro _ _ _)
    | (intro _ _)
    | (intro _)
    | dsimp only
    | split
    | with_reducible apply keeps_fields
    | with_reducible apply keeps_store

theorem wfeOp_keeps (c : Nat) (o : FmtSpec) {s : State} (h : s0.Keeps fp s)
    (hm : Sub 0x2000D81000D fp) :
    s0.Keeps fp (wfeOp c o s) := by
  unfold wfeOp
  try dsimp only
  repeat' first
    | with_reducible assumption
    | ((with_reducible refine Sub.bit hm ?_); exact rfl)
    | ((with_reducible refine Sub.mono hm ?_); exact rfl)
    | ((with_reducible refine .inl (Sub.bit hm ?_)); exact rfl)
    | with_reducible exact .inr rfl
    | with_reducible apply keeps_ite
    | with_reducible apply State.setCore_keeps
    | with_reducible apply issueIf_keeps
    | (intro _ _ _)
    | (intro _ _)
    | (intro _)
    | dsimp only
    | split
    | with_reducible apply keeps_fields
    | with_reducible apply keeps_store

theorem wfeWake_keeps (c : Nat) {s : State} (h : s0.Keeps fp s)
    (hm : Sub 0x8000000 fp) :
    s0.Keeps fp (wfeWake c s) := by
  unfold wfeWake
  try dsimp only
  repeat' first
    | with_reducible assumption
    | ((with_reducible refine Sub.bit hm ?_); exact rfl)
    | ((with_reducible refine Sub.mono hm ?_); exact rfl)
    | ((with_reducible refine .inl (Sub.bit hm ?_)); exact rfl)
    | with_reducible exact .inr rfl
    | with_reducible apply keeps_ite
    | with_reducible apply State.setCore_keeps
    | with_reducible apply State.waited_keeps
    | dsimp only
    | split
    | with_reducible apply keeps_fields
    | with_reducible apply keeps_store

theorem hearEvent_keeps (from_ : Nat) (c : Nat) {s : State} (h : s0.Keeps fp s)
    (hm : Sub 0x8000000 fp) :
    s0.Keeps fp (hearEvent from_ c s) := by
  unfold hearEvent
  try dsimp only
  repeat' first
    | with_reducible assumption
    | ((with_reducible refine Sub.bit hm ?_); exact rfl)
    | ((with_reducible refine Sub.mono hm ?_); exact rfl)
    | with_reducible apply keeps_ite
    | with_reducible apply State.setCore_keeps
    | dsimp only
    | split

theorem sevOp_keeps (c : Nat) (o : FmtSpec) {s : State} (h : s0.Keeps fp s)
    (hm : Sub 0x2000D81000D fp) :
    s0.Keeps fp (sevOp c o s) := by
  unfold sevOp
  try dsimp only
  repeat' first
    | with_reducible assumption
    | ((with_reducible refine Sub.bit hm ?_); exact rfl)
    | ((with_reducible refine Sub.mono hm ?_); exact rfl)
    | ((with_reducible refine .inl (Sub.bit hm ?_)); exact rfl)
    | with_reducible exact .inr rfl
    | with_reducible apply keeps_ite
    | with_reducible refine keeps_foldl _ _ ?_ ?_
    | with_reducible refine keeps_foldl2 _ _ _ ?_ ?_
    | with_reducible apply State.setCore_keeps
    | with_reducible apply issueIf_keeps
    | with_reducible apply hearEvent_keeps
    | (intro _ _ _)
    | (intro _ _)
    | (intro _)
    | dsimp only
    | split
    | with_reducible apply keeps_fields
    | with_reducible apply keeps_store

theorem waittOp_keeps (c : Nat) (o : FmtSpec) {s : State} (h : s0.Keeps fp s)
    (hm : Sub 0x2000D81000D fp) :
    s0.Keeps fp (waittOp c o s) := by
  unfold waittOp
  try dsimp only
  repeat' first
    | with_reducible assumption
    | ((with_reducible refine Sub.bit hm ?_); exact rfl)
    | ((with_reducible refine Sub.mono hm ?_); exact rfl)
    | ((with_reducible refine .inl (Sub.bit hm ?_)); exact rfl)
    | with_reducible exact .inr rfl
    | with_reducible apply keeps_ite
    | with_reducible apply State.stamp_keeps
    | with_reducible apply State.setCore_keeps
    | with_reducible apply issueIf_keeps
    | (intro _ _ _)
    | (intro _ _)
    | (intro _)
    | (split; rename_i e; have e3 := congrArg (fun p => p.2.2) e; dsimp only at e3; subst e3)
    | (split; rename_i e; have e2 := congrArg Prod.snd e; dsimp only at e2; subst e2)
    | dsimp only
    | split
    | with_reducible apply keeps_fields
    | with_reducible apply keeps_store

theorem waittEnd_keeps (c : Nat) {s : State} (h : s0.Keeps fp s)
    (hm : Sub 0x8800000 fp) :
    s0.Keeps fp (waittEnd c s) := by
  unfold waittEnd
  try dsimp only
  repeat' first
    | with_reducible assumption
    | ((with_reducible refine Sub.bit hm ?_); exact rfl)
    | ((with_reducible refine Sub.mono hm ?_); exact rfl)
    | ((with_reducible refine .inl (Sub.bit hm ?_)); exact rfl)
    | with_reducible exact .inr rfl
    | with_reducible apply keeps_ite
    | with_reducible apply State.stamp_keeps
    | with_reducible apply State.setCore_keeps
    | with_reducible apply State.waited_keeps
    | (split; rename_i e; have e3 := congrArg (fun p => p.2.2) e; dsimp only at e3; subst e3)
    | (split; rename_i e; have e2 := congrArg Prod.snd e; dsimp only at e2; subst e2)
    | dsimp only
    | split
    | with_reducible apply keeps_fields
    | with_reducible apply keeps_store

theorem msyncOp_keeps (c : Nat) (o : FmtSpec) {s : State} (h : s0.Keeps fp s)
    (hm : Sub 0x2000D81000D fp) :
    s0.Keeps fp (msyncOp c o s) := by
  unfold msyncOp
  try dsimp only
  repeat' first
    | with_reducible assumption
    | ((with_reducible refine Sub.bit hm ?_); exact rfl)
    | ((with_reducible refine Sub.mono hm ?_); exact rfl)
    | ((with_reducible refine .inl (Sub.bit hm ?_)); exact rfl)
    | with_reducible exact .inr rfl
    | with_reducible apply keeps_ite
    | with_reducible apply State.setCore_keeps
    | with_reducible apply issueIf_keeps
    | (intro _ _ _)
    | (intro _ _)
    | (intro _)
    | dsimp only
    | split
    | with_reducible apply keeps_fields
    | with_reducible apply keeps_store

theorem msyncEnd_keeps (c : Nat) {s : State} (h : s0.Keeps fp s)
    (hm : Sub 0x8000000 fp) :
    s0.Keeps fp (msyncEnd c s) := by
  unfold msyncEnd
  try dsimp only
  repeat' first
    | with_reducible assumption
    | ((with_reducible refine Sub.bit hm ?_); exact rfl)
    | ((with_reducible refine Sub.mono hm ?_); exact rfl)
    | ((with_reducible refine .inl (Sub.bit hm ?_)); exact rfl)
    | with_reducible exact .inr rfl
    | with_reducible apply State.setCore_keeps
    | dsimp only
    | split
    | with_reducible apply keeps_fields
    | with_reducible apply keeps_store

theorem brkOp_keeps (c : Nat) (o : FmtSpec) {s : State} (h : s0.Keeps fp s)
    (hm : Sub 0x2000D81000D fp) :
    s0.Keeps fp (brkOp c o s) := by
  unfold brkOp
  try dsimp only
  repeat' first
    | with_reducible assumption
    | ((with_reducible refine Sub.bit hm ?_); exact rfl)
    | ((with_reducible refine Sub.mono hm ?_); exact rfl)
    | with_reducible apply keeps_ite
    | with_reducible apply State.setCore_keeps
    | with_reducible apply takeException_keeps
    | with_reducible apply issueIf_keeps
    | (intro _ _ _)
    | (intro _ _)
    | (intro _)
    | dsimp only
    | split

theorem syscOp_keeps (c : Nat) (o : FmtSpec) {s : State} (h : s0.Keeps fp s)
    (hm : Sub 0x2000D81000D fp) :
    s0.Keeps fp (syscOp c o s) := by
  unfold syscOp
  try dsimp only
  repeat' first
    | with_reducible assumption
    | ((with_reducible refine Sub.bit hm ?_); exact rfl)
    | ((with_reducible refine Sub.mono hm ?_); exact rfl)
    | with_reducible apply takeException_keeps
    | with_reducible apply issueIf_keeps
    | (intro _ _ _)
    | (intro _ _)
    | (intro _)
    | dsimp only

theorem nopOp_keeps (c : Nat) (o : FmtSpec) {s : State} (h : s0.Keeps fp s)
    (hm : Sub 0x2000D81000D fp) :
    s0.Keeps fp (nopOp c o s) := by
  unfold nopOp
  try dsimp only
  repeat' first
    | with_reducible assumption
    | ((with_reducible refine Sub.bit hm ?_); exact rfl)
    | ((with_reducible refine Sub.mono hm ?_); exact rfl)
    | with_reducible apply State.setCore_keeps
    | with_reducible apply issueIf_keeps
    | (intro _ _ _)
    | (intro _ _)
    | (intro _)
    | dsimp only

theorem irqChange_keeps (x : IrqChange) {s : State} (h : s0.Keeps fp s) (hm : Sub 0x2000180000C fp) :
    s0.Keeps fp (irqChange x s) := by
  cases x with
  | arrive n => exact arrival_keeps _ h (Sub.mono hm rfl)
  | withdraw n => exact State.arbitrate_keeps (withdraw_keeps _ h (Sub.mono hm rfl)) (Sub.mono hm rfl)
  | retarget n t => exact retarget_keeps _ _ h (Sub.mono hm rfl)

theorem entryChanges_keeps (c : Nat) (ie : Bool) (ipl : Nat) (l : List IrqChange) (L : Option (Nat × Nat)) {s : State}
    (h : s0.Keeps fp s) (hm : Sub 0x2000180000C fp) : s0.Keeps fp (entryChanges c ie ipl l L s).2 := by
  induction l generalizing s L with
  | nil => exact h
  | cons x t ih => exact ih _ (irqChange_keeps x h (Sub.mono hm rfl))

theorem claimFor_keeps (c : Nat) (L : Nat) (L1 : Nat) {s : State} (h : s0.Keeps fp s)
    (hm : Sub 0x1000004 fp) :
    s0.Keeps fp (claimFor c L L1 s).2.2 := by
  unfold claimFor
  try dsimp only
  repeat' first
    | with_reducible assumption
    | ((with_reducible refine Sub.bit hm ?_); exact rfl)
    | ((with_reducible refine Sub.mono hm ?_); exact rfl)
    | ((with_reducible refine .inl (Sub.bit hm ?_)); exact rfl)
    | with_reducible exact .inr rfl
    | with_reducible apply keeps_ite
    | with_reducible apply keeps_ite3
    | with_reducible apply State.claim_keeps
    | (split; rename_i e; have e3 := congrArg (fun p => p.2.2) e; dsimp only at e3; subst e3)
    | (split; rename_i e; have e2 := congrArg Prod.snd e; dsimp only at e2; subst e2)
    | dsimp only
    | split
    | with_reducible apply keeps_fields
    | with_reducible apply keeps_store

theorem enterInterrupt_keeps (c L : Nat) (during : List IrqChange) (k0 : Core) {s : State} (h : s0.Keeps fp s)
    (hm : Sub 0x2000D81000D fp) : s0.Keeps fp (enterInterrupt c L during k0 s) := by
  unfold enterInterrupt
  dsimp only
  have h1 := State.touchPush_keeps c ((k0.need [.g 30]).pass 1 |>.gr 30) h (Sub.mono hm rfl)
  refine keeps_ite ?_ (lockup_keeps c (State.setCore_keeps c _ h1 (Sub.mono hm rfl)) (Sub.mono hm rfl))
  refine State.readVector_keeps c _ _ (State.setCore_keeps c _ (claimFor_keeps c L _ ?_ (Sub.mono hm rfl)) (Sub.mono hm rfl))
    (Sub.mono hm rfl) fun _ h => vectorFault_keeps c _ _ h (Sub.mono hm rfl)
  exact entryChanges_keeps c _ _ during _ (State.setCore_keeps c k0 h1 (Sub.mono hm rfl)) (Sub.mono hm rfl)

theorem interruptEntry_keeps (c : Nat) (during : List IrqChange) {s : State} (h : s0.Keeps fp s)
    (hm : Sub 0x2000D81000D fp) :
    s0.Keeps fp (interruptEntry c during s) := by
  unfold interruptEntry
  try dsimp only
  repeat' first
    | with_reducible assumption
    | ((with_reducible refine Sub.bit hm ?_); exact rfl)
    | ((with_reducible refine Sub.mono hm ?_); exact rfl)
    | ((with_reducible refine .inl (Sub.bit hm ?_)); exact rfl)
    | with_reducible exact .inr rfl
    | with_reducible apply keeps_ite
    | with_reducible apply State.setCore_keeps
    | with_reducible apply State.tcmTouch_keeps
    | with_reducible apply State.waited_keeps
    | with_reducible apply takeException_keeps
    | with_reducible apply enterInterrupt_keeps
    | dsimp only
    | split
    | with_reducible apply keeps_fields
    | with_reducible apply keeps_store

theorem retiOp_keeps (c : Nat) (o : FmtSpec) (during : List IrqChange) (step : Bool) {s : State} (h : s0.Keeps fp s)
    (hm : Sub 0x2000D81000D fp) :
    s0.Keeps fp (retiOp c o during step s) := by
  unfold retiOp
  try dsimp only
  repeat' first
    | with_reducible assumption
    | ((with_reducible refine Sub.bit hm ?_); exact rfl)
    | ((with_reducible refine Sub.mono hm ?_); exact rfl)
    | ((with_reducible refine .inl (Sub.bit hm ?_)); exact rfl)
    | with_reducible exact .inr rfl
    | with_reducible apply keeps_ite
    | with_reducible apply State.setCore_keeps
    | with_reducible apply State.arbitrate_keeps
    | with_reducible apply State.endActive_keeps
    | with_reducible apply State.tcmTouch_keeps
    | with_reducible apply State.readVector_keeps
    | with_reducible apply vectorFault_keeps
    | with_reducible apply takeException_keeps
    | with_reducible apply issueIf_keeps
    | with_reducible apply entryChanges_keeps
    | with_reducible apply claimFor_keeps
    | (intro _ _ _)
    | (intro _ _)
    | (intro _)
    | (split; rename_i e; have e3 := congrArg (fun p => p.2.2) e; dsimp only at e3; subst e3)
    | (split; rename_i e; have e2 := congrArg Prod.snd e; dsimp only at e2; subst e2)
    | dsimp only
    | split
    | with_reducible apply keeps_fields
    | with_reducible apply keeps_store

end Sys2Proof.Machine
end

