-- ==== Sys2Proof/Laws/KeepsPixel.lean ====
section
/-! SUPPORT. What the operations of Machine/Pixel.lean keep, and the parts they may change. -/

namespace Sys2Proof.Machine

variable {fp : Nat} {s0 : State}

theorem State.setBeam_keeps {s : State} (n : Nat) (b : Beam) (h : s0.Keeps fp s)
    (hm : Sub 0x10000000 fp) :
    s0.Keeps fp (State.setBeam s n b) := by
  unfold State.setBeam
  try dsimp only
  repeat' first
    | with_reducible assumption
    | ((with_reducible refine Sub.bit hm ?_); exact rfl)
    | ((with_reducible refine Sub.mono hm ?_); exact rfl)
    | ((with_reducible refine .inl (Sub.bit hm ?_)); exact rfl)
    | with_reducible exact .inr rfl
    | dsimp only
    | with_reducible apply keeps_fields
    | with_reducible apply keeps_store

theorem State.fetchLine_keeps {s : State} (n : Nat) (win : Nat) (ln : Nat) (h : s0.Keeps fp s)
    (hm : Sub 0x2000380000D fp) :
    s0.Keeps fp (State.fetchLine s n win ln).2 := by
  unfold State.fetchLine
  try dsimp only
  repeat' first
    | with_reducible assumption
    | ((with_reducible refine Sub.bit hm ?_); exact rfl)
    | ((with_reducible refine Sub.mono hm ?_); exact rfl)
    | ((with_reducible refine .inl (Sub.bit hm ?_)); exact rfl)
    | with_reducible exact .inr rfl
    | with_reducible apply keeps_ite
    | with_reducible apply keeps_ite2
    | with_reducible apply State.fresh_keeps
    | with_reducible apply State.decodeLine_keeps
    | with_reducible apply State.readLine_keeps
    | with_reducible apply State.oor_keeps
    | (intro _ _ _)
    | (intro _ _)
    | (intro _)
    | (split; rename_i e; have e3 := congrArg (fun p => p.2.2) e; dsimp only at e3; subst e3)
    | (split; rename_i e; have e2 := congrArg Prod.snd e; dsimp only at e2; subst e2)
    | dsimp only
    | split
    | with_reducible apply keeps_fields
    | with_reducible apply keeps_store

theorem State.fetchAll_keeps {s : State} (n : Nat) (win : Nat) (lns : List Nat) (h : s0.Keeps fp s)
    (hm : Sub 0x2000380000D fp) :
    s0.Keeps fp (State.fetchAll s n win lns).2 := by
  unfold State.fetchAll
  try dsimp only
  repeat' first
    | with_reducible assumption
    | ((with_reducible refine Sub.bit hm ?_); exact rfl)
    | ((with_reducible refine Sub.mono hm ?_); exact rfl)
    | ((with_reducible refine .inl (Sub.bit hm ?_)); exact rfl)
    | with_reducible exact .inr rfl
    | with_reducible refine keeps_foldl _ _ ?_ ?_
    | with_reducible refine keeps_foldl2 _ _ _ ?_ ?_
    | with_reducible apply State.fetchLine_keeps
    | (intro _ _ _)
    | (intro _ _)
    | (intro _)
    | (split; rename_i e; have e3 := congrArg (fun p => p.2.2) e; dsimp only at e3; subst e3)
    | (split; rename_i e; have e2 := congrArg Prod.snd e; dsimp only at e2; subst e2)
    | dsimp only
    | split
    | with_reducible apply keeps_fields
    | with_reducible apply keeps_store

theorem State.fetchNext_keeps (n win : Nat) (acc : Fetching × State) (r : Nat × Nat × List Nat) (h : s0.Keeps fp acc.2)
    (hm : Sub 0x2000380000D fp) : s0.Keeps fp (State.fetchNext n win acc r).2 := by
  unfold State.fetchNext
  dsimp only
  split
  · exact h
  · refine keeps_foldl3 _ _ _ h fun a x h => ?_
    split
    · exact h
    · exact State.fetchLine_keeps _ _ _ h (Sub.mono hm rfl)

theorem State.fetchEach_keeps {s : State} (n win : Nat) (reads : List (Nat × Nat × List Nat)) (h : s0.Keeps fp s)
    (hm : Sub 0x2000380000D fp) : s0.Keeps fp (State.fetchEach s n win reads).2 :=
  keeps_foldl2 _ _ _ h fun a x h => State.fetchNext_keeps n win a x h (Sub.mono hm rfl)

end Sys2Proof.Machine
end

