-- ==== Sys2Proof/Laws/KeepsTiles.lean ====
section
/-! SUPPORT. What the operations of Machine/Tiles.lean keep, and the parts they may change. -/

namespace Sys2Proof.Machine

variable {fp : Nat} {s0 : State}

theorem LineCtx.tileLine_keeps (c : LineCtx) (t : Nat) (win : Nat) {s : State} (h : s0.Keeps fp s)
    (hm : Sub 0x2000380100D fp) :
    s0.Keeps fp (LineCtx.tileLine c t win s).2 := by
  unfold LineCtx.tileLine
  try dsimp only
  repeat' first
    | with_reducible assumption
    | ((with_reducible refine Sub.bit hm ?_); exact rfl)
    | ((with_reducible refine Sub.mono hm ?_); exact rfl)
    | ((with_reducible refine .inl (Sub.bit hm ?_)); exact rfl)
    | with_reducible exact .inr rfl
    | with_reducible apply keeps_ite
    | with_reducible apply keeps_ite2
    | with_reducible apply State.bump_keeps
    | with_reducible apply State.fetchEach_keeps
    | (intro _ _ _)
    | (intro _ _)
    | (intro _)
    | (split; rename_i e; have e3 := congrArg (fun p => p.2.2) e; dsimp only at e3; subst e3)
    | (split; rename_i e; have e2 := congrArg Prod.snd e; dsimp only at e2; subst e2)
    | dsimp only
    | split
    | with_reducible apply keeps_fields
    | with_reducible apply keeps_store

end Sys2Proof.Machine
end

