-- ==== Sys2Proof/Laws/KeepsObjects.lean ====
section
/-! SUPPORT. What the operations of Machine/Objects.lean keep, and the parts they may change. -/

namespace Sys2Proof.Machine

variable {fp : Nat} {s0 : State}

theorem sortRead_keeps (n : Nat) (live : RegFile) (lines : Nat) (acc : List Nat × State) (i : Nat) (h : s0.Keeps fp acc.2)
    (hm : Sub 0x2000D80000D fp) : s0.Keeps fp (sortRead n live lines acc i).2 := by
  unfold sortRead
  exact keeps_ite2 (State.readTable_keeps _ h (Sub.mono hm rfl)) h

theorem LineCtx.objLine_keeps (c : LineCtx) (band : List Nat) (g : Nat) (win : Nat) {s : State} (h : s0.Keeps fp s)
    (hm : Sub 0x2000F80000D fp) :
    s0.Keeps fp (LineCtx.objLine c band g win s).2 := by
  unfold LineCtx.objLine
  try dsimp only
  repeat' first
    | with_reducible assumption
    | ((with_reducible refine Sub.bit hm ?_); exact rfl)
    | ((with_reducible refine Sub.mono hm ?_); exact rfl)
    | ((with_reducible refine .inl (Sub.bit hm ?_)); exact rfl)
    | with_reducible exact .inr rfl
    | with_reducible apply keeps_ite
    | with_reducible apply keeps_ite2
    | with_reducible refine keeps_foldl _ _ ?_ ?_
    | with_reducible refine keeps_foldl2 _ _ _ ?_ ?_
    | with_reducible apply State.readTable_keeps
    | with_reducible apply State.fetchEach_keeps
    | (intro _ _ _)
    | (intro _ _)
    | (intro _)
    | (split; rename_i e; have e3 := congrArg (fun p => p.2.2) e; dsimp only at e3; subst e3)
    | (split; rename_i e; have e2 := congrArg Prod.snd e; dsimp only at e2; subst e2)
    | dsimp only
    | split
    | with_reducible apply keeps_fields
    | with_reducible apply keeps_store

end Sys2Proof.Machine
end

