-- ==== Sys2Proof/Laws/KeepsCompose.lean ====
section
/-! SUPPORT. What the operations of Machine/Compose.lean keep, and the parts they may change. -/

namespace Sys2Proof.Machine

variable {fp : Nat} {s0 : State}

theorem State.plLine_keeps {s : State} (n : Nat) (y : Nat) (cols : Nat) (win : Nat) (h : s0.Keeps fp s)
    (hm : Sub 0x2000380800D fp) :
    s0.Keeps fp (State.plLine s n y cols win).2 := by
  unfold State.plLine
  try dsimp only
  repeat' first
    | with_reducible assumption
    | ((with_reducible refine Sub.bit hm ?_); exact rfl)
    | ((with_reducible refine Sub.mono hm ?_); exact rfl)
    | ((with_reducible refine .inl (Sub.bit hm ?_)); exact rfl)
    | with_reducible exact .inr rfl
    | with_reducible apply keeps_ite
    | with_reducible apply keeps_ite2
    | with_reducible refine keeps_foldl _ _ ?_ ?_
    | with_reducible refine keeps_foldl2 _ _ _ ?_ ?_
    | with_reducible apply State.bump_keeps
    | with_reducible apply State.fetchAll_keeps
    | with_reducible apply State.fetchEach_keeps
    | (intro _ _ _)
    | (intro _ _)
    | (intro _)
    | (split; rename_i e; have e3 := congrArg (fun p => p.2.2) e; dsimp only at e3; subst e3)
    | (split; rename_i e; have e2 := congrArg Prod.snd e; dsimp only at e2; subst e2)
    | dsimp only
    | split
    | with_reducible apply keeps_fields
    | with_reducible apply keeps_store

theorem LineCtx.compose_keeps (c : LineCtx) (band : List Nat) (g : Nat) (win : Nat) (owin : Nat) (imps : Vector ImportPlane 3) {s : State} (h : s0.Keeps fp s)
    (hm : Sub 0x2000F80D00D fp) :
    s0.Keeps fp (LineCtx.compose c band g win owin imps s).2 := by
  unfold LineCtx.compose
  try dsimp only
  repeat' first
    | with_reducible assumption
    | ((with_reducible refine Sub.bit hm ?_); exact rfl)
    | ((with_reducible refine Sub.mono hm ?_); exact rfl)
    | ((with_reducible refine .inl (Sub.bit hm ?_)); exact rfl)
    | with_reducible exact .inr rfl
    | with_reducible apply keeps_ite
    | with_reducible apply keeps_ite2
    | with_reducible refine keeps_foldl _ _ ?_ ?_
    | with_reducible refine keeps_foldl2 _ _ _ ?_ ?_
    | with_reducible apply State.readTable_keeps
    | with_reducible apply LineCtx.tileLine_keeps
    | with_reducible apply LineCtx.objLine_keeps
    | with_reducible apply LineCtx.bmpLine_keeps
    | with_reducible apply State.plLine_keeps
    | (intro _ _ _)
    | (intro _ _)
    | (intro _)
    | (split; rename_i e; have e3 := congrArg (fun p => p.2.2) e; dsimp only at e3; subst e3)
    | (split; rename_i e; have e2 := congrArg Prod.snd e; dsimp only at e2; subst e2)
    | dsimp only
    | split
    | with_reducible apply keeps_fields
    | with_reducible apply keeps_store

end Sys2Proof.Machine
end

