-- ==== Sys2Proof/Laws/KeepsPost.lean ====
section
/-! SUPPORT. What the operations of Machine/Post.lean keep, and the parts they may change. -/

namespace Sys2Proof.Machine

variable {fp : Nat} {s0 : State}

theorem State.setMode_keeps {s : State} (m : Nat) (h : s0.Keeps fp s)
    (hm : Sub 0x2000180040D fp) :
    s0.Keeps fp (State.setMode s m) := by
  unfold State.setMode
  try dsimp only
  repeat' first
    | with_reducible assumption
    | ((with_reducible refine Sub.bit hm ?_); exact rfl)
    | ((with_reducible refine Sub.mono hm ?_); exact rfl)
    | ((with_reducible refine .inl (Sub.bit hm ?_)); exact rfl)
    | with_reducible exact .inr rfl
    | with_reducible apply keeps_ite
    | with_reducible refine keeps_foldl _ _ ?_ ?_
    | with_reducible refine keeps_foldl2 _ _ _ ?_ ?_
    | with_reducible apply State.wf_keeps
    | with_reducible apply State.raise_keeps
    | (intro _ _ _)
    | (intro _ _)
    | (intro _)
    | dsimp only
    | split
    | with_reducible apply keeps_fields
    | with_reducible apply keeps_store

theorem State.followVigil_keeps {s : State} (h : s0.Keeps fp s)
    (hm : Sub 0x2000180040D fp) :
    s0.Keeps fp (State.followVigil s) := by
  unfold State.followVigil
  try dsimp only
  repeat' first
    | with_reducible assumption
    | ((with_reducible refine Sub.bit hm ?_); exact rfl)
    | ((with_reducible refine Sub.mono hm ?_); exact rfl)
    | with_reducible apply keeps_ite
    | with_reducible apply State.setMode_keeps
    | dsimp only
    | split

theorem State.cqFullBit_keeps {s : State} (c : Nat) (h : s0.Keeps fp s)
    (hm : Sub 2 fp) :
    s0.Keeps fp (State.cqFullBit s c) := by
  unfold State.cqFullBit
  try dsimp only
  repeat' first
    | with_reducible assumption
    | ((with_reducible refine Sub.bit hm ?_); exact rfl)
    | ((with_reducible refine Sub.mono hm ?_); exact rfl)
    | with_reducible apply State.wb_keeps
    | dsimp only

theorem State.advancePi_keeps {s : State} (st : RegName) (c : Nat) (k : Nat) (h : s0.Keeps fp s)
    (hm : Sub 0 fp) (hb_st : fp.testBit st.bit = true) :
    s0.Keeps fp (State.advancePi s st c k) := by
  unfold State.advancePi
  try dsimp only
  repeat' first
    | with_reducible assumption
    | ((with_reducible refine Sub.bit hm ?_); exact rfl)
    | ((with_reducible refine Sub.mono hm ?_); exact rfl)
    | ((with_reducible refine .inl (Sub.bit hm ?_)); exact rfl)
    | with_reducible exact .inr rfl
    | ((with_reducible refine reg_bit _ (Sub.mono hm ?_)); exact rfl)
    | ((with_reducible refine rej_bit _ (Sub.mono hm ?_)); exact rfl)
    | with_reducible apply keeps_ite
    | with_reducible apply State.wf_keeps
    | with_reducible apply State.wb_keeps
    | dsimp only
    | split
    | with_reducible apply keeps_fields
    | with_reducible apply keeps_store

theorem State.writeCpl_keeps {s : State} (ring : Nat) (c : Nat) (x : Cpl) (h : s0.Keeps fp s)
    (hm : Sub 0x2000180000E fp) :
    s0.Keeps fp (State.writeCpl s ring c x) := by
  unfold State.writeCpl
  try dsimp only
  repeat' first
    | with_reducible assumption
    | ((with_reducible refine Sub.bit hm ?_); exact rfl)
    | ((with_reducible refine Sub.mono hm ?_); exact rfl)
    | ((with_reducible refine .inl (Sub.bit hm ?_)); exact rfl)
    | with_reducible exact .inr rfl
    | with_reducible apply keeps_ite
    | with_reducible apply State.emit_keeps
    | with_reducible apply State.bump_keeps
    | with_reducible apply State.raise_keeps
    | with_reducible apply State.cqFullBit_keeps
    | with_reducible apply State.advancePi_keeps
    | dsimp only
    | split
    | with_reducible apply keeps_fields
    | with_reducible apply keeps_store

theorem State.setRing_keeps {s : State} (r : Nat) (x : Ring) (h : s0.Keeps fp s)
    (hm : Sub 0x400000 fp) :
    s0.Keeps fp (State.setRing s r x) := by
  unfold State.setRing
  try dsimp only
  repeat' first
    | with_reducible assumption
    | ((with_reducible refine Sub.bit hm ?_); exact rfl)
    | ((with_reducible refine Sub.mono hm ?_); exact rfl)
    | ((with_reducible refine .inl (Sub.bit hm ?_)); exact rfl)
    | with_reducible exact .inr rfl
    | dsimp only
    | with_reducible apply keeps_fields
    | with_reducible apply keeps_store

theorem State.settleRing_keeps {s : State} (r : Nat) (h : s0.Keeps fp s)
    (hm : Sub 2 fp) :
    s0.Keeps fp (State.settleRing s r) := by
  unfold State.settleRing
  try dsimp only
  repeat' first
    | with_reducible assumption
    | ((with_reducible refine Sub.bit hm ?_); exact rfl)
    | ((with_reducible refine Sub.mono hm ?_); exact rfl)
    | ((with_reducible refine .inl (Sub.bit hm ?_)); exact rfl)
    | with_reducible exact .inr rfl
    | with_reducible apply keeps_ite
    | with_reducible apply State.wf_keeps
    | dsimp only
    | split
    | with_reducible apply keeps_fields
    | with_reducible apply keeps_store

theorem State.postCpl_keeps {s : State} (r : Nat) (x : Cpl) (h : s0.Keeps fp s)
    (hm : Sub 0x20001C0000E fp) :
    s0.Keeps fp (State.postCpl s r x) := by
  unfold State.postCpl
  try dsimp only
  repeat' first
    | with_reducible assumption
    | ((with_reducible refine Sub.bit hm ?_); exact rfl)
    | ((with_reducible refine Sub.mono hm ?_); exact rfl)
    | ((with_reducible refine .inl (Sub.bit hm ?_)); exact rfl)
    | with_reducible exact .inr rfl
    | with_reducible apply keeps_ite
    | with_reducible apply State.wb_keeps
    | with_reducible apply State.writeCpl_keeps
    | with_reducible apply State.setRing_keeps
    | with_reducible apply State.settleRing_keeps
    | dsimp only
    | split
    | with_reducible apply keeps_fields
    | with_reducible apply keeps_store

theorem State.flushRing_keeps (n r : Nat) {s : State} (h : s0.Keeps fp s) (hm : Sub 0x20001C0000E fp) :
    s0.Keeps fp (State.flushRing n s r) := by
  induction n generalizing s with
  | zero => exact h
  | succ n ih =>
    unfold State.flushRing
    dsimp only
    split
    · exact State.wb_keeps _ _ _ _ _ _ h (Sub.bit hm rfl)
    · refine keeps_ite h (ih ?_)
      repeat' first
        | with_reducible assumption
        | ((with_reducible refine Sub.bit hm ?_); exact rfl)
        | ((with_reducible refine Sub.mono hm ?_); exact rfl)
        | ((with_reducible refine .inl (Sub.bit hm ?_)); exact rfl)
        | with_reducible exact .inr rfl
        | ((with_reducible refine reg_bit _ (Sub.mono hm ?_)); exact rfl)
        | ((with_reducible refine rej_parts _ (Sub.mono hm ?_)); exact rfl)
        | with_reducible apply State.settleRing_keeps
        | with_reducible apply State.writeCpl_keeps
        | with_reducible apply State.setRing_keeps

theorem State.settleHw_keeps {s : State} (r : Nat) (h : s0.Keeps fp s)
    (hm : Sub 0x20001C0000E fp) :
    s0.Keeps fp (State.settleHw s r) := by
  unfold State.settleHw
  try dsimp only
  repeat' first
    | with_reducible assumption
    | ((with_reducible refine Sub.bit hm ?_); exact rfl)
    | ((with_reducible refine Sub.mono hm ?_); exact rfl)
    | ((with_reducible refine .inl (Sub.bit hm ?_)); exact rfl)
    | with_reducible exact .inr rfl
    | with_reducible apply keeps_ite
    | with_reducible apply State.putHost_keeps
    | with_reducible apply State.stamp_keeps
    | with_reducible apply State.setRing_keeps
    | with_reducible apply State.settleRing_keeps
    | with_reducible apply State.postCpl_keeps
    | (split; rename_i e; have e3 := congrArg (fun p => p.2.2) e; dsimp only at e3; subst e3)
    | (split; rename_i e; have e2 := congrArg Prod.snd e; dsimp only at e2; subst e2)
    | dsimp only
    | split
    | with_reducible apply keeps_fields
    | with_reducible apply keeps_store

theorem State.finishNow_keeps {s : State} (r : Nat) (index : Nat) (hdr : List Byte) (status : Nat) (info : Nat) (info2 : Nat) (stamp : Word64) (h : s0.Keeps fp s)
    (hm : Sub 0x20001C0000E fp) :
    s0.Keeps fp (State.finishNow s r index hdr status info info2 stamp) := by
  unfold State.finishNow
  try dsimp only
  repeat' first
    | with_reducible assumption
    | ((with_reducible refine Sub.bit hm ?_); exact rfl)
    | ((with_reducible refine Sub.mono hm ?_); exact rfl)
    | ((with_reducible refine .inl (Sub.bit hm ?_)); exact rfl)
    | with_reducible exact .inr rfl
    | with_reducible apply keeps_ite
    | with_reducible apply State.setRing_keeps
    | with_reducible apply State.settleRing_keeps
    | with_reducible apply State.postCpl_keeps
    | dsimp only
    | split
    | with_reducible apply keeps_fields
    | with_reducible apply keeps_store

theorem State.flushWaiting_keeps {s : State} (r : Nat) (h : s0.Keeps fp s)
    (hm : Sub 0x20001C0000E fp) :
    s0.Keeps fp (State.flushWaiting s r) := by
  unfold State.flushWaiting
  try dsimp only
  repeat' first
    | with_reducible assumption
    | ((with_reducible refine Sub.bit hm ?_); exact rfl)
    | ((with_reducible refine Sub.mono hm ?_); exact rfl)
    | with_reducible apply State.flushRing_keeps
    | with_reducible apply State.settleHw_keeps
    | dsimp only

theorem State.finishAt_keeps {s : State} (r : Nat) (index : Nat) (hdr : List Byte) (status : Nat) (info : Nat) (info2 : Nat) (stamp : Word64) (h : s0.Keeps fp s)
    (hm : Sub 0x20001C0000E fp) :
    s0.Keeps fp (State.finishAt s r index hdr status info info2 stamp) := by
  unfold State.finishAt
  try dsimp only
  repeat' first
    | with_reducible assumption
    | ((with_reducible refine Sub.bit hm ?_); exact rfl)
    | ((with_reducible refine Sub.mono hm ?_); exact rfl)
    | with_reducible apply State.settleHw_keeps
    | with_reducible apply State.finishNow_keeps
    | dsimp only

theorem State.finish_keeps {s : State} (r : Nat) (index : Nat) (hdr : List Byte) (status : Nat) (info : Nat) (info2 : Nat) (h : s0.Keeps fp s)
    (hm : Sub 0x20001C0000E fp) :
    s0.Keeps fp (State.finish s r index hdr status info info2) := by
  unfold State.finish
  try dsimp only
  repeat' first
    | with_reducible assumption
    | ((with_reducible refine Sub.bit hm ?_); exact rfl)
    | ((with_reducible refine Sub.mono hm ?_); exact rfl)
    | ((with_reducible refine .inl (Sub.bit hm ?_)); exact rfl)
    | with_reducible exact .inr rfl
    | with_reducible apply State.stamp_keeps
    | with_reducible apply State.finishAt_keeps
    | (split; rename_i e; have e3 := congrArg (fun p => p.2.2) e; dsimp only at e3; subst e3)
    | (split; rename_i e; have e2 := congrArg Prod.snd e; dsimp only at e2; subst e2)
    | dsimp only
    | split
    | with_reducible apply keeps_fields
    | with_reducible apply keeps_store

theorem State.postEvent_keeps {s : State} (type : Nat) (ring : Nat) (info : Nat) (addr : Nat) (h : s0.Keeps fp s)
    (hm : Sub 0x2000180000E fp) :
    s0.Keeps fp (State.postEvent s type ring info addr) := by
  unfold State.postEvent
  try dsimp only
  repeat' first
    | with_reducible assumption
    | ((with_reducible refine Sub.bit hm ?_); exact rfl)
    | ((with_reducible refine Sub.mono hm ?_); exact rfl)
    | ((with_reducible refine .inl (Sub.bit hm ?_)); exact rfl)
    | with_reducible exact .inr rfl
    | with_reducible apply keeps_ite
    | with_reducible apply State.emit_keeps
    | with_reducible apply State.wb_keeps
    | with_reducible apply State.bump_keeps
    | with_reducible apply State.stamp_keeps
    | with_reducible apply State.raise_keeps
    | with_reducible apply State.advancePi_keeps
    | (split; rename_i e; have e3 := congrArg (fun p => p.2.2) e; dsimp only at e3; subst e3)
    | (split; rename_i e; have e2 := congrArg Prod.snd e; dsimp only at e2; subst e2)
    | dsimp only
    | split
    | with_reducible apply keeps_fields
    | with_reducible apply keeps_store

end Sys2Proof.Machine
end

