-- ==== Sys2Proof/Laws/KeepsRails.lean ====
section
/-! SUPPORT. What the operations of Machine/Rails.lean keep, and the parts they may change. -/

namespace Sys2Proof.Machine

variable {fp : Nat} {s0 : State}

theorem State.setRail_keeps {s : State} (g : Nat) (x : Rail) (h : s0.Keeps fp s)
    (hm : Sub 0x8000000000 fp) :
    s0.Keeps fp (State.setRail s g x) := by
  unfold State.setRail
  try dsimp only
  repeat' first
    | with_reducible assumption
    | ((with_reducible refine Sub.bit hm ?_); exact rfl)
    | ((with_reducible refine Sub.mono hm ?_); exact rfl)
    | ((with_reducible refine .inl (Sub.bit hm ?_)); exact rfl)
    | with_reducible exact .inr rfl
    | dsimp only
    | with_reducible apply keeps_fields
    | with_reducible apply keeps_store

theorem State.avsIssue_keeps {s : State} (g : Nat) (h : s0.Keeps fp s)
    (hm : Sub 0x20000000000 fp) :
    s0.Keeps fp (State.avsIssue s g) := by
  unfold State.avsIssue
  try dsimp only
  repeat' first
    | with_reducible assumption
    | ((with_reducible refine Sub.bit hm ?_); exact rfl)
    | ((with_reducible refine Sub.mono hm ?_); exact rfl)
    | ((with_reducible refine .inl (Sub.bit hm ?_)); exact rfl)
    | with_reducible exact .inr rfl
    | with_reducible apply bit_ite
    | with_reducible apply keeps_ite
    | with_reducible apply State.emit_keeps
    | dsimp only
    | split
    | with_reducible apply keeps_fields
    | with_reducible apply keeps_store

theorem State.avsSend_keeps {s : State} (g : Nat) (mv : Nat) (h : s0.Keeps fp s)
    (hm : Sub 0x28000000020 fp) :
    s0.Keeps fp (State.avsSend s g mv) := by
  unfold State.avsSend
  try dsimp only
  repeat' first
    | with_reducible assumption
    | ((with_reducible refine Sub.bit hm ?_); exact rfl)
    | ((with_reducible refine Sub.mono hm ?_); exact rfl)
    | ((with_reducible refine .inl (Sub.bit hm ?_)); exact rfl)
    | with_reducible exact .inr rfl
    | with_reducible apply State.wf_keeps
    | with_reducible apply State.setRail_keeps
    | with_reducible apply State.avsIssue_keeps
    | dsimp only
    | with_reducible apply keeps_fields
    | with_reducible apply keeps_store

theorem State.railSettle_keeps {s : State} (g : Nat) (h : s0.Keeps fp s)
    (hm : Sub 0x28000000020 fp) :
    s0.Keeps fp (State.railSettle s g) := by
  unfold State.railSettle
  try dsimp only
  repeat' first
    | with_reducible assumption
    | ((with_reducible refine Sub.bit hm ?_); exact rfl)
    | ((with_reducible refine Sub.mono hm ?_); exact rfl)
    | ((with_reducible refine .inl (Sub.bit hm ?_)); exact rfl)
    | with_reducible exact .inr rfl
    | with_reducible apply keeps_ite
    | with_reducible apply State.wf_keeps
    | with_reducible apply State.avsSend_keeps
    | dsimp only
    | split
    | with_reducible apply keeps_fields
    | with_reducible apply keeps_store

theorem State.railDone_keeps {s : State} (g : Nat) (h : s0.Keeps fp s)
    (hm : Sub 0x8010000000 fp) :
    s0.Keeps fp (State.railDone s g) := by
  unfold State.railDone
  try dsimp only
  repeat' first
    | with_reducible assumption
    | ((with_reducible refine Sub.bit hm ?_); exact rfl)
    | ((with_reducible refine Sub.mono hm ?_); exact rfl)
    | ((with_reducible refine .inl (Sub.bit hm ?_)); exact rfl)
    | with_reducible exact .inr rfl
    | with_reducible apply keeps_ite
    | with_reducible refine keeps_foldl _ _ ?_ ?_
    | with_reducible refine keeps_foldl2 _ _ _ ?_ ?_
    | with_reducible apply State.setBeam_keeps
    | with_reducible apply State.setRail_keeps
    | (intro _ _ _)
    | (intro _ _)
    | (intro _)
    | dsimp only
    | split
    | with_reducible apply keeps_fields
    | with_reducible apply keeps_store

theorem State.railsSettle_keeps {s : State} (h : s0.Keeps fp s)
    (hm : Sub 0x28000000020 fp) :
    s0.Keeps fp (State.railsSettle s) := by
  unfold State.railsSettle
  try dsimp only
  repeat' first
    | with_reducible assumption
    | ((with_reducible refine Sub.bit hm ?_); exact rfl)
    | ((with_reducible refine Sub.mono hm ?_); exact rfl)
    | with_reducible apply keeps_ite
    | with_reducible refine keeps_foldl _ _ ?_ ?_
    | with_reducible refine keeps_foldl2 _ _ _ ?_ ?_
    | with_reducible apply State.railSettle_keeps
    | (intro _ _ _)
    | (intro _ _)
    | (intro _)
    | dsimp only
    | split

end Sys2Proof.Machine
end

