-- ==== Sys2Proof/Laws/KeepsRunAhead.lean ====
section
/-! SUPPORT. What the operations of Machine/RunAhead.lean keep, and the parts they may change. -/

namespace Sys2Proof.Machine

variable {fp : Nat} {s0 : State}

theorem State.raCount_keeps {s : State} (n : Nat) (k : Nat) (h : s0.Keeps fp s)
    (hm : Sub 0x10000 fp) :
    s0.Keeps fp (State.raCount s n k) := by
  unfold State.raCount
  try dsimp only
  repeat' first
    | with_reducible assumption
    | ((with_reducible refine Sub.bit hm ?_); exact rfl)
    | ((with_reducible refine Sub.mono hm ?_); exact rfl)
    | with_reducible apply State.bump_keeps
    | dsimp only

theorem State.lateEntry_keeps {s : State} (n : Nat) (e : LqEntry) (h : s0.Keeps fp s)
    (hm : Sub 0x2001181000C fp) :
    s0.Keeps fp (State.lateEntry s n e) := by
  unfold State.lateEntry
  try dsimp only
  repeat' first
    | with_reducible assumption
    | ((with_reducible refine Sub.bit hm ?_); exact rfl)
    | ((with_reducible refine Sub.mono hm ?_); exact rfl)
    | ((with_reducible refine .inl (Sub.bit hm ?_)); exact rfl)
    | with_reducible exact .inr rfl
    | with_reducible apply State.wr_keeps
    | with_reducible apply State.raise_keeps
    | with_reducible apply State.setBeam_keeps
    | with_reducible apply State.raCount_keeps
    | (split; rename_i e; have e3 := congrArg (fun p => p.2.2) e; dsimp only at e3; subst e3)
    | (split; rename_i e; have e2 := congrArg Prod.snd e; dsimp only at e2; subst e2)
    | dsimp only
    | split
    | with_reducible apply keeps_fields
    | with_reducible apply keeps_store

theorem State.rejectEntry_keeps {s : State} (n : Nat) (off : Nat) (reason : Nat) (h : s0.Keeps fp s)
    (hm : Sub 0x2000181000C fp) :
    s0.Keeps fp (State.rejectEntry s n off reason) := by
  unfold State.rejectEntry
  try dsimp only
  repeat' first
    | with_reducible assumption
    | ((with_reducible refine Sub.bit hm ?_); exact rfl)
    | ((with_reducible refine Sub.mono hm ?_); exact rfl)
    | ((with_reducible refine .inl (Sub.bit hm ?_)); exact rfl)
    | with_reducible exact .inr rfl
    | with_reducible apply State.wr_keeps
    | with_reducible apply State.raise_keeps
    | with_reducible apply State.raCount_keeps
    | dsimp only
    | with_reducible apply keeps_fields
    | with_reducible apply keeps_store

theorem State.dropReads_keeps {s : State} (n : Nat) (h : s0.Keeps fp s)
    (hm : Sub 0x2000F80D00D fp) :
    s0.Keeps fp (State.dropReads s n) := by
  unfold State.dropReads
  try dsimp only
  repeat' first
    | with_reducible assumption
    | ((with_reducible refine Sub.bit hm ?_); exact rfl)
    | ((with_reducible refine Sub.mono hm ?_); exact rfl)
    | ((with_reducible refine .inl (Sub.bit hm ?_)); exact rfl)
    | with_reducible exact .inr rfl
    | with_reducible refine keeps_foldl _ _ ?_ ?_
    | with_reducible refine keeps_foldl2 _ _ _ ?_ ?_
    | with_reducible apply State.wr_keeps
    | with_reducible apply State.fresh_keeps
    | with_reducible apply LineCtx.compose_keeps
    | (intro _ _ _)
    | (intro _ _)
    | (intro _)
    | (split; rename_i e; have e3 := congrArg (fun p => p.2.2) e; dsimp only at e3; subst e3)
    | (split; rename_i e; have e2 := congrArg Prod.snd e; dsimp only at e2; subst e2)
    | dsimp only
    | split
    | with_reducible apply keeps_fields
    | with_reducible apply keeps_store

theorem State.squash_keeps {s : State} (n : Nat) (l : Nat) (h : s0.Keeps fp s)
    (hm : Sub 0x2001F81D00D fp) :
    s0.Keeps fp (State.squash s n l) := by
  unfold State.squash
  try dsimp only
  repeat' first
    | with_reducible assumption
    | ((with_reducible refine Sub.bit hm ?_); exact rfl)
    | ((with_reducible refine Sub.mono hm ?_); exact rfl)
    | ((with_reducible refine .inl (Sub.bit hm ?_)); exact rfl)
    | with_reducible exact .inr rfl
    | with_reducible apply keeps_ite
    | with_reducible apply State.bump_keeps
    | with_reducible apply State.setBeam_keeps
    | with_reducible apply State.raCount_keeps
    | with_reducible apply State.dropReads_keeps
    | dsimp only
    | split
    | with_reducible apply keeps_fields
    | with_reducible apply keeps_store

theorem State.lsqArrive_keeps {s : State} (n : Nat) (e : Rec4) (h : s0.Keeps fp s)
    (hm : Sub 0x2001F81D00D fp) :
    s0.Keeps fp (State.lsqArrive s n e) := by
  unfold State.lsqArrive
  try dsimp only
  repeat' first
    | with_reducible assumption
    | ((with_reducible refine Sub.bit hm ?_); exact rfl)
    | ((with_reducible refine Sub.mono hm ?_); exact rfl)
    | ((with_reducible refine .inl (Sub.bit hm ?_)); exact rfl)
    | with_reducible exact .inr rfl
    | with_reducible apply keeps_ite
    | with_reducible apply State.setBeam_keeps
    | with_reducible apply State.raCount_keeps
    | with_reducible apply State.lateEntry_keeps
    | with_reducible apply State.rejectEntry_keeps
    | with_reducible apply State.squash_keeps
    | dsimp only
    | split
    | with_reducible apply keeps_fields
    | with_reducible apply keeps_store

theorem State.bandLate_keeps {s : State} (n : Nat) (l : Nat) (h : s0.Keeps fp s)
    (hm : Sub 0x10002000 fp) :
    s0.Keeps fp (State.bandLate s n l) := by
  unfold State.bandLate
  try dsimp only
  repeat' first
    | with_reducible assumption
    | ((with_reducible refine Sub.bit hm ?_); exact rfl)
    | ((with_reducible refine Sub.mono hm ?_); exact rfl)
    | ((with_reducible refine .inl (Sub.bit hm ?_)); exact rfl)
    | with_reducible exact .inr rfl
    | with_reducible apply keeps_ite
    | with_reducible apply State.bump_keeps
    | with_reducible apply State.setBeam_keeps
    | dsimp only
    | split
    | with_reducible apply keeps_fields
    | with_reducible apply keeps_store

theorem State.beginLine_keeps {s : State} (n : Nat) (l : Nat) (h : s0.Keeps fp s)
    (hm : Sub 0x10002000 fp) :
    s0.Keeps fp (State.beginLine s n l) := by
  unfold State.beginLine
  try dsimp only
  repeat' first
    | with_reducible assumption
    | ((with_reducible refine Sub.bit hm ?_); exact rfl)
    | ((with_reducible refine Sub.mono hm ?_); exact rfl)
    | ((with_reducible refine .inl (Sub.bit hm ?_)); exact rfl)
    | with_reducible exact .inr rfl
    | with_reducible apply keeps_ite
    | with_reducible apply State.setBeam_keeps
    | with_reducible apply State.bandLate_keeps
    | (intro _ _ _)
    | (intro _ _)
    | (intro _)
    | dsimp only
    | split
    | with_reducible apply keeps_fields
    | with_reducible apply keeps_store

theorem State.pruneLog_keeps {s : State} (h : s0.Keeps fp s)
    (hm : Sub 0x2000000 fp) :
    s0.Keeps fp (State.pruneLog s) := by
  unfold State.pruneLog
  try dsimp only
  repeat' first
    | with_reducible assumption
    | ((with_reducible refine Sub.bit hm ?_); exact rfl)
    | ((with_reducible refine Sub.mono hm ?_); exact rfl)
    | ((with_reducible refine .inl (Sub.bit hm ?_)); exact rfl)
    | with_reducible exact .inr rfl
    | with_reducible apply keeps_ite
    | dsimp only
    | split
    | with_reducible apply keeps_fields
    | with_reducible apply keeps_store

theorem State.completeLine_keeps {s : State} (n : Nat) (gl : GenLine) (band : List Nat) (h : s0.Keeps fp s)
    (hm : Sub 0x2001F80D00D fp) :
    s0.Keeps fp (State.completeLine s n gl band) := by
  unfold State.completeLine
  try dsimp only
  repeat' first
    | with_reducible assumption
    | ((with_reducible refine Sub.bit hm ?_); exact rfl)
    | ((with_reducible refine Sub.mono hm ?_); exact rfl)
    | ((with_reducible refine .inl (Sub.bit hm ?_)); exact rfl)
    | with_reducible exact .inr rfl
    | with_reducible apply keeps_ite
    | with_reducible apply State.setBeam_keeps
    | with_reducible apply LineCtx.compose_keeps
    | with_reducible apply State.pruneLog_keeps
    | (intro _ _ _)
    | (intro _ _)
    | (intro _)
    | (split; rename_i e; have e3 := congrArg (fun p => p.2.2) e; dsimp only at e3; subst e3)
    | (split; rename_i e; have e2 := congrArg Prod.snd e; dsimp only at e2; subst e2)
    | dsimp only
    | split
    | with_reducible apply keeps_fields
    | with_reducible apply keeps_store

theorem State.copyCheck_keeps {s : State} (n : Nat) (ups : List (Nat × List (Nat × Byte))) (h : s0.Keeps fp s)
    (hm : Sub 0x2000D80000D fp) :
    s0.Keeps fp (State.copyCheck s n ups).2.2 := by
  unfold State.copyCheck
  try dsimp only
  repeat' first
    | with_reducible assumption
    | ((with_reducible refine Sub.bit hm ?_); exact rfl)
    | ((with_reducible refine Sub.mono hm ?_); exact rfl)
    | ((with_reducible refine .inl (Sub.bit hm ?_)); exact rfl)
    | with_reducible exact .inr rfl
    | ((with_reducible refine reg_bit _ (Sub.mono hm ?_)); exact rfl)
    | ((with_reducible refine rej_bit _ (Sub.mono hm ?_)); exact rfl)
    | with_reducible apply keeps_ite
    | with_reducible apply keeps_ite2
    | with_reducible apply keeps_ite3
    | with_reducible refine keeps_foldl _ _ ?_ ?_
    | with_reducible refine keeps_foldl2 _ _ _ ?_ ?_
    | with_reducible refine keeps_foldl3 _ _ _ ?_ ?_
    | with_reducible apply State.readTable_keeps
    | with_reducible apply State.cleanTable_keeps
    | (intro _ _ _)
    | (intro _ _)
    | (intro _)
    | (split; rename_i e; have e3 := congrArg (fun p => p.2.2) e; dsimp only at e3; subst e3)
    | (split; rename_i e; have e2 := congrArg Prod.snd e; dsimp only at e2; subst e2)
    | dsimp only
    | split
    | with_reducible apply keeps_fields
    | with_reducible apply keeps_store

theorem State.wrongPixels_keeps {s : State} (v : Version) (h : s0.Keeps fp s)
    (hm : Sub 0 fp) :
    s0.Keeps fp (State.wrongPixels s v).2 := by
  unfold State.wrongPixels
  try dsimp only
  repeat' first
    | with_reducible assumption
    | ((with_reducible refine Sub.bit hm ?_); exact rfl)
    | ((with_reducible refine Sub.mono hm ?_); exact rfl)
    | ((with_reducible refine .inl (Sub.bit hm ?_)); exact rfl)
    | with_reducible exact .inr rfl
    | with_reducible refine keeps_foldl _ _ ?_ ?_
    | with_reducible refine keeps_foldl2 _ _ _ ?_ ?_
    | with_reducible apply State.fresh_keeps
    | (intro _ _ _)
    | (intro _ _)
    | (intro _)
    | (split; rename_i e; have e3 := congrArg (fun p => p.2.2) e; dsimp only at e3; subst e3)
    | (split; rename_i e; have e2 := congrArg Prod.snd e; dsimp only at e2; subst e2)
    | dsimp only
    | split
    | with_reducible apply keeps_fields
    | with_reducible apply keeps_store

theorem State.deadline_keeps {s : State} (n : Nat) (ups : List (Nat × List (Nat × Byte))) (h : s0.Keeps fp s)
    (hm : Sub 0x2001F81D00D fp) :
    s0.Keeps fp (State.deadline s n ups) := by
  unfold State.deadline
  try dsimp only
  repeat' first
    | with_reducible assumption
    | ((with_reducible refine Sub.bit hm ?_); exact rfl)
    | ((with_reducible refine Sub.mono hm ?_); exact rfl)
    | ((with_reducible refine .inl (Sub.bit hm ?_)); exact rfl)
    | with_reducible exact .inr rfl
    | with_reducible apply bit_ite
    | with_reducible apply keeps_ite
    | with_reducible apply State.raise_keeps
    | with_reducible apply State.setBeam_keeps
    | with_reducible apply State.raCount_keeps
    | with_reducible apply State.dropReads_keeps
    | with_reducible apply State.copyCheck_keeps
    | with_reducible apply State.wrongPixels_keeps
    | (split; rename_i e; have e3 := congrArg (fun p => p.2.2) e; dsimp only at e3; subst e3)
    | (split; rename_i e; have e2 := congrArg Prod.snd e; dsimp only at e2; subst e2)
    | dsimp only
    | split
    | with_reducible apply keeps_fields
    | with_reducible apply keeps_store

theorem State.wordLine_keeps {s : State} (n : Nat) (h : s0.Keeps fp s)
    (hm : Sub 0 fp) :
    s0.Keeps fp (State.wordLine s n).2 := by
  unfold State.wordLine
  try dsimp only
  repeat' first
    | with_reducible assumption
    | ((with_reducible refine Sub.bit hm ?_); exact rfl)
    | ((with_reducible refine Sub.mono hm ?_); exact rfl)
    | ((with_reducible refine .inl (Sub.bit hm ?_)); exact rfl)
    | with_reducible exact .inr rfl
    | with_reducible apply State.fresh_keeps
    | (intro _ _ _)
    | (intro _ _)
    | (intro _)
    | (split; rename_i e; have e3 := congrArg (fun p => p.2.2) e; dsimp only at e3; subst e3)
    | (split; rename_i e; have e2 := congrArg Prod.snd e; dsimp only at e2; subst e2)
    | dsimp only
    | split
    | with_reducible apply keeps_fields
    | with_reducible apply keeps_store

theorem State.windowUe_keeps {s : State} (n : Nat) (h : s0.Keeps fp s) (hm : Sub 0x2001F81D00D fp) :
    s0.Keeps fp (State.windowUe s n) := by
  have h1 := State.wordLine_keeps n h (Sub.mono hm rfl)
  unfold State.windowUe
  generalize s.wordLine n = w at h1 ⊢
  obtain ⟨_ | l, s1⟩ := w
  · exact h1
  · exact State.squash_keeps _ _ (State.setBeam_keeps _ _ h1 (Sub.mono hm rfl)) (Sub.mono hm rfl)

theorem State.windowWrong_keeps {s : State} (n : Nat) (h : s0.Keeps fp s) (hm : Sub 0x10000000 fp) :
    s0.Keeps fp (State.windowWrong s n) := by
  have h1 := State.wordLine_keeps n h (Sub.mono hm rfl)
  unfold State.windowWrong
  generalize s.wordLine n = w at h1 ⊢
  obtain ⟨_ | l, s1⟩ := w
  · exact h1
  · dsimp only
    split
    · exact h1
    · exact State.setBeam_keeps _ _ (State.wrongPixels_keeps _ h1 (Sub.mono hm rfl)) (Sub.mono hm rfl)

end Sys2Proof.Machine
end

