-- ==== Sys2Proof/Laws/KeepsLanes.lean ====
section
/-! SUPPORT. What the operations of Machine/Lanes.lean keep, and the parts they may change. -/

namespace Sys2Proof.Machine

variable {fp : Nat} {s0 : State}

theorem State.setPort_keeps {s : State} (p : Nat) (x : Port) (h : s0.Keeps fp s)
    (hm : Sub 0x400000000 fp) :
    s0.Keeps fp (State.setPort s p x) := by
  unfold State.setPort
  try dsimp only
  repeat' first
    | with_reducible assumption
    | ((with_reducible refine Sub.bit hm ?_); exact rfl)
    | ((with_reducible refine Sub.mono hm ?_); exact rfl)
    | ((with_reducible refine .inl (Sub.bit hm ?_)); exact rfl)
    | with_reducible exact .inr rfl
    | dsimp only
    | with_reducible apply keeps_fields
    | with_reducible apply keeps_store

theorem State.setLaneTx_keeps {s : State} (p : Nat) (k : Nat) (x : LaneTx) (h : s0.Keeps fp s)
    (hm : Sub 0x400000000 fp) :
    s0.Keeps fp (State.setLaneTx s p k x) := by
  unfold State.setLaneTx
  try dsimp only
  repeat' first
    | with_reducible assumption
    | ((with_reducible refine Sub.bit hm ?_); exact rfl)
    | ((with_reducible refine Sub.mono hm ?_); exact rfl)
    | ((with_reducible refine .inl (Sub.bit hm ?_)); exact rfl)
    | with_reducible exact .inr rfl
    | with_reducible apply State.setPort_keeps
    | dsimp only
    | with_reducible apply keeps_fields
    | with_reducible apply keeps_store

theorem State.laneBits_keeps {s : State} (p : Nat) (k : Nat) (n : Nat) (v : Nat) (h : s0.Keeps fp s)
    (hm : Sub 0x20400000000 fp) :
    s0.Keeps fp (State.laneBits s p k n v) := by
  unfold State.laneBits
  try dsimp only
  repeat' first
    | with_reducible assumption
    | ((with_reducible refine Sub.bit hm ?_); exact rfl)
    | ((with_reducible refine Sub.mono hm ?_); exact rfl)
    | ((with_reducible refine .inl (Sub.bit hm ?_)); exact rfl)
    | with_reducible exact .inr rfl
    | with_reducible apply keeps_ite
    | with_reducible apply State.emit_keeps
    | with_reducible apply State.setLaneTx_keeps
    | (split; rename_i e; have e3 := congrArg (fun p => p.2.2) e; dsimp only at e3; subst e3)
    | (split; rename_i e; have e2 := congrArg Prod.snd e; dsimp only at e2; subst e2)
    | dsimp only
    | split
    | with_reducible apply keeps_fields
    | with_reducible apply keeps_store

theorem State.laneBlock_keeps {s : State} (p : Nat) (k : Nat) (data : Bool) (bytes : List Byte) (h : s0.Keeps fp s)
    (hm : Sub 0x20400000000 fp) :
    s0.Keeps fp (State.laneBlock s p k data bytes) := by
  unfold State.laneBlock
  try dsimp only
  repeat' first
    | with_reducible assumption
    | ((with_reducible refine Sub.bit hm ?_); exact rfl)
    | ((with_reducible refine Sub.mono hm ?_); exact rfl)
    | ((with_reducible refine .inl (Sub.bit hm ?_)); exact rfl)
    | with_reducible exact .inr rfl
    | with_reducible apply keeps_ite
    | with_reducible apply State.setLaneTx_keeps
    | with_reducible apply State.laneBits_keeps
    | (split; rename_i e; have e3 := congrArg (fun p => p.2.2) e; dsimp only at e3; subst e3)
    | (split; rename_i e; have e2 := congrArg Prod.snd e; dsimp only at e2; subst e2)
    | dsimp only
    | split
    | with_reducible apply keeps_fields
    | with_reducible apply keeps_store

theorem State.laneMarker_keeps {s : State} (p : Nat) (k : Nat) (i : Nat) (n : Nat) (h : s0.Keeps fp s)
    (hm : Sub 0x20400000000 fp) :
    s0.Keeps fp (State.laneMarker s p k i n) := by
  unfold State.laneMarker
  try dsimp only
  repeat' first
    | with_reducible assumption
    | ((with_reducible refine Sub.bit hm ?_); exact rfl)
    | ((with_reducible refine Sub.mono hm ?_); exact rfl)
    | ((with_reducible refine .inl (Sub.bit hm ?_)); exact rfl)
    | with_reducible exact .inr rfl
    | with_reducible apply keeps_ite
    | with_reducible apply State.setLaneTx_keeps
    | with_reducible apply State.laneBlock_keeps
    | dsimp only
    | split
    | with_reducible apply keeps_fields
    | with_reducible apply keeps_store

theorem State.putCell_keeps {s : State} (p : Nat) (bs : List Byte) (h : s0.Keeps fp s)
    (hm : Sub 0x20400000000 fp) :
    s0.Keeps fp (State.putCell s p bs) := by
  unfold State.putCell
  try dsimp only
  repeat' first
    | with_reducible assumption
    | ((with_reducible refine Sub.bit hm ?_); exact rfl)
    | ((with_reducible refine Sub.mono hm ?_); exact rfl)
    | ((with_reducible refine .inl (Sub.bit hm ?_)); exact rfl)
    | with_reducible exact .inr rfl
    | with_reducible refine keeps_foldl _ _ ?_ ?_
    | with_reducible refine keeps_foldl2 _ _ _ ?_ ?_
    | with_reducible apply State.emit_keeps
    | with_reducible apply State.setPort_keeps
    | with_reducible apply State.laneBlock_keeps
    | with_reducible apply State.laneMarker_keeps
    | (intro _ _ _)
    | (intro _ _)
    | (intro _)
    | dsimp only
    | with_reducible apply keeps_fields
    | with_reducible apply keeps_store

theorem State.lanesBegin_keeps {s : State} (p : Nat) (h : s0.Keeps fp s)
    (hm : Sub 0x400000000 fp) :
    s0.Keeps fp (State.lanesBegin s p) := by
  unfold State.lanesBegin
  try dsimp only
  repeat' first
    | with_reducible assumption
    | ((with_reducible refine Sub.bit hm ?_); exact rfl)
    | ((with_reducible refine Sub.mono hm ?_); exact rfl)
    | ((with_reducible refine .inl (Sub.bit hm ?_)); exact rfl)
    | with_reducible exact .inr rfl
    | with_reducible refine keeps_foldl _ _ ?_ ?_
    | with_reducible refine keeps_foldl2 _ _ _ ?_ ?_
    | with_reducible apply State.fresh_keeps
    | with_reducible apply State.setPort_keeps
    | with_reducible apply State.setLaneTx_keeps
    | (intro _ _ _)
    | (intro _ _)
    | (intro _)
    | (split; rename_i e; have e3 := congrArg (fun p => p.2.2) e; dsimp only at e3; subst e3)
    | (split; rename_i e; have e2 := congrArg Prod.snd e; dsimp only at e2; subst e2)
    | dsimp only
    | split
    | with_reducible apply keeps_fields
    | with_reducible apply keeps_store

theorem State.sendTraining_keeps {s : State} (p : Nat) (k : Nat) (control : Word) (status : Word) (h : s0.Keeps fp s)
    (hm : Sub 0x20000000000 fp) :
    s0.Keeps fp (State.sendTraining s p k control status) := by
  unfold State.sendTraining
  try dsimp only
  repeat' first
    | with_reducible assumption
    | ((with_reducible refine Sub.bit hm ?_); exact rfl)
    | ((with_reducible refine Sub.mono hm ?_); exact rfl)
    | ((with_reducible refine .inl (Sub.bit hm ?_)); exact rfl)
    | with_reducible exact .inr rfl
    | with_reducible apply bit_ite
    | with_reducible apply keeps_ite
    | with_reducible apply State.emit_keeps
    | with_reducible apply State.fresh_keeps
    | (split; rename_i e; have e3 := congrArg (fun p => p.2.2) e; dsimp only at e3; subst e3)
    | (split; rename_i e; have e2 := congrArg Prod.snd e; dsimp only at e2; subst e2)
    | dsimp only
    | split
    | with_reducible apply keeps_fields
    | with_reducible apply keeps_store

end Sys2Proof.Machine
end

