-- ==== Sys2Proof/Laws/KeepsLinkTx.lean ====
section
/-! SUPPORT. What the operations of Machine/LinkTx.lean keep, and the parts they may change. -/

namespace Sys2Proof.Machine

variable {fp : Nat} {s0 : State}

theorem State.portCount_keeps {s : State} (p : Nat) (k : Nat) (n : Nat) (h : s0.Keeps fp s)
    (hm : Sub 0x400 fp) :
    s0.Keeps fp (State.portCount s p k n) := by
  unfold State.portCount
  try dsimp only
  repeat' first
    | with_reducible assumption
    | ((with_reducible refine Sub.bit hm ?_); exact rfl)
    | ((with_reducible refine Sub.mono hm ?_); exact rfl)
    | with_reducible apply State.bump_keeps
    | dsimp only

theorem State.raiseCtl_keeps {s : State} (from_ : Nat) (p : Nat) (c : Cell) (leave : Bool) (h : s0.Keeps fp s)
    (hm : Sub 0x400000001 fp) :
    s0.Keeps fp (State.raiseCtl s from_ p c leave) := by
  unfold State.raiseCtl
  try dsimp only
  repeat' first
    | with_reducible assumption
    | ((with_reducible refine Sub.bit hm ?_); exact rfl)
    | ((with_reducible refine Sub.mono hm ?_); exact rfl)
    | with_reducible apply bit_ite
    | with_reducible apply keeps_ite
    | with_reducible apply State.fenceDrop_keeps
    | with_reducible apply State.setPort_keeps
    | dsimp only
    | split

theorem State.raiseAll_keeps {s : State} (n : Nat) (c : Cell) (h : s0.Keeps fp s)
    (hm : Sub 0x400000001 fp) :
    s0.Keeps fp (State.raiseAll s n c) := by
  unfold State.raiseAll
  try dsimp only
  repeat' first
    | with_reducible assumption
    | ((with_reducible refine Sub.bit hm ?_); exact rfl)
    | ((with_reducible refine Sub.mono hm ?_); exact rfl)
    | with_reducible refine keeps_foldl _ _ ?_ ?_
    | with_reducible refine keeps_foldl2 _ _ _ ?_ ?_
    | with_reducible apply State.raiseCtl_keeps
    | (intro _ _ _)
    | (intro _ _)
    | (intro _)
    | dsimp only

theorem State.joinPort_keeps {s : State} (n : Nat) (p : Nat) (at_ : Nat × Nat) (h : s0.Keeps fp s)
    (hm : Sub 0x400000001 fp) :
    s0.Keeps fp (State.joinPort s n p at_) := by
  unfold State.joinPort
  try dsimp only
  repeat' first
    | with_reducible assumption
    | ((with_reducible refine Sub.bit hm ?_); exact rfl)
    | ((with_reducible refine Sub.mono hm ?_); exact rfl)
    | ((with_reducible refine .inl (Sub.bit hm ?_)); exact rfl)
    | with_reducible exact .inr rfl
    | with_reducible apply keeps_ite
    | with_reducible apply State.raiseCtl_keeps
    | (intro _ _ _)
    | (intro _ _)
    | (intro _)
    | dsimp only
    | split
    | with_reducible apply keeps_fields
    | with_reducible apply keeps_store

theorem State.applyRoute_keeps {s : State} (n : Nat) (w : Word) (at_ : (Nat × Nat) × (Nat × Nat)) (h : s0.Keeps fp s)
    (hm : Sub 0x410000001 fp) :
    s0.Keeps fp (State.applyRoute s n w at_) := by
  unfold State.applyRoute
  try dsimp only
  repeat' first
    | with_reducible assumption
    | ((with_reducible refine Sub.bit hm ?_); exact rfl)
    | ((with_reducible refine Sub.mono hm ?_); exact rfl)
    | ((with_reducible refine .inl (Sub.bit hm ?_)); exact rfl)
    | with_reducible exact .inr rfl
    | with_reducible refine keeps_foldl _ _ ?_ ?_
    | with_reducible refine keeps_foldl2 _ _ _ ?_ ?_
    | with_reducible apply State.setBeam_keeps
    | with_reducible apply State.raiseCtl_keeps
    | with_reducible apply State.joinPort_keeps
    | (intro _ _ _)
    | (intro _ _)
    | (intro _)
    | dsimp only
    | with_reducible apply keeps_fields
    | with_reducible apply keeps_store

theorem State.portLine_keeps {s : State} (n : Nat) (e : Emit) (depth : Nat) (ycc : Bool) (hz : Nat) (x : Nat × Nat × Nat × Nat) (h : s0.Keeps fp s)
    (hm : Sub 0x400000400 fp) :
    s0.Keeps fp (State.portLine s n e depth ycc hz x) := by
  unfold State.portLine
  try dsimp only
  repeat' first
    | with_reducible assumption
    | ((with_reducible refine Sub.bit hm ?_); exact rfl)
    | ((with_reducible refine Sub.mono hm ?_); exact rfl)
    | ((with_reducible refine .inl (Sub.bit hm ?_)); exact rfl)
    | with_reducible exact .inr rfl
    | with_reducible apply keeps_ite
    | with_reducible refine keeps_foldl _ _ ?_ ?_
    | with_reducible refine keeps_foldl2 _ _ _ ?_ ?_
    | with_reducible apply State.setPort_keeps
    | with_reducible apply State.portCount_keeps
    | (intro _ _ _)
    | (intro _ _)
    | (intro _)
    | dsimp only
    | split
    | with_reducible apply keeps_fields
    | with_reducible apply keeps_store

theorem State.capUpdate_keeps {s : State} (p : Nat) (h : s0.Keeps fp s)
    (hm : Sub 0x400000000 fp) :
    s0.Keeps fp (State.capUpdate s p) := by
  unfold State.capUpdate
  try dsimp only
  repeat' first
    | with_reducible assumption
    | ((with_reducible refine Sub.bit hm ?_); exact rfl)
    | ((with_reducible refine Sub.mono hm ?_); exact rfl)
    | ((with_reducible refine .inl (Sub.bit hm ?_)); exact rfl)
    | with_reducible exact .inr rfl
    | with_reducible apply keeps_ite
    | with_reducible apply State.setPort_keeps
    | dsimp only
    | split
    | with_reducible apply keeps_fields
    | with_reducible apply keeps_store

theorem State.capUpdates_keeps {s : State} (h : s0.Keeps fp s)
    (hm : Sub 0x400000000 fp) :
    s0.Keeps fp (State.capUpdates s) := by
  unfold State.capUpdates
  try dsimp only
  repeat' first
    | with_reducible assumption
    | ((with_reducible refine Sub.bit hm ?_); exact rfl)
    | ((with_reducible refine Sub.mono hm ?_); exact rfl)
    | with_reducible refine keeps_foldl _ _ ?_ ?_
    | with_reducible refine keeps_foldl2 _ _ _ ?_ ?_
    | with_reducible apply State.capUpdate_keeps
    | (intro _ _ _)
    | (intro _ _)
    | (intro _)
    | dsimp only

theorem State.masqTake_keeps {s : State} (p : Nat) (c : Cell) (h : s0.Keeps fp s)
    (hm : Sub 0x400000000 fp) :
    s0.Keeps fp (State.masqTake s p c).2 := by
  unfold State.masqTake
  try dsimp only
  repeat' first
    | with_reducible assumption
    | ((with_reducible refine Sub.bit hm ?_); exact rfl)
    | ((with_reducible refine Sub.mono hm ?_); exact rfl)
    | ((with_reducible refine .inl (Sub.bit hm ?_)); exact rfl)
    | with_reducible exact .inr rfl
    | with_reducible apply keeps_ite
    | with_reducible apply keeps_ite2
    | with_reducible apply State.fresh_keeps
    | with_reducible apply State.setPort_keeps
    | (split; rename_i e; have e3 := congrArg (fun p => p.2.2) e; dsimp only at e3; subst e3)
    | (split; rename_i e; have e2 := congrArg Prod.snd e; dsimp only at e2; subst e2)
    | dsimp only
    | split
    | with_reducible apply keeps_fields
    | with_reducible apply keeps_store

theorem State.masqInjected_keeps {s : State} (p : Nat) (h : s0.Keeps fp s)
    (hm : Sub 0x2000180040C fp) :
    s0.Keeps fp (State.masqInjected s p) := by
  unfold State.masqInjected
  try dsimp only
  repeat' first
    | with_reducible assumption
    | ((with_reducible refine Sub.bit hm ?_); exact rfl)
    | ((with_reducible refine Sub.mono hm ?_); exact rfl)
    | ((with_reducible refine .inl (Sub.bit hm ?_)); exact rfl)
    | with_reducible exact .inr rfl
    | with_reducible apply keeps_ite
    | with_reducible apply State.wf_keeps
    | with_reducible apply State.wb_keeps
    | with_reducible apply State.raise_keeps
    | dsimp only
    | split
    | with_reducible apply keeps_fields
    | with_reducible apply keeps_store

theorem State.sendBytes_keeps {s : State} (p : Nat) (bs : List Byte) (h : s0.Keeps fp s)
    (hm : Sub 0x20400000000 fp) :
    s0.Keeps fp (State.sendBytes s p bs) := by
  unfold State.sendBytes
  try dsimp only
  repeat' first
    | with_reducible assumption
    | ((with_reducible refine Sub.bit hm ?_); exact rfl)
    | ((with_reducible refine Sub.mono hm ?_); exact rfl)
    | with_reducible apply State.setPort_keeps
    | with_reducible apply State.putCell_keeps
    | dsimp only

theorem State.sendIdle_keeps {s : State} (p : Nat) (h : s0.Keeps fp s)
    (hm : Sub 0x20400000000 fp) :
    s0.Keeps fp (State.sendIdle s p) := by
  unfold State.sendIdle
  try dsimp only
  repeat' first
    | with_reducible assumption
    | ((with_reducible refine Sub.bit hm ?_); exact rfl)
    | ((with_reducible refine Sub.mono hm ?_); exact rfl)
    | with_reducible apply State.putCell_keeps
    | dsimp only

theorem State.sendCell_keeps {s : State} (p : Nat) (c : Cell) (seq : Nat) (h : s0.Keeps fp s)
    (hm : Sub 0x2040180040C fp) :
    s0.Keeps fp (State.sendCell s p c seq) := by
  unfold State.sendCell
  try dsimp only
  repeat' first
    | with_reducible assumption
    | ((with_reducible refine Sub.bit hm ?_); exact rfl)
    | ((with_reducible refine Sub.mono hm ?_); exact rfl)
    | ((with_reducible refine .inl (Sub.bit hm ?_)); exact rfl)
    | with_reducible exact .inr rfl
    | with_reducible apply keeps_ite
    | with_reducible apply State.emit_keeps
    | with_reducible apply State.wb_keeps
    | with_reducible apply State.setPort_keeps
    | with_reducible apply State.masqTake_keeps
    | with_reducible apply State.masqInjected_keeps
    | with_reducible apply State.sendBytes_keeps
    | with_reducible apply State.sendIdle_keeps
    | (split; rename_i e; have e3 := congrArg (fun p => p.2.2) e; dsimp only at e3; subst e3)
    | (split; rename_i e; have e2 := congrArg Prod.snd e; dsimp only at e2; subst e2)
    | dsimp only
    | split
    | with_reducible apply keeps_fields
    | with_reducible apply keeps_store

theorem State.sendSeq_keeps {s : State} (p : Nat) (h : s0.Keeps fp s)
    (hm : Sub 0x2040180040C fp) :
    s0.Keeps fp (State.sendSeq s p) := by
  unfold State.sendSeq
  try dsimp only
  repeat' first
    | with_reducible assumption
    | ((with_reducible refine Sub.bit hm ?_); exact rfl)
    | ((with_reducible refine Sub.mono hm ?_); exact rfl)
    | ((with_reducible refine .inl (Sub.bit hm ?_)); exact rfl)
    | with_reducible exact .inr rfl
    | with_reducible apply keeps_ite
    | with_reducible apply State.fresh_keeps
    | with_reducible apply State.setPort_keeps
    | with_reducible apply State.portCount_keeps
    | with_reducible apply State.sendIdle_keeps
    | with_reducible apply State.sendCell_keeps
    | (split; rename_i e; have e3 := congrArg (fun p => p.2.2) e; dsimp only at e3; subst e3)
    | (split; rename_i e; have e2 := congrArg Prod.snd e; dsimp only at e2; subst e2)
    | dsimp only
    | split
    | with_reducible apply keeps_fields
    | with_reducible apply keeps_store

theorem State.cellSlot_keeps {s : State} (p : Nat) (h : s0.Keeps fp s)
    (hm : Sub 0x2040180040C fp) :
    s0.Keeps fp (State.cellSlot s p) := by
  unfold State.cellSlot
  try dsimp only
  repeat' first
    | with_reducible assumption
    | ((with_reducible refine Sub.bit hm ?_); exact rfl)
    | ((with_reducible refine Sub.mono hm ?_); exact rfl)
    | ((with_reducible refine .inl (Sub.bit hm ?_)); exact rfl)
    | with_reducible exact .inr rfl
    | with_reducible apply keeps_ite
    | with_reducible refine keeps_foldl _ _ ?_ ?_
    | with_reducible refine keeps_foldl2 _ _ _ ?_ ?_
    | with_reducible apply State.setPort_keeps
    | with_reducible apply State.putCell_keeps
    | with_reducible apply State.sendTraining_keeps
    | with_reducible apply State.sendIdle_keeps
    | with_reducible apply State.sendCell_keeps
    | with_reducible apply State.sendSeq_keeps
    | (intro _ _ _)
    | (intro _ _)
    | (intro _)
    | dsimp only
    | split
    | with_reducible apply keeps_fields
    | with_reducible apply keeps_store

theorem State.cutAudio_keeps {s : State} (p : Nat) (h : s0.Keeps fp s)
    (hm : Sub 0x400000000 fp) :
    s0.Keeps fp (State.cutAudio s p) := by
  unfold State.cutAudio
  try dsimp only
  repeat' first
    | with_reducible assumption
    | ((with_reducible refine Sub.bit hm ?_); exact rfl)
    | ((with_reducible refine Sub.mono hm ?_); exact rfl)
    | ((with_reducible refine .inl (Sub.bit hm ?_)); exact rfl)
    | with_reducible exact .inr rfl
    | with_reducible apply keeps_ite
    | with_reducible refine keeps_foldl _ _ ?_ ?_
    | with_reducible refine keeps_foldl2 _ _ _ ?_ ?_
    | with_reducible apply State.setPort_keeps
    | (intro _ _ _)
    | (intro _ _)
    | (intro _)
    | dsimp only
    | split
    | with_reducible apply keeps_fields
    | with_reducible apply keeps_store

end Sys2Proof.Machine
end

