-- ==== Sys2Proof/Laws/KeepsCrypto.lean ====
section
/-! SUPPORT. What the operations of Machine/Crypto.lean keep, and the parts they may change. -/

namespace Sys2Proof.Machine

variable {fp : Nat} {s0 : State}

theorem State.setFuse_keeps {s : State} (k : Nat) (w : Word) (h : s0.Keeps fp s)
    (hm : Sub 0x10000000000 fp) :
    s0.Keeps fp (State.setFuse s k w) := by
  unfold State.setFuse
  try dsimp only
  repeat' first
    | with_reducible assumption
    | ((with_reducible refine Sub.bit hm ?_); exact rfl)
    | ((with_reducible refine Sub.mono hm ?_); exact rfl)
    | ((with_reducible refine .inl (Sub.bit hm ?_)); exact rfl)
    | with_reducible exact .inr rfl
    | dsimp only
    | with_reducible apply keeps_fields
    | with_reducible apply keeps_store

end Sys2Proof.Machine
end

