-- ==== Sys2Proof/Laws/KeepsCommit.lean ====
section
/-! SUPPORT. What the operations of Machine/Commit.lean keep, and the parts they may change. -/

namespace Sys2Proof.Machine

variable {fp : Nat} {s0 : State}

theorem State.setGrp_keeps {s : State} (g : Nat) (x : Group) (h : s0.Keeps fp s)
    (hm : Sub 0x40000000 fp) :
    s0.Keeps fp (State.setGrp s g x) := by
  unfold State.setGrp
  try dsimp only
  repeat' first
    | with_reducible assumption
    | ((with_reducible refine Sub.bit hm ?_); exact rfl)
    | ((with_reducible refine Sub.mono hm ?_); exact rfl)
    | ((with_reducible refine .inl (Sub.bit hm ?_)); exact rfl)
    | with_reducible exact .inr rfl
    | dsimp only
    | with_reducible apply keeps_fields
    | with_reducible apply keeps_store

theorem State.holdSets_keeps {s : State} (snap : RegFile) (n : Nat) (chk : Nat) (h : s0.Keeps fp s)
    (hm : Sub 0x2000180880C fp) :
    s0.Keeps fp (State.holdSets s snap n chk).2 := by
  unfold State.holdSets
  try dsimp only
  repeat' first
    | with_reducible assumption
    | ((with_reducible refine Sub.bit hm ?_); exact rfl)
    | ((with_reducible refine Sub.mono hm ?_); exact rfl)
    | ((with_reducible refine .inl (Sub.bit hm ?_)); exact rfl)
    | with_reducible exact .inr rfl
    | with_reducible apply keeps_ite
    | with_reducible apply keeps_ite2
    | with_reducible apply State.wf_keeps
    | with_reducible apply State.wb_keeps
    | with_reducible apply State.raise_keeps
    | (split; rename_i e; have e3 := congrArg (fun p => p.2.2) e; dsimp only at e3; subst e3)
    | (split; rename_i e; have e2 := congrArg Prod.snd e; dsimp only at e2; subst e2)
    | dsimp only
    | split
    | with_reducible apply keeps_fields
    | with_reducible apply keeps_store

theorem State.setLock_keeps {s : State} (n : Nat) (st : Nat) (h : s0.Keeps fp s)
    (hm : Sub 0x2000180080C fp) :
    s0.Keeps fp (State.setLock s n st) := by
  unfold State.setLock
  try dsimp only
  repeat' first
    | with_reducible assumption
    | ((with_reducible refine Sub.bit hm ?_); exact rfl)
    | ((with_reducible refine Sub.mono hm ?_); exact rfl)
    | with_reducible apply keeps_ite
    | with_reducible apply State.wf_keeps
    | with_reducible apply State.raise_keeps
    | dsimp only
    | split

theorem State.adoptGenlock_keeps {s : State} (n : Nat) (old : Word) (new : Word) (h : s0.Keeps fp s)
    (hm : Sub 0x2001180080C fp) :
    s0.Keeps fp (State.adoptGenlock s n old new) := by
  unfold State.adoptGenlock
  try dsimp only
  repeat' first
    | with_reducible assumption
    | ((with_reducible refine Sub.bit hm ?_); exact rfl)
    | ((with_reducible refine Sub.mono hm ?_); exact rfl)
    | ((with_reducible refine .inl (Sub.bit hm ?_)); exact rfl)
    | with_reducible exact .inr rfl
    | with_reducible apply keeps_ite
    | with_reducible apply State.setBeam_keeps
    | with_reducible apply State.setLock_keeps
    | dsimp only
    | split
    | with_reducible apply keeps_fields
    | with_reducible apply keeps_store

theorem State.settleWait_keeps {s : State} (r : Nat) (h : s0.Keeps fp s)
    (hm : Sub 0x20001C0000E fp) :
    s0.Keeps fp (State.settleWait s r) := by
  unfold State.settleWait
  try dsimp only
  repeat' first
    | with_reducible assumption
    | ((with_reducible refine Sub.bit hm ?_); exact rfl)
    | ((with_reducible refine Sub.mono hm ?_); exact rfl)
    | ((with_reducible refine .inl (Sub.bit hm ?_)); exact rfl)
    | with_reducible exact .inr rfl
    | with_reducible apply keeps_ite
    | with_reducible apply State.setRing_keeps
    | with_reducible apply State.finish_keeps
    | (intro _ _ _)
    | (intro _ _)
    | (intro _)
    | dsimp only
    | split
    | with_reducible apply keeps_fields
    | with_reducible apply keeps_store

theorem State.settleWaits_keeps {s : State} (h : s0.Keeps fp s)
    (hm : Sub 0x20001C0000E fp) :
    s0.Keeps fp (State.settleWaits s) := by
  unfold State.settleWaits
  try dsimp only
  repeat' first
    | with_reducible assumption
    | ((with_reducible refine Sub.bit hm ?_); exact rfl)
    | ((with_reducible refine Sub.mono hm ?_); exact rfl)
    | with_reducible refine keeps_foldl _ _ ?_ ?_
    | with_reducible refine keeps_foldl2 _ _ _ ?_ ?_
    | with_reducible apply State.settleWait_keeps
    | (intro _ _ _)
    | (intro _ _)
    | (intro _)
    | dsimp only

theorem State.settleCommits_keeps {s : State} (g : Nat) (h : s0.Keeps fp s)
    (hm : Sub 0x20041D0000E fp) :
    s0.Keeps fp (State.settleCommits s g) := by
  unfold State.settleCommits
  try dsimp only
  repeat' first
    | with_reducible assumption
    | ((with_reducible refine Sub.bit hm ?_); exact rfl)
    | ((with_reducible refine Sub.mono hm ?_); exact rfl)
    | ((with_reducible refine .inl (Sub.bit hm ?_)); exact rfl)
    | with_reducible exact .inr rfl
    | with_reducible apply bit_ite
    | with_reducible apply keeps_ite
    | with_reducible refine keeps_foldl _ _ ?_ ?_
    | with_reducible refine keeps_foldl2 _ _ _ ?_ ?_
    | with_reducible apply State.wb_keeps
    | with_reducible apply State.bump_keeps
    | with_reducible apply State.stamp_keeps
    | with_reducible apply State.finishAt_keeps
    | with_reducible apply State.setGrp_keeps
    | (intro _ _ _)
    | (intro _ _)
    | (intro _)
    | dsimp only
    | split
    | with_reducible apply keeps_fields
    | with_reducible apply keeps_store

theorem State.cleanAdopted_keeps {s : State} (n : Nat) (old : RegFile) (new : RegFile) (h : s0.Keeps fp s)
    (hm : Sub 0x4000000 fp) :
    s0.Keeps fp (State.cleanAdopted s n old new) := by
  unfold State.cleanAdopted
  try dsimp only
  repeat' first
    | with_reducible assumption
    | ((with_reducible refine Sub.bit hm ?_); exact rfl)
    | ((with_reducible refine Sub.mono hm ?_); exact rfl)
    | with_reducible refine keeps_foldl _ _ ?_ ?_
    | with_reducible refine keeps_foldl2 _ _ _ ?_ ?_
    | with_reducible apply State.cleanTable_keeps
    | (intro _ _ _)
    | (intro _ _)
    | (intro _)
    | dsimp only

theorem State.adopt_keeps {s : State} (n : Nat) (g : Nat) (epoch : Word) (words : RegFile) (h : s0.Keeps fp s)
    (hm : Sub 0x28555D0082E fp) :
    s0.Keeps fp (State.adopt s n g epoch words) := by
  unfold State.adopt
  try dsimp only
  repeat' first
    | with_reducible assumption
    | ((with_reducible refine Sub.bit hm ?_); exact rfl)
    | ((with_reducible refine Sub.mono hm ?_); exact rfl)
    | ((with_reducible refine .inl (Sub.bit hm ?_)); exact rfl)
    | with_reducible exact .inr rfl
    | ((with_reducible refine reg_bit _ (Sub.mono hm ?_)); exact rfl)
    | ((with_reducible refine rej_bit _ (Sub.mono hm ?_)); exact rfl)
    | with_reducible apply keeps_ite
    | with_reducible apply keeps_ite2
    | with_reducible apply keeps_ite3
    | with_reducible refine keeps_foldl _ _ ?_ ?_
    | with_reducible refine keeps_foldl2 _ _ _ ?_ ?_
    | with_reducible refine keeps_foldl3 _ _ _ ?_ ?_
    | with_reducible apply State.wr_keeps
    | with_reducible apply State.stamp_keeps
    | with_reducible apply State.cleanTable_keeps
    | with_reducible apply State.setBeam_keeps
    | with_reducible apply State.railsSettle_keeps
    | with_reducible apply State.capUpdates_keeps
    | with_reducible apply State.adoptGenlock_keeps
    | with_reducible apply State.settleWaits_keeps
    | with_reducible apply State.settleCommits_keeps
    | with_reducible apply State.cleanAdopted_keeps
    | (intro _ _ _)
    | (intro _ _)
    | (intro _)
    | (split; rename_i e; have e3 := congrArg (fun p => p.2.2) e; dsimp only at e3; subst e3)
    | (split; rename_i e; have e2 := congrArg Prod.snd e; dsimp only at e2; subst e2)
    | dsimp only
    | split
    | with_reducible apply keeps_fields
    | with_reducible apply keeps_store

theorem State.setDepth_keeps {s : State} (n : Nat) (d : Nat) (h : s0.Keeps fp s)
    (hm : Sub 0x2000180800C fp) :
    s0.Keeps fp (State.setDepth s n d) := by
  unfold State.setDepth
  try dsimp only
  repeat' first
    | with_reducible assumption
    | ((with_reducible refine Sub.bit hm ?_); exact rfl)
    | ((with_reducible refine Sub.mono hm ?_); exact rfl)
    | with_reducible apply keeps_ite
    | with_reducible apply State.wf_keeps
    | with_reducible apply State.raise_keeps
    | dsimp only
    | split

theorem State.cutLadder_keeps {s : State} (n : Nat) (h : s0.Keeps fp s)
    (hm : Sub 0x2000180800C fp) :
    s0.Keeps fp (State.cutLadder s n) := by
  unfold State.cutLadder
  try dsimp only
  repeat' first
    | with_reducible assumption
    | ((with_reducible refine Sub.bit hm ?_); exact rfl)
    | ((with_reducible refine Sub.mono hm ?_); exact rfl)
    | with_reducible apply State.setDepth_keeps
    | dsimp only

theorem State.stoppedAdopt_keeps {s : State} (n : Nat) (g : Nat) (epoch : Word) (img : RegFile) (h : s0.Keeps fp s)
    (hm : Sub 0x28555D08C2F fp) :
    s0.Keeps fp (State.stoppedAdopt s n g epoch img) := by
  unfold State.stoppedAdopt
  try dsimp only
  repeat' first
    | with_reducible assumption
    | ((with_reducible refine Sub.bit hm ?_); exact rfl)
    | ((with_reducible refine Sub.mono hm ?_); exact rfl)
    | ((with_reducible refine .inl (Sub.bit hm ?_)); exact rfl)
    | with_reducible exact .inr rfl
    | ((with_reducible refine reg_bit _ (Sub.mono hm ?_)); exact rfl)
    | ((with_reducible refine rej_bit _ (Sub.mono hm ?_)); exact rfl)
    | with_reducible apply keeps_ite
    | with_reducible apply keeps_ite2
    | with_reducible apply keeps_ite3
    | with_reducible apply State.wb_keeps
    | with_reducible apply State.setBeam_keeps
    | with_reducible apply State.followVigil_keeps
    | with_reducible apply State.railsSettle_keeps
    | with_reducible apply State.applyRoute_keeps
    | with_reducible apply State.adopt_keeps
    | with_reducible apply State.cutLadder_keeps
    | (intro _ _ _)
    | (intro _ _)
    | (intro _)
    | (split; rename_i e; have e3 := congrArg (fun p => p.2.2) e; dsimp only at e3; subst e3)
    | (split; rename_i e; have e2 := congrArg Prod.snd e; dsimp only at e2; subst e2)
    | dsimp only
    | split
    | with_reducible apply keeps_fields
    | with_reducible apply keeps_store

theorem State.makeReady_keeps {s : State} (g : Nat) (h : s0.Keeps fp s)
    (hm : Sub 0x450000001 fp) :
    s0.Keeps fp (State.makeReady s g) := by
  unfold State.makeReady
  try dsimp only
  repeat' first
    | with_reducible assumption
    | ((with_reducible refine Sub.bit hm ?_); exact rfl)
    | ((with_reducible refine Sub.mono hm ?_); exact rfl)
    | ((with_reducible refine .inl (Sub.bit hm ?_)); exact rfl)
    | with_reducible exact .inr rfl
    | with_reducible apply keeps_ite
    | with_reducible refine keeps_foldl _ _ ?_ ?_
    | with_reducible refine keeps_foldl2 _ _ _ ?_ ?_
    | with_reducible apply State.setBeam_keeps
    | with_reducible apply State.applyRoute_keeps
    | with_reducible apply State.setGrp_keeps
    | (intro _ _ _)
    | (intro _ _)
    | (intro _)
    | dsimp only
    | split
    | with_reducible apply keeps_fields
    | with_reducible apply keeps_store

theorem State.transferred_keeps {s : State} (g : Nat) (h : s0.Keeps fp s)
    (hm : Sub 0x450900001 fp) :
    s0.Keeps fp (State.transferred s g) := by
  unfold State.transferred
  try dsimp only
  repeat' first
    | with_reducible assumption
    | ((with_reducible refine Sub.bit hm ?_); exact rfl)
    | ((with_reducible refine Sub.mono hm ?_); exact rfl)
    | ((with_reducible refine .inl (Sub.bit hm ?_)); exact rfl)
    | with_reducible exact .inr rfl
    | with_reducible apply bit_ite
    | with_reducible apply keeps_ite
    | with_reducible refine keeps_foldl _ _ ?_ ?_
    | with_reducible refine keeps_foldl2 _ _ _ ?_ ?_
    | with_reducible apply State.wb_keeps
    | with_reducible apply State.stamp_keeps
    | with_reducible apply State.raiseCtl_keeps
    | with_reducible apply State.setGrp_keeps
    | with_reducible apply State.makeReady_keeps
    | (intro _ _ _)
    | (intro _ _)
    | (intro _)
    | (split; rename_i e; have e3 := congrArg (fun p => p.2.2) e; dsimp only at e3; subst e3)
    | (split; rename_i e; have e2 := congrArg Prod.snd e; dsimp only at e2; subst e2)
    | dsimp only
    | split
    | with_reducible apply keeps_fields
    | with_reducible apply keeps_store

theorem State.fenceArrive_keeps {s : State} (g : Nat) (epoch : Word) (h : s0.Keeps fp s)
    (hm : Sub 0x450000001 fp) :
    s0.Keeps fp (State.fenceArrive s g epoch) := by
  unfold State.fenceArrive
  try dsimp only
  repeat' first
    | with_reducible assumption
    | ((with_reducible refine Sub.bit hm ?_); exact rfl)
    | ((with_reducible refine Sub.mono hm ?_); exact rfl)
    | ((with_reducible refine .inl (Sub.bit hm ?_)); exact rfl)
    | with_reducible exact .inr rfl
    | with_reducible apply keeps_ite
    | with_reducible apply State.setGrp_keeps
    | with_reducible apply State.makeReady_keeps
    | dsimp only
    | split
    | with_reducible apply keeps_fields
    | with_reducible apply keeps_store

theorem State.leaveOld_keeps {s : State} (g : Nat) (ms : List Nat) (h : s0.Keeps fp s)
    (hm : Sub 0x40000000 fp) :
    s0.Keeps fp (State.leaveOld s g ms) := by
  unfold State.leaveOld
  try dsimp only
  repeat' first
    | with_reducible assumption
    | ((with_reducible refine Sub.bit hm ?_); exact rfl)
    | ((with_reducible refine Sub.mono hm ?_); exact rfl)
    | ((with_reducible refine .inl (Sub.bit hm ?_)); exact rfl)
    | with_reducible exact .inr rfl
    | with_reducible apply keeps_ite
    | (intro _ _ _)
    | (intro _ _)
    | (intro _)
    | dsimp only
    | split
    | with_reducible apply keeps_fields
    | with_reducible apply keeps_store

theorem State.handOver_keeps {s : State} (r : Nat) (index : Nat) (desc : List Byte) (race : Bool) (h : s0.Keeps fp s)
    (hm : Sub 0x28555D08C2F fp) :
    s0.Keeps fp (State.handOver s r index desc race) := by
  unfold State.handOver
  try dsimp only
  repeat' first
    | with_reducible assumption
    | ((with_reducible refine Sub.bit hm ?_); exact rfl)
    | ((with_reducible refine Sub.mono hm ?_); exact rfl)
    | ((with_reducible refine .inl (Sub.bit hm ?_)); exact rfl)
    | with_reducible exact .inr rfl
    | ((with_reducible refine reg_bit _ (Sub.mono hm ?_)); exact rfl)
    | ((with_reducible refine rej_bit _ (Sub.mono hm ?_)); exact rfl)
    | with_reducible apply keeps_ite
    | with_reducible apply keeps_ite2
    | with_reducible apply keeps_ite3
    | with_reducible refine keeps_foldl _ _ ?_ ?_
    | with_reducible refine keeps_foldl2 _ _ _ ?_ ?_
    | with_reducible refine keeps_foldl3 _ _ _ ?_ ?_
    | with_reducible apply State.wr_keeps
    | with_reducible apply State.wb_keeps
    | with_reducible apply State.stamp_keeps
    | with_reducible apply State.setBeam_keeps
    | with_reducible apply State.finish_keeps
    | with_reducible apply State.holdSets_keeps
    | with_reducible apply State.settleCommits_keeps
    | with_reducible apply State.stoppedAdopt_keeps
    | with_reducible apply State.transferred_keeps
    | with_reducible apply State.leaveOld_keeps
    | (intro _ _ _)
    | (intro _ _)
    | (intro _)
    | (split; rename_i e; have e3 := congrArg (fun p => p.2.2) e; dsimp only at e3; subst e3)
    | (split; rename_i e; have e2 := congrArg Prod.snd e; dsimp only at e2; subst e2)
    | dsimp only
    | split
    | with_reducible apply keeps_fields
    | with_reducible apply keeps_store

theorem State.releaseHeld_keeps {s : State} (g : Nat) (h : s0.Keeps fp s)
    (hm : Sub 0x28555D08C2F fp) :
    s0.Keeps fp (State.releaseHeld s g) := by
  unfold State.releaseHeld
  try dsimp only
  repeat' first
    | with_reducible assumption
    | ((with_reducible refine Sub.bit hm ?_); exact rfl)
    | ((with_reducible refine Sub.mono hm ?_); exact rfl)
    | ((with_reducible refine .inl (Sub.bit hm ?_)); exact rfl)
    | with_reducible exact .inr rfl
    | ((with_reducible refine reg_bit _ (Sub.mono hm ?_)); exact rfl)
    | ((with_reducible refine rej_bit _ (Sub.mono hm ?_)); exact rfl)
    | with_reducible apply keeps_ite
    | with_reducible apply keeps_ite2
    | with_reducible apply keeps_ite3
    | with_reducible refine keeps_foldl _ _ ?_ ?_
    | with_reducible refine keeps_foldl2 _ _ _ ?_ ?_
    | with_reducible refine keeps_foldl3 _ _ _ ?_ ?_
    | with_reducible apply State.setRing_keeps
    | with_reducible apply State.setGrp_keeps
    | with_reducible apply State.handOver_keeps
    | (intro _ _ _)
    | (intro _ _)
    | (intro _)
    | (split; rename_i e; have e3 := congrArg (fun p => p.2.2) e; dsimp only at e3; subst e3)
    | (split; rename_i e; have e2 := congrArg Prod.snd e; dsimp only at e2; subst e2)
    | dsimp only
    | split
    | with_reducible apply keeps_fields
    | with_reducible apply keeps_store

theorem cgMapWrite_keeps (i : Nat) (w : Word) {s : State} (h : s0.Keeps fp s)
    (hm : Sub 0x20001D0000E fp) :
    s0.Keeps fp (cgMapWrite i w s) := by
  unfold cgMapWrite
  try dsimp only
  repeat' first
    | with_reducible assumption
    | ((with_reducible refine Sub.bit hm ?_); exact rfl)
    | ((with_reducible refine Sub.mono hm ?_); exact rfl)
    | with_reducible apply State.wr_keeps
    | with_reducible apply State.settleWaits_keeps
    | dsimp only

end Sys2Proof.Machine
end

