-- ==== Sys2Proof/Laws/KeepsBeams.lean ====
section
/-! SUPPORT. What the operations of Machine/Beams.lean keep, and the parts they may change. -/

namespace Sys2Proof.Machine

variable {fp : Nat} {s0 : State}

theorem State.adoptPl_keeps {s : State} (n : Nat) (h : s0.Keeps fp s)
    (hm : Sub 0x210008000 fp) :
    s0.Keeps fp (State.adoptPl s n) := by
  unfold State.adoptPl
  try dsimp only
  repeat' first
    | with_reducible assumption
    | ((with_reducible refine Sub.bit hm ?_); exact rfl)
    | ((with_reducible refine Sub.mono hm ?_); exact rfl)
    | ((with_reducible refine .inl (Sub.bit hm ?_)); exact rfl)
    | with_reducible exact .inr rfl
    | with_reducible apply keeps_ite
    | with_reducible refine keeps_foldl _ _ ?_ ?_
    | with_reducible refine keeps_foldl2 _ _ _ ?_ ?_
    | with_reducible apply State.wr_keeps
    | with_reducible apply State.setBeam_keeps
    | (intro _ _ _)
    | (intro _ _)
    | (intro _)
    | dsimp only
    | split
    | with_reducible apply keeps_fields
    | with_reducible apply keeps_store

theorem State.ladderStep_keeps {s : State} (n : Nat) (h : s0.Keeps fp s)
    (hm : Sub 0x2000180800C fp) :
    s0.Keeps fp (State.ladderStep s n) := by
  unfold State.ladderStep
  try dsimp only
  repeat' first
    | with_reducible assumption
    | ((with_reducible refine Sub.bit hm ?_); exact rfl)
    | ((with_reducible refine Sub.mono hm ?_); exact rfl)
    | ((with_reducible refine .inl (Sub.bit hm ?_)); exact rfl)
    | with_reducible exact .inr rfl
    | with_reducible apply keeps_ite
    | with_reducible apply State.setDepth_keeps
    | with_reducible apply State.cutLadder_keeps
    | dsimp only
    | split
    | with_reducible apply keeps_fields
    | with_reducible apply keeps_store

theorem State.setVigil_keeps {s : State} (n : Nat) (v : Bool) (h : s0.Keeps fp s)
    (hm : Sub 0x20001800C0D fp) :
    s0.Keeps fp (State.setVigil s n v) := by
  unfold State.setVigil
  try dsimp only
  repeat' first
    | with_reducible assumption
    | ((with_reducible refine Sub.bit hm ?_); exact rfl)
    | ((with_reducible refine Sub.mono hm ?_); exact rfl)
    | with_reducible apply keeps_ite
    | with_reducible apply State.wb_keeps
    | with_reducible apply State.raise_keeps
    | with_reducible apply State.followVigil_keeps
    | dsimp only
    | split

theorem State.recheckQueue_keeps {s : State} (n : Nat) (h : s0.Keeps fp s)
    (hm : Sub 0x2001181000C fp) :
    s0.Keeps fp (State.recheckQueue s n) := by
  unfold State.recheckQueue
  try dsimp only
  repeat' first
    | with_reducible assumption
    | ((with_reducible refine Sub.bit hm ?_); exact rfl)
    | ((with_reducible refine Sub.mono hm ?_); exact rfl)
    | ((with_reducible refine .inl (Sub.bit hm ?_)); exact rfl)
    | with_reducible exact .inr rfl
    | with_reducible refine keeps_foldl _ _ ?_ ?_
    | with_reducible refine keeps_foldl2 _ _ _ ?_ ?_
    | with_reducible apply State.setBeam_keeps
    | with_reducible apply State.lateEntry_keeps
    | with_reducible apply State.rejectEntry_keeps
    | (intro _ _ _)
    | (intro _ _)
    | (intro _)
    | dsimp only
    | with_reducible apply keeps_fields
    | with_reducible apply keeps_store

theorem State.planFrame_keeps {s : State} (n : Nat) (h : s0.Keeps fp s)
    (hm : Sub 0x10000800 fp) :
    s0.Keeps fp (State.planFrame s n) := by
  unfold State.planFrame
  try dsimp only
  repeat' first
    | with_reducible assumption
    | ((with_reducible refine Sub.bit hm ?_); exact rfl)
    | ((with_reducible refine Sub.mono hm ?_); exact rfl)
    | ((with_reducible refine .inl (Sub.bit hm ?_)); exact rfl)
    | with_reducible exact .inr rfl
    | with_reducible apply keeps_ite
    | with_reducible apply State.wb_keeps
    | with_reducible apply State.bump_keeps
    | with_reducible apply State.setBeam_keeps
    | dsimp only
    | split
    | with_reducible apply keeps_fields
    | with_reducible apply keeps_store

theorem State.startPass_keeps {s : State} (n : Nat) (h : s0.Keeps fp s)
    (hm : Sub 0x30000000 fp) :
    s0.Keeps fp (State.startPass s n) := by
  unfold State.startPass
  try dsimp only
  repeat' first
    | with_reducible assumption
    | ((with_reducible refine Sub.bit hm ?_); exact rfl)
    | ((with_reducible refine Sub.mono hm ?_); exact rfl)
    | ((with_reducible refine .inl (Sub.bit hm ?_)); exact rfl)
    | with_reducible exact .inr rfl
    | with_reducible apply keeps_ite
    | with_reducible apply State.setBeam_keeps
    | (intro _ _ _)
    | (intro _ _)
    | (intro _)
    | dsimp only
    | split
    | with_reducible apply keeps_fields
    | with_reducible apply keeps_store

theorem State.takeReady_keeps {s : State} (n : Nat) (h : s0.Keeps fp s)
    (hm : Sub 0x28555D0082F fp) :
    s0.Keeps fp (State.takeReady s n).2 := by
  unfold State.takeReady
  try dsimp only
  repeat' first
    | with_reducible assumption
    | ((with_reducible refine Sub.bit hm ?_); exact rfl)
    | ((with_reducible refine Sub.mono hm ?_); exact rfl)
    | ((with_reducible refine .inl (Sub.bit hm ?_)); exact rfl)
    | with_reducible exact .inr rfl
    | with_reducible apply keeps_ite
    | with_reducible apply keeps_ite2
    | with_reducible apply State.applyRoute_keeps
    | with_reducible apply State.adopt_keeps
    | dsimp only
    | split
    | with_reducible apply keeps_fields
    | with_reducible apply keeps_store

theorem State.calends_keeps {s : State} (n : Nat) (h : s0.Keeps fp s)
    (hm : Sub 0x28775D1AC2F fp) :
    s0.Keeps fp (State.calends s n) := by
  unfold State.calends
  try dsimp only
  repeat' first
    | with_reducible assumption
    | ((with_reducible refine Sub.bit hm ?_); exact rfl)
    | ((with_reducible refine Sub.mono hm ?_); exact rfl)
    | ((with_reducible refine .inl (Sub.bit hm ?_)); exact rfl)
    | with_reducible exact .inr rfl
    | with_reducible apply keeps_ite
    | with_reducible apply State.wb_keeps
    | with_reducible apply State.bump_keeps
    | with_reducible apply State.stamp_keeps
    | with_reducible apply State.raise_keeps
    | with_reducible apply State.setBeam_keeps
    | with_reducible apply State.beginLine_keeps
    | with_reducible apply State.cutLadder_keeps
    | with_reducible apply State.adoptPl_keeps
    | with_reducible apply State.ladderStep_keeps
    | with_reducible apply State.setVigil_keeps
    | with_reducible apply State.recheckQueue_keeps
    | with_reducible apply State.startPass_keeps
    | with_reducible apply State.takeReady_keeps
    | (split; rename_i e; have e3 := congrArg (fun p => p.2.2) e; dsimp only at e3; subst e3)
    | (split; rename_i e; have e2 := congrArg Prod.snd e; dsimp only at e2; subst e2)
    | dsimp only
    | split
    | with_reducible apply keeps_fields
    | with_reducible apply keeps_store

theorem State.takeReference_keeps {s : State} (n : Nat) (t : Nat) (h : s0.Keeps fp s)
    (hm : Sub 0x2001180080C fp) :
    s0.Keeps fp (State.takeReference s n t) := by
  unfold State.takeReference
  try dsimp only
  repeat' first
    | with_reducible assumption
    | ((with_reducible refine Sub.bit hm ?_); exact rfl)
    | ((with_reducible refine Sub.mono hm ?_); exact rfl)
    | ((with_reducible refine .inl (Sub.bit hm ?_)); exact rfl)
    | with_reducible exact .inr rfl
    | with_reducible apply bit_ite
    | with_reducible apply keeps_ite
    | with_reducible apply State.wr_keeps
    | with_reducible apply State.fresh_keeps
    | with_reducible apply State.setBeam_keeps
    | with_reducible apply State.setLock_keeps
    | (split; rename_i e; have e3 := congrArg (fun p => p.2.2) e; dsimp only at e3; subst e3)
    | (split; rename_i e; have e2 := congrArg Prod.snd e; dsimp only at e2; subst e2)
    | dsimp only
    | split
    | with_reducible apply keeps_fields
    | with_reducible apply keeps_store

theorem State.reference_keeps {s : State} (src : Nat) (ix : Nat) (t : Nat) (n : Nat) (h : s0.Keeps fp s)
    (hm : Sub 0x2001180080C fp) :
    s0.Keeps fp (State.reference s src ix t n) := by
  unfold State.reference
  try dsimp only
  repeat' first
    | with_reducible assumption
    | ((with_reducible refine Sub.bit hm ?_); exact rfl)
    | ((with_reducible refine Sub.mono hm ?_); exact rfl)
    | ((with_reducible refine .inl (Sub.bit hm ?_)); exact rfl)
    | with_reducible exact .inr rfl
    | with_reducible apply keeps_ite
    | with_reducible apply State.setBeam_keeps
    | with_reducible apply State.setLock_keeps
    | with_reducible apply State.takeReference_keeps
    | dsimp only
    | split
    | with_reducible apply keeps_fields
    | with_reducible apply keeps_store

theorem State.references_keeps {s : State} (src : Nat) (ix : Nat) (t : Nat) (h : s0.Keeps fp s)
    (hm : Sub 0x2001180080C fp) :
    s0.Keeps fp (State.references s src ix t) := by
  unfold State.references
  try dsimp only
  repeat' first
    | with_reducible assumption
    | ((with_reducible refine Sub.bit hm ?_); exact rfl)
    | ((with_reducible refine Sub.mono hm ?_); exact rfl)
    | with_reducible refine keeps_foldl _ _ ?_ ?_
    | with_reducible refine keeps_foldl2 _ _ _ ?_ ?_
    | with_reducible apply State.reference_keeps
    | (intro _ _ _)
    | (intro _ _)
    | (intro _)
    | dsimp only

theorem State.holdover_keeps {s : State} (n : Nat) (h : s0.Keeps fp s)
    (hm : Sub 0x2001180080C fp) :
    s0.Keeps fp (State.holdover s n) := by
  unfold State.holdover
  try dsimp only
  repeat' first
    | with_reducible assumption
    | ((with_reducible refine Sub.bit hm ?_); exact rfl)
    | ((with_reducible refine Sub.mono hm ?_); exact rfl)
    | ((with_reducible refine .inl (Sub.bit hm ?_)); exact rfl)
    | with_reducible exact .inr rfl
    | with_reducible apply keeps_ite
    | with_reducible apply State.wb_keeps
    | with_reducible apply State.setBeam_keeps
    | with_reducible apply State.setLock_keeps
    | dsimp only
    | split
    | with_reducible apply keeps_fields
    | with_reducible apply keeps_store

theorem State.dropDependents_keeps {s : State} (n : Nat) (h : s0.Keeps fp s)
    (hm : Sub 0x2001180080C fp) :
    s0.Keeps fp (State.dropDependents s n) := by
  unfold State.dropDependents
  try dsimp only
  repeat' first
    | with_reducible assumption
    | ((with_reducible refine Sub.bit hm ?_); exact rfl)
    | ((with_reducible refine Sub.mono hm ?_); exact rfl)
    | with_reducible apply keeps_ite
    | with_reducible refine keeps_foldl _ _ ?_ ?_
    | with_reducible refine keeps_foldl2 _ _ _ ?_ ?_
    | with_reducible apply State.holdover_keeps
    | (intro _ _ _)
    | (intro _ _)
    | (intro _)
    | dsimp only
    | split

theorem State.setAudLock_keeps {s : State} (st : Nat) (h : s0.Keeps fp s)
    (hm : Sub 0x2000180020C fp) :
    s0.Keeps fp (State.setAudLock s st) := by
  unfold State.setAudLock
  try dsimp only
  repeat' first
    | with_reducible assumption
    | ((with_reducible refine Sub.bit hm ?_); exact rfl)
    | ((with_reducible refine Sub.mono hm ?_); exact rfl)
    | with_reducible apply keeps_ite
    | with_reducible apply State.wf_keeps
    | with_reducible apply State.raise_keeps
    | dsimp only
    | split

theorem State.audSourceStops_keeps {s : State} (n : Nat) (h : s0.Keeps fp s)
    (hm : Sub 0x2000180020C fp) :
    s0.Keeps fp (State.audSourceStops s n) := by
  unfold State.audSourceStops
  try dsimp only
  repeat' first
    | with_reducible assumption
    | ((with_reducible refine Sub.bit hm ?_); exact rfl)
    | ((with_reducible refine Sub.mono hm ?_); exact rfl)
    | ((with_reducible refine .inl (Sub.bit hm ?_)); exact rfl)
    | with_reducible exact .inr rfl
    | with_reducible apply keeps_ite
    | with_reducible apply State.setAudLock_keeps
    | dsimp only
    | split
    | with_reducible apply keeps_fields
    | with_reducible apply keeps_store

theorem State.stopWaits_keeps {s : State} (n : Nat) (h : s0.Keeps fp s)
    (hm : Sub 0x20001C0000E fp) :
    s0.Keeps fp (State.stopWaits s n) := by
  unfold State.stopWaits
  try dsimp only
  repeat' first
    | with_reducible assumption
    | ((with_reducible refine Sub.bit hm ?_); exact rfl)
    | ((with_reducible refine Sub.mono hm ?_); exact rfl)
    | ((with_reducible refine .inl (Sub.bit hm ?_)); exact rfl)
    | with_reducible exact .inr rfl
    | with_reducible apply keeps_ite
    | with_reducible refine keeps_foldl _ _ ?_ ?_
    | with_reducible refine keeps_foldl2 _ _ _ ?_ ?_
    | with_reducible apply State.setRing_keeps
    | with_reducible apply State.finish_keeps
    | (intro _ _ _)
    | (intro _ _)
    | (intro _)
    | dsimp only
    | split
    | with_reducible apply keeps_fields
    | with_reducible apply keeps_store

theorem State.stopBeam_keeps {s : State} (n : Nat) (h : s0.Keeps fp s)
    (hm : Sub 0x28011C00E2F fp) :
    s0.Keeps fp (State.stopBeam s n) := by
  unfold State.stopBeam
  try dsimp only
  repeat' first
    | with_reducible assumption
    | ((with_reducible refine Sub.bit hm ?_); exact rfl)
    | ((with_reducible refine Sub.mono hm ?_); exact rfl)
    | ((with_reducible refine .inl (Sub.bit hm ?_)); exact rfl)
    | with_reducible exact .inr rfl
    | with_reducible apply State.wb_keeps
    | with_reducible apply State.setBeam_keeps
    | with_reducible apply State.followVigil_keeps
    | with_reducible apply State.railsSettle_keeps
    | with_reducible apply State.setLock_keeps
    | with_reducible apply State.dropDependents_keeps
    | with_reducible apply State.audSourceStops_keeps
    | with_reducible apply State.stopWaits_keeps
    | dsimp only
    | with_reducible apply keeps_fields
    | with_reducible apply keeps_store

theorem State.settleStopped_keeps {s : State} (n : Nat) (h : s0.Keeps fp s)
    (hm : Sub 0x28755D08C2F fp) :
    s0.Keeps fp (State.settleStopped s n) := by
  unfold State.settleStopped
  try dsimp only
  repeat' first
    | with_reducible assumption
    | ((with_reducible refine Sub.bit hm ?_); exact rfl)
    | ((with_reducible refine Sub.mono hm ?_); exact rfl)
    | ((with_reducible refine .inl (Sub.bit hm ?_)); exact rfl)
    | with_reducible exact .inr rfl
    | with_reducible apply State.stoppedAdopt_keeps
    | with_reducible apply State.adoptPl_keeps
    | dsimp only
    | split
    | with_reducible apply keeps_fields
    | with_reducible apply keeps_store

theorem State.countFrame_keeps {s : State} (n : Nat) (h : s0.Keeps fp s)
    (hm : Sub 0x800 fp) :
    s0.Keeps fp (State.countFrame s n) := by
  unfold State.countFrame
  try dsimp only
  repeat' first
    | with_reducible assumption
    | ((with_reducible refine Sub.bit hm ?_); exact rfl)
    | ((with_reducible refine Sub.mono hm ?_); exact rfl)
    | ((with_reducible refine .inl (Sub.bit hm ?_)); exact rfl)
    | with_reducible exact .inr rfl
    | with_reducible apply keeps_ite
    | with_reducible apply State.wr_keeps
    | with_reducible apply State.wf_keeps
    | with_reducible apply State.wb_keeps
    | dsimp only
    | split
    | with_reducible apply keeps_fields
    | with_reducible apply keeps_store

theorem State.frameTaken_keeps {s : State} (n : Nat) (h : s0.Keeps fp s)
    (hm : Sub 0x10000800 fp) :
    s0.Keeps fp (State.frameTaken s n) := by
  unfold State.frameTaken
  try dsimp only
  repeat' first
    | with_reducible assumption
    | ((with_reducible refine Sub.bit hm ?_); exact rfl)
    | ((with_reducible refine Sub.mono hm ?_); exact rfl)
    | ((with_reducible refine .inl (Sub.bit hm ?_)); exact rfl)
    | with_reducible exact .inr rfl
    | with_reducible apply keeps_ite
    | with_reducible apply State.setBeam_keeps
    | with_reducible apply State.planFrame_keeps
    | with_reducible apply State.countFrame_keeps
    | dsimp only
    | split
    | with_reducible apply keeps_fields
    | with_reducible apply keeps_store

theorem State.frameStart_keeps {s : State} (n : Nat) (h : s0.Keeps fp s)
    (hm : Sub 0x2841180282D fp) :
    s0.Keeps fp (State.frameStart s n) := by
  unfold State.frameStart
  try dsimp only
  repeat' first
    | with_reducible assumption
    | ((with_reducible refine Sub.bit hm ?_); exact rfl)
    | ((with_reducible refine Sub.mono hm ?_); exact rfl)
    | ((with_reducible refine .inl (Sub.bit hm ?_)); exact rfl)
    | with_reducible exact .inr rfl
    | with_reducible apply keeps_ite
    | with_reducible apply State.wr_keeps
    | with_reducible apply State.bump_keeps
    | with_reducible apply State.raise_keeps
    | with_reducible apply State.railsSettle_keeps
    | with_reducible apply State.raiseAll_keeps
    | with_reducible apply State.references_keeps
    | with_reducible apply State.frameTaken_keeps
    | dsimp only
    | split
    | with_reducible apply keeps_fields
    | with_reducible apply keeps_store

theorem frameLoRead_keeps (n : Nat) {s : State} (h : s0.Keeps fp s)
    (hm : Sub 0x10000000 fp) :
    s0.Keeps fp (frameLoRead n s).2 := by
  unfold frameLoRead
  try dsimp only
  repeat' first
    | with_reducible assumption
    | ((with_reducible refine Sub.bit hm ?_); exact rfl)
    | ((with_reducible refine Sub.mono hm ?_); exact rfl)
    | ((with_reducible refine .inl (Sub.bit hm ?_)); exact rfl)
    | with_reducible exact .inr rfl
    | with_reducible apply State.setBeam_keeps
    | dsimp only
    | with_reducible apply keeps_fields
    | with_reducible apply keeps_store

theorem frameHiRead_keeps (n : Nat) {s : State} (h : s0.Keeps fp s)
    (hm : Sub 0x10000000 fp) :
    s0.Keeps fp (frameHiRead n s).2 := by
  unfold frameHiRead
  try dsimp only
  repeat' first
    | with_reducible assumption
    | ((with_reducible refine Sub.bit hm ?_); exact rfl)
    | ((with_reducible refine Sub.mono hm ?_); exact rfl)
    | ((with_reducible refine .inl (Sub.bit hm ?_)); exact rfl)
    | with_reducible exact .inr rfl
    | with_reducible apply State.setBeam_keeps
    | dsimp only
    | split
    | with_reducible apply keeps_fields
    | with_reducible apply keeps_store

end Sys2Proof.Machine
end

