-- ==== Sys2Proof/Laws/KeepsObjOps.lean ====
section
/-! SUPPORT. What the operations of Machine/ObjOps.lean keep, and the parts they may change. -/

namespace Sys2Proof.Machine

variable {fp : Nat} {s0 : State}

theorem oatWrite_keeps (desc : Bool) (i : Nat) (j : Nat) (w : Word) {s : State} (h : s0.Keeps fp s)
    (hm : Sub 0x100042001 fp) :
    s0.Keeps fp (oatWrite desc i j w s).2 := by
  unfold oatWrite
  try dsimp only
  repeat' first
    | with_reducible assumption
    | ((with_reducible refine Sub.bit hm ?_); exact rfl)
    | ((with_reducible refine Sub.mono hm ?_); exact rfl)
    | ((with_reducible refine .inl (Sub.bit hm ?_)); exact rfl)
    | with_reducible exact .inr rfl
    | with_reducible apply bit_ite
    | ((with_reducible refine rej_parts _ (Sub.mono hm ?_)); exact rfl)
    | with_reducible apply keeps_ite
    | with_reducible apply keeps_ite2
    | with_reducible apply State.wr_keeps
    | with_reducible apply State.wb_keeps
    | with_reducible apply State.rejectAt_keeps
    | with_reducible apply State.reject_keeps
    | dsimp only
    | split
    | with_reducible apply keeps_fields
    | with_reducible apply keeps_store

theorem State.takeOwn_keeps {s : State} (k : Nat) (h : s0.Keeps fp s)
    (hm : Sub 0x20000000 fp) :
    s0.Keeps fp (State.takeOwn s k) := by
  unfold State.takeOwn
  try dsimp only
  repeat' first
    | with_reducible assumption
    | ((with_reducible refine Sub.bit hm ?_); exact rfl)
    | ((with_reducible refine Sub.mono hm ?_); exact rfl)
    | ((with_reducible refine .inl (Sub.bit hm ?_)); exact rfl)
    | with_reducible exact .inr rfl
    | dsimp only
    | split
    | with_reducible apply keeps_fields
    | with_reducible apply keeps_store

theorem State.takeOther_keeps {s : State} (k : Nat) (h : s0.Keeps fp s)
    (hm : Sub 0x20002000 fp) :
    s0.Keeps fp (State.takeOther s k) := by
  unfold State.takeOther
  try dsimp only
  repeat' first
    | with_reducible assumption
    | ((with_reducible refine Sub.bit hm ?_); exact rfl)
    | ((with_reducible refine Sub.mono hm ?_); exact rfl)
    | ((with_reducible refine .inl (Sub.bit hm ?_)); exact rfl)
    | with_reducible exact .inr rfl
    | with_reducible apply State.bump_keeps
    | dsimp only
    | split
    | with_reducible apply keeps_fields
    | with_reducible apply keeps_store

theorem State.dealWork_keeps {s : State} (h : s0.Keeps fp s)
    (hm : Sub 0x20002000 fp) :
    s0.Keeps fp (State.dealWork s) := by
  unfold State.dealWork
  try dsimp only
  repeat' first
    | with_reducible assumption
    | ((with_reducible refine Sub.bit hm ?_); exact rfl)
    | ((with_reducible refine Sub.mono hm ?_); exact rfl)
    | ((with_reducible refine .inl (Sub.bit hm ?_)); exact rfl)
    | with_reducible exact .inr rfl
    | with_reducible refine keeps_foldl _ _ ?_ ?_
    | with_reducible refine keeps_foldl2 _ _ _ ?_ ?_
    | with_reducible apply State.takeOwn_keeps
    | with_reducible apply State.takeOther_keeps
    | (intro _ _ _)
    | (intro _ _)
    | (intro _)
    | dsimp only
    | with_reducible apply keeps_fields
    | with_reducible apply keeps_store

theorem State.endSort_keeps {s : State} (n : Nat) (h : s0.Keeps fp s)
    (hm : Sub 0x2003D80200D fp) :
    s0.Keeps fp (State.endSort s n) := by
  unfold State.endSort
  try dsimp only
  repeat' first
    | with_reducible assumption
    | ((with_reducible refine Sub.bit hm ?_); exact rfl)
    | ((with_reducible refine Sub.mono hm ?_); exact rfl)
    | ((with_reducible refine .inl (Sub.bit hm ?_)); exact rfl)
    | with_reducible exact .inr rfl
    | with_reducible refine keeps_foldl _ _ ?_ ?_
    | with_reducible refine keeps_foldl2 _ _ _ ?_ ?_
    | with_reducible apply State.bump_keeps
    | with_reducible apply State.setBeam_keeps
    | with_reducible apply sortRead_keeps
    | with_reducible apply State.dealWork_keeps
    | (intro _ _ _)
    | (intro _ _)
    | (intro _)
    | (split; rename_i e; have e3 := congrArg (fun p => p.2.2) e; dsimp only at e3; subst e3)
    | (split; rename_i e; have e2 := congrArg Prod.snd e; dsimp only at e2; subst e2)
    | dsimp only
    | split
    | with_reducible apply keeps_fields
    | with_reducible apply keeps_store

theorem State.bandComplete_keeps {s : State} (k : Nat) (h : s0.Keeps fp s)
    (hm : Sub 0x30002000 fp) :
    s0.Keeps fp (State.bandComplete s k) := by
  unfold State.bandComplete
  try dsimp only
  repeat' first
    | with_reducible assumption
    | ((with_reducible refine Sub.bit hm ?_); exact rfl)
    | ((with_reducible refine Sub.mono hm ?_); exact rfl)
    | ((with_reducible refine .inl (Sub.bit hm ?_)); exact rfl)
    | with_reducible exact .inr rfl
    | with_reducible apply keeps_ite
    | with_reducible apply State.bump_keeps
    | with_reducible apply State.setBeam_keeps
    | with_reducible apply State.dealWork_keeps
    | dsimp only
    | split
    | with_reducible apply keeps_fields
    | with_reducible apply keeps_store

theorem peakClear_keeps (n : Nat) {s : State} (h : s0.Keeps fp s)
    (hm : Sub 0x2000 fp) :
    s0.Keeps fp (peakClear n s) := by
  unfold peakClear
  try dsimp only
  repeat' first
    | with_reducible assumption
    | ((with_reducible refine Sub.bit hm ?_); exact rfl)
    | ((with_reducible refine Sub.mono hm ?_); exact rfl)
    | with_reducible apply State.wf_keeps
    | dsimp only

theorem State.importMissing_keeps {s : State} (n : Nat) (k : Nat) (h : s0.Keeps fp s)
    (hm : Sub 0x2001180400C fp) :
    s0.Keeps fp (State.importMissing s n k) := by
  unfold State.importMissing
  try dsimp only
  repeat' first
    | with_reducible assumption
    | ((with_reducible refine Sub.bit hm ?_); exact rfl)
    | ((with_reducible refine Sub.mono hm ?_); exact rfl)
    | ((with_reducible refine .inl (Sub.bit hm ?_)); exact rfl)
    | with_reducible exact .inr rfl
    | with_reducible apply keeps_ite
    | with_reducible apply State.bump_keeps
    | with_reducible apply State.raise_keeps
    | with_reducible apply State.setBeam_keeps
    | dsimp only
    | split
    | with_reducible apply keeps_fields
    | with_reducible apply keeps_store

end Sys2Proof.Machine
end

