-- ==== Sys2Proof/Laws/KeepsPlEngine.lean ====
section
/-! SUPPORT. What the operations of Machine/PlEngine.lean keep, and the parts they may change. -/

namespace Sys2Proof.Machine

variable {fp : Nat} {s0 : State}

theorem State.pleEnd_keeps {s : State} (result : Nat) (h : s0.Keeps fp s)
    (hm : Sub 0x2020180800C fp) :
    s0.Keeps fp (State.pleEnd s result) := by
  unfold State.pleEnd
  try dsimp only
  repeat' first
    | with_reducible assumption
    | ((with_reducible refine Sub.bit hm ?_); exact rfl)
    | ((with_reducible refine Sub.mono hm ?_); exact rfl)
    | ((with_reducible refine .inl (Sub.bit hm ?_)); exact rfl)
    | with_reducible exact .inr rfl
    | with_reducible apply State.wf_keeps
    | with_reducible apply State.raise_keeps
    | dsimp only
    | with_reducible apply keeps_fields
    | with_reducible apply keeps_store

theorem State.pleFetch_keeps {s : State} (h : s0.Keeps fp s)
    (hm : Sub 0x20000008000 fp) :
    s0.Keeps fp (State.pleFetch s) := by
  unfold State.pleFetch
  try dsimp only
  repeat' first
    | with_reducible assumption
    | ((with_reducible refine Sub.bit hm ?_); exact rfl)
    | ((with_reducible refine Sub.mono hm ?_); exact rfl)
    | with_reducible apply State.wf_keeps
    | with_reducible apply State.askHost_keeps
    | dsimp only

theorem pleGo_keeps (n : Nat) {s : State} (h : s0.Keeps fp s)
    (hm : Sub 0x20000008800 fp) :
    s0.Keeps fp (pleGo n s) := by
  unfold pleGo
  try dsimp only
  repeat' first
    | with_reducible assumption
    | ((with_reducible refine Sub.bit hm ?_); exact rfl)
    | ((with_reducible refine Sub.mono hm ?_); exact rfl)
    | with_reducible apply keeps_ite
    | with_reducible apply State.wr_keeps
    | with_reducible apply State.wf_keeps
    | with_reducible apply State.pleFetch_keeps
    | dsimp only
    | split

theorem State.pleWake_keeps {s : State} (h : s0.Keeps fp s)
    (hm : Sub 0x20000008000 fp) :
    s0.Keeps fp (State.pleWake s) := by
  unfold State.pleWake
  try dsimp only
  repeat' first
    | with_reducible assumption
    | ((with_reducible refine Sub.bit hm ?_); exact rfl)
    | ((with_reducible refine Sub.mono hm ?_); exact rfl)
    | with_reducible apply keeps_ite
    | with_reducible apply State.pleFetch_keeps
    | dsimp only
    | split

theorem pleFetched_keeps (pkg : Option (List Byte)) {s : State} (h : s0.Keeps fp s)
    (hm : Sub 0x2020180800C fp) :
    s0.Keeps fp (pleFetched pkg s) := by
  unfold pleFetched
  try dsimp only
  repeat' first
    | with_reducible assumption
    | ((with_reducible refine Sub.bit hm ?_); exact rfl)
    | ((with_reducible refine Sub.mono hm ?_); exact rfl)
    | ((with_reducible refine .inl (Sub.bit hm ?_)); exact rfl)
    | with_reducible exact .inr rfl
    | with_reducible apply bit_ite
    | with_reducible apply keeps_ite
    | with_reducible apply State.wf_keeps
    | with_reducible apply State.pleEnd_keeps
    | dsimp only
    | split
    | with_reducible apply keeps_fields
    | with_reducible apply keeps_store

theorem State.pleAccept_keeps {s : State} (p : List Byte) (h : s0.Keeps fp s)
    (hm : Sub 0x200008000 fp) :
    s0.Keeps fp (State.pleAccept s p) := by
  unfold State.pleAccept
  try dsimp only
  repeat' first
    | with_reducible assumption
    | ((with_reducible refine Sub.bit hm ?_); exact rfl)
    | ((with_reducible refine Sub.mono hm ?_); exact rfl)
    | ((with_reducible refine .inl (Sub.bit hm ?_)); exact rfl)
    | with_reducible exact .inr rfl
    | ((with_reducible refine reg_bit _ (Sub.mono hm ?_)); exact rfl)
    | ((with_reducible refine rej_bit _ (Sub.mono hm ?_)); exact rfl)
    | with_reducible apply keeps_ite
    | with_reducible apply State.wr_keeps
    | with_reducible apply State.wf_keeps
    | (intro _ _ _)
    | (intro _ _)
    | (intro _)
    | dsimp only
    | split
    | with_reducible apply keeps_fields
    | with_reducible apply keeps_store

theorem pleVerified_keeps {s : State} (h : s0.Keeps fp s)
    (hm : Sub 0x2020180800C fp) :
    s0.Keeps fp (pleVerified s) := by
  unfold pleVerified
  try dsimp only
  repeat' first
    | with_reducible assumption
    | ((with_reducible refine Sub.bit hm ?_); exact rfl)
    | ((with_reducible refine Sub.mono hm ?_); exact rfl)
    | ((with_reducible refine .inl (Sub.bit hm ?_)); exact rfl)
    | with_reducible exact .inr rfl
    | with_reducible apply keeps_ite
    | with_reducible apply State.fresh_keeps
    | with_reducible apply State.pleEnd_keeps
    | with_reducible apply State.pleAccept_keeps
    | (split; rename_i e; have e3 := congrArg (fun p => p.2.2) e; dsimp only at e3; subst e3)
    | (split; rename_i e; have e2 := congrArg Prod.snd e; dsimp only at e2; subst e2)
    | dsimp only
    | split
    | with_reducible apply keeps_fields
    | with_reducible apply keeps_store

theorem pleWritten_keeps {s : State} (h : s0.Keeps fp s)
    (hm : Sub 0x2020380000D fp) :
    s0.Keeps fp (pleWritten s) := by
  unfold pleWritten
  try dsimp only
  repeat' first
    | with_reducible assumption
    | ((with_reducible refine Sub.bit hm ?_); exact rfl)
    | ((with_reducible refine Sub.mono hm ?_); exact rfl)
    | ((with_reducible refine .inl (Sub.bit hm ?_)); exact rfl)
    | with_reducible exact .inr rfl
    | with_reducible apply keeps_ite
    | with_reducible apply State.psWrite_keeps
    | dsimp only
    | split
    | with_reducible apply keeps_fields
    | with_reducible apply keeps_store

theorem bankArrival_keeps {s : State} (h : s0.Keeps fp s)
    (hm : Sub 0x2021180800C fp) :
    s0.Keeps fp (bankArrival s) := by
  unfold bankArrival
  try dsimp only
  repeat' first
    | with_reducible assumption
    | ((with_reducible refine Sub.bit hm ?_); exact rfl)
    | ((with_reducible refine Sub.mono hm ?_); exact rfl)
    | ((with_reducible refine .inl (Sub.bit hm ?_)); exact rfl)
    | with_reducible exact .inr rfl
    | with_reducible apply keeps_ite
    | with_reducible refine keeps_foldl _ _ ?_ ?_
    | with_reducible refine keeps_foldl2 _ _ _ ?_ ?_
    | with_reducible apply State.setBeam_keeps
    | with_reducible apply State.adoptPl_keeps
    | with_reducible apply State.pleEnd_keeps
    | (intro _ _ _)
    | (intro _ _)
    | (intro _)
    | dsimp only
    | split
    | with_reducible apply keeps_fields
    | with_reducible apply keeps_store

end Sys2Proof.Machine
end

