-- ==== Sys2Proof/Laws/KeepsLinkRx.lean ====
section
/-! SUPPORT. What the operations of Machine/LinkRx.lean keep, and the parts they may change. -/

namespace Sys2Proof.Machine

variable {fp : Nat} {s0 : State}

theorem State.setPortState_keeps {s : State} (p : Nat) (st : Nat) (h : s0.Keeps fp s)
    (hm : Sub 0x400 fp) :
    s0.Keeps fp (State.setPortState s p st) := by
  unfold State.setPortState
  try dsimp only
  repeat' first
    | with_reducible assumption
    | ((with_reducible refine Sub.bit hm ?_); exact rfl)
    | ((with_reducible refine Sub.mono hm ?_); exact rfl)
    | with_reducible apply State.wf_keeps
    | dsimp only

theorem State.noMode_keeps {s : State} (p : Nat) (h : s0.Keeps fp s)
    (hm : Sub 0x400 fp) :
    s0.Keeps fp (State.noMode s p) := by
  unfold State.noMode
  try dsimp only
  repeat' first
    | with_reducible assumption
    | ((with_reducible refine Sub.bit hm ?_); exact rfl)
    | ((with_reducible refine Sub.mono hm ?_); exact rfl)
    | with_reducible apply State.wf_keeps
    | dsimp only

theorem State.exitActive_keeps {s : State} (p : Nat) (h : s0.Keeps fp s)
    (hm : Sub 0x2000180000C fp) :
    s0.Keeps fp (State.exitActive s p) := by
  unfold State.exitActive
  try dsimp only
  repeat' first
    | with_reducible assumption
    | ((with_reducible refine Sub.bit hm ?_); exact rfl)
    | ((with_reducible refine Sub.mono hm ?_); exact rfl)
    | with_reducible apply keeps_ite
    | with_reducible apply State.raise_keeps
    | dsimp only
    | split

theorem State.trainAt_keeps {s : State} (p : Nat) (rate : Nat) (h : s0.Keeps fp s)
    (hm : Sub 0x400000400 fp) :
    s0.Keeps fp (State.trainAt s p rate) := by
  unfold State.trainAt
  try dsimp only
  repeat' first
    | with_reducible assumption
    | ((with_reducible refine Sub.bit hm ?_); exact rfl)
    | ((with_reducible refine Sub.mono hm ?_); exact rfl)
    | ((with_reducible refine .inl (Sub.bit hm ?_)); exact rfl)
    | with_reducible exact .inr rfl
    | with_reducible apply State.wr_keeps
    | with_reducible apply State.setPort_keeps
    | dsimp only
    | with_reducible apply keeps_fields
    | with_reducible apply keeps_store

theorem State.enterBase_keeps {s : State} (p : Nat) (h : s0.Keeps fp s)
    (hm : Sub 0x400000400 fp) :
    s0.Keeps fp (State.enterBase s p) := by
  unfold State.enterBase
  try dsimp only
  repeat' first
    | with_reducible assumption
    | ((with_reducible refine Sub.bit hm ?_); exact rfl)
    | ((with_reducible refine Sub.mono hm ?_); exact rfl)
    | ((with_reducible refine .inl (Sub.bit hm ?_)); exact rfl)
    | with_reducible exact .inr rfl
    | with_reducible apply State.setPort_keeps
    | with_reducible apply State.setPortState_keeps
    | with_reducible apply State.noMode_keeps
    | with_reducible apply State.trainAt_keeps
    | dsimp only
    | with_reducible apply keeps_fields
    | with_reducible apply keeps_store

theorem State.failPort_keeps {s : State} (p : Nat) (h : s0.Keeps fp s)
    (hm : Sub 0x400000400 fp) :
    s0.Keeps fp (State.failPort s p) := by
  unfold State.failPort
  try dsimp only
  repeat' first
    | with_reducible assumption
    | ((with_reducible refine Sub.bit hm ?_); exact rfl)
    | ((with_reducible refine Sub.mono hm ?_); exact rfl)
    | ((with_reducible refine .inl (Sub.bit hm ?_)); exact rfl)
    | with_reducible exact .inr rfl
    | with_reducible apply State.wf_keeps
    | with_reducible apply State.setPort_keeps
    | with_reducible apply State.setPortState_keeps
    | with_reducible apply State.noMode_keeps
    | dsimp only
    | with_reducible apply keeps_fields
    | with_reducible apply keeps_store

theorem State.renegotiate_keeps {s : State} (p : Nat) (cause : Nat) (h : s0.Keeps fp s)
    (hm : Sub 0x2040180040C fp) :
    s0.Keeps fp (State.renegotiate s p cause) := by
  unfold State.renegotiate
  try dsimp only
  repeat' first
    | with_reducible assumption
    | ((with_reducible refine Sub.bit hm ?_); exact rfl)
    | ((with_reducible refine Sub.mono hm ?_); exact rfl)
    | ((with_reducible refine .inl (Sub.bit hm ?_)); exact rfl)
    | with_reducible exact .inr rfl
    | with_reducible apply keeps_ite
    | with_reducible apply State.wf_keeps
    | with_reducible apply State.portCount_keeps
    | with_reducible apply State.exitActive_keeps
    | with_reducible apply State.enterBase_keeps
    | dsimp only
    | split
    | with_reducible apply keeps_fields
    | with_reducible apply keeps_store

theorem State.disablePort_keeps {s : State} (p : Nat) (h : s0.Keeps fp s)
    (hm : Sub 0x2040180040C fp) :
    s0.Keeps fp (State.disablePort s p) := by
  unfold State.disablePort
  try dsimp only
  repeat' first
    | with_reducible assumption
    | ((with_reducible refine Sub.bit hm ?_); exact rfl)
    | ((with_reducible refine Sub.mono hm ?_); exact rfl)
    | ((with_reducible refine .inl (Sub.bit hm ?_)); exact rfl)
    | with_reducible exact .inr rfl
    | with_reducible apply State.setPort_keeps
    | with_reducible apply State.setPortState_keeps
    | with_reducible apply State.noMode_keeps
    | with_reducible apply State.exitActive_keeps
    | dsimp only
    | with_reducible apply keeps_fields
    | with_reducible apply keeps_store

theorem State.startPort_keeps {s : State} (p : Nat) (h : s0.Keeps fp s)
    (hm : Sub 0x400000400 fp) :
    s0.Keeps fp (State.startPort s p) := by
  unfold State.startPort
  try dsimp only
  repeat' first
    | with_reducible assumption
    | ((with_reducible refine Sub.bit hm ?_); exact rfl)
    | ((with_reducible refine Sub.mono hm ?_); exact rfl)
    | with_reducible apply keeps_ite
    | with_reducible apply State.enterBase_keeps
    | dsimp only
    | split

theorem lnkCtrlWrite_keeps (p : Nat) (w : Word) {s : State} (h : s0.Keeps fp s)
    (hm : Sub 0x2040180040C fp) :
    s0.Keeps fp (lnkCtrlWrite p w s) := by
  unfold lnkCtrlWrite
  try dsimp only
  repeat' first
    | with_reducible assumption
    | ((with_reducible refine Sub.bit hm ?_); exact rfl)
    | ((with_reducible refine Sub.mono hm ?_); exact rfl)
    | ((with_reducible refine .inl (Sub.bit hm ?_)); exact rfl)
    | with_reducible exact .inr rfl
    | with_reducible apply bit_ite
    | with_reducible apply keeps_ite
    | with_reducible apply State.wr_keeps
    | with_reducible apply State.renegotiate_keeps
    | with_reducible apply State.disablePort_keeps
    | with_reducible apply State.startPort_keeps
    | dsimp only
    | split
    | with_reducible apply keeps_fields
    | with_reducible apply keeps_store

theorem State.setLane_keeps {s : State} (p : Nat) (k : Nat) (x : Lane) (h : s0.Keeps fp s)
    (hm : Sub 0x400000000 fp) :
    s0.Keeps fp (State.setLane s p k x) := by
  unfold State.setLane
  try dsimp only
  repeat' first
    | with_reducible assumption
    | ((with_reducible refine Sub.bit hm ?_); exact rfl)
    | ((with_reducible refine Sub.mono hm ?_); exact rfl)
    | ((with_reducible refine .inl (Sub.bit hm ?_)); exact rfl)
    | with_reducible exact .inr rfl
    | with_reducible apply State.setPort_keeps
    | dsimp only
    | with_reducible apply keeps_fields
    | with_reducible apply keeps_store

theorem State.selectMode_keeps {s : State} (p : Nat) (h : s0.Keeps fp s)
    (hm : Sub 0x400000400 fp) :
    s0.Keeps fp (State.selectMode s p) := by
  unfold State.selectMode
  try dsimp only
  repeat' first
    | with_reducible assumption
    | ((with_reducible refine Sub.bit hm ?_); exact rfl)
    | ((with_reducible refine Sub.mono hm ?_); exact rfl)
    | ((with_reducible refine .inl (Sub.bit hm ?_)); exact rfl)
    | with_reducible exact .inr rfl
    | with_reducible apply keeps_ite
    | with_reducible apply State.setPort_keeps
    | with_reducible apply State.trainAt_keeps
    | with_reducible apply State.failPort_keeps
    | (intro _ _ _)
    | (intro _ _)
    | (intro _)
    | dsimp only
    | split
    | with_reducible apply keeps_fields
    | with_reducible apply keeps_store

theorem State.descend_keeps {s : State} (p : Nat) (r : Nat) (lanes : List Nat) (h : s0.Keeps fp s)
    (hm : Sub 0x400000400 fp) :
    s0.Keeps fp (State.descend s p r lanes) := by
  unfold State.descend
  try dsimp only
  repeat' first
    | with_reducible assumption
    | ((with_reducible refine Sub.bit hm ?_); exact rfl)
    | ((with_reducible refine Sub.mono hm ?_); exact rfl)
    | ((with_reducible refine .inl (Sub.bit hm ?_)); exact rfl)
    | with_reducible exact .inr rfl
    | with_reducible apply keeps_ite
    | with_reducible apply State.setPort_keeps
    | with_reducible apply State.trainAt_keeps
    | with_reducible apply State.selectMode_keeps
    | dsimp only
    | split
    | with_reducible apply keeps_fields
    | with_reducible apply keeps_store

theorem State.progress_keeps {s : State} (p : Nat) (h : s0.Keeps fp s)
    (hm : Sub 0x400000400 fp) :
    s0.Keeps fp (State.progress s p) := by
  unfold State.progress
  try dsimp only
  repeat' first
    | with_reducible assumption
    | ((with_reducible refine Sub.bit hm ?_); exact rfl)
    | ((with_reducible refine Sub.mono hm ?_); exact rfl)
    | ((with_reducible refine .inl (Sub.bit hm ?_)); exact rfl)
    | with_reducible exact .inr rfl
    | with_reducible apply keeps_ite
    | with_reducible apply State.setPort_keeps
    | with_reducible apply State.failPort_keeps
    | with_reducible apply State.descend_keeps
    | dsimp only
    | split
    | with_reducible apply keeps_fields
    | with_reducible apply keeps_store

theorem State.showGrades_keeps {s : State} (p : Nat) (k : Nat) (h : s0.Keeps fp s)
    (hm : Sub 0x400 fp) :
    s0.Keeps fp (State.showGrades s p k) := by
  unfold State.showGrades
  try dsimp only
  repeat' first
    | with_reducible assumption
    | ((with_reducible refine Sub.bit hm ?_); exact rfl)
    | ((with_reducible refine Sub.mono hm ?_); exact rfl)
    | ((with_reducible refine .inl (Sub.bit hm ?_)); exact rfl)
    | with_reducible exact .inr rfl
    | with_reducible apply State.wf_keeps
    | dsimp only
    | with_reducible apply keeps_fields
    | with_reducible apply keeps_store

theorem State.tapRequest_keeps {s : State} (x : Lane) (t : Nat) (req : Nat) (h : s0.Keeps fp s)
    (hm : Sub 0 fp) :
    s0.Keeps fp (State.tapRequest s x t req).2 := by
  unfold State.tapRequest
  try dsimp only
  repeat' first
    | with_reducible assumption
    | ((with_reducible refine Sub.bit hm ?_); exact rfl)
    | ((with_reducible refine Sub.mono hm ?_); exact rfl)
    | ((with_reducible refine .inl (Sub.bit hm ?_)); exact rfl)
    | with_reducible exact .inr rfl
    | with_reducible apply bit_ite
    | with_reducible apply keeps_ite
    | with_reducible apply keeps_ite2
    | with_reducible apply State.fresh_keeps
    | (split; rename_i e; have e3 := congrArg (fun p => p.2.2) e; dsimp only at e3; subst e3)
    | (split; rename_i e; have e2 := congrArg Prod.snd e; dsimp only at e2; subst e2)
    | dsimp only
    | split
    | with_reducible apply keeps_fields
    | with_reducible apply keeps_store

theorem State.actControl_keeps {s : State} (p : Nat) (k : Nat) (h : s0.Keeps fp s)
    (hm : Sub 0x400000000 fp) :
    s0.Keeps fp (State.actControl s p k) := by
  unfold State.actControl
  try dsimp only
  repeat' first
    | with_reducible assumption
    | ((with_reducible refine Sub.bit hm ?_); exact rfl)
    | ((with_reducible refine Sub.mono hm ?_); exact rfl)
    | ((with_reducible refine .inl (Sub.bit hm ?_)); exact rfl)
    | with_reducible exact .inr rfl
    | with_reducible apply keeps_ite
    | with_reducible refine keeps_foldl _ _ ?_ ?_
    | with_reducible refine keeps_foldl2 _ _ _ ?_ ?_
    | with_reducible apply State.fresh_keeps
    | with_reducible apply State.setLane_keeps
    | with_reducible apply State.tapRequest_keeps
    | (intro _ _ _)
    | (intro _ _)
    | (intro _)
    | (split; rename_i e; have e3 := congrArg (fun p => p.2.2) e; dsimp only at e3; subst e3)
    | (split; rename_i e; have e2 := congrArg Prod.snd e; dsimp only at e2; subst e2)
    | dsimp only
    | split
    | with_reducible apply keeps_fields
    | with_reducible apply keeps_store

theorem State.actStatus_keeps {s : State} (p : Nat) (k : Nat) (h : s0.Keeps fp s)
    (hm : Sub 0x400000400 fp) :
    s0.Keeps fp (State.actStatus s p k) := by
  unfold State.actStatus
  try dsimp only
  repeat' first
    | with_reducible assumption
    | ((with_reducible refine Sub.bit hm ?_); exact rfl)
    | ((with_reducible refine Sub.mono hm ?_); exact rfl)
    | ((with_reducible refine .inl (Sub.bit hm ?_)); exact rfl)
    | with_reducible exact .inr rfl
    | with_reducible apply keeps_ite
    | with_reducible apply State.setPort_keeps
    | with_reducible apply State.showGrades_keeps
    | dsimp only
    | split
    | with_reducible apply keeps_fields
    | with_reducible apply keeps_store

theorem State.ownControl_keeps {s : State} (p : Nat) (k : Nat) (h : s0.Keeps fp s)
    (hm : Sub 0x400000000 fp) :
    s0.Keeps fp (State.ownControl s p k) := by
  unfold State.ownControl
  try dsimp only
  repeat' first
    | with_reducible assumption
    | ((with_reducible refine Sub.bit hm ?_); exact rfl)
    | ((with_reducible refine Sub.mono hm ?_); exact rfl)
    | ((with_reducible refine .inl (Sub.bit hm ?_)); exact rfl)
    | with_reducible exact .inr rfl
    | with_reducible apply bit_ite
    | with_reducible apply keeps_ite
    | with_reducible refine keeps_foldl _ _ ?_ ?_
    | with_reducible refine keeps_foldl2 _ _ _ ?_ ?_
    | with_reducible apply State.fresh_keeps
    | with_reducible apply State.setLane_keeps
    | (intro _ _ _)
    | (intro _ _)
    | (intro _)
    | (split; rename_i e; have e3 := congrArg (fun p => p.2.2) e; dsimp only at e3; subst e3)
    | (split; rename_i e; have e2 := congrArg Prod.snd e; dsimp only at e2; subst e2)
    | dsimp only
    | split
    | with_reducible apply keeps_fields
    | with_reducible apply keeps_store

theorem trainingFrame_keeps (p : Nat) (k : Nat) (control : Word) (status : Word) (inverted : Bool) {s : State} (h : s0.Keeps fp s)
    (hm : Sub 0x2040180040C fp) :
    s0.Keeps fp (trainingFrame p k control status inverted s) := by
  unfold trainingFrame
  try dsimp only
  repeat' first
    | with_reducible assumption
    | ((with_reducible refine Sub.bit hm ?_); exact rfl)
    | ((with_reducible refine Sub.mono hm ?_); exact rfl)
    | ((with_reducible refine .inl (Sub.bit hm ?_)); exact rfl)
    | with_reducible exact .inr rfl
    | with_reducible apply keeps_ite
    | with_reducible apply State.renegotiate_keeps
    | with_reducible apply State.setLane_keeps
    | with_reducible apply State.progress_keeps
    | with_reducible apply State.actControl_keeps
    | with_reducible apply State.actStatus_keeps
    | with_reducible apply State.ownControl_keeps
    | dsimp only
    | split
    | with_reducible apply keeps_fields
    | with_reducible apply keeps_store

theorem laneGraded_keeps (p : Nat) (k : Nat) (errors : Nat) {s : State} (h : s0.Keeps fp s)
    (hm : Sub 0x400000400 fp) :
    s0.Keeps fp (laneGraded p k errors s) := by
  unfold laneGraded
  try dsimp only
  repeat' first
    | with_reducible assumption
    | ((with_reducible refine Sub.bit hm ?_); exact rfl)
    | ((with_reducible refine Sub.mono hm ?_); exact rfl)
    | ((with_reducible refine .inl (Sub.bit hm ?_)); exact rfl)
    | with_reducible exact .inr rfl
    | with_reducible apply keeps_ite
    | with_reducible apply State.setLane_keeps
    | with_reducible apply State.progress_keeps
    | with_reducible apply State.showGrades_keeps
    | dsimp only
    | split
    | with_reducible apply keeps_fields
    | with_reducible apply keeps_store

theorem gradeTimeout_keeps (p : Nat) (k : Nat) {s : State} (h : s0.Keeps fp s)
    (hm : Sub 0x400000400 fp) :
    s0.Keeps fp (gradeTimeout p k s) := by
  unfold gradeTimeout
  try dsimp only
  repeat' first
    | with_reducible assumption
    | ((with_reducible refine Sub.bit hm ?_); exact rfl)
    | ((with_reducible refine Sub.mono hm ?_); exact rfl)
    | ((with_reducible refine .inl (Sub.bit hm ?_)); exact rfl)
    | with_reducible exact .inr rfl
    | with_reducible apply keeps_ite
    | with_reducible apply State.setLane_keeps
    | with_reducible apply State.progress_keeps
    | with_reducible apply State.showGrades_keeps
    | dsimp only
    | split
    | with_reducible apply keeps_fields
    | with_reducible apply keeps_store

theorem baseComplete_keeps (p : Nat) {s : State} (h : s0.Keeps fp s)
    (hm : Sub 0x400000400 fp) :
    s0.Keeps fp (baseComplete p s) := by
  unfold baseComplete
  try dsimp only
  repeat' first
    | with_reducible assumption
    | ((with_reducible refine Sub.bit hm ?_); exact rfl)
    | ((with_reducible refine Sub.mono hm ?_); exact rfl)
    | ((with_reducible refine .inl (Sub.bit hm ?_)); exact rfl)
    | with_reducible exact .inr rfl
    | with_reducible apply keeps_ite
    | with_reducible apply State.setPort_keeps
    | with_reducible apply State.setPortState_keeps
    | with_reducible apply State.trainAt_keeps
    | with_reducible apply State.failPort_keeps
    | with_reducible apply State.descend_keeps
    | dsimp only
    | split
    | with_reducible apply keeps_fields
    | with_reducible apply keeps_store

theorem descentComplete_keeps (p : Nat) {s : State} (h : s0.Keeps fp s)
    (hm : Sub 0x400000400 fp) :
    s0.Keeps fp (descentComplete p s) := by
  unfold descentComplete
  try dsimp only
  repeat' first
    | with_reducible assumption
    | ((with_reducible refine Sub.bit hm ?_); exact rfl)
    | ((with_reducible refine Sub.mono hm ?_); exact rfl)
    | ((with_reducible refine .inl (Sub.bit hm ?_)); exact rfl)
    | with_reducible exact .inr rfl
    | with_reducible apply keeps_ite
    | with_reducible refine keeps_foldl _ _ ?_ ?_
    | with_reducible refine keeps_foldl2 _ _ _ ?_ ?_
    | with_reducible apply State.wf_keeps
    | with_reducible apply State.wb_keeps
    | with_reducible apply State.setPort_keeps
    | with_reducible apply State.lanesBegin_keeps
    | with_reducible apply State.setPortState_keeps
    | with_reducible apply State.failPort_keeps
    | (intro _ _ _)
    | (intro _ _)
    | (intro _)
    | dsimp only
    | split
    | with_reducible apply keeps_fields
    | with_reducible apply keeps_store

theorem State.alignDone_keeps {s : State} (p : Nat) (h : s0.Keeps fp s)
    (hm : Sub 0x400 fp) :
    s0.Keeps fp (State.alignDone s p) := by
  unfold State.alignDone
  try dsimp only
  repeat' first
    | with_reducible assumption
    | ((with_reducible refine Sub.bit hm ?_); exact rfl)
    | ((with_reducible refine Sub.mono hm ?_); exact rfl)
    | with_reducible apply keeps_ite
    | with_reducible apply State.setPortState_keeps
    | (intro _ _ _)
    | (intro _ _)
    | (intro _)
    | dsimp only
    | split

theorem markerBad_keeps (p : Nat) (k : Nat) {s : State} (h : s0.Keeps fp s)
    (hm : Sub 0x2040180040C fp) :
    s0.Keeps fp (markerBad p k s) := by
  unfold markerBad
  try dsimp only
  repeat' first
    | with_reducible assumption
    | ((with_reducible refine Sub.bit hm ?_); exact rfl)
    | ((with_reducible refine Sub.mono hm ?_); exact rfl)
    | ((with_reducible refine .inl (Sub.bit hm ?_)); exact rfl)
    | with_reducible exact .inr rfl
    | with_reducible apply keeps_ite
    | with_reducible apply State.renegotiate_keeps
    | with_reducible apply State.setLane_keeps
    | dsimp only
    | split
    | with_reducible apply keeps_fields
    | with_reducible apply keeps_store

theorem markerRx_keeps (p : Nat) (k : Nat) (bs : List Byte) (skew : Nat) {s : State} (h : s0.Keeps fp s)
    (hm : Sub 0x2040180040C fp) :
    s0.Keeps fp (markerRx p k bs skew s) := by
  unfold markerRx
  try dsimp only
  repeat' first
    | with_reducible assumption
    | ((with_reducible refine Sub.bit hm ?_); exact rfl)
    | ((with_reducible refine Sub.mono hm ?_); exact rfl)
    | ((with_reducible refine .inl (Sub.bit hm ?_)); exact rfl)
    | with_reducible exact .inr rfl
    | with_reducible apply keeps_ite
    | with_reducible apply State.setLane_keeps
    | with_reducible apply State.alignDone_keeps
    | with_reducible apply markerBad_keeps
    | dsimp only
    | split
    | with_reducible apply keeps_fields
    | with_reducible apply keeps_store

theorem State.lineLost_keeps {s : State} (p : Nat) (beam : Nat) (count : Nat) (h : s0.Keeps fp s)
    (hm : Sub 0x4000 fp) :
    s0.Keeps fp (State.lineLost s p beam count) := by
  unfold State.lineLost
  try dsimp only
  repeat' first
    | with_reducible assumption
    | ((with_reducible refine Sub.bit hm ?_); exact rfl)
    | ((with_reducible refine Sub.mono hm ?_); exact rfl)
    | with_reducible apply keeps_ite
    | with_reducible refine keeps_foldl _ _ ?_ ?_
    | with_reducible refine keeps_foldl2 _ _ _ ?_ ?_
    | with_reducible apply State.bump_keeps
    | (intro _ _ _)
    | (intro _ _)
    | (intro _)
    | dsimp only
    | split

theorem State.losePartial_keeps {s : State} (p : Nat) (h : s0.Keeps fp s)
    (hm : Sub 0x4000 fp) :
    s0.Keeps fp (State.losePartial s p) := by
  unfold State.losePartial
  try dsimp only
  repeat' first
    | with_reducible assumption
    | ((with_reducible refine Sub.bit hm ?_); exact rfl)
    | ((with_reducible refine Sub.mono hm ?_); exact rfl)
    | with_reducible refine keeps_foldl _ _ ?_ ?_
    | with_reducible refine keeps_foldl2 _ _ _ ?_ ?_
    | with_reducible apply State.lineLost_keeps
    | (intro _ _ _)
    | (intro _ _)
    | (intro _)
    | dsimp only

theorem State.tooManyErrors_keeps {s : State} (p : Nat) (h : s0.Keeps fp s)
    (hm : Sub 0x2040180440C fp) :
    s0.Keeps fp (State.tooManyErrors s p) := by
  unfold State.tooManyErrors
  try dsimp only
  repeat' first
    | with_reducible assumption
    | ((with_reducible refine Sub.bit hm ?_); exact rfl)
    | ((with_reducible refine Sub.mono hm ?_); exact rfl)
    | with_reducible apply State.renegotiate_keeps
    | with_reducible apply State.losePartial_keeps
    | dsimp only

theorem codewordRx_keeps (p : Nat) (k : Nat) (errors : Nat) (miscorrected : Bool) (cells : Nat) {s : State} (h : s0.Keeps fp s)
    (hm : Sub 0x2040180440C fp) :
    s0.Keeps fp (codewordRx p k errors miscorrected cells s) := by
  unfold codewordRx
  try dsimp only
  repeat' first
    | with_reducible assumption
    | ((with_reducible refine Sub.bit hm ?_); exact rfl)
    | ((with_reducible refine Sub.mono hm ?_); exact rfl)
    | ((with_reducible refine .inl (Sub.bit hm ?_)); exact rfl)
    | with_reducible exact .inr rfl
    | with_reducible apply keeps_ite
    | with_reducible apply State.bump_keeps
    | with_reducible apply State.fresh_keeps
    | with_reducible apply State.setPort_keeps
    | with_reducible apply State.portCount_keeps
    | with_reducible apply State.tooManyErrors_keeps
    | (split; rename_i e; have e3 := congrArg (fun p => p.2.2) e; dsimp only at e3; subst e3)
    | (split; rename_i e; have e2 := congrArg Prod.snd e; dsimp only at e2; subst e2)
    | dsimp only
    | split
    | with_reducible apply keeps_fields
    | with_reducible apply keeps_store

theorem cellBad_keeps (p : Nat) (badType : Bool) {s : State} (h : s0.Keeps fp s)
    (hm : Sub 0x2040180440C fp) :
    s0.Keeps fp (cellBad p badType s) := by
  unfold cellBad
  try dsimp only
  repeat' first
    | with_reducible assumption
    | ((with_reducible refine Sub.bit hm ?_); exact rfl)
    | ((with_reducible refine Sub.mono hm ?_); exact rfl)
    | ((with_reducible refine .inl (Sub.bit hm ?_)); exact rfl)
    | with_reducible exact .inr rfl
    | with_reducible apply keeps_ite
    | with_reducible apply State.setPort_keeps
    | with_reducible apply State.portCount_keeps
    | with_reducible apply State.tooManyErrors_keeps
    | dsimp only
    | split
    | with_reducible apply keeps_fields
    | with_reducible apply keeps_store

theorem portTimeout_keeps (p : Nat) {s : State} (h : s0.Keeps fp s)
    (hm : Sub 0x400000400 fp) :
    s0.Keeps fp (portTimeout p s) := by
  unfold portTimeout
  try dsimp only
  repeat' first
    | with_reducible assumption
    | ((with_reducible refine Sub.bit hm ?_); exact rfl)
    | ((with_reducible refine Sub.mono hm ?_); exact rfl)
    | ((with_reducible refine .inl (Sub.bit hm ?_)); exact rfl)
    | with_reducible exact .inr rfl
    | with_reducible apply keeps_ite
    | with_reducible apply State.failPort_keeps
    | dsimp only
    | split
    | with_reducible apply keeps_fields
    | with_reducible apply keeps_store

theorem State.dropPartial_keeps {s : State} (p : Nat) (h : s0.Keeps fp s)
    (hm : Sub 0x400004000 fp) :
    s0.Keeps fp (State.dropPartial s p) := by
  unfold State.dropPartial
  try dsimp only
  repeat' first
    | with_reducible assumption
    | ((with_reducible refine Sub.bit hm ?_); exact rfl)
    | ((with_reducible refine Sub.mono hm ?_); exact rfl)
    | ((with_reducible refine .inl (Sub.bit hm ?_)); exact rfl)
    | with_reducible exact .inr rfl
    | with_reducible apply State.setPort_keeps
    | with_reducible apply State.losePartial_keeps
    | (intro _ _ _)
    | (intro _ _)
    | (intro _)
    | dsimp only
    | with_reducible apply keeps_fields
    | with_reducible apply keeps_store

theorem State.setTrack_keeps {s : State} (p : Nat) (t : RxTrack) (h : s0.Keeps fp s)
    (hm : Sub 0x400000000 fp) :
    s0.Keeps fp (State.setTrack s p t) := by
  unfold State.setTrack
  try dsimp only
  repeat' first
    | with_reducible assumption
    | ((with_reducible refine Sub.bit hm ?_); exact rfl)
    | ((with_reducible refine Sub.mono hm ?_); exact rfl)
    | ((with_reducible refine .inl (Sub.bit hm ?_)); exact rfl)
    | with_reducible exact .inr rfl
    | with_reducible apply State.setPort_keeps
    | (intro _ _ _)
    | (intro _ _)
    | (intro _)
    | dsimp only
    | with_reducible apply keeps_fields
    | with_reducible apply keeps_store

theorem State.trackLine_keeps {s : State} (p : Nat) (beam : Nat) (l : Nat) (h : s0.Keeps fp s)
    (hm : Sub 0x400004000 fp) :
    s0.Keeps fp (State.trackLine s p beam l) := by
  unfold State.trackLine
  try dsimp only
  repeat' first
    | with_reducible assumption
    | ((with_reducible refine Sub.bit hm ?_); exact rfl)
    | ((with_reducible refine Sub.mono hm ?_); exact rfl)
    | ((with_reducible refine .inl (Sub.bit hm ?_)); exact rfl)
    | with_reducible exact .inr rfl
    | with_reducible apply keeps_ite
    | with_reducible apply State.lineLost_keeps
    | with_reducible apply State.setTrack_keeps
    | (intro _ _ _)
    | (intro _ _)
    | (intro _)
    | dsimp only
    | split
    | with_reducible apply keeps_fields
    | with_reducible apply keeps_store

theorem State.trackFrame_keeps {s : State} (p : Nat) (beam : Nat) (lines : Nat) (h : s0.Keeps fp s)
    (hm : Sub 0x400004000 fp) :
    s0.Keeps fp (State.trackFrame s p beam lines) := by
  unfold State.trackFrame
  try dsimp only
  repeat' first
    | with_reducible assumption
    | ((with_reducible refine Sub.bit hm ?_); exact rfl)
    | ((with_reducible refine Sub.mono hm ?_); exact rfl)
    | ((with_reducible refine .inl (Sub.bit hm ?_)); exact rfl)
    | with_reducible exact .inr rfl
    | with_reducible apply keeps_ite
    | with_reducible apply State.lineLost_keeps
    | with_reducible apply State.setTrack_keeps
    | (intro _ _ _)
    | (intro _ _)
    | (intro _)
    | dsimp only
    | split
    | with_reducible apply keeps_fields
    | with_reducible apply keeps_store

theorem State.sendCredit_keeps {s : State} (p : Nat) (h : s0.Keeps fp s)
    (hm : Sub 0x400000000 fp) :
    s0.Keeps fp (State.sendCredit s p) := by
  unfold State.sendCredit
  try dsimp only
  repeat' first
    | with_reducible assumption
    | ((with_reducible refine Sub.bit hm ?_); exact rfl)
    | ((with_reducible refine Sub.mono hm ?_); exact rfl)
    | ((with_reducible refine .inl (Sub.bit hm ?_)); exact rfl)
    | with_reducible exact .inr rfl
    | with_reducible apply State.setPort_keeps
    | dsimp only
    | with_reducible apply keeps_fields
    | with_reducible apply keeps_store

theorem State.rxAccept_keeps {s : State} (p : Nat) (seq : Nat) (h : s0.Keeps fp s)
    (hm : Sub 0x400004400 fp) :
    s0.Keeps fp (State.rxAccept s p seq).2 := by
  unfold State.rxAccept
  try dsimp only
  repeat' first
    | with_reducible assumption
    | ((with_reducible refine Sub.bit hm ?_); exact rfl)
    | ((with_reducible refine Sub.mono hm ?_); exact rfl)
    | ((with_reducible refine .inl (Sub.bit hm ?_)); exact rfl)
    | with_reducible exact .inr rfl
    | with_reducible apply keeps_ite
    | with_reducible apply keeps_ite2
    | with_reducible apply State.setPort_keeps
    | with_reducible apply State.portCount_keeps
    | with_reducible apply State.dropPartial_keeps
    | with_reducible apply State.sendCredit_keeps
    | dsimp only
    | split
    | with_reducible apply keeps_fields
    | with_reducible apply keeps_store

theorem State.unusedCell_keeps {s : State} (p : Nat) (h : s0.Keeps fp s)
    (hm : Sub 0x400 fp) :
    s0.Keeps fp (State.unusedCell s p) := by
  unfold State.unusedCell
  try dsimp only
  repeat' first
    | with_reducible assumption
    | ((with_reducible refine Sub.bit hm ?_); exact rfl)
    | ((with_reducible refine Sub.mono hm ?_); exact rfl)
    | with_reducible apply State.portCount_keeps
    | dsimp only

theorem State.storeLine_keeps {s : State} (l : RxLine) (x : Nat × Nat) (h : s0.Keeps fp s)
    (hm : Sub 0x2001380C00D fp) :
    s0.Keeps fp (State.storeLine s l x) := by
  unfold State.storeLine
  try dsimp only
  repeat' first
    | with_reducible assumption
    | ((with_reducible refine Sub.bit hm ?_); exact rfl)
    | ((with_reducible refine Sub.mono hm ?_); exact rfl)
    | ((with_reducible refine .inl (Sub.bit hm ?_)); exact rfl)
    | with_reducible exact .inr rfl
    | with_reducible apply keeps_ite
    | with_reducible apply State.wb_keeps
    | with_reducible apply State.bump_keeps
    | with_reducible apply State.deny_keeps
    | with_reducible apply State.psWrite_keeps
    | with_reducible apply State.setBeam_keeps
    | (split; rename_i e; have e3 := congrArg (fun p => p.2.2) e; dsimp only at e3; subst e3)
    | (split; rename_i e; have e2 := congrArg Prod.snd e; dsimp only at e2; subst e2)
    | dsimp only
    | split
    | with_reducible apply keeps_fields
    | with_reducible apply keeps_store

theorem State.setRxLine_keeps {s : State} (p : Nat) (beam : Nat) (l : Option RxLine) (h : s0.Keeps fp s)
    (hm : Sub 0x400000000 fp) :
    s0.Keeps fp (State.setRxLine s p beam l) := by
  unfold State.setRxLine
  try dsimp only
  repeat' first
    | with_reducible assumption
    | ((with_reducible refine Sub.bit hm ?_); exact rfl)
    | ((with_reducible refine Sub.mono hm ?_); exact rfl)
    | ((with_reducible refine .inl (Sub.bit hm ?_)); exact rfl)
    | with_reducible exact .inr rfl
    | with_reducible apply State.setPort_keeps
    | (intro _ _ _)
    | (intro _ _)
    | (intro _)
    | dsimp only
    | with_reducible apply keeps_fields
    | with_reducible apply keeps_store

theorem State.pixelCell_keeps {s : State} (p : Nat) (c : Cell) (h : s0.Keeps fp s)
    (hm : Sub 0x2041380C40D fp) :
    s0.Keeps fp (State.pixelCell s p c) := by
  unfold State.pixelCell
  try dsimp only
  repeat' first
    | with_reducible assumption
    | ((with_reducible refine Sub.bit hm ?_); exact rfl)
    | ((with_reducible refine Sub.mono hm ?_); exact rfl)
    | ((with_reducible refine .inl (Sub.bit hm ?_)); exact rfl)
    | with_reducible exact .inr rfl
    | with_reducible apply bit_ite
    | with_reducible apply keeps_ite
    | with_reducible refine keeps_foldl _ _ ?_ ?_
    | with_reducible refine keeps_foldl2 _ _ _ ?_ ?_
    | with_reducible apply State.lineLost_keeps
    | with_reducible apply State.trackLine_keeps
    | with_reducible apply State.unusedCell_keeps
    | with_reducible apply State.storeLine_keeps
    | with_reducible apply State.setRxLine_keeps
    | (intro _ _ _)
    | (intro _ _)
    | (intro _)
    | dsimp only
    | split
    | with_reducible apply keeps_fields
    | with_reducible apply keeps_store

theorem State.frameStartRx_keeps {s : State} (p : Nat) (beam : Nat) (repeated : Bool) (lines : Nat) (h : s0.Keeps fp s)
    (hm : Sub 0x20411804C0C fp) :
    s0.Keeps fp (State.frameStartRx s p beam repeated lines) := by
  unfold State.frameStartRx
  try dsimp only
  repeat' first
    | with_reducible assumption
    | ((with_reducible refine Sub.bit hm ?_); exact rfl)
    | ((with_reducible refine Sub.mono hm ?_); exact rfl)
    | ((with_reducible refine .inl (Sub.bit hm ?_)); exact rfl)
    | with_reducible exact .inr rfl
    | with_reducible apply keeps_ite
    | with_reducible refine keeps_foldl _ _ ?_ ?_
    | with_reducible refine keeps_foldl2 _ _ _ ?_ ?_
    | with_reducible apply State.wb_keeps
    | with_reducible apply State.raise_keeps
    | with_reducible apply State.setBeam_keeps
    | with_reducible apply State.references_keeps
    | with_reducible apply State.trackFrame_keeps
    | with_reducible apply State.unusedCell_keeps
    | (intro _ _ _)
    | (intro _ _)
    | (intro _)
    | dsimp only
    | split
    | with_reducible apply keeps_fields
    | with_reducible apply keeps_store

theorem State.repeatRx_keeps {s : State} (p : Nat) (beam : Nat) (h : s0.Keeps fp s)
    (hm : Sub 0x10004400 fp) :
    s0.Keeps fp (State.repeatRx s p beam) := by
  unfold State.repeatRx
  try dsimp only
  repeat' first
    | with_reducible assumption
    | ((with_reducible refine Sub.bit hm ?_); exact rfl)
    | ((with_reducible refine Sub.mono hm ?_); exact rfl)
    | ((with_reducible refine .inl (Sub.bit hm ?_)); exact rfl)
    | with_reducible exact .inr rfl
    | with_reducible apply keeps_ite
    | with_reducible refine keeps_foldl _ _ ?_ ?_
    | with_reducible refine keeps_foldl2 _ _ _ ?_ ?_
    | with_reducible apply State.wb_keeps
    | with_reducible apply State.setBeam_keeps
    | with_reducible apply State.unusedCell_keeps
    | (intro _ _ _)
    | (intro _ _)
    | (intro _)
    | dsimp only
    | split
    | with_reducible apply keeps_fields
    | with_reducible apply keeps_store

theorem State.fenceRx_keeps {s : State} (p : Nat) (g : Nat) (epoch : Word) (h : s0.Keeps fp s)
    (hm : Sub 0x450000401 fp) :
    s0.Keeps fp (State.fenceRx s p g epoch) := by
  unfold State.fenceRx
  try dsimp only
  repeat' first
    | with_reducible assumption
    | ((with_reducible refine Sub.bit hm ?_); exact rfl)
    | ((with_reducible refine Sub.mono hm ?_); exact rfl)
    | with_reducible apply keeps_ite
    | with_reducible apply State.fenceArrive_keeps
    | with_reducible apply State.unusedCell_keeps
    | dsimp only
    | split

theorem State.keepPeer_keeps {s : State} (p : Nat) (c : CapFields) (h : s0.Keeps fp s)
    (hm : Sub 0x400 fp) :
    s0.Keeps fp (State.keepPeer s p c) := by
  unfold State.keepPeer
  try dsimp only
  repeat' first
    | with_reducible assumption
    | ((with_reducible refine Sub.bit hm ?_); exact rfl)
    | ((with_reducible refine Sub.mono hm ?_); exact rfl)
    | with_reducible apply State.wr_keeps
    | dsimp only

theorem State.keepPeerId_keeps {s : State} (p : Nat) (c : CapFields) (h : s0.Keeps fp s)
    (hm : Sub 0x400 fp) :
    s0.Keeps fp (State.keepPeerId s p c) := by
  unfold State.keepPeerId
  try dsimp only
  repeat' first
    | with_reducible assumption
    | ((with_reducible refine Sub.bit hm ?_); exact rfl)
    | ((with_reducible refine Sub.mono hm ?_); exact rfl)
    | with_reducible apply State.wr_keeps
    | with_reducible apply State.wf_keeps
    | dsimp only

theorem State.exchangeDone_keeps {s : State} (p : Nat) (h : s0.Keeps fp s)
    (hm : Sub 0x2040180040D fp) :
    s0.Keeps fp (State.exchangeDone s p) := by
  unfold State.exchangeDone
  try dsimp only
  repeat' first
    | with_reducible assumption
    | ((with_reducible refine Sub.bit hm ?_); exact rfl)
    | ((with_reducible refine Sub.mono hm ?_); exact rfl)
    | ((with_reducible refine .inl (Sub.bit hm ?_)); exact rfl)
    | with_reducible exact .inr rfl
    | with_reducible apply keeps_ite
    | with_reducible refine keeps_foldl _ _ ?_ ?_
    | with_reducible refine keeps_foldl2 _ _ _ ?_ ?_
    | with_reducible apply State.wf_keeps
    | with_reducible apply State.raise_keeps
    | with_reducible apply State.setPort_keeps
    | with_reducible apply State.joinPort_keeps
    | with_reducible apply State.capUpdate_keeps
    | with_reducible apply State.setPortState_keeps
    | (intro _ _ _)
    | (intro _ _)
    | (intro _)
    | dsimp only
    | split
    | with_reducible apply keeps_fields
    | with_reducible apply keeps_store

theorem capRx_keeps (p : Nat) (seq : Nat) (c : CapFields) {s : State} (h : s0.Keeps fp s)
    (hm : Sub 0x2040180440D fp) :
    s0.Keeps fp (capRx p seq c s) := by
  unfold capRx
  try dsimp only
  repeat' first
    | with_reducible assumption
    | ((with_reducible refine Sub.bit hm ?_); exact rfl)
    | ((with_reducible refine Sub.mono hm ?_); exact rfl)
    | ((with_reducible refine .inl (Sub.bit hm ?_)); exact rfl)
    | with_reducible exact .inr rfl
    | with_reducible apply keeps_ite
    | with_reducible apply State.wf_keeps
    | with_reducible apply State.setPort_keeps
    | with_reducible apply State.cutAudio_keeps
    | with_reducible apply State.failPort_keeps
    | with_reducible apply State.renegotiate_keeps
    | with_reducible apply State.rxAccept_keeps
    | with_reducible apply State.keepPeer_keeps
    | with_reducible apply State.keepPeerId_keeps
    | with_reducible apply State.exchangeDone_keeps
    | (split; rename_i e; have e3 := congrArg (fun p => p.2.2) e; dsimp only at e3; subst e3)
    | (split; rename_i e; have e2 := congrArg Prod.snd e; dsimp only at e2; subst e2)
    | dsimp only
    | split
    | with_reducible apply keeps_fields
    | with_reducible apply keeps_store

theorem capTimer_keeps (p : Nat) {s : State} (h : s0.Keeps fp s)
    (hm : Sub 0x2040180040D fp) :
    s0.Keeps fp (capTimer p s) := by
  unfold capTimer
  try dsimp only
  repeat' first
    | with_reducible assumption
    | ((with_reducible refine Sub.bit hm ?_); exact rfl)
    | ((with_reducible refine Sub.mono hm ?_); exact rfl)
    | ((with_reducible refine .inl (Sub.bit hm ?_)); exact rfl)
    | with_reducible exact .inr rfl
    | with_reducible apply keeps_ite
    | with_reducible apply State.fresh_keeps
    | with_reducible apply State.setPort_keeps
    | with_reducible apply State.sendCell_keeps
    | with_reducible apply State.exchangeDone_keeps
    | (split; rename_i e; have e3 := congrArg (fun p => p.2.2) e; dsimp only at e3; subst e3)
    | (split; rename_i e; have e2 := congrArg Prod.snd e; dsimp only at e2; subst e2)
    | dsimp only
    | split
    | with_reducible apply keeps_fields
    | with_reducible apply keeps_store

theorem creditRx_keeps (p : Nat) (next : Nat) {s : State} (h : s0.Keeps fp s)
    (hm : Sub 0x400000000 fp) :
    s0.Keeps fp (creditRx p next s) := by
  unfold creditRx
  try dsimp only
  repeat' first
    | with_reducible assumption
    | ((with_reducible refine Sub.bit hm ?_); exact rfl)
    | ((with_reducible refine Sub.mono hm ?_); exact rfl)
    | ((with_reducible refine .inl (Sub.bit hm ?_)); exact rfl)
    | with_reducible exact .inr rfl
    | with_reducible apply keeps_ite
    | with_reducible apply State.setPort_keeps
    | dsimp only
    | split
    | with_reducible apply keeps_fields
    | with_reducible apply keeps_store

theorem cellRx_keeps (p seq : Nat) (act : State → State) {s : State} (h : s0.Keeps fp s) (hm : Sub 0x400004400 fp)
    (ha : ∀ s, s0.Keeps fp s → s0.Keeps fp (act s)) : s0.Keeps fp (cellRx p seq act s) := by
  unfold cellRx
  have h1 := State.rxAccept_keeps p seq h (Sub.mono hm rfl)
  exact keeps_ite (ha _ h1) h1

end Sys2Proof.Machine
end

