-- ==== Sys2Proof/Laws/KeepsVoices.lean ====
section
/-! SUPPORT. What the operations of Machine/Voices.lean keep, and the parts they may change. -/

namespace Sys2Proof.Machine

variable {fp : Nat} {s0 : State}

theorem AudSrc.fetch_keeps (a : AudSrc) (needed : List Nat) {s : State} (h : s0.Keeps fp s)
    (hm : Sub 0x2000380020D fp) :
    s0.Keeps fp (AudSrc.fetch a needed s).2 := by
  unfold AudSrc.fetch
  try dsimp only
  repeat' first
    | with_reducible assumption
    | ((with_reducible refine Sub.bit hm ?_); exact rfl)
    | ((with_reducible refine Sub.mono hm ?_); exact rfl)
    | ((with_reducible refine .inl (Sub.bit hm ?_)); exact rfl)
    | with_reducible exact .inr rfl
    | with_reducible apply keeps_ite
    | with_reducible apply keeps_ite2
    | with_reducible refine keeps_foldl _ _ ?_ ?_
    | with_reducible refine keeps_foldl2 _ _ _ ?_ ?_
    | with_reducible apply State.bump_keeps
    | with_reducible apply State.psRead_keeps
    | (intro _ _ _)
    | (intro _ _)
    | (intro _)
    | (split; rename_i e; have e3 := congrArg (fun p => p.2.2) e; dsimp only at e3; subst e3)
    | (split; rename_i e; have e2 := congrArg Prod.snd e; dsimp only at e2; subst e2)
    | dsimp only
    | split
    | with_reducible apply keeps_fields
    | with_reducible apply keeps_store

theorem State.feedTake_keeps {s : State} (f : Nat) (h : s0.Keeps fp s)
    (hm : Sub 0x2080180020C fp) :
    s0.Keeps fp (State.feedTake s f).2 := by
  unfold State.feedTake
  try dsimp only
  repeat' first
    | with_reducible assumption
    | ((with_reducible refine Sub.bit hm ?_); exact rfl)
    | ((with_reducible refine Sub.mono hm ?_); exact rfl)
    | ((with_reducible refine .inl (Sub.bit hm ?_)); exact rfl)
    | with_reducible exact .inr rfl
    | with_reducible apply State.bump_keeps
    | with_reducible apply State.raise_keeps
    | dsimp only
    | split
    | with_reducible apply keeps_fields
    | with_reducible apply keeps_store

theorem AudSrc.takeTo_keeps (k n : Nat) (a : AudSrc) {s : State} (h : s0.Keeps fp s) (hm : Sub 0x2080180020C fp) :
    s0.Keeps fp (AudSrc.takeTo k n a s).2 := by
  induction n generalizing a s with
  | zero => exact h
  | succ n ih =>
    unfold AudSrc.takeTo
    exact keeps_ite2 h (ih _ (State.feedTake_keeps _ h (Sub.mono hm rfl)))

theorem AudSrc.frame_keeps (a : AudSrc) (v : Nat) (pitch : Nat) (late : LateSamples) {s : State} (h : s0.Keeps fp s)
    (hm : Sub 0x2080380020D fp) :
    s0.Keeps fp (AudSrc.frame a v pitch late s).2.2 := by
  unfold AudSrc.frame
  try dsimp only
  repeat' first
    | with_reducible assumption
    | ((with_reducible refine Sub.bit hm ?_); exact rfl)
    | ((with_reducible refine Sub.mono hm ?_); exact rfl)
    | ((with_reducible refine .inl (Sub.bit hm ?_)); exact rfl)
    | with_reducible exact .inr rfl
    | with_reducible apply keeps_ite
    | with_reducible apply keeps_ite3
    | with_reducible refine keeps_foldl _ _ ?_ ?_
    | with_reducible refine keeps_foldl2 _ _ _ ?_ ?_
    | with_reducible apply State.bump_keeps
    | with_reducible apply State.advance_keeps
    | with_reducible apply AudSrc.fetch_keeps
    | with_reducible apply AudSrc.takeTo_keeps
    | (intro _ _ _)
    | (intro _ _)
    | (intro _)
    | (split; rename_i e; have e3 := congrArg (fun p => p.2.2) e; dsimp only at e3; subst e3)
    | (split; rename_i e; have e2 := congrArg Prod.snd e; dsimp only at e2; subst e2)
    | dsimp only
    | split
    | with_reducible apply keeps_fields
    | with_reducible apply keeps_store

theorem State.touchGain_keeps {s : State} (i : Nat) (h : s0.Keeps fp s)
    (hm : Sub 0x800000000 fp) :
    s0.Keeps fp (State.touchGain s i) := by
  unfold State.touchGain
  try dsimp only
  repeat' first
    | with_reducible assumption
    | ((with_reducible refine Sub.bit hm ?_); exact rfl)
    | ((with_reducible refine Sub.mono hm ?_); exact rfl)
    | ((with_reducible refine .inl (Sub.bit hm ?_)); exact rfl)
    | with_reducible exact .inr rfl
    | dsimp only
    | split
    | with_reducible apply keeps_fields
    | with_reducible apply keeps_store

theorem State.settleGains_keeps {s : State} (h : s0.Keeps fp s)
    (hm : Sub 0x800000000 fp) :
    s0.Keeps fp (State.settleGains s) := by
  unfold State.settleGains
  try dsimp only
  repeat' first
    | with_reducible assumption
    | ((with_reducible refine Sub.bit hm ?_); exact rfl)
    | ((with_reducible refine Sub.mono hm ?_); exact rfl)
    | ((with_reducible refine .inl (Sub.bit hm ?_)); exact rfl)
    | with_reducible exact .inr rfl
    | (intro _ _ _)
    | (intro _ _)
    | (intro _)
    | dsimp only
    | with_reducible apply keeps_fields
    | with_reducible apply keeps_store

theorem State.gained_keeps {s : State} (i : Nat) (x : Int) (h : s0.Keeps fp s)
    (hm : Sub 0x2080380020D fp) :
    s0.Keeps fp (State.gained s i x).2 := by
  unfold State.gained
  try dsimp only
  repeat' first
    | with_reducible assumption
    | ((with_reducible refine Sub.bit hm ?_); exact rfl)
    | ((with_reducible refine Sub.mono hm ?_); exact rfl)
    | ((with_reducible refine .inl (Sub.bit hm ?_)); exact rfl)
    | with_reducible exact .inr rfl
    | with_reducible apply AudSrc.frame_keeps
    | (split; rename_i e; have e3 := congrArg (fun p => p.2.2) e; dsimp only at e3; subst e3)
    | (split; rename_i e; have e2 := congrArg Prod.snd e; dsimp only at e2; subst e2)
    | dsimp only
    | split
    | with_reducible apply keeps_fields
    | with_reducible apply keeps_store

theorem zcTimeout_keeps (i : Nat) {s : State} (h : s0.Keeps fp s)
    (hm : Sub 0x800000000 fp) :
    s0.Keeps fp (zcTimeout i s) := by
  unfold zcTimeout
  try dsimp only
  repeat' first
    | with_reducible assumption
    | ((with_reducible refine Sub.bit hm ?_); exact rfl)
    | ((with_reducible refine Sub.mono hm ?_); exact rfl)
    | ((with_reducible refine .inl (Sub.bit hm ?_)); exact rfl)
    | with_reducible exact .inr rfl
    | with_reducible apply keeps_ite
    | dsimp only
    | split
    | with_reducible apply keeps_fields
    | with_reducible apply keeps_store

theorem State.setVoice_keeps {s : State} (v : Nat) (x : Option AudVoice) (h : s0.Keeps fp s)
    (hm : Sub 0x800000200 fp) :
    s0.Keeps fp (State.setVoice s v x) := by
  unfold State.setVoice
  try dsimp only
  repeat' first
    | with_reducible assumption
    | ((with_reducible refine Sub.bit hm ?_); exact rfl)
    | ((with_reducible refine Sub.mono hm ?_); exact rfl)
    | ((with_reducible refine .inl (Sub.bit hm ?_)); exact rfl)
    | with_reducible exact .inr rfl
    | with_reducible apply bit_ite
    | with_reducible apply keeps_ite
    | with_reducible apply State.wr_keeps
    | with_reducible apply State.wf_keeps
    | dsimp only
    | split
    | with_reducible apply keeps_fields
    | with_reducible apply keeps_store

theorem State.voiceFrame_keeps {s : State} (v : Nat) (late : LateSamples) (h : s0.Keeps fp s)
    (hm : Sub 0x2080380020D fp) :
    s0.Keeps fp (State.voiceFrame s v late).2 := by
  unfold State.voiceFrame
  try dsimp only
  repeat' first
    | with_reducible assumption
    | ((with_reducible refine Sub.bit hm ?_); exact rfl)
    | ((with_reducible refine Sub.mono hm ?_); exact rfl)
    | ((with_reducible refine .inl (Sub.bit hm ?_)); exact rfl)
    | with_reducible exact .inr rfl
    | with_reducible apply keeps_ite
    | with_reducible apply keeps_ite2
    | with_reducible apply State.wb_keeps
    | with_reducible apply State.raise_keeps
    | with_reducible apply AudSrc.frame_keeps
    | with_reducible apply State.setVoice_keeps
    | (split; rename_i e; have e3 := congrArg (fun p => p.2.2) e; dsimp only at e3; subst e3)
    | (split; rename_i e; have e2 := congrArg Prod.snd e; dsimp only at e2; subst e2)
    | dsimp only
    | split
    | with_reducible apply keeps_fields
    | with_reducible apply keeps_store

theorem State.startVoice_keeps {s : State} (v : Nat) (arg : Nat) (h : s0.Keeps fp s)
    (hm : Sub 0x800000200 fp) :
    s0.Keeps fp (State.startVoice s v arg) := by
  unfold State.startVoice
  try dsimp only
  repeat' first
    | with_reducible assumption
    | ((with_reducible refine Sub.bit hm ?_); exact rfl)
    | ((with_reducible refine Sub.mono hm ?_); exact rfl)
    | ((with_reducible refine .inl (Sub.bit hm ?_)); exact rfl)
    | with_reducible exact .inr rfl
    | with_reducible apply keeps_ite
    | with_reducible apply State.setVoice_keeps
    | (intro _ _ _)
    | (intro _ _)
    | (intro _)
    | dsimp only
    | split
    | with_reducible apply keeps_fields
    | with_reducible apply keeps_store

theorem State.applyEvent_keeps {s : State} (r : Rec4) (h : s0.Keeps fp s)
    (hm : Sub 0x800000200 fp) :
    s0.Keeps fp (State.applyEvent s r) := by
  unfold State.applyEvent
  try dsimp only
  repeat' first
    | with_reducible assumption
    | ((with_reducible refine Sub.bit hm ?_); exact rfl)
    | ((with_reducible refine Sub.mono hm ?_); exact rfl)
    | ((with_reducible refine .inl (Sub.bit hm ?_)); exact rfl)
    | with_reducible exact .inr rfl
    | with_reducible apply keeps_ite
    | with_reducible apply State.wf_keeps
    | with_reducible apply State.touchGain_keeps
    | with_reducible apply State.setVoice_keeps
    | with_reducible apply State.startVoice_keeps
    | dsimp only
    | split
    | with_reducible apply keeps_fields
    | with_reducible apply keeps_store

theorem State.applyEvents_keeps (n : Word) (g k : Nat) {s : State} (h : s0.Keeps fp s) (hm : Sub 0x801000200 fp) :
    s0.Keeps fp (State.applyEvents n g k s) := by
  induction k generalizing s with
  | zero => exact h
  | succ k ih =>
    unfold State.applyEvents
    split
    · exact h
    · refine keeps_ite h (ih ?_)
      repeat' first
        | with_reducible assumption
        | ((with_reducible refine Sub.bit hm ?_); exact rfl)
        | ((with_reducible refine Sub.mono hm ?_); exact rfl)
        | ((with_reducible refine .inl (Sub.bit hm ?_)); exact rfl)
        | with_reducible exact .inr rfl
        | ((with_reducible refine reg_bit _ (Sub.mono hm ?_)); exact rfl)
        | ((with_reducible refine rej_parts _ (Sub.mono hm ?_)); exact rfl)
        | with_reducible apply keeps_ite
        | with_reducible apply State.bump_keeps
        | with_reducible apply State.dropHead_keeps
        | with_reducible apply State.applyEvent_keeps

theorem veqWrite_keeps (g : Nat) (j : Nat) (w : Word) {s : State} (h : s0.Keeps fp s)
    (hm : Sub 0x2000180020C fp) :
    s0.Keeps fp (veqWrite g j w s) := by
  unfold veqWrite
  try dsimp only
  repeat' first
    | with_reducible assumption
    | ((with_reducible refine Sub.bit hm ?_); exact rfl)
    | ((with_reducible refine Sub.mono hm ?_); exact rfl)
    | ((with_reducible refine .inl (Sub.bit hm ?_)); exact rfl)
    | with_reducible exact .inr rfl
    | ((with_reducible refine rej_parts _ (Sub.mono hm ?_)); exact rfl)
    | with_reducible apply keeps_ite
    | with_reducible apply State.wr_keeps
    | with_reducible apply State.bump_keeps
    | with_reducible apply State.rejectAt_keeps
    | with_reducible apply State.reject_keeps
    | with_reducible apply State.pushRec_keeps
    | with_reducible apply State.raise_keeps
    | dsimp only
    | split
    | with_reducible apply keeps_fields
    | with_reducible apply keeps_store

theorem feedPush_keeps (f : Nat) (w : Word) {s : State} (h : s0.Keeps fp s)
    (hm : Sub 0x800000200 fp) :
    s0.Keeps fp (feedPush f w s) := by
  unfold feedPush
  try dsimp only
  repeat' first
    | with_reducible assumption
    | ((with_reducible refine Sub.bit hm ?_); exact rfl)
    | ((with_reducible refine Sub.mono hm ?_); exact rfl)
    | ((with_reducible refine .inl (Sub.bit hm ?_)); exact rfl)
    | with_reducible exact .inr rfl
    | with_reducible apply keeps_ite
    | with_reducible apply State.wb_keeps
    | dsimp only
    | split
    | with_reducible apply keeps_fields
    | with_reducible apply keeps_store

end Sys2Proof.Machine
end

