-- ==== Sys2Proof/Laws/KeepsAudio.lean ====
section
/-! SUPPORT. What the operations of Machine/Audio.lean keep, and the parts they may change. -/

namespace Sys2Proof.Machine

variable {fp : Nat} {s0 : State}

theorem crosspointWrite_keeps (x : Nat) (w : Word) {s : State} (h : s0.Keeps fp s)
    (hm : Sub 0x800000200 fp) :
    s0.Keeps fp (crosspointWrite x w s) := by
  unfold crosspointWrite
  try dsimp only
  repeat' first
    | with_reducible assumption
    | ((with_reducible refine Sub.bit hm ?_); exact rfl)
    | ((with_reducible refine Sub.mono hm ?_); exact rfl)
    | ((with_reducible refine .inl (Sub.bit hm ?_)); exact rfl)
    | with_reducible exact .inr rfl
    | with_reducible apply keeps_ite
    | with_reducible apply State.wr_keeps
    | with_reducible apply State.bump_keeps
    | dsimp only
    | split
    | with_reducible apply keeps_fields
    | with_reducible apply keeps_store

theorem State.settleRoutes_keeps {s : State} (h : s0.Keeps fp s)
    (hm : Sub 0x800000000 fp) :
    s0.Keeps fp (State.settleRoutes s) := by
  unfold State.settleRoutes
  try dsimp only
  repeat' first
    | with_reducible assumption
    | ((with_reducible refine Sub.bit hm ?_); exact rfl)
    | ((with_reducible refine Sub.mono hm ?_); exact rfl)
    | ((with_reducible refine .inl (Sub.bit hm ?_)); exact rfl)
    | with_reducible exact .inr rfl
    | with_reducible refine keeps_foldl _ _ ?_ ?_
    | with_reducible refine keeps_foldl2 _ _ _ ?_ ?_
    | (intro _ _ _)
    | (intro _ _)
    | (intro _)
    | dsimp only
    | split
    | with_reducible apply keeps_fields
    | with_reducible apply keeps_store

theorem State.stepFades_keeps {s : State} (h : s0.Keeps fp s)
    (hm : Sub 0x800000000 fp) :
    s0.Keeps fp (State.stepFades s) := by
  unfold State.stepFades
  try dsimp only
  repeat' first
    | with_reducible assumption
    | ((with_reducible refine Sub.bit hm ?_); exact rfl)
    | ((with_reducible refine Sub.mono hm ?_); exact rfl)
    | ((with_reducible refine .inl (Sub.bit hm ?_)); exact rfl)
    | with_reducible exact .inr rfl
    | (intro _ _ _)
    | (intro _ _)
    | (intro _)
    | dsimp only
    | with_reducible apply keeps_fields
    | with_reducible apply keeps_store

theorem State.setBus_keeps {s : State} (b : Nat) (x : AudBus) (h : s0.Keeps fp s)
    (hm : Sub 0x800000000 fp) :
    s0.Keeps fp (State.setBus s b x) := by
  unfold State.setBus
  try dsimp only
  repeat' first
    | with_reducible assumption
    | ((with_reducible refine Sub.bit hm ?_); exact rfl)
    | ((with_reducible refine Sub.mono hm ?_); exact rfl)
    | ((with_reducible refine .inl (Sub.bit hm ?_)); exact rfl)
    | with_reducible exact .inr rfl
    | dsimp only
    | with_reducible apply keeps_fields
    | with_reducible apply keeps_store

theorem State.delayRead_keeps {s : State} (set : Nat) (u : AudBus) (h : s0.Keeps fp s)
    (hm : Sub 0x2000380000D fp) :
    s0.Keeps fp (State.delayRead s set u).2 := by
  unfold State.delayRead
  try dsimp only
  repeat' first
    | with_reducible assumption
    | ((with_reducible refine Sub.bit hm ?_); exact rfl)
    | ((with_reducible refine Sub.mono hm ?_); exact rfl)
    | ((with_reducible refine .inl (Sub.bit hm ?_)); exact rfl)
    | with_reducible exact .inr rfl
    | with_reducible apply keeps_ite
    | with_reducible apply keeps_ite2
    | with_reducible apply State.psRead_keeps
    | (split; rename_i e; have e3 := congrArg (fun p => p.2.2) e; dsimp only at e3; subst e3)
    | (split; rename_i e; have e2 := congrArg Prod.snd e; dsimp only at e2; subst e2)
    | dsimp only
    | split
    | with_reducible apply keeps_fields
    | with_reducible apply keeps_store

theorem State.delayWrite_keeps {s : State} (set : Nat) (u : AudBus) (v : Int) (h : s0.Keeps fp s)
    (hm : Sub 0x2000380800D fp) :
    s0.Keeps fp (State.delayWrite s set u v).2 := by
  unfold State.delayWrite
  try dsimp only
  repeat' first
    | with_reducible assumption
    | ((with_reducible refine Sub.bit hm ?_); exact rfl)
    | ((with_reducible refine Sub.mono hm ?_); exact rfl)
    | ((with_reducible refine .inl (Sub.bit hm ?_)); exact rfl)
    | with_reducible exact .inr rfl
    | with_reducible apply keeps_ite
    | with_reducible apply keeps_ite2
    | with_reducible apply State.deny_keeps
    | with_reducible apply State.psWrite_keeps
    | (intro _ _ _)
    | (intro _ _)
    | (intro _)
    | dsimp only
    | split
    | with_reducible apply keeps_fields
    | with_reducible apply keeps_store

theorem State.delayStage_keeps {s : State} (set : Nat) (u : AudBus) (late : Bool) (x : Int) (h : s0.Keeps fp s)
    (hm : Sub 0x2000380820D fp) :
    s0.Keeps fp (State.delayStage s set u late x).2.2 := by
  unfold State.delayStage
  try dsimp only
  repeat' first
    | with_reducible assumption
    | ((with_reducible refine Sub.bit hm ?_); exact rfl)
    | ((with_reducible refine Sub.mono hm ?_); exact rfl)
    | ((with_reducible refine .inl (Sub.bit hm ?_)); exact rfl)
    | with_reducible exact .inr rfl
    | with_reducible apply keeps_ite
    | with_reducible apply keeps_ite3
    | with_reducible apply State.bump_keeps
    | with_reducible apply State.delayRead_keeps
    | with_reducible apply State.delayWrite_keeps
    | (split; rename_i e; have e3 := congrArg (fun p => p.2.2) e; dsimp only at e3; subst e3)
    | (split; rename_i e; have e2 := congrArg Prod.snd e; dsimp only at e2; subst e2)
    | dsimp only
    | split
    | with_reducible apply keeps_fields
    | with_reducible apply keeps_store

theorem State.busFrame_keeps {s : State} (b : Nat) (x : Int) (late : Bool) (h : s0.Keeps fp s)
    (hm : Sub 0x2080380820D fp) :
    s0.Keeps fp (State.busFrame s b x late) := by
  unfold State.busFrame
  try dsimp only
  repeat' first
    | with_reducible assumption
    | ((with_reducible refine Sub.bit hm ?_); exact rfl)
    | ((with_reducible refine Sub.mono hm ?_); exact rfl)
    | ((with_reducible refine .inl (Sub.bit hm ?_)); exact rfl)
    | with_reducible exact .inr rfl
    | with_reducible apply bit_ite
    | with_reducible apply keeps_ite
    | with_reducible apply State.gained_keeps
    | with_reducible apply State.setBus_keeps
    | with_reducible apply State.delayStage_keeps
    | (split; rename_i e; have e3 := congrArg (fun p => p.2.2) e; dsimp only at e3; subst e3)
    | (split; rename_i e; have e2 := congrArg Prod.snd e; dsimp only at e2; subst e2)
    | dsimp only
    | split
    | with_reducible apply keeps_fields
    | with_reducible apply keeps_store

theorem State.doSwaps_keeps {s : State} (h : s0.Keeps fp s)
    (hm : Sub 0x2080180020C fp) :
    s0.Keeps fp (State.doSwaps s) := by
  unfold State.doSwaps
  try dsimp only
  repeat' first
    | with_reducible assumption
    | ((with_reducible refine Sub.bit hm ?_); exact rfl)
    | ((with_reducible refine Sub.mono hm ?_); exact rfl)
    | ((with_reducible refine .inl (Sub.bit hm ?_)); exact rfl)
    | with_reducible exact .inr rfl
    | with_reducible apply keeps_ite
    | with_reducible refine keeps_foldl _ _ ?_ ?_
    | with_reducible refine keeps_foldl2 _ _ _ ?_ ?_
    | with_reducible apply State.wb_keeps
    | with_reducible apply State.raiseN_keeps
    | with_reducible apply State.touchGain_keeps
    | with_reducible apply State.setBus_keeps
    | (intro _ _ _)
    | (intro _ _)
    | (intro _)
    | dsimp only
    | split
    | with_reducible apply keeps_fields
    | with_reducible apply keeps_store

theorem busSwap_keeps (i : Nat) (w : Word) {s : State} (h : s0.Keeps fp s)
    (hm : Sub 0x800000000 fp) :
    s0.Keeps fp (busSwap i w s) := by
  unfold busSwap
  try dsimp only
  repeat' first
    | with_reducible assumption
    | ((with_reducible refine Sub.bit hm ?_); exact rfl)
    | ((with_reducible refine Sub.mono hm ?_); exact rfl)
    | ((with_reducible refine .inl (Sub.bit hm ?_)); exact rfl)
    | with_reducible exact .inr rfl
    | dsimp only
    | with_reducible apply keeps_fields
    | with_reducible apply keeps_store

theorem State.handLink_keeps {s : State} (p : Nat) (f : List Int) (stamp : Word64) (h : s0.Keeps fp s)
    (hm : Sub 0x400000001 fp) :
    s0.Keeps fp (State.handLink s p f stamp) := by
  unfold State.handLink
  try dsimp only
  repeat' first
    | with_reducible assumption
    | ((with_reducible refine Sub.bit hm ?_); exact rfl)
    | ((with_reducible refine Sub.mono hm ?_); exact rfl)
    | ((with_reducible refine .inl (Sub.bit hm ?_)); exact rfl)
    | with_reducible exact .inr rfl
    | with_reducible apply keeps_ite
    | with_reducible apply State.fenceDrop_keeps
    | with_reducible apply State.setPort_keeps
    | with_reducible apply State.cutAudio_keeps
    | dsimp only
    | split
    | with_reducible apply keeps_fields
    | with_reducible apply keeps_store

theorem State.handTdm_keeps {s : State} (a : Nat) (f : List Int) (h : s0.Keeps fp s)
    (hm : Sub 0x800000200 fp) :
    s0.Keeps fp (State.handTdm s a f) := by
  unfold State.handTdm
  try dsimp only
  repeat' first
    | with_reducible assumption
    | ((with_reducible refine Sub.bit hm ?_); exact rfl)
    | ((with_reducible refine Sub.mono hm ?_); exact rfl)
    | ((with_reducible refine .inl (Sub.bit hm ?_)); exact rfl)
    | with_reducible exact .inr rfl
    | with_reducible apply keeps_ite
    | with_reducible apply State.bump_keeps
    | dsimp only
    | split
    | with_reducible apply keeps_fields
    | with_reducible apply keeps_store

theorem State.handFrame_keeps {s : State} (h : s0.Keeps fp s)
    (hm : Sub 0x20C0380020D fp) :
    s0.Keeps fp (State.handFrame s) := by
  unfold State.handFrame
  try dsimp only
  repeat' first
    | with_reducible assumption
    | ((with_reducible refine Sub.bit hm ?_); exact rfl)
    | ((with_reducible refine Sub.mono hm ?_); exact rfl)
    | ((with_reducible refine .inl (Sub.bit hm ?_)); exact rfl)
    | with_reducible exact .inr rfl
    | with_reducible refine keeps_foldl _ _ ?_ ?_
    | with_reducible refine keeps_foldl2 _ _ _ ?_ ?_
    | with_reducible apply State.stamp_keeps
    | with_reducible apply AudSrc.frame_keeps
    | with_reducible apply State.handLink_keeps
    | with_reducible apply State.handTdm_keeps
    | (intro _ _ _)
    | (intro _ _)
    | (intro _)
    | (split; rename_i e; have e3 := congrArg (fun p => p.2.2) e; dsimp only at e3; subst e3)
    | (split; rename_i e; have e2 := congrArg Prod.snd e; dsimp only at e2; subst e2)
    | dsimp only
    | split
    | with_reducible apply keeps_fields
    | with_reducible apply keeps_store

theorem State.tdmSend_keeps {s : State} (a : Nat) (f : List Int) (n : Nat) (h : s0.Keeps fp s)
    (hm : Sub 0x20800000000 fp) :
    s0.Keeps fp (State.tdmSend s a f n) := by
  unfold State.tdmSend
  try dsimp only
  repeat' first
    | with_reducible assumption
    | ((with_reducible refine Sub.bit hm ?_); exact rfl)
    | ((with_reducible refine Sub.mono hm ?_); exact rfl)
    | ((with_reducible refine .inl (Sub.bit hm ?_)); exact rfl)
    | with_reducible exact .inr rfl
    | with_reducible apply keeps_ite
    | with_reducible apply State.emit_keeps
    | dsimp only
    | split
    | with_reducible apply keeps_fields
    | with_reducible apply keeps_store

theorem State.takeAudRef_keeps {s : State} (t : Nat) (h : s0.Keeps fp s)
    (hm : Sub 0x2080180020C fp) :
    s0.Keeps fp (State.takeAudRef s t) := by
  unfold State.takeAudRef
  try dsimp only
  repeat' first
    | with_reducible assumption
    | ((with_reducible refine Sub.bit hm ?_); exact rfl)
    | ((with_reducible refine Sub.mono hm ?_); exact rfl)
    | ((with_reducible refine .inl (Sub.bit hm ?_)); exact rfl)
    | with_reducible exact .inr rfl
    | with_reducible apply keeps_ite
    | with_reducible apply State.wr_keeps
    | with_reducible apply State.setAudLock_keeps
    | dsimp only
    | split
    | with_reducible apply keeps_fields
    | with_reducible apply keeps_store

theorem State.audReference_keeps {s : State} (src : Nat) (ix : Nat) (t : Nat) (h : s0.Keeps fp s)
    (hm : Sub 0x2080180020C fp) :
    s0.Keeps fp (State.audReference s src ix t) := by
  unfold State.audReference
  try dsimp only
  repeat' first
    | with_reducible assumption
    | ((with_reducible refine Sub.bit hm ?_); exact rfl)
    | ((with_reducible refine Sub.mono hm ?_); exact rfl)
    | ((with_reducible refine .inl (Sub.bit hm ?_)); exact rfl)
    | with_reducible exact .inr rfl
    | with_reducible apply keeps_ite
    | with_reducible apply State.setAudLock_keeps
    | with_reducible apply State.takeAudRef_keeps
    | dsimp only
    | split
    | with_reducible apply keeps_fields
    | with_reducible apply keeps_store

theorem audRefLost_keeps {s : State} (h : s0.Keeps fp s)
    (hm : Sub 0x2000180020C fp) :
    s0.Keeps fp (audRefLost s) := by
  unfold audRefLost
  try dsimp only
  repeat' first
    | with_reducible assumption
    | ((with_reducible refine Sub.bit hm ?_); exact rfl)
    | ((with_reducible refine Sub.mono hm ?_); exact rfl)
    | ((with_reducible refine .inl (Sub.bit hm ?_)); exact rfl)
    | with_reducible exact .inr rfl
    | with_reducible apply keeps_ite
    | with_reducible apply State.setAudLock_keeps
    | dsimp only
    | split
    | with_reducible apply keeps_fields
    | with_reducible apply keeps_store

theorem audClkWrite_keeps (w : Word) {s : State} (h : s0.Keeps fp s)
    (hm : Sub 0x2080180020C fp) :
    s0.Keeps fp (audClkWrite w s) := by
  unfold audClkWrite
  try dsimp only
  repeat' first
    | with_reducible assumption
    | ((with_reducible refine Sub.bit hm ?_); exact rfl)
    | ((with_reducible refine Sub.mono hm ?_); exact rfl)
    | ((with_reducible refine .inl (Sub.bit hm ?_)); exact rfl)
    | with_reducible exact .inr rfl
    | with_reducible apply keeps_ite
    | with_reducible apply State.wr_keeps
    | with_reducible apply State.setAudLock_keeps
    | dsimp only
    | split
    | with_reducible apply keeps_fields
    | with_reducible apply keeps_store

theorem State.voicesFrame_keeps {s : State} (late : LateSamples) (h : s0.Keeps fp s)
    (hm : Sub 0x2080380020D fp) :
    s0.Keeps fp (State.voicesFrame s late).2 := by
  unfold State.voicesFrame
  try dsimp only
  repeat' first
    | with_reducible assumption
    | ((with_reducible refine Sub.bit hm ?_); exact rfl)
    | ((with_reducible refine Sub.mono hm ?_); exact rfl)
    | ((with_reducible refine .inl (Sub.bit hm ?_)); exact rfl)
    | with_reducible exact .inr rfl
    | with_reducible apply keeps_ite
    | with_reducible apply keeps_ite2
    | with_reducible refine keeps_foldl _ _ ?_ ?_
    | with_reducible refine keeps_foldl2 _ _ _ ?_ ?_
    | with_reducible apply State.gained_keeps
    | with_reducible apply State.voiceFrame_keeps
    | (intro _ _ _)
    | (intro _ _)
    | (intro _)
    | (split; rename_i e; have e3 := congrArg (fun p => p.2.2) e; dsimp only at e3; subst e3)
    | (split; rename_i e; have e2 := congrArg Prod.snd e; dsimp only at e2; subst e2)
    | dsimp only
    | split
    | with_reducible apply keeps_fields
    | with_reducible apply keeps_store

theorem State.channelFrame_keeps {s : State} (c : Nat) (x : Int) (h : s0.Keeps fp s)
    (hm : Sub 0x2080380020D fp) :
    s0.Keeps fp (State.channelFrame s c x).2 := by
  unfold State.channelFrame
  try dsimp only
  repeat' first
    | with_reducible assumption
    | ((with_reducible refine Sub.bit hm ?_); exact rfl)
    | ((with_reducible refine Sub.mono hm ?_); exact rfl)
    | ((with_reducible refine .inl (Sub.bit hm ?_)); exact rfl)
    | with_reducible exact .inr rfl
    | with_reducible apply keeps_ite
    | with_reducible apply keeps_ite2
    | with_reducible apply State.gained_keeps
    | (split; rename_i e; have e3 := congrArg (fun p => p.2.2) e; dsimp only at e3; subst e3)
    | (split; rename_i e; have e2 := congrArg Prod.snd e; dsimp only at e2; subst e2)
    | dsimp only
    | split
    | with_reducible apply keeps_fields
    | with_reducible apply keeps_store

theorem State.audFrame_keeps {s : State} (late : LateSamples) (h : s0.Keeps fp s)
    (hm : Sub 0x2080380820D fp) :
    s0.Keeps fp (State.audFrame s late) := by
  unfold State.audFrame
  try dsimp only
  repeat' first
    | with_reducible assumption
    | ((with_reducible refine Sub.bit hm ?_); exact rfl)
    | ((with_reducible refine Sub.mono hm ?_); exact rfl)
    | ((with_reducible refine .inl (Sub.bit hm ?_)); exact rfl)
    | with_reducible exact .inr rfl
    | with_reducible apply keeps_ite
    | with_reducible refine keeps_foldl _ _ ?_ ?_
    | with_reducible refine keeps_foldl2 _ _ _ ?_ ?_
    | with_reducible apply State.stepFades_keeps
    | with_reducible apply State.busFrame_keeps
    | with_reducible apply State.voicesFrame_keeps
    | with_reducible apply State.channelFrame_keeps
    | (intro _ _ _)
    | (intro _ _)
    | (intro _)
    | (split; rename_i e; have e3 := congrArg (fun p => p.2.2) e; dsimp only at e3; subst e3)
    | (split; rename_i e; have e2 := congrArg Prod.snd e; dsimp only at e2; subst e2)
    | dsimp only
    | split
    | with_reducible apply keeps_fields
    | with_reducible apply keeps_store

theorem sampleBoundary_keeps (late : LateSamples) {s : State} (h : s0.Keeps fp s) (hm : Sub 0x20C0380820D fp) :
    s0.Keeps fp (sampleBoundary late s) := by
  unfold sampleBoundary
  dsimp only
  have h1 : s0.Keeps fp (s.handFrame.wr .audSample (s.rd .audSample + 1)) :=
    State.wr_keeps _ _ _ _ _ (State.handFrame_keeps h (Sub.mono hm rfl)) (Sub.bit hm rfl)
  refine keeps_ite h ?_
  repeat' first
    | with_reducible assumption
    | ((with_reducible refine Sub.bit hm ?_); exact rfl)
    | ((with_reducible refine Sub.mono hm ?_); exact rfl)
    | ((with_reducible refine .inl (Sub.bit hm ?_)); exact rfl)
    | with_reducible exact .inr rfl
    | ((with_reducible refine reg_bit _ (Sub.mono hm ?_)); exact rfl)
    | ((with_reducible refine rej_parts _ (Sub.mono hm ?_)); exact rfl)
    | with_reducible apply h1
    | with_reducible apply keeps_ite
    | with_reducible apply State.wr_keeps
    | with_reducible apply State.audFrame_keeps
    | with_reducible apply State.wb_keeps
    | with_reducible apply State.settleGains_keeps
    | with_reducible apply State.doSwaps_keeps
    | with_reducible refine keeps_foldl _ _ ?_ ?_
    | with_reducible apply State.settleRoutes_keeps
    | with_reducible apply State.applyEvents_keeps
    | (intro _ _ _)
    | with_reducible apply keeps_store

theorem State.audOff_keeps {s : State} (h : s0.Keeps fp s)
    (hm : Sub 0x801000200 fp) :
    s0.Keeps fp (State.audOff s) := by
  unfold State.audOff
  try dsimp only
  repeat' first
    | with_reducible assumption
    | ((with_reducible refine Sub.bit hm ?_); exact rfl)
    | ((with_reducible refine Sub.mono hm ?_); exact rfl)
    | ((with_reducible refine .inl (Sub.bit hm ?_)); exact rfl)
    | with_reducible exact .inr rfl
    | ((with_reducible refine reg_bit _ (Sub.mono hm ?_)); exact rfl)
    | ((with_reducible refine rej_bit _ (Sub.mono hm ?_)); exact rfl)
    | with_reducible apply keeps_ite
    | with_reducible apply keeps_ite2
    | with_reducible apply keeps_ite3
    | with_reducible refine keeps_foldl _ _ ?_ ?_
    | with_reducible refine keeps_foldl2 _ _ _ ?_ ?_
    | with_reducible refine keeps_foldl3 _ _ _ ?_ ?_
    | with_reducible apply State.setVoice_keeps
    | (intro _ _ _)
    | (intro _ _)
    | (intro _)
    | (split; rename_i e; have e3 := congrArg (fun p => p.2.2) e; dsimp only at e3; subst e3)
    | (split; rename_i e; have e2 := congrArg Prod.snd e; dsimp only at e2; subst e2)
    | dsimp only
    | split
    | with_reducible apply keeps_fields
    | with_reducible apply keeps_store

theorem audCtrlWrite_keeps (w : Word) {s : State} (h : s0.Keeps fp s)
    (hm : Sub 0x801000200 fp) :
    s0.Keeps fp (audCtrlWrite w s) := by
  unfold audCtrlWrite
  try dsimp only
  repeat' first
    | with_reducible assumption
    | ((with_reducible refine Sub.bit hm ?_); exact rfl)
    | ((with_reducible refine Sub.mono hm ?_); exact rfl)
    | ((with_reducible refine .inl (Sub.bit hm ?_)); exact rfl)
    | with_reducible exact .inr rfl
    | with_reducible apply keeps_ite
    | with_reducible apply State.wr_keeps
    | with_reducible apply State.audOff_keeps
    | dsimp only
    | split
    | with_reducible apply keeps_fields
    | with_reducible apply keeps_store

theorem gainWrite_keeps (i : Nat) (r : RegName) (k : Nat) (w : Word) {s : State} (h : s0.Keeps fp s)
    (hm : Sub 0x800000000 fp) (hb_r : fp.testBit r.bit = true) :
    s0.Keeps fp (gainWrite i r k w s) := by
  unfold gainWrite
  try dsimp only
  repeat' first
    | with_reducible assumption
    | ((with_reducible refine Sub.bit hm ?_); exact rfl)
    | ((with_reducible refine Sub.mono hm ?_); exact rfl)
    | ((with_reducible refine reg_bit _ (Sub.mono hm ?_)); exact rfl)
    | ((with_reducible refine rej_bit _ (Sub.mono hm ?_)); exact rfl)
    | with_reducible apply State.wr_keeps
    | with_reducible apply State.touchGain_keeps
    | dsimp only

theorem tdmFrameStart_keeps (a : Nat) (clocks : Nat) {s : State} (h : s0.Keeps fp s)
    (hm : Sub 0x2080180020C fp) :
    s0.Keeps fp (tdmFrameStart a clocks s) := by
  unfold tdmFrameStart
  try dsimp only
  repeat' first
    | with_reducible assumption
    | ((with_reducible refine Sub.bit hm ?_); exact rfl)
    | ((with_reducible refine Sub.mono hm ?_); exact rfl)
    | ((with_reducible refine .inl (Sub.bit hm ?_)); exact rfl)
    | with_reducible exact .inr rfl
    | with_reducible apply bit_ite
    | with_reducible apply keeps_ite
    | with_reducible apply State.bump_keeps
    | with_reducible apply State.tdmSend_keeps
    | with_reducible apply State.audReference_keeps
    | dsimp only
    | split
    | with_reducible apply keeps_fields
    | with_reducible apply keeps_store

end Sys2Proof.Machine
end

