-- ==== Sys2Proof/Laws/KeepsBlitter.lean ====
section
/-! SUPPORT. What the operations of Machine/Blitter.lean keep, and the parts they may change. -/

namespace Sys2Proof.Machine

variable {fp : Nat} {s0 : State}

theorem State.bltRead_keeps {s : State} (a : Nat) (n : Nat) (h : s0.Keeps fp s)
    (hm : Sub 0x2000380000D fp) :
    s0.Keeps fp (State.bltRead s a n).2 := by
  unfold State.bltRead
  try dsimp only
  repeat' first
    | with_reducible assumption
    | ((with_reducible refine Sub.bit hm ?_); exact rfl)
    | ((with_reducible refine Sub.mono hm ?_); exact rfl)
    | ((with_reducible refine .inl (Sub.bit hm ?_)); exact rfl)
    | with_reducible exact .inr rfl
    | with_reducible refine keeps_foldl _ _ ?_ ?_
    | with_reducible refine keeps_foldl2 _ _ _ ?_ ?_
    | with_reducible apply State.psRead_keeps
    | (intro _ _ _)
    | (intro _ _)
    | (intro _)
    | (split; rename_i e; have e3 := congrArg (fun p => p.2.2) e; dsimp only at e3; subst e3)
    | (split; rename_i e; have e2 := congrArg Prod.snd e; dsimp only at e2; subst e2)
    | dsimp only
    | split
    | with_reducible apply keeps_fields
    | with_reducible apply keeps_store

theorem State.bltWrite_keeps {s : State} (a : Nat) (bs : List (Byte × Bool)) (count : Bool) (h : s0.Keeps fp s)
    (hm : Sub 0x2000380810D fp) :
    s0.Keeps fp (State.bltWrite s a bs count) := by
  unfold State.bltWrite
  try dsimp only
  repeat' first
    | with_reducible assumption
    | ((with_reducible refine Sub.bit hm ?_); exact rfl)
    | ((with_reducible refine Sub.mono hm ?_); exact rfl)
    | ((with_reducible refine .inl (Sub.bit hm ?_)); exact rfl)
    | with_reducible exact .inr rfl
    | with_reducible apply bit_ite
    | with_reducible apply keeps_ite
    | with_reducible refine keeps_foldl _ _ ?_ ?_
    | with_reducible refine keeps_foldl2 _ _ _ ?_ ?_
    | with_reducible apply State.bump_keeps
    | with_reducible apply State.deny_keeps
    | with_reducible apply State.psWrite_keeps
    | with_reducible apply State.poisonLine_keeps
    | (intro _ _ _)
    | (intro _ _)
    | (intro _)
    | dsimp only
    | split
    | with_reducible apply keeps_fields
    | with_reducible apply keeps_store

theorem State.setEng_keeps {s : State} (k : Nat) (e : Engine) (h : s0.Keeps fp s)
    (hm : Sub 0x1000000000 fp) :
    s0.Keeps fp (State.setEng s k e) := by
  unfold State.setEng
  try dsimp only
  repeat' first
    | with_reducible assumption
    | ((with_reducible refine Sub.bit hm ?_); exact rfl)
    | ((with_reducible refine Sub.mono hm ?_); exact rfl)
    | ((with_reducible refine .inl (Sub.bit hm ?_)); exact rfl)
    | with_reducible exact .inr rfl
    | dsimp only
    | with_reducible apply keeps_fields
    | with_reducible apply keeps_store

theorem State.showBlt_keeps {s : State} (h : s0.Keeps fp s)
    (hm : Sub 0x100 fp) :
    s0.Keeps fp (State.showBlt s) := by
  unfold State.showBlt
  try dsimp only
  repeat' first
    | with_reducible assumption
    | ((with_reducible refine Sub.bit hm ?_); exact rfl)
    | ((with_reducible refine Sub.mono hm ?_); exact rfl)
    | ((with_reducible refine .inl (Sub.bit hm ?_)); exact rfl)
    | with_reducible exact .inr rfl
    | with_reducible apply keeps_ite
    | with_reducible refine keeps_foldl _ _ ?_ ?_
    | with_reducible refine keeps_foldl2 _ _ _ ?_ ?_
    | with_reducible apply State.wr_keeps
    | (intro _ _ _)
    | (intro _ _)
    | (intro _)
    | dsimp only
    | split
    | with_reducible apply keeps_fields
    | with_reducible apply keeps_store

theorem State.bltFinish_keeps {s : State} (j : Blit) (status : Nat) (info2 : Nat) (h : s0.Keeps fp s)
    (hm : Sub 0x20001C0010E fp) :
    s0.Keeps fp (State.bltFinish s j status info2) := by
  unfold State.bltFinish
  try dsimp only
  repeat' first
    | with_reducible assumption
    | ((with_reducible refine Sub.bit hm ?_); exact rfl)
    | ((with_reducible refine Sub.mono hm ?_); exact rfl)
    | ((with_reducible refine .inl (Sub.bit hm ?_)); exact rfl)
    | with_reducible exact .inr rfl
    | with_reducible apply State.wr_keeps
    | with_reducible apply State.raise_keeps
    | with_reducible apply State.finish_keeps
    | dsimp only
    | split
    | with_reducible apply keeps_fields
    | with_reducible apply keeps_store

theorem State.engEnd_keeps {s : State} (k : Nat) (status : Nat) (info2 : Nat) (h : s0.Keeps fp s)
    (hm : Sub 0x21001C0010E fp) :
    s0.Keeps fp (State.engEnd s k status info2) := by
  unfold State.engEnd
  try dsimp only
  repeat' first
    | with_reducible assumption
    | ((with_reducible refine Sub.bit hm ?_); exact rfl)
    | ((with_reducible refine Sub.mono hm ?_); exact rfl)
    | ((with_reducible refine .inl (Sub.bit hm ?_)); exact rfl)
    | with_reducible exact .inr rfl
    | with_reducible apply State.wf_keeps
    | with_reducible apply State.setEng_keeps
    | with_reducible apply State.showBlt_keeps
    | with_reducible apply State.bltFinish_keeps
    | dsimp only
    | split
    | with_reducible apply keeps_fields
    | with_reducible apply keeps_store

theorem State.engBegin_keeps {s : State} (k : Nat) (d : List Byte) (h : s0.Keeps fp s)
    (hm : Sub 0x1000000100 fp) :
    s0.Keeps fp (State.engBegin s k d) := by
  unfold State.engBegin
  try dsimp only
  repeat' first
    | with_reducible assumption
    | ((with_reducible refine Sub.bit hm ?_); exact rfl)
    | ((with_reducible refine Sub.mono hm ?_); exact rfl)
    | ((with_reducible refine .inl (Sub.bit hm ?_)); exact rfl)
    | with_reducible exact .inr rfl
    | with_reducible apply bit_ite
    | with_reducible apply keeps_ite
    | with_reducible apply State.wf_keeps
    | with_reducible apply State.setEng_keeps
    | dsimp only
    | split
    | with_reducible apply keeps_fields
    | with_reducible apply keeps_store

theorem blitDispatch_keeps {s : State} (h : s0.Keeps fp s) (hm : Sub 0x21001C0010E fp) : s0.Keeps fp (blitDispatch s) := by
  unfold blitDispatch
  split
  · rename_i j t k _ _
    refine keeps_ite h ?_
    dsimp only
    generalize hp : State.bltCheck _ j.desc = p
    clear hp
    obtain ⟨st, bad⟩ := p
    dsimp only
    have h1 : s0.Keeps fp { s with blt := { s.blt with queue := t } } := by
      repeat' first
        | with_reducible assumption
        | ((with_reducible refine Sub.bit hm ?_); exact rfl)
        | ((with_reducible refine Sub.mono hm ?_); exact rfl)
        | ((with_reducible refine .inl (Sub.bit hm ?_)); exact rfl)
        | with_reducible exact .inr rfl
        | ((with_reducible refine reg_bit _ (Sub.mono hm ?_)); exact rfl)
        | ((with_reducible refine rej_parts _ (Sub.mono hm ?_)); exact rfl)
        | with_reducible apply keeps_store
    have h2 := fun r v => State.showBlt_keeps (State.wr_keeps .bltEProgress 0 k 0 0 (State.wr_keeps .bltEStatus
      (BitVec.ofNat 32 (r * 256)) k 0 0 (State.setEng_keeps k v h1 (Sub.mono hm rfl)) (Sub.bit hm rfl)) (Sub.bit hm rfl))
      (Sub.mono hm rfl)
    with_reducible refine keeps_ite ?_ (keeps_ite (State.engEnd_keeps _ _ _ (h2 _ _) ?_)
      (keeps_ite (State.wf_keeps _ _ _ _ _ _ _ (h2 _ _) ?_) (State.engBegin_keeps _ _ (h2 _ _) ?_)))
    · split
      · with_reducible refine State.engEnd_keeps _ _ _ (h2 _ _) ?_
        exact Sub.mono hm rfl
      · with_reducible refine State.engEnd_keeps _ _ _ (State.fresh_keeps _ (h2 _ _) ?_) ?_
        · exact Sub.mono hm rfl
        · exact Sub.mono hm rfl
    · exact Sub.mono hm rfl
    · exact Sub.bit hm rfl
    · exact Sub.mono hm rfl
  · exact h

theorem State.bltLineSeen_keeps {s : State} (n : Nat) (line : Nat) (h : s0.Keeps fp s)
    (hm : Sub 0x1000000000 fp) :
    s0.Keeps fp (State.bltLineSeen s n line) := by
  unfold State.bltLineSeen
  try dsimp only
  repeat' first
    | with_reducible assumption
    | ((with_reducible refine Sub.bit hm ?_); exact rfl)
    | ((with_reducible refine Sub.mono hm ?_); exact rfl)
    | ((with_reducible refine .inl (Sub.bit hm ?_)); exact rfl)
    | with_reducible exact .inr rfl
    | with_reducible apply keeps_ite
    | with_reducible refine keeps_foldl _ _ ?_ ?_
    | with_reducible refine keeps_foldl2 _ _ _ ?_ ?_
    | with_reducible apply State.setEng_keeps
    | (intro _ _ _)
    | (intro _ _)
    | (intro _)
    | dsimp only
    | split
    | with_reducible apply keeps_fields
    | with_reducible apply keeps_store

theorem State.bltBeamStopped_keeps {s : State} (n : Nat) (h : s0.Keeps fp s)
    (hm : Sub 0x21001C0010E fp) :
    s0.Keeps fp (State.bltBeamStopped s n) := by
  unfold State.bltBeamStopped
  try dsimp only
  repeat' first
    | with_reducible assumption
    | ((with_reducible refine Sub.bit hm ?_); exact rfl)
    | ((with_reducible refine Sub.mono hm ?_); exact rfl)
    | ((with_reducible refine .inl (Sub.bit hm ?_)); exact rfl)
    | with_reducible exact .inr rfl
    | with_reducible apply keeps_ite
    | with_reducible refine keeps_foldl _ _ ?_ ?_
    | with_reducible refine keeps_foldl2 _ _ _ ?_ ?_
    | with_reducible apply State.engEnd_keeps
    | (intro _ _ _)
    | (intro _ _)
    | (intro _)
    | dsimp only
    | split
    | with_reducible apply keeps_fields
    | with_reducible apply keeps_store

theorem syncStart_keeps (k : Nat) {s : State} (h : s0.Keeps fp s)
    (hm : Sub 0x1000000100 fp) :
    s0.Keeps fp (syncStart k s) := by
  unfold syncStart
  try dsimp only
  repeat' first
    | with_reducible assumption
    | ((with_reducible refine Sub.bit hm ?_); exact rfl)
    | ((with_reducible refine Sub.mono hm ?_); exact rfl)
    | ((with_reducible refine .inl (Sub.bit hm ?_)); exact rfl)
    | with_reducible exact .inr rfl
    | with_reducible apply keeps_ite
    | with_reducible apply State.engBegin_keeps
    | dsimp only
    | split
    | with_reducible apply keeps_fields
    | with_reducible apply keeps_store

theorem stageDone_keeps (k : Nat) {s : State} (h : s0.Keeps fp s)
    (hm : Sub 0x2000380810D fp) :
    s0.Keeps fp (stageDone k s) := by
  unfold stageDone
  try dsimp only
  repeat' first
    | with_reducible assumption
    | ((with_reducible refine Sub.bit hm ?_); exact rfl)
    | ((with_reducible refine Sub.mono hm ?_); exact rfl)
    | ((with_reducible refine .inl (Sub.bit hm ?_)); exact rfl)
    | with_reducible exact .inr rfl
    | with_reducible apply keeps_ite
    | with_reducible refine keeps_foldl _ _ ?_ ?_
    | with_reducible refine keeps_foldl2 _ _ _ ?_ ?_
    | with_reducible apply State.wf_keeps
    | with_reducible apply State.bltRead_keeps
    | with_reducible apply State.bltWrite_keeps
    | (intro _ _ _)
    | (intro _ _)
    | (intro _)
    | (split; rename_i e; have e3 := congrArg (fun p => p.2.2) e; dsimp only at e3; subst e3)
    | (split; rename_i e; have e2 := congrArg Prod.snd e; dsimp only at e2; subst e2)
    | dsimp only
    | split
    | with_reducible apply keeps_fields
    | with_reducible apply keeps_store

theorem rowVisible_keeps (k : Nat) {s : State} (h : s0.Keeps fp s)
    (hm : Sub 0x2100380810D fp) :
    s0.Keeps fp (rowVisible k s) := by
  unfold rowVisible
  try dsimp only
  repeat' first
    | with_reducible assumption
    | ((with_reducible refine Sub.bit hm ?_); exact rfl)
    | ((with_reducible refine Sub.mono hm ?_); exact rfl)
    | ((with_reducible refine .inl (Sub.bit hm ?_)); exact rfl)
    | with_reducible exact .inr rfl
    | with_reducible apply bit_ite
    | with_reducible apply keeps_ite
    | with_reducible refine keeps_foldl _ _ ?_ ?_
    | with_reducible refine keeps_foldl2 _ _ _ ?_ ?_
    | with_reducible apply State.wf_keeps
    | with_reducible apply State.raise_keeps
    | with_reducible apply State.bltRead_keeps
    | with_reducible apply State.bltWrite_keeps
    | with_reducible apply State.setEng_keeps
    | (intro _ _ _)
    | (intro _ _)
    | (intro _)
    | (split; rename_i e; have e3 := congrArg (fun p => p.2.2) e; dsimp only at e3; subst e3)
    | (split; rename_i e; have e2 := congrArg Prod.snd e; dsimp only at e2; subst e2)
    | dsimp only
    | split
    | with_reducible apply keeps_fields
    | with_reducible apply keeps_store

theorem blitComplete_keeps (k : Nat) {s : State} (h : s0.Keeps fp s)
    (hm : Sub 0x21001C0010E fp) :
    s0.Keeps fp (blitComplete k s) := by
  unfold blitComplete
  try dsimp only
  repeat' first
    | with_reducible assumption
    | ((with_reducible refine Sub.bit hm ?_); exact rfl)
    | ((with_reducible refine Sub.mono hm ?_); exact rfl)
    | ((with_reducible refine .inl (Sub.bit hm ?_)); exact rfl)
    | with_reducible exact .inr rfl
    | with_reducible apply keeps_ite
    | with_reducible apply State.engEnd_keeps
    | dsimp only
    | split
    | with_reducible apply keeps_fields
    | with_reducible apply keeps_store

theorem State.bltAccept_keeps {s : State} (j : Blit) (h : s0.Keeps fp s)
    (hm : Sub 0x1000000100 fp) :
    s0.Keeps fp (State.bltAccept s j) := by
  unfold State.bltAccept
  try dsimp only
  repeat' first
    | with_reducible assumption
    | ((with_reducible refine Sub.bit hm ?_); exact rfl)
    | ((with_reducible refine Sub.mono hm ?_); exact rfl)
    | ((with_reducible refine .inl (Sub.bit hm ?_)); exact rfl)
    | with_reducible exact .inr rfl
    | with_reducible apply State.showBlt_keeps
    | dsimp only
    | with_reducible apply keeps_fields
    | with_reducible apply keeps_store

theorem directGo_keeps {s : State} (h : s0.Keeps fp s)
    (hm : Sub 0x1000000100 fp) :
    s0.Keeps fp (directGo s) := by
  unfold directGo
  try dsimp only
  repeat' first
    | with_reducible assumption
    | ((with_reducible refine Sub.bit hm ?_); exact rfl)
    | ((with_reducible refine Sub.mono hm ?_); exact rfl)
    | ((with_reducible refine .inl (Sub.bit hm ?_)); exact rfl)
    | with_reducible exact .inr rfl
    | ((with_reducible refine rej_parts _ (Sub.mono hm ?_)); exact rfl)
    | with_reducible apply keeps_ite
    | with_reducible apply State.wb_keeps
    | with_reducible apply State.rejectAt_keeps
    | with_reducible apply State.reject_keeps
    | with_reducible apply State.bltAccept_keeps
    | (intro _ _ _)
    | (intro _ _)
    | (intro _)
    | dsimp only
    | split
    | with_reducible apply keeps_fields
    | with_reducible apply keeps_store

end Sys2Proof.Machine
end

