-- ==== Sys2Proof/Laws/KeepsDma.lean ====
section
/-! SUPPORT. What the operations of Machine/Dma.lean keep, and the parts they may change. -/

namespace Sys2Proof.Machine

variable {fp : Nat} {s0 : State}

theorem State.setChan_keeps {s : State} (c : Nat) (x : DmaChan) (h : s0.Keeps fp s)
    (hm : Sub 0x2000000000 fp) :
    s0.Keeps fp (State.setChan s c x) := by
  unfold State.setChan
  try dsimp only
  repeat' first
    | with_reducible assumption
    | ((with_reducible refine Sub.bit hm ?_); exact rfl)
    | ((with_reducible refine Sub.mono hm ?_); exact rfl)
    | ((with_reducible refine .inl (Sub.bit hm ?_)); exact rfl)
    | with_reducible exact .inr rfl
    | dsimp only
    | with_reducible apply keeps_fields
    | with_reducible apply keeps_store

theorem State.dmaError_keeps {s : State} (c : Nat) (kind : Nat) (host : Bool) (addr : Nat) (h : s0.Keeps fp s)
    (hm : Sub 0x80 fp) :
    s0.Keeps fp (State.dmaError s c kind host addr) := by
  unfold State.dmaError
  try dsimp only
  repeat' first
    | with_reducible assumption
    | ((with_reducible refine Sub.bit hm ?_); exact rfl)
    | ((with_reducible refine Sub.mono hm ?_); exact rfl)
    | with_reducible apply keeps_ite
    | with_reducible apply State.wr_keeps
    | dsimp only
    | split

theorem State.dmaCountBad_keeps {s : State} (c : Nat) (num : Nat) (h : s0.Keeps fp s)
    (hm : Sub 0x80 fp) :
    s0.Keeps fp (State.dmaCountBad s c num) := by
  unfold State.dmaCountBad
  try dsimp only
  repeat' first
    | with_reducible assumption
    | ((with_reducible refine Sub.bit hm ?_); exact rfl)
    | ((with_reducible refine Sub.mono hm ?_); exact rfl)
    | ((with_reducible refine .inl (Sub.bit hm ?_)); exact rfl)
    | with_reducible exact .inr rfl
    | with_reducible apply keeps_ite
    | with_reducible apply State.wr_keeps
    | with_reducible apply State.bump_keeps
    | dsimp only
    | split
    | with_reducible apply keeps_fields
    | with_reducible apply keeps_store

theorem State.dmaMark_keeps {s : State} (c : Nat) (num : Nat) (kind : Nat) (host : Bool) (addr : Nat) (h : s0.Keeps fp s)
    (hm : Sub 0x2000000080 fp) :
    s0.Keeps fp (State.dmaMark s c num kind host addr) := by
  unfold State.dmaMark
  try dsimp only
  repeat' first
    | with_reducible assumption
    | ((with_reducible refine Sub.bit hm ?_); exact rfl)
    | ((with_reducible refine Sub.mono hm ?_); exact rfl)
    | ((with_reducible refine .inl (Sub.bit hm ?_)); exact rfl)
    | with_reducible exact .inr rfl
    | with_reducible apply keeps_ite
    | with_reducible apply State.setChan_keeps
    | with_reducible apply State.dmaError_keeps
    | with_reducible apply State.dmaCountBad_keeps
    | (intro _ _ _)
    | (intro _ _)
    | (intro _)
    | dsimp only
    | split
    | with_reducible apply keeps_fields
    | with_reducible apply keeps_store

theorem State.dmaRecord_keeps {s : State} (c : Nat) (g : DmaSignal) (num : Nat) (h : s0.Keeps fp s)
    (hm : Sub 0x2000380808D fp) :
    s0.Keeps fp (State.dmaRecord s c g num) := by
  unfold State.dmaRecord
  try dsimp only
  repeat' first
    | with_reducible assumption
    | ((with_reducible refine Sub.bit hm ?_); exact rfl)
    | ((with_reducible refine Sub.mono hm ?_); exact rfl)
    | ((with_reducible refine .inl (Sub.bit hm ?_)); exact rfl)
    | with_reducible exact .inr rfl
    | with_reducible apply keeps_ite
    | with_reducible apply State.emit_keeps
    | with_reducible apply State.deny_keeps
    | with_reducible apply State.psWrite_keeps
    | with_reducible apply State.dmaError_keeps
    | with_reducible apply State.dmaCountBad_keeps
    | dsimp only
    | split
    | with_reducible apply keeps_fields
    | with_reducible apply keeps_store

theorem State.dmaFire_keeps {s : State} (c : Nat) (g : DmaSignal) (h : s0.Keeps fp s)
    (hm : Sub 0x2000380808D fp) :
    s0.Keeps fp (State.dmaFire s c g) := by
  unfold State.dmaFire
  try dsimp only
  repeat' first
    | with_reducible assumption
    | ((with_reducible refine Sub.bit hm ?_); exact rfl)
    | ((with_reducible refine Sub.mono hm ?_); exact rfl)
    | ((with_reducible refine .inl (Sub.bit hm ?_)); exact rfl)
    | with_reducible exact .inr rfl
    | with_reducible apply keeps_ite
    | with_reducible apply State.wr_keeps
    | with_reducible apply State.raise_keeps
    | with_reducible apply State.dmaRecord_keeps
    | dsimp only
    | split
    | with_reducible apply keeps_fields
    | with_reducible apply keeps_store

theorem State.dmaFireDue_keeps (n c : Nat) {s : State} (h : s0.Keeps fp s) (hm : Sub 0x2200380808D fp) :
    s0.Keeps fp (State.dmaFireDue n s c) := by
  induction n generalizing s with
  | zero => exact h
  | succ n ih =>
    unfold State.dmaFireDue
    split
    · exact h
    · exact keeps_ite (ih (State.dmaFire_keeps _ _ (State.setChan_keeps _ _ h (Sub.mono hm rfl)) (Sub.mono hm rfl))) h

theorem State.dmaComplete_keeps {s : State} (c : Nat) (st : Nat) (info2 : Nat) (h : s0.Keeps fp s)
    (hm : Sub 0x22001C0008E fp) :
    s0.Keeps fp (State.dmaComplete s c st info2) := by
  unfold State.dmaComplete
  try dsimp only
  repeat' first
    | with_reducible assumption
    | ((with_reducible refine Sub.bit hm ?_); exact rfl)
    | ((with_reducible refine Sub.mono hm ?_); exact rfl)
    | ((with_reducible refine .inl (Sub.bit hm ?_)); exact rfl)
    | with_reducible exact .inr rfl
    | with_reducible apply keeps_ite
    | with_reducible apply State.wf_keeps
    | with_reducible apply State.wb_keeps
    | with_reducible apply State.raise_keeps
    | with_reducible apply State.finish_keeps
    | with_reducible apply State.setChan_keeps
    | dsimp only
    | split
    | with_reducible apply keeps_fields
    | with_reducible apply keeps_store

theorem State.dmaRefill_keeps {s : State} (c : Nat) (h : s0.Keeps fp s)
    (hm : Sub 0x22000000000 fp) :
    s0.Keeps fp (State.dmaRefill s c) := by
  unfold State.dmaRefill
  try dsimp only
  repeat' first
    | with_reducible assumption
    | ((with_reducible refine Sub.bit hm ?_); exact rfl)
    | ((with_reducible refine Sub.mono hm ?_); exact rfl)
    | ((with_reducible refine .inl (Sub.bit hm ?_)); exact rfl)
    | with_reducible exact .inr rfl
    | with_reducible apply keeps_ite
    | with_reducible refine keeps_foldl _ _ ?_ ?_
    | with_reducible refine keeps_foldl2 _ _ _ ?_ ?_
    | with_reducible apply State.askHost_keeps
    | with_reducible apply State.setChan_keeps
    | (intro _ _ _)
    | (intro _ _)
    | (intro _)
    | dsimp only
    | split
    | with_reducible apply keeps_fields
    | with_reducible apply keeps_store

theorem State.dmaSettle_keeps {s : State} (c : Nat) (h : s0.Keeps fp s)
    (hm : Sub 0x22003C0808F fp) :
    s0.Keeps fp (State.dmaSettle s c) := by
  unfold State.dmaSettle
  try dsimp only
  repeat' first
    | with_reducible assumption
    | ((with_reducible refine Sub.bit hm ?_); exact rfl)
    | ((with_reducible refine Sub.mono hm ?_); exact rfl)
    | ((with_reducible refine .inl (Sub.bit hm ?_)); exact rfl)
    | with_reducible exact .inr rfl
    | with_reducible apply keeps_ite
    | with_reducible apply State.setChan_keeps
    | with_reducible apply State.dmaFireDue_keeps
    | with_reducible apply State.dmaComplete_keeps
    | (intro _ _ _)
    | (intro _ _)
    | (intro _)
    | dsimp only
    | split
    | with_reducible apply keeps_fields
    | with_reducible apply keeps_store

theorem State.dmaEnd_keeps {s : State} (c : Nat) (st : Nat) (info2 : Nat) (h : s0.Keeps fp s)
    (hm : Sub 0x22003C0808F fp) :
    s0.Keeps fp (State.dmaEnd s c st info2) := by
  unfold State.dmaEnd
  try dsimp only
  repeat' first
    | with_reducible assumption
    | ((with_reducible refine Sub.bit hm ?_); exact rfl)
    | ((with_reducible refine Sub.mono hm ?_); exact rfl)
    | ((with_reducible refine .inl (Sub.bit hm ?_)); exact rfl)
    | with_reducible exact .inr rfl
    | with_reducible apply State.setChan_keeps
    | with_reducible apply State.dmaSettle_keeps
    | dsimp only
    | with_reducible apply keeps_fields
    | with_reducible apply keeps_store

theorem State.dmaLook_keeps {s : State} (c : Nat) (h : s0.Keeps fp s)
    (hm : Sub 0x22003C0808F fp) :
    s0.Keeps fp (State.dmaLook s c) := by
  unfold State.dmaLook
  try dsimp only
  repeat' first
    | with_reducible assumption
    | ((with_reducible refine Sub.bit hm ?_); exact rfl)
    | ((with_reducible refine Sub.mono hm ?_); exact rfl)
    | ((with_reducible refine .inl (Sub.bit hm ?_)); exact rfl)
    | with_reducible exact .inr rfl
    | with_reducible apply keeps_ite
    | with_reducible apply State.dmaRefill_keeps
    | with_reducible apply State.dmaEnd_keeps
    | dsimp only
    | split
    | with_reducible apply keeps_fields
    | with_reducible apply keeps_store

theorem State.dmaStart_keeps {s : State} (c : Nat) (host : Bool) (prog : Nat) (ring : Option (Nat × Nat × List Byte)) (h : s0.Keeps fp s)
    (hm : Sub 0x22003C0808F fp) :
    s0.Keeps fp (State.dmaStart s c host prog ring) := by
  unfold State.dmaStart
  try dsimp only
  repeat' first
    | with_reducible assumption
    | ((with_reducible refine Sub.bit hm ?_); exact rfl)
    | ((with_reducible refine Sub.mono hm ?_); exact rfl)
    | ((with_reducible refine .inl (Sub.bit hm ?_)); exact rfl)
    | with_reducible exact .inr rfl
    | with_reducible apply State.wr_keeps
    | with_reducible apply State.wb_keeps
    | with_reducible apply State.setChan_keeps
    | with_reducible apply State.dmaLook_keeps
    | dsimp only
    | with_reducible apply keeps_fields
    | with_reducible apply keeps_store

theorem dmaCtrlWrite_keeps (c : Nat) (w : Word) {s : State} (h : s0.Keeps fp s)
    (hm : Sub 0x22003C0808F fp) :
    s0.Keeps fp (dmaCtrlWrite c w s) := by
  unfold dmaCtrlWrite
  try dsimp only
  repeat' first
    | with_reducible assumption
    | ((with_reducible refine Sub.bit hm ?_); exact rfl)
    | ((with_reducible refine Sub.mono hm ?_); exact rfl)
    | ((with_reducible refine .inl (Sub.bit hm ?_)); exact rfl)
    | with_reducible exact .inr rfl
    | ((with_reducible refine rej_parts _ (Sub.mono hm ?_)); exact rfl)
    | with_reducible apply keeps_ite
    | with_reducible apply State.wr_keeps
    | with_reducible apply State.rejectAt_keeps
    | with_reducible apply State.reject_keeps
    | with_reducible apply State.setChan_keeps
    | with_reducible apply State.dmaSettle_keeps
    | with_reducible apply State.dmaLook_keeps
    | with_reducible apply State.dmaStart_keeps
    | dsimp only
    | split
    | with_reducible apply keeps_fields
    | with_reducible apply keeps_store

theorem State.dmaStep_keeps {s : State} (c : Nat) (last : Int) (h : s0.Keeps fp s)
    (hm : Sub 0x22003C0808F fp) :
    s0.Keeps fp (State.dmaStep s c last) := by
  unfold State.dmaStep
  try dsimp only
  repeat' first
    | with_reducible assumption
    | ((with_reducible refine Sub.bit hm ?_); exact rfl)
    | ((with_reducible refine Sub.mono hm ?_); exact rfl)
    | ((with_reducible refine .inl (Sub.bit hm ?_)); exact rfl)
    | with_reducible exact .inr rfl
    | with_reducible apply State.setChan_keeps
    | with_reducible apply State.dmaLook_keeps
    | dsimp only
    | with_reducible apply keeps_fields
    | with_reducible apply keeps_store

theorem State.dmaIssue_keeps (n c : Nat) {s : State} (h : s0.Keeps fp s) (hm : Sub 0x22000000000 fp) :
    s0.Keeps fp (State.dmaIssue n s c) := by
  induction n generalizing s with
  | zero => exact h
  | succ n ih =>
    unfold State.dmaIssue
    dsimp only
    split
    · exact h
    · refine keeps_ite h (ih ?_)
      repeat' first
        | with_reducible assumption
        | ((with_reducible refine Sub.bit hm ?_); exact rfl)
        | ((with_reducible refine Sub.mono hm ?_); exact rfl)
        | ((with_reducible refine .inl (Sub.bit hm ?_)); exact rfl)
        | with_reducible exact .inr rfl
        | ((with_reducible refine reg_bit _ (Sub.mono hm ?_)); exact rfl)
        | ((with_reducible refine rej_parts _ (Sub.mono hm ?_)); exact rfl)
        | with_reducible apply keeps_ite
        | with_reducible apply State.askHost_keeps
        | with_reducible apply State.setChan_keeps

theorem State.dmaGo_keeps {s : State} (c : Nat) (h : s0.Keeps fp s)
    (hm : Sub 0x22003C0808F fp) :
    s0.Keeps fp (State.dmaGo s c) := by
  unfold State.dmaGo
  try dsimp only
  repeat' first
    | with_reducible assumption
    | ((with_reducible refine Sub.bit hm ?_); exact rfl)
    | ((with_reducible refine Sub.mono hm ?_); exact rfl)
    | ((with_reducible refine .inl (Sub.bit hm ?_)); exact rfl)
    | with_reducible exact .inr rfl
    | with_reducible apply keeps_ite
    | with_reducible apply State.dmaStep_keeps
    | with_reducible apply State.dmaIssue_keeps
    | dsimp only
    | split
    | with_reducible apply keeps_fields
    | with_reducible apply keeps_store

theorem dmaMove_keeps (c : Nat) {s : State} (h : s0.Keeps fp s)
    (hm : Sub 0x22003C0808F fp) :
    s0.Keeps fp (dmaMove c s) := by
  unfold dmaMove
  try dsimp only
  repeat' first
    | with_reducible assumption
    | ((with_reducible refine Sub.bit hm ?_); exact rfl)
    | ((with_reducible refine Sub.mono hm ?_); exact rfl)
    | ((with_reducible refine .inl (Sub.bit hm ?_)); exact rfl)
    | with_reducible exact .inr rfl
    | with_reducible apply keeps_ite
    | with_reducible apply State.wr_keeps
    | with_reducible apply State.setChan_keeps
    | with_reducible apply State.dmaMark_keeps
    | with_reducible apply State.dmaSettle_keeps
    | with_reducible apply State.dmaStep_keeps
    | with_reducible apply State.dmaGo_keeps
    | dsimp only
    | split
    | with_reducible apply keeps_fields
    | with_reducible apply keeps_store

theorem dmaLoop_keeps (c : Nat) {s : State} (h : s0.Keeps fp s)
    (hm : Sub 0x22003C0808F fp) :
    s0.Keeps fp (dmaLoop c s) := by
  unfold dmaLoop
  try dsimp only
  repeat' first
    | with_reducible assumption
    | ((with_reducible refine Sub.bit hm ?_); exact rfl)
    | ((with_reducible refine Sub.mono hm ?_); exact rfl)
    | ((with_reducible refine .inl (Sub.bit hm ?_)); exact rfl)
    | with_reducible exact .inr rfl
    | with_reducible apply keeps_ite
    | with_reducible apply State.setChan_keeps
    | with_reducible apply State.dmaLook_keeps
    | with_reducible apply State.dmaStep_keeps
    | dsimp only
    | split
    | with_reducible apply keeps_fields
    | with_reducible apply keeps_store

theorem State.dmaSkip_keeps {s : State} (c : Nat) (h : s0.Keeps fp s)
    (hm : Sub 0x80 fp) :
    s0.Keeps fp (State.dmaSkip s c) := by
  unfold State.dmaSkip
  try dsimp only
  repeat' first
    | with_reducible assumption
    | ((with_reducible refine Sub.bit hm ?_); exact rfl)
    | ((with_reducible refine Sub.mono hm ?_); exact rfl)
    | with_reducible apply State.wb_keeps
    | dsimp only

theorem dmaWait_keeps (c : Nat) {s : State} (h : s0.Keeps fp s)
    (hm : Sub 0x22003C0808F fp) :
    s0.Keeps fp (dmaWait c s) := by
  unfold dmaWait
  try dsimp only
  repeat' first
    | with_reducible assumption
    | ((with_reducible refine Sub.bit hm ?_); exact rfl)
    | ((with_reducible refine Sub.mono hm ?_); exact rfl)
    | ((with_reducible refine .inl (Sub.bit hm ?_)); exact rfl)
    | with_reducible exact .inr rfl
    | with_reducible apply keeps_ite
    | with_reducible apply State.setChan_keeps
    | with_reducible apply State.dmaStep_keeps
    | with_reducible apply State.dmaSkip_keeps
    | dsimp only
    | split
    | with_reducible apply keeps_fields
    | with_reducible apply keeps_store

theorem State.dmaWake_keeps {s : State} (c : Nat) (h : s0.Keeps fp s)
    (hm : Sub 0x22003C0808F fp) :
    s0.Keeps fp (State.dmaWake s c) := by
  unfold State.dmaWake
  try dsimp only
  repeat' first
    | with_reducible assumption
    | ((with_reducible refine Sub.bit hm ?_); exact rfl)
    | ((with_reducible refine Sub.mono hm ?_); exact rfl)
    | ((with_reducible refine .inl (Sub.bit hm ?_)); exact rfl)
    | with_reducible exact .inr rfl
    | with_reducible apply State.setChan_keeps
    | with_reducible apply State.dmaLook_keeps
    | dsimp only
    | with_reducible apply keeps_fields
    | with_reducible apply keeps_store

theorem State.dmaLineSeen_keeps {s : State} (n : Nat) (line : Nat) (h : s0.Keeps fp s)
    (hm : Sub 0x22003C0808F fp) :
    s0.Keeps fp (State.dmaLineSeen s n line) := by
  unfold State.dmaLineSeen
  try dsimp only
  repeat' first
    | with_reducible assumption
    | ((with_reducible refine Sub.bit hm ?_); exact rfl)
    | ((with_reducible refine Sub.mono hm ?_); exact rfl)
    | with_reducible apply keeps_ite
    | with_reducible refine keeps_foldl _ _ ?_ ?_
    | with_reducible refine keeps_foldl2 _ _ _ ?_ ?_
    | with_reducible apply State.dmaWake_keeps
    | (intro _ _ _)
    | (intro _ _)
    | (intro _)
    | dsimp only
    | split

theorem State.dmaBeamStopped_keeps {s : State} (n : Nat) (h : s0.Keeps fp s)
    (hm : Sub 0x22003C0808F fp) :
    s0.Keeps fp (State.dmaBeamStopped s n) := by
  unfold State.dmaBeamStopped
  try dsimp only
  repeat' first
    | with_reducible assumption
    | ((with_reducible refine Sub.bit hm ?_); exact rfl)
    | ((with_reducible refine Sub.mono hm ?_); exact rfl)
    | ((with_reducible refine .inl (Sub.bit hm ?_)); exact rfl)
    | with_reducible exact .inr rfl
    | with_reducible apply keeps_ite
    | with_reducible refine keeps_foldl _ _ ?_ ?_
    | with_reducible refine keeps_foldl2 _ _ _ ?_ ?_
    | with_reducible apply State.dmaSkip_keeps
    | with_reducible apply State.dmaWake_keeps
    | (intro _ _ _)
    | (intro _ _)
    | (intro _)
    | dsimp only
    | split
    | with_reducible apply keeps_fields
    | with_reducible apply keeps_store

theorem dmaTimeExpiry_keeps (c : Nat) {s : State} (h : s0.Keeps fp s)
    (hm : Sub 0x22003C0808F fp) :
    s0.Keeps fp (dmaTimeExpiry c s) := by
  unfold dmaTimeExpiry
  try dsimp only
  repeat' first
    | with_reducible assumption
    | ((with_reducible refine Sub.bit hm ?_); exact rfl)
    | ((with_reducible refine Sub.mono hm ?_); exact rfl)
    | ((with_reducible refine .inl (Sub.bit hm ?_)); exact rfl)
    | with_reducible exact .inr rfl
    | with_reducible apply keeps_ite
    | with_reducible apply State.dmaWake_keeps
    | dsimp only
    | split
    | with_reducible apply keeps_fields
    | with_reducible apply keeps_store

theorem dmaSignal_keeps (c : Nat) {s : State} (h : s0.Keeps fp s)
    (hm : Sub 0x22003C0808F fp) :
    s0.Keeps fp (dmaSignal c s) := by
  unfold dmaSignal
  try dsimp only
  repeat' first
    | with_reducible assumption
    | ((with_reducible refine Sub.bit hm ?_); exact rfl)
    | ((with_reducible refine Sub.mono hm ?_); exact rfl)
    | ((with_reducible refine .inl (Sub.bit hm ?_)); exact rfl)
    | with_reducible exact .inr rfl
    | with_reducible apply keeps_ite
    | with_reducible apply State.setChan_keeps
    | with_reducible apply State.dmaSettle_keeps
    | with_reducible apply State.dmaStep_keeps
    | dsimp only
    | split
    | with_reducible apply keeps_fields
    | with_reducible apply keeps_store

theorem dmaJump_keeps (c : Nat) {s : State} (h : s0.Keeps fp s)
    (hm : Sub 0x22003C0808F fp) :
    s0.Keeps fp (dmaJump c s) := by
  unfold dmaJump
  try dsimp only
  repeat' first
    | with_reducible assumption
    | ((with_reducible refine Sub.bit hm ?_); exact rfl)
    | ((with_reducible refine Sub.mono hm ?_); exact rfl)
    | ((with_reducible refine .inl (Sub.bit hm ?_)); exact rfl)
    | with_reducible exact .inr rfl
    | with_reducible apply State.setChan_keeps
    | with_reducible apply State.dmaLook_keeps
    | dsimp only
    | split
    | with_reducible apply keeps_fields
    | with_reducible apply keeps_store

theorem dmaEnd_keeps (c : Nat) {s : State} (h : s0.Keeps fp s)
    (hm : Sub 0x22003C0808F fp) :
    s0.Keeps fp (dmaEnd c s) := by
  unfold dmaEnd
  try dsimp only
  repeat' first
    | with_reducible assumption
    | ((with_reducible refine Sub.bit hm ?_); exact rfl)
    | ((with_reducible refine Sub.mono hm ?_); exact rfl)
    | ((with_reducible refine .inl (Sub.bit hm ?_)); exact rfl)
    | with_reducible exact .inr rfl
    | with_reducible apply State.dmaEnd_keeps
    | dsimp only
    | split
    | with_reducible apply keeps_fields
    | with_reducible apply keeps_store

theorem dmaLineDone_keeps (c : Nat) (i : Nat) (data : Option (List Byte)) {s : State} (h : s0.Keeps fp s)
    (hm : Sub 0x22003C0808F fp) :
    s0.Keeps fp (dmaLineDone c i data s) := by
  unfold dmaLineDone
  try dsimp only
  repeat' first
    | with_reducible assumption
    | ((with_reducible refine Sub.bit hm ?_); exact rfl)
    | ((with_reducible refine Sub.mono hm ?_); exact rfl)
    | ((with_reducible refine .inl (Sub.bit hm ?_)); exact rfl)
    | with_reducible exact .inr rfl
    | with_reducible apply bit_ite
    | with_reducible apply keeps_ite
    | with_reducible apply State.psRead_keeps
    | with_reducible apply State.setChan_keeps
    | with_reducible apply State.dmaLook_keeps
    | (split; rename_i e; have e3 := congrArg (fun p => p.2.2) e; dsimp only at e3; subst e3)
    | (split; rename_i e; have e2 := congrArg Prod.snd e; dsimp only at e2; subst e2)
    | dsimp only
    | split
    | with_reducible apply keeps_fields
    | with_reducible apply keeps_store

theorem State.dmaResume_keeps {s : State} (h : s0.Keeps fp s)
    (hm : Sub 0x22003C0808F fp) :
    s0.Keeps fp (State.dmaResume s) := by
  unfold State.dmaResume
  try dsimp only
  repeat' first
    | with_reducible assumption
    | ((with_reducible refine Sub.bit hm ?_); exact rfl)
    | ((with_reducible refine Sub.mono hm ?_); exact rfl)
    | with_reducible refine keeps_foldl _ _ ?_ ?_
    | with_reducible refine keeps_foldl2 _ _ _ ?_ ?_
    | with_reducible apply State.dmaLook_keeps
    | (intro _ _ _)
    | (intro _ _)
    | (intro _)
    | dsimp only

end Sys2Proof.Machine
end

