-- ==== Sys2Proof/Laws/KeepsGpio.lean ====
section
/-! SUPPORT. What the operations of Machine/Gpio.lean keep, and the parts they may change. -/

namespace Sys2Proof.Machine

variable {fp : Nat} {s0 : State}

theorem State.setPinBit_keeps {s : State} (r : RegName) (p : Nat) (v : Bool) (h : s0.Keeps fp s)
    (hm : Sub 0 fp) (hb_r : fp.testBit r.bit = true) :
    s0.Keeps fp (State.setPinBit s r p v) := by
  unfold State.setPinBit
  try dsimp only
  repeat' first
    | with_reducible assumption
    | ((with_reducible refine Sub.bit hm ?_); exact rfl)
    | ((with_reducible refine Sub.mono hm ?_); exact rfl)
    | ((with_reducible refine reg_bit _ (Sub.mono hm ?_)); exact rfl)
    | ((with_reducible refine rej_bit _ (Sub.mono hm ?_)); exact rfl)
    | with_reducible apply State.wb_keeps
    | dsimp only

theorem State.freshBit_keeps {s : State} (h : s0.Keeps fp s)
    (hm : Sub 0 fp) :
    s0.Keeps fp (State.freshBit s).2 := by
  unfold State.freshBit
  try dsimp only
  repeat' first
    | with_reducible assumption
    | ((with_reducible refine Sub.bit hm ?_); exact rfl)
    | ((with_reducible refine Sub.mono hm ?_); exact rfl)
    | ((with_reducible refine .inl (Sub.bit hm ?_)); exact rfl)
    | with_reducible exact .inr rfl
    | with_reducible apply State.fresh_keeps
    | (split; rename_i e; have e3 := congrArg (fun p => p.2.2) e; dsimp only at e3; subst e3)
    | (split; rename_i e; have e2 := congrArg Prod.snd e; dsimp only at e2; subst e2)
    | dsimp only
    | split
    | with_reducible apply keeps_fields
    | with_reducible apply keeps_store

theorem State.syncLevel_keeps {s : State} (n : Nat) (vertical : Bool) (h : s0.Keeps fp s)
    (hm : Sub 0 fp) :
    s0.Keeps fp (State.syncLevel s n vertical).2 := by
  unfold State.syncLevel
  try dsimp only
  repeat' first
    | with_reducible assumption
    | ((with_reducible refine Sub.bit hm ?_); exact rfl)
    | ((with_reducible refine Sub.mono hm ?_); exact rfl)
    | ((with_reducible refine .inl (Sub.bit hm ?_)); exact rfl)
    | with_reducible exact .inr rfl
    | with_reducible apply bit_ite
    | with_reducible apply keeps_ite
    | with_reducible apply keeps_ite2
    | with_reducible apply State.freshBit_keeps
    | dsimp only
    | split
    | with_reducible apply keeps_fields
    | with_reducible apply keeps_store

theorem State.pinDrives_keeps {s : State} (p : Nat) (h : s0.Keeps fp s)
    (hm : Sub 0 fp) :
    s0.Keeps fp (State.pinDrives s p).2 := by
  unfold State.pinDrives
  try dsimp only
  repeat' first
    | with_reducible assumption
    | ((with_reducible refine Sub.bit hm ?_); exact rfl)
    | ((with_reducible refine Sub.mono hm ?_); exact rfl)
    | ((with_reducible refine .inl (Sub.bit hm ?_)); exact rfl)
    | with_reducible exact .inr rfl
    | with_reducible apply bit_ite
    | with_reducible apply keeps_ite
    | with_reducible apply keeps_ite2
    | with_reducible apply State.freshBit_keeps
    | with_reducible apply State.syncLevel_keeps
    | dsimp only
    | split
    | with_reducible apply keeps_fields
    | with_reducible apply keeps_store

theorem State.padLevel_keeps {s : State} (p : Nat) (drive : Option Bool) (h : s0.Keeps fp s)
    (hm : Sub 0 fp) :
    s0.Keeps fp (State.padLevel s p drive).2 := by
  unfold State.padLevel
  try dsimp only
  repeat' first
    | with_reducible assumption
    | ((with_reducible refine Sub.bit hm ?_); exact rfl)
    | ((with_reducible refine Sub.mono hm ?_); exact rfl)
    | ((with_reducible refine .inl (Sub.bit hm ?_)); exact rfl)
    | with_reducible exact .inr rfl
    | with_reducible apply keeps_ite
    | with_reducible apply keeps_ite2
    | with_reducible apply State.freshBit_keeps
    | dsimp only
    | split
    | with_reducible apply keeps_fields
    | with_reducible apply keeps_store

theorem State.refreshPin_keeps {s : State} (p : Nat) (h : s0.Keeps fp s)
    (hm : Sub 0x4000000010 fp) :
    s0.Keeps fp (State.refreshPin s p) := by
  unfold State.refreshPin
  try dsimp only
  repeat' first
    | with_reducible assumption
    | ((with_reducible refine Sub.bit hm ?_); exact rfl)
    | ((with_reducible refine Sub.mono hm ?_); exact rfl)
    | ((with_reducible refine .inl (Sub.bit hm ?_)); exact rfl)
    | with_reducible exact .inr rfl
    | with_reducible apply keeps_ite
    | with_reducible apply State.setPinBit_keeps
    | with_reducible apply State.pinDrives_keeps
    | with_reducible apply State.padLevel_keeps
    | (split; rename_i e; have e3 := congrArg (fun p => p.2.2) e; dsimp only at e3; subst e3)
    | (split; rename_i e; have e2 := congrArg Prod.snd e; dsimp only at e2; subst e2)
    | dsimp only
    | split
    | with_reducible apply keeps_fields
    | with_reducible apply keeps_store

theorem State.refreshPads_keeps {s : State} (x : Nat) (h : s0.Keeps fp s)
    (hm : Sub 0x4000000010 fp) :
    s0.Keeps fp (State.refreshPads s x) := by
  unfold State.refreshPads
  try dsimp only
  repeat' first
    | with_reducible assumption
    | ((with_reducible refine Sub.bit hm ?_); exact rfl)
    | ((with_reducible refine Sub.mono hm ?_); exact rfl)
    | with_reducible refine keeps_foldl _ _ ?_ ?_
    | with_reducible refine keeps_foldl2 _ _ _ ?_ ?_
    | with_reducible apply State.refreshPin_keeps
    | (intro _ _ _)
    | (intro _ _)
    | (intro _)
    | dsimp only

theorem State.pinReference_keeps {s : State} (p : Nat) (rising : Bool) (h : s0.Keeps fp s)
    (hm : Sub 0x20811800A0C fp) :
    s0.Keeps fp (State.pinReference s p rising) := by
  unfold State.pinReference
  try dsimp only
  repeat' first
    | with_reducible assumption
    | ((with_reducible refine Sub.bit hm ?_); exact rfl)
    | ((with_reducible refine Sub.mono hm ?_); exact rfl)
    | ((with_reducible refine .inl (Sub.bit hm ?_)); exact rfl)
    | with_reducible exact .inr rfl
    | with_reducible apply keeps_ite
    | with_reducible refine keeps_foldl _ _ ?_ ?_
    | with_reducible refine keeps_foldl2 _ _ _ ?_ ?_
    | with_reducible apply State.reference_keeps
    | with_reducible apply State.audReference_keeps
    | (intro _ _ _)
    | (intro _ _)
    | (intro _)
    | dsimp only
    | split
    | with_reducible apply keeps_fields
    | with_reducible apply keeps_store

theorem State.pinEdge_keeps {s : State} (p : Nat) (rising : Bool) (h : s0.Keeps fp s)
    (hm : Sub 0x20811800A0C fp) :
    s0.Keeps fp (State.pinEdge s p rising) := by
  unfold State.pinEdge
  try dsimp only
  repeat' first
    | with_reducible assumption
    | ((with_reducible refine Sub.bit hm ?_); exact rfl)
    | ((with_reducible refine Sub.mono hm ?_); exact rfl)
    | ((with_reducible refine .inl (Sub.bit hm ?_)); exact rfl)
    | with_reducible exact .inr rfl
    | with_reducible apply keeps_ite
    | with_reducible apply State.raise_keeps
    | with_reducible apply State.pinReference_keeps
    | dsimp only
    | split
    | with_reducible apply keeps_fields
    | with_reducible apply keeps_store

theorem State.pinLevel_keeps {s : State} (p : Nat) (h : s0.Keeps fp s)
    (hm : Sub 0x2000180000C fp) :
    s0.Keeps fp (State.pinLevel s p) := by
  unfold State.pinLevel
  try dsimp only
  repeat' first
    | with_reducible assumption
    | ((with_reducible refine Sub.bit hm ?_); exact rfl)
    | ((with_reducible refine Sub.mono hm ?_); exact rfl)
    | ((with_reducible refine .inl (Sub.bit hm ?_)); exact rfl)
    | with_reducible exact .inr rfl
    | with_reducible apply keeps_ite
    | with_reducible apply State.raise_keeps
    | dsimp only
    | split
    | with_reducible apply keeps_fields
    | with_reducible apply keeps_store

theorem filterSample_keeps (p : Nat) {s : State} (h : s0.Keeps fp s)
    (hm : Sub 0x24811800A1C fp) :
    s0.Keeps fp (filterSample p s) := by
  unfold filterSample
  try dsimp only
  repeat' first
    | with_reducible assumption
    | ((with_reducible refine Sub.bit hm ?_); exact rfl)
    | ((with_reducible refine Sub.mono hm ?_); exact rfl)
    | ((with_reducible refine .inl (Sub.bit hm ?_)); exact rfl)
    | with_reducible exact .inr rfl
    | with_reducible apply keeps_ite
    | with_reducible apply State.setPinBit_keeps
    | with_reducible apply State.refreshPin_keeps
    | with_reducible apply State.pinEdge_keeps
    | with_reducible apply State.pinLevel_keeps
    | dsimp only
    | split
    | with_reducible apply keeps_fields
    | with_reducible apply keeps_store

theorem padChange_keeps (p : Nat) (level : Option Bool) {s : State} (h : s0.Keeps fp s)
    (hm : Sub 0x4000000010 fp) :
    s0.Keeps fp (padChange p level s) := by
  unfold padChange
  try dsimp only
  repeat' first
    | with_reducible assumption
    | ((with_reducible refine Sub.bit hm ?_); exact rfl)
    | ((with_reducible refine Sub.mono hm ?_); exact rfl)
    | ((with_reducible refine .inl (Sub.bit hm ?_)); exact rfl)
    | with_reducible exact .inr rfl
    | with_reducible apply State.refreshPin_keeps
    | dsimp only
    | split
    | with_reducible apply keeps_fields
    | with_reducible apply keeps_store

theorem gpioOutWrite_keeps (x : Nat) (w : Word) {s : State} (h : s0.Keeps fp s)
    (hm : Sub 0x4000000010 fp) :
    s0.Keeps fp (gpioOutWrite x w s) := by
  unfold gpioOutWrite
  try dsimp only
  repeat' first
    | with_reducible assumption
    | ((with_reducible refine Sub.bit hm ?_); exact rfl)
    | ((with_reducible refine Sub.mono hm ?_); exact rfl)
    | with_reducible apply State.wr_keeps
    | with_reducible apply State.refreshPads_keeps
    | dsimp only

theorem gpioSet_keeps (x : Nat) (w : Word) {s : State} (h : s0.Keeps fp s)
    (hm : Sub 0x4000000010 fp) :
    s0.Keeps fp (gpioSet x w s) := by
  unfold gpioSet
  try dsimp only
  repeat' first
    | with_reducible assumption
    | ((with_reducible refine Sub.bit hm ?_); exact rfl)
    | ((with_reducible refine Sub.mono hm ?_); exact rfl)
    | with_reducible apply gpioOutWrite_keeps
    | dsimp only

theorem gpioClr_keeps (x : Nat) (w : Word) {s : State} (h : s0.Keeps fp s)
    (hm : Sub 0x4000000010 fp) :
    s0.Keeps fp (gpioClr x w s) := by
  unfold gpioClr
  try dsimp only
  repeat' first
    | with_reducible assumption
    | ((with_reducible refine Sub.bit hm ?_); exact rfl)
    | ((with_reducible refine Sub.mono hm ?_); exact rfl)
    | with_reducible apply gpioOutWrite_keeps
    | dsimp only

theorem gpioCtrlWrite_keeps (p : Nat) (w : Word) {s : State} (h : s0.Keeps fp s)
    (hm : Sub 0x4000000010 fp) :
    s0.Keeps fp (gpioCtrlWrite p w s) := by
  unfold gpioCtrlWrite
  try dsimp only
  repeat' first
    | with_reducible assumption
    | ((with_reducible refine Sub.bit hm ?_); exact rfl)
    | ((with_reducible refine Sub.mono hm ?_); exact rfl)
    | with_reducible apply State.wr_keeps
    | with_reducible apply State.refreshPin_keeps
    | dsimp only

theorem gpioInWrite_keeps (p : Nat) (w : Word) {s : State} (h : s0.Keeps fp s)
    (hm : Sub 0x2400180001C fp) :
    s0.Keeps fp (gpioInWrite p w s) := by
  unfold gpioInWrite
  try dsimp only
  repeat' first
    | with_reducible assumption
    | ((with_reducible refine Sub.bit hm ?_); exact rfl)
    | ((with_reducible refine Sub.mono hm ?_); exact rfl)
    | ((with_reducible refine .inl (Sub.bit hm ?_)); exact rfl)
    | with_reducible exact .inr rfl
    | with_reducible apply keeps_ite
    | with_reducible apply State.wr_keeps
    | with_reducible apply State.pinLevel_keeps
    | dsimp only
    | split
    | with_reducible apply keeps_fields
    | with_reducible apply keeps_store

theorem bankSupply_keeps (b : Nat) (supply : Option Bool) {s : State} (h : s0.Keeps fp s)
    (hm : Sub 0x4000000010 fp) :
    s0.Keeps fp (bankSupply b supply s) := by
  unfold bankSupply
  try dsimp only
  repeat' first
    | with_reducible assumption
    | ((with_reducible refine Sub.bit hm ?_); exact rfl)
    | ((with_reducible refine Sub.mono hm ?_); exact rfl)
    | ((with_reducible refine .inl (Sub.bit hm ?_)); exact rfl)
    | with_reducible exact .inr rfl
    | with_reducible apply keeps_ite
    | with_reducible refine keeps_foldl _ _ ?_ ?_
    | with_reducible refine keeps_foldl2 _ _ _ ?_ ?_
    | with_reducible apply State.wb_keeps
    | with_reducible apply State.setPinBit_keeps
    | with_reducible apply State.refreshPin_keeps
    | (intro _ _ _)
    | (intro _ _)
    | (intro _)
    | dsimp only
    | split
    | with_reducible apply keeps_fields
    | with_reducible apply keeps_store

end Sys2Proof.Machine
end

