-- ==== Sys2Proof/Laws/KeepsEmission.lean ====
section
/-! SUPPORT. What the operations of Machine/Emission.lean keep, and the parts they may change. -/

namespace Sys2Proof.Machine

variable {fp : Nat} {s0 : State}

theorem State.beamWrite_keeps {s : State} (n : Nat) (a : Nat) (bs : List Byte) (h : s0.Keeps fp s)
    (hm : Sub 0x2000380800D fp) :
    s0.Keeps fp (State.beamWrite s n a bs) := by
  unfold State.beamWrite
  try dsimp only
  repeat' first
    | with_reducible assumption
    | ((with_reducible refine Sub.bit hm ?_); exact rfl)
    | ((with_reducible refine Sub.mono hm ?_); exact rfl)
    | with_reducible apply keeps_ite
    | with_reducible apply State.deny_keeps
    | with_reducible apply State.psWrite_keeps
    | dsimp only
    | split

theorem State.wbPut_keeps {s : State} (n : Nat) (x : WbItem) (h : s0.Keeps fp s)
    (hm : Sub 0x10000000 fp) :
    s0.Keeps fp (State.wbPut s n x) := by
  unfold State.wbPut
  try dsimp only
  repeat' first
    | with_reducible assumption
    | ((with_reducible refine Sub.bit hm ?_); exact rfl)
    | ((with_reducible refine Sub.mono hm ?_); exact rfl)
    | ((with_reducible refine .inl (Sub.bit hm ?_)); exact rfl)
    | with_reducible exact .inr rfl
    | with_reducible apply State.setBeam_keeps
    | dsimp only
    | with_reducible apply keeps_fields
    | with_reducible apply keeps_store

theorem State.wbTake_keeps {s : State} (n : Nat) (h : s0.Keeps fp s)
    (hm : Sub 0x2001380800D fp) :
    s0.Keeps fp (State.wbTake s n) := by
  unfold State.wbTake
  try dsimp only
  repeat' first
    | with_reducible assumption
    | ((with_reducible refine Sub.bit hm ?_); exact rfl)
    | ((with_reducible refine Sub.mono hm ?_); exact rfl)
    | ((with_reducible refine .inl (Sub.bit hm ?_)); exact rfl)
    | with_reducible exact .inr rfl
    | with_reducible apply keeps_ite
    | with_reducible apply State.record_keeps
    | with_reducible apply State.raise_keeps
    | with_reducible apply State.setBeam_keeps
    | with_reducible apply State.beamWrite_keeps
    | dsimp only
    | split
    | with_reducible apply keeps_fields
    | with_reducible apply keeps_store

theorem State.wbRecords_keeps {s : State} (n : Nat) (h : s0.Keeps fp s)
    (hm : Sub 0x2001380800D fp) :
    s0.Keeps fp (State.wbRecords s n) := by
  unfold State.wbRecords
  try dsimp only
  repeat' first
    | with_reducible assumption
    | ((with_reducible refine Sub.bit hm ?_); exact rfl)
    | ((with_reducible refine Sub.mono hm ?_); exact rfl)
    | ((with_reducible refine .inl (Sub.bit hm ?_)); exact rfl)
    | with_reducible exact .inr rfl
    | with_reducible refine keeps_foldl _ _ ?_ ?_
    | with_reducible refine keeps_foldl2 _ _ _ ?_ ?_
    | with_reducible apply State.record_keeps
    | with_reducible apply State.wbTake_keeps
    | (intro _ _ _)
    | (intro _ _)
    | (intro _)
    | dsimp only
    | split
    | with_reducible apply keeps_fields
    | with_reducible apply keeps_store

theorem State.wbDrain_keeps {s : State} (n : Nat) (lines : Nat) (h : s0.Keeps fp s)
    (hm : Sub 0x2001380800D fp) :
    s0.Keeps fp (State.wbDrain s n lines) := by
  unfold State.wbDrain
  try dsimp only
  repeat' first
    | with_reducible assumption
    | ((with_reducible refine Sub.bit hm ?_); exact rfl)
    | ((with_reducible refine Sub.mono hm ?_); exact rfl)
    | with_reducible refine keeps_foldl _ _ ?_ ?_
    | with_reducible refine keeps_foldl2 _ _ _ ?_ ?_
    | with_reducible apply State.wbTake_keeps
    | with_reducible apply State.wbRecords_keeps
    | (intro _ _ _)
    | (intro _ _)
    | (intro _)
    | dsimp only

theorem State.wbRecord_keeps {s : State} (n : Nat) (done : Bool) (h : s0.Keeps fp s)
    (hm : Sub 0x1180000C fp) :
    s0.Keeps fp (State.wbRecord s n done) := by
  unfold State.wbRecord
  try dsimp only
  repeat' first
    | with_reducible assumption
    | ((with_reducible refine Sub.bit hm ?_); exact rfl)
    | ((with_reducible refine Sub.mono hm ?_); exact rfl)
    | ((with_reducible refine .inl (Sub.bit hm ?_)); exact rfl)
    | with_reducible exact .inr rfl
    | with_reducible apply State.wb_keeps
    | with_reducible apply State.record_keeps
    | with_reducible apply State.wbPut_keeps
    | dsimp only
    | with_reducible apply keeps_fields
    | with_reducible apply keeps_store

theorem State.writeBack_keeps {s : State} (n : Nat) (e : Emit) (ctrl : Word) (h : s0.Keeps fp s)
    (hm : Sub 0x1180800C fp) :
    s0.Keeps fp (State.writeBack s n e ctrl) := by
  unfold State.writeBack
  try dsimp only
  repeat' first
    | with_reducible assumption
    | ((with_reducible refine Sub.bit hm ?_); exact rfl)
    | ((with_reducible refine Sub.mono hm ?_); exact rfl)
    | ((with_reducible refine .inl (Sub.bit hm ?_)); exact rfl)
    | with_reducible exact .inr rfl
    | with_reducible apply keeps_ite
    | with_reducible apply State.wb_keeps
    | with_reducible apply State.bump_keeps
    | with_reducible apply State.stamp_keeps
    | with_reducible apply State.deny_keeps
    | with_reducible apply State.setBeam_keeps
    | with_reducible apply State.wbPut_keeps
    | with_reducible apply State.wbRecord_keeps
    | (split; rename_i e; have e3 := congrArg (fun p => p.2.2) e; dsimp only at e3; subst e3)
    | (split; rename_i e; have e2 := congrArg Prod.snd e; dsimp only at e2; subst e2)
    | dsimp only
    | split
    | with_reducible apply keeps_fields
    | with_reducible apply keeps_store

theorem State.countShed_keeps {s : State} (n : Nat) (e : Emit) (h : s0.Keeps fp s)
    (hm : Sub 0x2001180200C fp) :
    s0.Keeps fp (State.countShed s n e) := by
  unfold State.countShed
  try dsimp only
  repeat' first
    | with_reducible assumption
    | ((with_reducible refine Sub.bit hm ?_); exact rfl)
    | ((with_reducible refine Sub.mono hm ?_); exact rfl)
    | ((with_reducible refine .inl (Sub.bit hm ?_)); exact rfl)
    | with_reducible exact .inr rfl
    | with_reducible apply keeps_ite
    | with_reducible apply State.wr_keeps
    | with_reducible apply State.wf_keeps
    | with_reducible apply State.bump_keeps
    | with_reducible apply State.raise_keeps
    | with_reducible apply State.setBeam_keeps
    | dsimp only
    | split
    | with_reducible apply keeps_fields
    | with_reducible apply keeps_store

theorem State.lineWaits_keeps {s : State} (n : Nat) (l : Nat) (h : s0.Keeps fp s)
    (hm : Sub 0x20001C0000E fp) :
    s0.Keeps fp (State.lineWaits s n l) := by
  unfold State.lineWaits
  try dsimp only
  repeat' first
    | with_reducible assumption
    | ((with_reducible refine Sub.bit hm ?_); exact rfl)
    | ((with_reducible refine Sub.mono hm ?_); exact rfl)
    | ((with_reducible refine .inl (Sub.bit hm ?_)); exact rfl)
    | with_reducible exact .inr rfl
    | with_reducible apply keeps_ite
    | with_reducible refine keeps_foldl _ _ ?_ ?_
    | with_reducible refine keeps_foldl2 _ _ _ ?_ ?_
    | with_reducible apply State.setRing_keeps
    | with_reducible apply State.finish_keeps
    | (intro _ _ _)
    | (intro _ _)
    | (intro _)
    | dsimp only
    | split
    | with_reducible apply keeps_fields
    | with_reducible apply keeps_store

theorem State.lineCounted_keeps {s : State} (n : Nat) (l : Nat) (h : s0.Keeps fp s)
    (hm : Sub 0x23013C0888F fp) :
    s0.Keeps fp (State.lineCounted s n l) := by
  unfold State.lineCounted
  try dsimp only
  repeat' first
    | with_reducible assumption
    | ((with_reducible refine Sub.bit hm ?_); exact rfl)
    | ((with_reducible refine Sub.mono hm ?_); exact rfl)
    | ((with_reducible refine .inl (Sub.bit hm ?_)); exact rfl)
    | with_reducible exact .inr rfl
    | with_reducible apply keeps_ite
    | with_reducible apply State.wr_keeps
    | with_reducible apply State.raise_keeps
    | with_reducible apply State.setBeam_keeps
    | with_reducible apply State.bltLineSeen_keeps
    | with_reducible apply State.dmaLineSeen_keeps
    | with_reducible apply State.lineWaits_keeps
    | dsimp only
    | split
    | with_reducible apply keeps_fields
    | with_reducible apply keeps_store

theorem State.emitLine_keeps {s : State} (n : Nat) (e : Emit) (h : s0.Keeps fp s)
    (hm : Sub 0x2041181A40C fp) :
    s0.Keeps fp (State.emitLine s n e) := by
  unfold State.emitLine
  try dsimp only
  repeat' first
    | with_reducible assumption
    | ((with_reducible refine Sub.bit hm ?_); exact rfl)
    | ((with_reducible refine Sub.mono hm ?_); exact rfl)
    | ((with_reducible refine .inl (Sub.bit hm ?_)); exact rfl)
    | with_reducible exact .inr rfl
    | with_reducible apply keeps_ite
    | with_reducible refine keeps_foldl _ _ ?_ ?_
    | with_reducible refine keeps_foldl2 _ _ _ ?_ ?_
    | with_reducible apply State.wf_keeps
    | with_reducible apply State.stamp_keeps
    | with_reducible apply State.setBeam_keeps
    | with_reducible apply State.portLine_keeps
    | with_reducible apply State.writeBack_keeps
    | with_reducible apply State.countShed_keeps
    | (intro _ _ _)
    | (intro _ _)
    | (intro _)
    | (split; rename_i e; have e3 := congrArg (fun p => p.2.2) e; dsimp only at e3; subst e3)
    | (split; rename_i e; have e2 := congrArg Prod.snd e; dsimp only at e2; subst e2)
    | dsimp only
    | split
    | with_reducible apply keeps_fields
    | with_reducible apply keeps_store

theorem State.lineStart_keeps {s : State} (n : Nat) (drained : Nat) (h : s0.Keeps fp s)
    (hm : Sub 0x2341FC1FC8F fp) :
    s0.Keeps fp (State.lineStart s n drained) := by
  unfold State.lineStart
  try dsimp only
  repeat' first
    | with_reducible assumption
    | ((with_reducible refine Sub.bit hm ?_); exact rfl)
    | ((with_reducible refine Sub.mono hm ?_); exact rfl)
    | ((with_reducible refine .inl (Sub.bit hm ?_)); exact rfl)
    | with_reducible exact .inr rfl
    | with_reducible apply keeps_ite
    | with_reducible apply State.setBeam_keeps
    | with_reducible apply State.deadline_keeps
    | with_reducible apply State.applyRoute_keeps
    | with_reducible apply State.wbDrain_keeps
    | with_reducible apply State.lineCounted_keeps
    | with_reducible apply State.emitLine_keeps
    | (intro _ _ _)
    | (intro _ _)
    | (intro _)
    | dsimp only
    | split
    | with_reducible apply keeps_fields
    | with_reducible apply keeps_store

theorem State.beamEnds_keeps {s : State} (n : Nat) (h : s0.Keeps fp s)
    (hm : Sub 0x2B757D08FAF fp) :
    s0.Keeps fp (State.beamEnds s n) := by
  unfold State.beamEnds
  try dsimp only
  repeat' first
    | with_reducible assumption
    | ((with_reducible refine Sub.bit hm ?_); exact rfl)
    | ((with_reducible refine Sub.mono hm ?_); exact rfl)
    | with_reducible apply State.stopBeam_keeps
    | with_reducible apply State.settleStopped_keeps
    | with_reducible apply State.bltBeamStopped_keeps
    | with_reducible apply State.dmaBeamStopped_keeps
    | with_reducible apply State.wbDrain_keeps
    | dsimp only

end Sys2Proof.Machine
end

