-- ==== Sys2Proof/Laws/KeepsCensus.lean ====
section
/-! SUPPORT. What the operations of Machine/Census.lean keep, and the parts they may change. -/

namespace Sys2Proof.Machine

variable {fp : Nat} {s0 : State}

theorem State.readQuiet_keeps {s : State} (key : Nat) (h : s0.Keeps fp s)
    (hm : Sub 0xC000001 fp) :
    s0.Keeps fp (State.readQuiet s key) := by
  unfold State.readQuiet
  try dsimp only
  repeat' first
    | with_reducible assumption
    | ((with_reducible refine Sub.bit hm ?_); exact rfl)
    | ((with_reducible refine Sub.mono hm ?_); exact rfl)
    | ((with_reducible refine .inl (Sub.bit hm ?_)); exact rfl)
    | with_reducible exact .inr rfl
    | with_reducible apply keeps_ite
    | with_reducible refine keeps_foldl _ _ ?_ ?_
    | with_reducible refine keeps_foldl2 _ _ _ ?_ ?_
    | with_reducible apply State.wr_keeps
    | with_reducible apply State.keepOff_keeps
    | dsimp only
    | split
    | with_reducible apply keeps_fields
    | with_reducible apply keeps_store

theorem State.readImage_keeps {s : State} (g : Nat) (h : s0.Keeps fp s)
    (hm : Sub 0xC000001 fp) :
    s0.Keeps fp (State.readImage s g) := by
  unfold State.readImage
  try dsimp only
  repeat' first
    | with_reducible assumption
    | ((with_reducible refine Sub.bit hm ?_); exact rfl)
    | ((with_reducible refine Sub.mono hm ?_); exact rfl)
    | ((with_reducible refine .inl (Sub.bit hm ?_)); exact rfl)
    | with_reducible exact .inr rfl
    | with_reducible apply keeps_ite
    | with_reducible refine keeps_foldl _ _ ?_ ?_
    | with_reducible refine keeps_foldl2 _ _ _ ?_ ?_
    | with_reducible apply State.readQuiet_keeps
    | (intro _ _ _)
    | (intro _ _)
    | (intro _)
    | dsimp only
    | split
    | with_reducible apply keeps_fields
    | with_reducible apply keeps_store

theorem State.cenWrite_keeps {s : State} (at_ : Nat) (bs : List Byte) (h : s0.Keeps fp s)
    (hm : Sub 0x20000000000 fp) :
    s0.Keeps fp (State.cenWrite s at_ bs) := by
  unfold State.cenWrite
  try dsimp only
  repeat' first
    | with_reducible assumption
    | ((with_reducible refine Sub.bit hm ?_); exact rfl)
    | ((with_reducible refine Sub.mono hm ?_); exact rfl)
    | with_reducible apply State.putData_keeps
    | dsimp only

theorem State.cenEnd_keeps {s : State} (st : Nat) (h : s0.Keeps fp s)
    (hm : Sub 0x285D5D08C2F fp) :
    s0.Keeps fp (State.cenEnd s st) := by
  unfold State.cenEnd
  try dsimp only
  repeat' first
    | with_reducible assumption
    | ((with_reducible refine Sub.bit hm ?_); exact rfl)
    | ((with_reducible refine Sub.mono hm ?_); exact rfl)
    | ((with_reducible refine .inl (Sub.bit hm ?_)); exact rfl)
    | with_reducible exact .inr rfl
    | with_reducible apply bit_ite
    | with_reducible apply keeps_ite
    | with_reducible apply State.wf_keeps
    | with_reducible apply State.wb_keeps
    | with_reducible apply State.raise_keeps
    | with_reducible apply State.releaseHeld_keeps
    | dsimp only
    | split
    | with_reducible apply keeps_fields
    | with_reducible apply keeps_store

theorem State.cenFlags_keeps {s : State} (more : Nat) (h : s0.Keeps fp s)
    (hm : Sub 0x20000000000 fp) :
    s0.Keeps fp (State.cenFlags s more) := by
  unfold State.cenFlags
  try dsimp only
  repeat' first
    | with_reducible assumption
    | ((with_reducible refine Sub.bit hm ?_); exact rfl)
    | ((with_reducible refine Sub.mono hm ?_); exact rfl)
    | ((with_reducible refine .inl (Sub.bit hm ?_)); exact rfl)
    | with_reducible exact .inr rfl
    | with_reducible apply State.cenWrite_keeps
    | dsimp only
    | split
    | with_reducible apply keeps_fields
    | with_reducible apply keeps_store

theorem State.cenReach_keeps {s : State} (h : s0.Keeps fp s)
    (hm : Sub 0x100000 fp) :
    s0.Keeps fp (State.cenReach s) := by
  unfold State.cenReach
  try dsimp only
  repeat' first
    | with_reducible assumption
    | ((with_reducible refine Sub.bit hm ?_); exact rfl)
    | ((with_reducible refine Sub.mono hm ?_); exact rfl)
    | ((with_reducible refine .inl (Sub.bit hm ?_)); exact rfl)
    | with_reducible exact .inr rfl
    | with_reducible apply keeps_ite
    | with_reducible apply State.wf_keeps
    | with_reducible apply State.wb_keeps
    | dsimp only
    | split
    | with_reducible apply keeps_fields
    | with_reducible apply keeps_store

theorem State.cenBegin_keeps {s : State} (h : s0.Keeps fp s)
    (hm : Sub 0x285D5D08C2F fp) :
    s0.Keeps fp (State.cenBegin s) := by
  unfold State.cenBegin
  try dsimp only
  repeat' first
    | with_reducible assumption
    | ((with_reducible refine Sub.bit hm ?_); exact rfl)
    | ((with_reducible refine Sub.mono hm ?_); exact rfl)
    | ((with_reducible refine .inl (Sub.bit hm ?_)); exact rfl)
    | with_reducible exact .inr rfl
    | with_reducible apply keeps_ite
    | with_reducible apply State.wr_keeps
    | with_reducible apply State.wf_keeps
    | with_reducible apply State.cenEnd_keeps
    | with_reducible apply State.cenReach_keeps
    | dsimp only
    | split
    | with_reducible apply keeps_fields
    | with_reducible apply keeps_store

theorem cenStart_keeps {s : State} (h : s0.Keeps fp s)
    (hm : Sub 0x285D5D08C2F fp) :
    s0.Keeps fp (cenStart s) := by
  unfold cenStart
  try dsimp only
  repeat' first
    | with_reducible assumption
    | ((with_reducible refine Sub.bit hm ?_); exact rfl)
    | ((with_reducible refine Sub.mono hm ?_); exact rfl)
    | ((with_reducible refine .inl (Sub.bit hm ?_)); exact rfl)
    | with_reducible exact .inr rfl
    | ((with_reducible refine rej_parts _ (Sub.mono hm ?_)); exact rfl)
    | with_reducible apply keeps_ite
    | with_reducible apply State.wf_keeps
    | with_reducible apply State.rejectAt_keeps
    | with_reducible apply State.reject_keeps
    | with_reducible apply State.cenBegin_keeps
    | dsimp only
    | split
    | with_reducible apply keeps_fields
    | with_reducible apply keeps_store

theorem cenCut_keeps {s : State} (h : s0.Keeps fp s)
    (hm : Sub 0x8C900001 fp) :
    s0.Keeps fp (cenCut s) := by
  unfold cenCut
  try dsimp only
  repeat' first
    | with_reducible assumption
    | ((with_reducible refine Sub.bit hm ?_); exact rfl)
    | ((with_reducible refine Sub.mono hm ?_); exact rfl)
    | ((with_reducible refine .inl (Sub.bit hm ?_)); exact rfl)
    | with_reducible exact .inr rfl
    | with_reducible apply keeps_ite
    | with_reducible apply State.stamp_keeps
    | with_reducible apply State.readImage_keeps
    | with_reducible apply State.cenReach_keeps
    | (split; rename_i e; have e3 := congrArg (fun p => p.2.2) e; dsimp only at e3; subst e3)
    | (split; rename_i e; have e2 := congrArg Prod.snd e; dsimp only at e2; subst e2)
    | dsimp only
    | split
    | with_reducible apply keeps_fields
    | with_reducible apply keeps_store

theorem State.cenMem_keeps {s : State} (c : Nat) (a : Nat) (words : Nat) (h : s0.Keeps fp s)
    (hm : Sub 0xC000001 fp) :
    s0.Keeps fp (State.cenMem s c a words).2 := by
  unfold State.cenMem
  try dsimp only
  repeat' first
    | with_reducible assumption
    | ((with_reducible refine Sub.bit hm ?_); exact rfl)
    | ((with_reducible refine Sub.mono hm ?_); exact rfl)
    | with_reducible refine keeps_foldl _ _ ?_ ?_
    | with_reducible refine keeps_foldl2 _ _ _ ?_ ?_
    | with_reducible apply State.readQuiet_keeps
    | (intro _ _ _)
    | (intro _ _)
    | (intro _)
    | dsimp only

theorem State.cenNext_keeps {s : State} (h : s0.Keeps fp s) (hm : Sub 0x400D80001D fp) :
    ∀ x ∈ State.cenNext s, s0.Keeps fp x.2 := by
  intro x hx
  unfold State.cenNext at hx
  split at hx
  · cases hx; exact h
  · cases hx; exact h
  · split at hx
    · cases hx
    · rw [Option.mem_def, Option.some.injEq] at hx
      subst hx
      refine State.stamp_keeps _ (keeps_ite ?_ h) (Sub.mono hm rfl)
      exact State.refreshPads_keeps _ (State.refreshPads_keeps _ h (Sub.mono hm rfl)) (Sub.mono hm rfl)
  · split at hx
    · cases hx
    · rw [Option.mem_def, Option.some.injEq] at hx
      subst hx
      exact State.cenMem_keeps _ _ _ (State.stamp_keeps _ h (Sub.mono hm rfl)) (Sub.mono hm rfl)
  · split at hx
    · cases hx
    · rw [Option.mem_def, Option.some.injEq] at hx
      subst hx
      exact State.stamp_keeps _ h (Sub.mono hm rfl)
  · cases hx

theorem cenRecord_keeps {s : State} (h : s0.Keeps fp s) (hm : Sub 0x2C5DDD08C3F fp) : s0.Keeps fp (cenRecord s) := by
  unfold cenRecord
  refine keeps_ite h ?_
  split
  · exact h
  · rename_i bs s1 e
    have h1 : s0.Keeps fp s1 := State.cenNext_keeps h (Sub.mono hm rfl) _ e
    dsimp only
    have hw := fun a b n => State.wr_keeps .sysCenBytes (BitVec.ofNat 32 n) 0 0 0 (State.cenWrite_keeps a b h1 (Sub.mono hm rfl))
      (Sub.bit hm rfl)
    repeat' first
      | with_reducible assumption
      | ((with_reducible refine Sub.bit hm ?_); exact rfl)
      | ((with_reducible refine Sub.mono hm ?_); exact rfl)
      | ((with_reducible refine .inl (Sub.bit hm ?_)); exact rfl)
      | with_reducible exact .inr rfl
      | ((with_reducible refine reg_bit _ (Sub.mono hm ?_)); exact rfl)
      | ((with_reducible refine rej_parts _ (Sub.mono hm ?_)); exact rfl)
      | with_reducible apply hw
      | with_reducible apply keeps_ite
      | with_reducible apply State.cenEnd_keeps
      | with_reducible apply State.cenFlags_keeps
      | with_reducible apply State.cenReach_keeps
      | with_reducible apply State.releaseHeld_keeps
      | with_reducible apply State.wb_keeps
      | split 
      | with_reducible apply keeps_store

theorem cenAbort_keeps {s : State} (h : s0.Keeps fp s)
    (hm : Sub 0x2C5DDD08C3F fp) :
    s0.Keeps fp (cenAbort s) := by
  unfold cenAbort
  try dsimp only
  repeat' first
    | with_reducible assumption
    | ((with_reducible refine Sub.bit hm ?_); exact rfl)
    | ((with_reducible refine Sub.mono hm ?_); exact rfl)
    | ((with_reducible refine .inl (Sub.bit hm ?_)); exact rfl)
    | with_reducible exact .inr rfl
    | with_reducible apply keeps_ite
    | with_reducible apply State.cenEnd_keeps
    | with_reducible apply State.cenFlags_keeps
    | with_reducible apply State.cenNext_keeps
    | with_reducible apply cenRecord_keeps
    | dsimp only
    | split
    | with_reducible apply keeps_fields
    | with_reducible apply keeps_store

theorem cenCtrlWrite_keeps (w : Word) {s : State} (h : s0.Keeps fp s)
    (hm : Sub 0x2C5DDD08C3F fp) :
    s0.Keeps fp (cenCtrlWrite w s) := by
  unfold cenCtrlWrite
  try dsimp only
  repeat' first
    | with_reducible assumption
    | ((with_reducible refine Sub.bit hm ?_); exact rfl)
    | ((with_reducible refine Sub.mono hm ?_); exact rfl)
    | ((with_reducible refine .inl (Sub.bit hm ?_)); exact rfl)
    | with_reducible exact .inr rfl
    | with_reducible apply keeps_ite
    | with_reducible apply cenStart_keeps
    | with_reducible apply cenAbort_keeps
    | dsimp only
    | split
    | with_reducible apply keeps_fields
    | with_reducible apply keeps_store

theorem State.cenPause_keeps {s : State} (h : s0.Keeps fp s)
    (hm : Sub 0x100000 fp) :
    s0.Keeps fp (State.cenPause s) := by
  unfold State.cenPause
  try dsimp only
  repeat' first
    | with_reducible assumption
    | ((with_reducible refine Sub.bit hm ?_); exact rfl)
    | ((with_reducible refine Sub.mono hm ?_); exact rfl)
    | with_reducible apply keeps_ite
    | with_reducible apply State.wf_keeps
    | dsimp only
    | split

theorem State.cenResume_keeps {s : State} (h : s0.Keeps fp s)
    (hm : Sub 0x285D5D08C2F fp) :
    s0.Keeps fp (State.cenResume s) := by
  unfold State.cenResume
  try dsimp only
  repeat' first
    | with_reducible assumption
    | ((with_reducible refine Sub.bit hm ?_); exact rfl)
    | ((with_reducible refine Sub.mono hm ?_); exact rfl)
    | with_reducible apply keeps_ite
    | with_reducible apply State.wf_keeps
    | with_reducible apply State.cenReach_keeps
    | with_reducible apply State.cenBegin_keeps
    | dsimp only
    | split

end Sys2Proof.Machine
end

