-- ==== Sys2Proof/Laws/KeepsPower.lean ====
section
/-! SUPPORT. What the operations of Machine/Power.lean keep, and the parts they may change. -/

namespace Sys2Proof.Machine

variable {fp : Nat} {s0 : State}

theorem State.showLog_keeps {s : State} (h : s0.Keeps fp s)
    (hm : Sub 0x20 fp) :
    s0.Keeps fp (State.showLog s) := by
  unfold State.showLog
  try dsimp only
  repeat' first
    | with_reducible assumption
    | ((with_reducible refine Sub.bit hm ?_); exact rfl)
    | ((with_reducible refine Sub.mono hm ?_); exact rfl)
    | with_reducible apply State.wf_keeps
    | with_reducible apply State.wb_keeps
    | dsimp only

theorem State.logBegin_keeps {s : State} (op : LogOp) (h : s0.Keeps fp s)
    (hm : Sub 0x8000000020 fp) :
    s0.Keeps fp (State.logBegin s op) := by
  unfold State.logBegin
  try dsimp only
  repeat' first
    | with_reducible assumption
    | ((with_reducible refine Sub.bit hm ?_); exact rfl)
    | ((with_reducible refine Sub.mono hm ?_); exact rfl)
    | ((with_reducible refine .inl (Sub.bit hm ?_)); exact rfl)
    | with_reducible exact .inr rfl
    | ((with_reducible refine reg_bit _ (Sub.mono hm ?_)); exact rfl)
    | ((with_reducible refine rej_bit _ (Sub.mono hm ?_)); exact rfl)
    | with_reducible apply State.wb_keeps
    | dsimp only
    | with_reducible apply keeps_fields
    | with_reducible apply keeps_store

theorem State.hwLog_keeps {s : State} (type : Nat) (payload : List Byte) (fuse : Bool) (h : s0.Keeps fp s)
    (hm : Sub 0x8000800020 fp) :
    s0.Keeps fp (State.hwLog s type payload fuse) := by
  unfold State.hwLog
  try dsimp only
  repeat' first
    | with_reducible assumption
    | ((with_reducible refine Sub.bit hm ?_); exact rfl)
    | ((with_reducible refine Sub.mono hm ?_); exact rfl)
    | ((with_reducible refine .inl (Sub.bit hm ?_)); exact rfl)
    | with_reducible exact .inr rfl
    | with_reducible apply keeps_ite
    | with_reducible apply State.wb_keeps
    | with_reducible apply State.stamp_keeps
    | with_reducible apply State.logBegin_keeps
    | (split; rename_i e; have e3 := congrArg (fun p => p.2.2) e; dsimp only at e3; subst e3)
    | (split; rename_i e; have e2 := congrArg Prod.snd e; dsimp only at e2; subst e2)
    | dsimp only
    | split
    | with_reducible apply keeps_fields
    | with_reducible apply keeps_store

theorem State.logWrite_keeps {s : State} (type : Nat) (payload : List Byte) (stamp : Word64) (fuse : Bool) (h : s0.Keeps fp s)
    (hm : Sub 0x8000000020 fp) :
    s0.Keeps fp (State.logWrite s type payload stamp fuse) := by
  unfold State.logWrite
  try dsimp only
  repeat' first
    | with_reducible assumption
    | ((with_reducible refine Sub.bit hm ?_); exact rfl)
    | ((with_reducible refine Sub.mono hm ?_); exact rfl)
    | ((with_reducible refine .inl (Sub.bit hm ?_)); exact rfl)
    | with_reducible exact .inr rfl
    | with_reducible apply keeps_ite
    | with_reducible apply State.showLog_keeps
    | dsimp only
    | split
    | with_reducible apply keeps_fields
    | with_reducible apply keeps_store

theorem State.logShow_keeps {s : State} (r : Option (List Byte)) (h : s0.Keeps fp s)
    (hm : Sub 0x20 fp) :
    s0.Keeps fp (State.logShow s r) := by
  unfold State.logShow
  try dsimp only
  repeat' first
    | with_reducible assumption
    | ((with_reducible refine Sub.bit hm ?_); exact rfl)
    | ((with_reducible refine Sub.mono hm ?_); exact rfl)
    | ((with_reducible refine .inl (Sub.bit hm ?_)); exact rfl)
    | with_reducible exact .inr rfl
    | with_reducible refine keeps_foldl _ _ ?_ ?_
    | with_reducible refine keeps_foldl2 _ _ _ ?_ ?_
    | with_reducible apply State.wr_keeps
    | with_reducible apply State.freshWord_keeps
    | (intro _ _ _)
    | (intro _ _)
    | (intro _)
    | (split; rename_i e; have e3 := congrArg (fun p => p.2.2) e; dsimp only at e3; subst e3)
    | (split; rename_i e; have e2 := congrArg Prod.snd e; dsimp only at e2; subst e2)
    | dsimp only
    | split
    | with_reducible apply keeps_fields
    | with_reducible apply keeps_store

theorem logOpDone_keeps {s : State} (h : s0.Keeps fp s) (hm : Sub 0x8000000020 fp) : s0.Keeps fp (logOpDone s) := by
  unfold logOpDone
  split
  · exact h
  · lift_lets
    extract_lets st s1 s2
    have h0 : s0.Keeps fp { s with pwr := { s.pwr with op := none } } := by
      repeat' first
        | with_reducible assumption
        | ((with_reducible refine Sub.bit hm ?_); exact rfl)
        | ((with_reducible refine Sub.mono hm ?_); exact rfl)
        | ((with_reducible refine .inl (Sub.bit hm ?_)); exact rfl)
        | with_reducible exact .inr rfl
        | ((with_reducible refine reg_bit _ (Sub.mono hm ?_)); exact rfl)
        | ((with_reducible refine rej_parts _ (Sub.mono hm ?_)); exact rfl)
        | with_reducible apply keeps_store
    have h1 : s0.Keeps fp s1 := State.wb_keeps _ _ _ _ _ _ h0 (Sub.bit hm rfl)
    clear_value s1
    have h2 : s0.Keeps fp s2 := by
      show s0.Keeps fp (match (_ : LogOp) with | .write t p v f => s1.logWrite t p v f | .read => s1.logShow s1.logRecord)
      split
      · exact State.logWrite_keeps _ _ _ _ h1 (Sub.mono hm rfl)
      · exact State.logShow_keeps _ h1 (Sub.mono hm rfl)
    clear_value s2
    split
    · exact h2
    · refine State.logBegin_keeps _ ?_ (Sub.mono hm rfl)
      repeat' first
        | with_reducible assumption
        | ((with_reducible refine Sub.bit hm ?_); exact rfl)
        | ((with_reducible refine Sub.mono hm ?_); exact rfl)
        | ((with_reducible refine .inl (Sub.bit hm ?_)); exact rfl)
        | with_reducible exact .inr rfl
        | ((with_reducible refine reg_bit _ (Sub.mono hm ?_)); exact rfl)
        | ((with_reducible refine rej_parts _ (Sub.mono hm ?_)); exact rfl)
        | with_reducible apply keeps_store

theorem logOp_keeps (op : Nat) {s : State} (h : s0.Keeps fp s)
    (hm : Sub 0x8000800020 fp) :
    s0.Keeps fp (logOp op s) := by
  unfold logOp
  try dsimp only
  repeat' first
    | with_reducible assumption
    | ((with_reducible refine Sub.bit hm ?_); exact rfl)
    | ((with_reducible refine Sub.mono hm ?_); exact rfl)
    | ((with_reducible refine .inl (Sub.bit hm ?_)); exact rfl)
    | with_reducible exact .inr rfl
    | ((with_reducible refine rej_parts _ (Sub.mono hm ?_)); exact rfl)
    | with_reducible apply keeps_ite
    | with_reducible apply State.rejectAt_keeps
    | with_reducible apply State.reject_keeps
    | with_reducible apply State.stamp_keeps
    | with_reducible apply State.logBegin_keeps
    | (intro _ _ _)
    | (intro _ _)
    | (intro _)
    | (split; rename_i e; have e3 := congrArg (fun p => p.2.2) e; dsimp only at e3; subst e3)
    | (split; rename_i e; have e2 := congrArg Prod.snd e; dsimp only at e2; subst e2)
    | dsimp only
    | split
    | with_reducible apply keeps_fields
    | with_reducible apply keeps_store

theorem State.retarget_keeps {s : State} (n : Nat) (h : s0.Keeps fp s)
    (hm : Sub 0x10008000 fp) :
    s0.Keeps fp (State.retarget s n) := by
  unfold State.retarget
  try dsimp only
  repeat' first
    | with_reducible assumption
    | ((with_reducible refine Sub.bit hm ?_); exact rfl)
    | ((with_reducible refine Sub.mono hm ?_); exact rfl)
    | ((with_reducible refine .inl (Sub.bit hm ?_)); exact rfl)
    | with_reducible exact .inr rfl
    | with_reducible apply keeps_ite
    | with_reducible apply State.wf_keeps
    | with_reducible apply State.setBeam_keeps
    | dsimp only
    | split
    | with_reducible apply keeps_fields
    | with_reducible apply keeps_store

theorem State.ladderTargets_keeps {s : State} (h : s0.Keeps fp s)
    (hm : Sub 0x10008000 fp) :
    s0.Keeps fp (State.ladderTargets s) := by
  unfold State.ladderTargets
  try dsimp only
  repeat' first
    | with_reducible assumption
    | ((with_reducible refine Sub.bit hm ?_); exact rfl)
    | ((with_reducible refine Sub.mono hm ?_); exact rfl)
    | ((with_reducible refine .inl (Sub.bit hm ?_)); exact rfl)
    | with_reducible exact .inr rfl
    | ((with_reducible refine reg_bit _ (Sub.mono hm ?_)); exact rfl)
    | ((with_reducible refine rej_bit _ (Sub.mono hm ?_)); exact rfl)
    | with_reducible apply keeps_ite
    | with_reducible apply keeps_ite2
    | with_reducible apply keeps_ite3
    | with_reducible refine keeps_foldl _ _ ?_ ?_
    | with_reducible refine keeps_foldl2 _ _ _ ?_ ?_
    | with_reducible refine keeps_foldl3 _ _ _ ?_ ?_
    | with_reducible apply State.retarget_keeps
    | (intro _ _ _)
    | (intro _ _)
    | (intro _)
    | (split; rename_i e; have e3 := congrArg (fun p => p.2.2) e; dsimp only at e3; subst e3)
    | (split; rename_i e; have e2 := congrArg Prod.snd e; dsimp only at e2; subst e2)
    | dsimp only
    | split
    | with_reducible apply keeps_fields
    | with_reducible apply keeps_store

theorem State.ledgerSettle_keeps {s : State} (h : s0.Keeps fp s)
    (hm : Sub 0x2001180802C fp) :
    s0.Keeps fp (State.ledgerSettle s) := by
  unfold State.ledgerSettle
  try dsimp only
  repeat' first
    | with_reducible assumption
    | ((with_reducible refine Sub.bit hm ?_); exact rfl)
    | ((with_reducible refine Sub.mono hm ?_); exact rfl)
    | ((with_reducible refine .inl (Sub.bit hm ?_)); exact rfl)
    | with_reducible exact .inr rfl
    | with_reducible apply keeps_ite
    | with_reducible apply State.wf_keeps
    | with_reducible apply State.raise_keeps
    | with_reducible apply State.ladderTargets_keeps
    | dsimp only
    | split
    | with_reducible apply keeps_fields
    | with_reducible apply keeps_store

theorem State.floors_keeps {s : State} (h : s0.Keeps fp s)
    (hm : Sub 0x20 fp) :
    s0.Keeps fp (State.floors s) := by
  unfold State.floors
  try dsimp only
  repeat' first
    | with_reducible assumption
    | ((with_reducible refine Sub.bit hm ?_); exact rfl)
    | ((with_reducible refine Sub.mono hm ?_); exact rfl)
    | ((with_reducible refine .inl (Sub.bit hm ?_)); exact rfl)
    | with_reducible exact .inr rfl
    | with_reducible apply State.wf_keeps
    | dsimp only
    | with_reducible apply keeps_fields
    | with_reducible apply keeps_store

theorem State.setPlan_keeps {s : State} (g : Nat) (w : List Word) (leap : Bool) (h : s0.Keeps fp s)
    (hm : Sub 0x20 fp) :
    s0.Keeps fp (State.setPlan s g w leap) := by
  unfold State.setPlan
  try dsimp only
  repeat' first
    | with_reducible assumption
    | ((with_reducible refine Sub.bit hm ?_); exact rfl)
    | ((with_reducible refine Sub.mono hm ?_); exact rfl)
    | with_reducible refine keeps_foldl _ _ ?_ ?_
    | with_reducible refine keeps_foldl2 _ _ _ ?_ ?_
    | with_reducible apply State.wr_keeps
    | with_reducible apply State.wb_keeps
    | (intro _ _ _)
    | (intro _ _)
    | (intro _)
    | dsimp only

theorem State.planResult_keeps {s : State} (state : Nat) (result : Nat) (h : s0.Keeps fp s)
    (hm : Sub 0x20 fp) :
    s0.Keeps fp (State.planResult s state result) := by
  unfold State.planResult
  try dsimp only
  repeat' first
    | with_reducible assumption
    | ((with_reducible refine Sub.bit hm ?_); exact rfl)
    | ((with_reducible refine Sub.mono hm ?_); exact rfl)
    | with_reducible apply State.wr_keeps
    | dsimp only

theorem State.fallBack_keeps {s : State} (g : Nat) (m : Nat) (id : Nat) (h : s0.Keeps fp s)
    (hm : Sub 0x2800180002C fp) :
    s0.Keeps fp (State.fallBack s g m id) := by
  unfold State.fallBack
  try dsimp only
  repeat' first
    | with_reducible assumption
    | ((with_reducible refine Sub.bit hm ?_); exact rfl)
    | ((with_reducible refine Sub.mono hm ?_); exact rfl)
    | ((with_reducible refine .inl (Sub.bit hm ?_)); exact rfl)
    | with_reducible exact .inr rfl
    | with_reducible apply keeps_ite
    | with_reducible apply State.wb_keeps
    | with_reducible apply State.raise_keeps
    | with_reducible apply State.hwLog_keeps
    | with_reducible apply State.setPlan_keeps
    | with_reducible apply State.planResult_keeps
    | dsimp only
    | split
    | with_reducible apply keeps_fields
    | with_reducible apply keeps_store

theorem State.bandStep_keeps {s : State} (g : Nat) (h : s0.Keeps fp s)
    (hm : Sub 0x2800180002C fp) :
    s0.Keeps fp (State.bandStep s g) := by
  unfold State.bandStep
  try dsimp only
  repeat' first
    | with_reducible assumption
    | ((with_reducible refine Sub.bit hm ?_); exact rfl)
    | ((with_reducible refine Sub.mono hm ?_); exact rfl)
    | ((with_reducible refine .inl (Sub.bit hm ?_)); exact rfl)
    | with_reducible exact .inr rfl
    | with_reducible apply keeps_ite
    | with_reducible apply State.wf_keeps
    | with_reducible apply State.setRail_keeps
    | with_reducible apply State.fallBack_keeps
    | (intro _ _ _)
    | (intro _ _)
    | (intro _)
    | dsimp only
    | split
    | with_reducible apply keeps_fields
    | with_reducible apply keeps_store

theorem windowEnd_keeps (mw : List (BitVec 16)) {s : State} (h : s0.Keeps fp s)
    (hm : Sub 0x2801180802C fp) :
    s0.Keeps fp (windowEnd mw s) := by
  unfold windowEnd
  try dsimp only
  repeat' first
    | with_reducible assumption
    | ((with_reducible refine Sub.bit hm ?_); exact rfl)
    | ((with_reducible refine Sub.mono hm ?_); exact rfl)
    | ((with_reducible refine .inl (Sub.bit hm ?_)); exact rfl)
    | with_reducible exact .inr rfl
    | with_reducible refine keeps_foldl _ _ ?_ ?_
    | with_reducible refine keeps_foldl2 _ _ _ ?_ ?_
    | with_reducible apply State.wr_keeps
    | with_reducible apply State.railsSettle_keeps
    | with_reducible apply State.ledgerSettle_keeps
    | with_reducible apply State.floors_keeps
    | with_reducible apply State.bandStep_keeps
    | (intro _ _ _)
    | (intro _ _)
    | (intro _)
    | dsimp only
    | with_reducible apply keeps_fields
    | with_reducible apply keeps_store

theorem tempsRead_keeps (t : List (BitVec 16)) {s : State} (h : s0.Keeps fp s)
    (hm : Sub 0x2801180802C fp) :
    s0.Keeps fp (tempsRead t s) := by
  unfold tempsRead
  try dsimp only
  repeat' first
    | with_reducible assumption
    | ((with_reducible refine Sub.bit hm ?_); exact rfl)
    | ((with_reducible refine Sub.mono hm ?_); exact rfl)
    | ((with_reducible refine .inl (Sub.bit hm ?_)); exact rfl)
    | with_reducible exact .inr rfl
    | with_reducible apply keeps_ite
    | with_reducible refine keeps_foldl _ _ ?_ ?_
    | with_reducible refine keeps_foldl2 _ _ _ ?_ ?_
    | with_reducible apply State.emit_keeps
    | with_reducible apply State.wr_keeps
    | with_reducible apply State.wb_keeps
    | with_reducible apply State.raise_keeps
    | with_reducible apply State.hwLog_keeps
    | with_reducible apply State.ledgerSettle_keeps
    | (intro _ _ _)
    | (intro _ _)
    | (intro _)
    | (split; rename_i e; have e3 := congrArg (fun p => p.2.2) e; dsimp only at e3; subst e3)
    | (split; rename_i e; have e2 := congrArg Prod.snd e; dsimp only at e2; subst e2)
    | dsimp only
    | split
    | with_reducible apply keeps_fields
    | with_reducible apply keeps_store

theorem State.watchBegin_keeps {s : State} (h : s0.Keeps fp s)
    (hm : Sub 0x8000000000 fp) :
    s0.Keeps fp (State.watchBegin s) := by
  unfold State.watchBegin
  try dsimp only
  repeat' first
    | with_reducible assumption
    | ((with_reducible refine Sub.bit hm ?_); exact rfl)
    | ((with_reducible refine Sub.mono hm ?_); exact rfl)
    | ((with_reducible refine .inl (Sub.bit hm ?_)); exact rfl)
    | with_reducible exact .inr rfl
    | dsimp only
    | with_reducible apply keeps_fields
    | with_reducible apply keeps_store

theorem ledgerWrite_keeps (w : Word) {s : State} (h : s0.Keeps fp s)
    (hm : Sub 0x2801180802C fp) :
    s0.Keeps fp (ledgerWrite w s) := by
  unfold ledgerWrite
  try dsimp only
  repeat' first
    | with_reducible assumption
    | ((with_reducible refine Sub.bit hm ?_); exact rfl)
    | ((with_reducible refine Sub.mono hm ?_); exact rfl)
    | ((with_reducible refine .inl (Sub.bit hm ?_)); exact rfl)
    | with_reducible exact .inr rfl
    | ((with_reducible refine rej_parts _ (Sub.mono hm ?_)); exact rfl)
    | with_reducible apply keeps_ite
    | with_reducible apply State.wr_keeps
    | with_reducible apply State.wf_keeps
    | with_reducible apply State.wb_keeps
    | with_reducible apply State.rejectAt_keeps
    | with_reducible apply State.reject_keeps
    | with_reducible apply State.ledgerSettle_keeps
    | with_reducible apply State.watchBegin_keeps
    | dsimp only
    | split
    | with_reducible apply keeps_fields
    | with_reducible apply keeps_store

theorem ledgerStale_keeps {s : State} (h : s0.Keeps fp s)
    (hm : Sub 0x2801180802C fp) :
    s0.Keeps fp (ledgerStale s) := by
  unfold ledgerStale
  try dsimp only
  repeat' first
    | with_reducible assumption
    | ((with_reducible refine Sub.bit hm ?_); exact rfl)
    | ((with_reducible refine Sub.mono hm ?_); exact rfl)
    | ((with_reducible refine .inl (Sub.bit hm ?_)); exact rfl)
    | with_reducible exact .inr rfl
    | with_reducible apply keeps_ite
    | with_reducible apply State.wf_keeps
    | with_reducible apply State.wb_keeps
    | with_reducible apply State.raise_keeps
    | with_reducible apply State.ledgerSettle_keeps
    | dsimp only
    | split
    | with_reducible apply keeps_fields
    | with_reducible apply keeps_store

theorem State.avsFault_keeps {s : State} (g : Nat) (h : s0.Keeps fp s)
    (hm : Sub 0x2800180002C fp) :
    s0.Keeps fp (State.avsFault s g) := by
  unfold State.avsFault
  try dsimp only
  repeat' first
    | with_reducible assumption
    | ((with_reducible refine Sub.bit hm ?_); exact rfl)
    | ((with_reducible refine Sub.mono hm ?_); exact rfl)
    | ((with_reducible refine .inl (Sub.bit hm ?_)); exact rfl)
    | with_reducible exact .inr rfl
    | with_reducible apply State.wb_keeps
    | with_reducible apply State.raise_keeps
    | with_reducible apply State.setRail_keeps
    | with_reducible apply State.hwLog_keeps
    | dsimp only
    | with_reducible apply keeps_fields
    | with_reducible apply keeps_store

theorem avsResponse_keeps (g : Nat) (reply : AvsReply) {s : State} (h : s0.Keeps fp s)
    (hm : Sub 0x2801180002C fp) :
    s0.Keeps fp (avsResponse g reply s) := by
  unfold avsResponse
  try dsimp only
  repeat' first
    | with_reducible assumption
    | ((with_reducible refine Sub.bit hm ?_); exact rfl)
    | ((with_reducible refine Sub.mono hm ?_); exact rfl)
    | ((with_reducible refine .inl (Sub.bit hm ?_)); exact rfl)
    | with_reducible exact .inr rfl
    | with_reducible apply keeps_ite
    | with_reducible apply State.wr_keeps
    | with_reducible apply State.setRail_keeps
    | with_reducible apply State.avsIssue_keeps
    | with_reducible apply State.railDone_keeps
    | with_reducible apply State.avsFault_keeps
    | dsimp only
    | split
    | with_reducible apply keeps_fields
    | with_reducible apply keeps_store

theorem avsRetry_keeps (g : Nat) {s : State} (h : s0.Keeps fp s)
    (hm : Sub 0x20000000000 fp) :
    s0.Keeps fp (avsRetry g s) := by
  unfold avsRetry
  try dsimp only
  repeat' first
    | with_reducible assumption
    | ((with_reducible refine Sub.bit hm ?_); exact rfl)
    | ((with_reducible refine Sub.mono hm ?_); exact rfl)
    | with_reducible apply keeps_ite
    | with_reducible apply State.avsIssue_keeps
    | dsimp only
    | split

theorem leap_keeps {s : State} (h : s0.Keeps fp s)
    (hm : Sub 0x2800180002C fp) :
    s0.Keeps fp (leap s) := by
  unfold leap
  try dsimp only
  repeat' first
    | with_reducible assumption
    | ((with_reducible refine Sub.bit hm ?_); exact rfl)
    | ((with_reducible refine Sub.mono hm ?_); exact rfl)
    | ((with_reducible refine .inl (Sub.bit hm ?_)); exact rfl)
    | with_reducible exact .inr rfl
    | ((with_reducible refine rej_parts _ (Sub.mono hm ?_)); exact rfl)
    | with_reducible apply keeps_ite
    | with_reducible apply State.rejectAt_keeps
    | with_reducible apply State.reject_keeps
    | with_reducible apply State.railsSettle_keeps
    | with_reducible apply State.setPlan_keeps
    | with_reducible apply State.planResult_keeps
    | with_reducible apply State.fallBack_keeps
    | dsimp only
    | split
    | with_reducible apply keeps_fields
    | with_reducible apply keeps_store

theorem leapEnd_keeps (rise : Nat) (slack : Int) {s : State} (h : s0.Keeps fp s)
    (hm : Sub 0x2800180002C fp) :
    s0.Keeps fp (leapEnd rise slack s) := by
  unfold leapEnd
  try dsimp only
  repeat' first
    | with_reducible assumption
    | ((with_reducible refine Sub.bit hm ?_); exact rfl)
    | ((with_reducible refine Sub.mono hm ?_); exact rfl)
    | ((with_reducible refine .inl (Sub.bit hm ?_)); exact rfl)
    | with_reducible exact .inr rfl
    | with_reducible apply keeps_ite
    | with_reducible apply State.raise_keeps
    | with_reducible apply State.railsSettle_keeps
    | with_reducible apply State.hwLog_keeps
    | with_reducible apply State.setPlan_keeps
    | with_reducible apply State.planResult_keeps
    | dsimp only
    | split
    | with_reducible apply keeps_fields
    | with_reducible apply keeps_store

theorem sampleBegin_keeps (byWrite : Bool) {s : State} (h : s0.Keeps fp s)
    (hm : Sub 0x8000000020 fp) :
    s0.Keeps fp (sampleBegin byWrite s) := by
  unfold sampleBegin
  try dsimp only
  repeat' first
    | with_reducible assumption
    | ((with_reducible refine Sub.bit hm ?_); exact rfl)
    | ((with_reducible refine Sub.mono hm ?_); exact rfl)
    | ((with_reducible refine .inl (Sub.bit hm ?_)); exact rfl)
    | with_reducible exact .inr rfl
    | with_reducible apply bit_ite
    | ((with_reducible refine rej_parts _ (Sub.mono hm ?_)); exact rfl)
    | with_reducible apply keeps_ite
    | with_reducible apply State.rejectAt_keeps
    | with_reducible apply State.reject_keeps
    | dsimp only
    | split
    | with_reducible apply keeps_fields
    | with_reducible apply keeps_store

theorem sampleEnd_keeps (vals : List (BitVec 16)) {s : State} (h : s0.Keeps fp s)
    (hm : Sub 0x2800180002C fp) :
    s0.Keeps fp (sampleEnd vals s) := by
  unfold sampleEnd
  try dsimp only
  repeat' first
    | with_reducible assumption
    | ((with_reducible refine Sub.bit hm ?_); exact rfl)
    | ((with_reducible refine Sub.mono hm ?_); exact rfl)
    | ((with_reducible refine .inl (Sub.bit hm ?_)); exact rfl)
    | with_reducible exact .inr rfl
    | with_reducible apply keeps_ite
    | with_reducible refine keeps_foldl _ _ ?_ ?_
    | with_reducible refine keeps_foldl2 _ _ _ ?_ ?_
    | with_reducible apply State.wr_keeps
    | with_reducible apply State.bump_keeps
    | with_reducible apply State.stamp_keeps
    | with_reducible apply State.raise_keeps
    | (intro _ _ _)
    | (intro _ _)
    | (intro _)
    | (split; rename_i e; have e3 := congrArg (fun p => p.2.2) e; dsimp only at e3; subst e3)
    | (split; rename_i e; have e2 := congrArg Prod.snd e; dsimp only at e2; subst e2)
    | dsimp only
    | split
    | with_reducible apply keeps_fields
    | with_reducible apply keeps_store

theorem almCtrlWrite_keeps (w : Word) {s : State} (h : s0.Keeps fp s)
    (hm : Sub 0x8000000020 fp) :
    s0.Keeps fp (almCtrlWrite w s) := by
  unfold almCtrlWrite
  try dsimp only
  repeat' first
    | with_reducible assumption
    | ((with_reducible refine Sub.bit hm ?_); exact rfl)
    | ((with_reducible refine Sub.mono hm ?_); exact rfl)
    | ((with_reducible refine .inl (Sub.bit hm ?_)); exact rfl)
    | with_reducible exact .inr rfl
    | with_reducible apply keeps_ite
    | with_reducible apply State.wr_keeps
    | with_reducible apply sampleBegin_keeps
    | dsimp only
    | split
    | with_reducible apply keeps_fields
    | with_reducible apply keeps_store

theorem pmbWrite_keeps (w : Word) {s : State} (h : s0.Keeps fp s)
    (hm : Sub 0x20000000020 fp) :
    s0.Keeps fp (pmbWrite w s) := by
  unfold pmbWrite
  try dsimp only
  repeat' first
    | with_reducible assumption
    | ((with_reducible refine Sub.bit hm ?_); exact rfl)
    | ((with_reducible refine Sub.mono hm ?_); exact rfl)
    | ((with_reducible refine .inl (Sub.bit hm ?_)); exact rfl)
    | with_reducible exact .inr rfl
    | ((with_reducible refine rej_parts _ (Sub.mono hm ?_)); exact rfl)
    | with_reducible apply keeps_ite
    | with_reducible apply State.emit_keeps
    | with_reducible apply State.wr_keeps
    | with_reducible apply State.wb_keeps
    | with_reducible apply State.rejectAt_keeps
    | with_reducible apply State.reject_keeps
    | dsimp only
    | split
    | with_reducible apply keeps_fields
    | with_reducible apply keeps_store

theorem pmbDone_keeps (reply : PmbReply) {s : State} (h : s0.Keeps fp s)
    (hm : Sub 0x2000180002C fp) :
    s0.Keeps fp (pmbDone reply s) := by
  unfold pmbDone
  try dsimp only
  repeat' first
    | with_reducible assumption
    | ((with_reducible refine Sub.bit hm ?_); exact rfl)
    | ((with_reducible refine Sub.mono hm ?_); exact rfl)
    | ((with_reducible refine .inl (Sub.bit hm ?_)); exact rfl)
    | with_reducible exact .inr rfl
    | with_reducible apply keeps_ite
    | with_reducible apply State.wr_keeps
    | with_reducible apply State.wb_keeps
    | with_reducible apply State.raise_keeps
    | dsimp only
    | split
    | with_reducible apply keeps_fields
    | with_reducible apply keeps_store

end Sys2Proof.Machine
end

