-- ==== Sys2Proof/Laws/KeepsModes.lean ====
section
/-! SUPPORT. What the operations of Machine/Modes.lean keep, and the parts they may change. -/

namespace Sys2Proof.Machine

variable {fp : Nat} {s0 : State}

theorem State.linkTrain_keeps {s : State} (h : s0.Keeps fp s)
    (hm : Sub 0x200000 fp) :
    s0.Keeps fp (State.linkTrain s) := by
  unfold State.linkTrain
  try dsimp only
  repeat' first
    | with_reducible assumption
    | ((with_reducible refine Sub.bit hm ?_); exact rfl)
    | ((with_reducible refine Sub.mono hm ?_); exact rfl)
    | ((with_reducible refine .inl (Sub.bit hm ?_)); exact rfl)
    | with_reducible exact .inr rfl
    | with_reducible apply keeps_ite
    | with_reducible apply State.fresh_keeps
    | (split; rename_i e; have e3 := congrArg (fun p => p.2.2) e; dsimp only at e3; subst e3)
    | (split; rename_i e; have e2 := congrArg Prod.snd e; dsimp only at e2; subst e2)
    | dsimp only
    | split
    | with_reducible apply keeps_fields
    | with_reducible apply keeps_store

theorem State.hstReset_keeps {s : State} (linkUp perst : Bool) (h : s0.Keeps fp s) (hm : Sub 0x20001E0000E fp) :
    s0.Keeps fp (State.hstReset s linkUp perst) := by
  unfold State.hstReset
  dsimp only
  refine keeps_foldl _ _ (keeps_regs h (RegFile.wf_filter _) id fun p hp => ?_)
    fun _ r h => State.flushWaiting_keeps _ h (Sub.mono hm rfl)
  have h1 : p ≠ .hstRegs := fun e => by subst e; exact Bool.eq_false_iff.1 hp (Sub.bit hm rfl)
  have h2 : p ≠ .host := fun e => by subst e; exact Bool.eq_false_iff.1 hp (Sub.bit hm rfl)
  have h3 : p ≠ .pci := fun e => by subst e; exact Bool.eq_false_iff.1 hp (Sub.bit hm rfl)
  cases p <;> first
    | rfl
    | exact absurd rfl h1
    | exact absurd rfl h2
    | exact absurd rfl h3
    | (intro a ha
       refine rfGet_filter _ _ _ fun w => ?_
       by_cases e : a / 0x10000 = 1
       · exfalso
         unfold regPart at ha
         rw [if_neg (c := 0x3100000 ≤ a) (by omega), if_neg (c := 0x3000000 ≤ a) (by omega),
           if_neg (c := 0x1100000 ≤ a) (by omega), if_pos (c := a < 0x100000) (by omega), e] at ha
         cases ha
       · simp [e])

theorem State.recordLoss_keeps {s : State} (cause : Nat) (h : s0.Keeps fp s)
    (hm : Sub 0x800002 fp) :
    s0.Keeps fp (State.recordLoss s cause) := by
  unfold State.recordLoss
  try dsimp only
  repeat' first
    | with_reducible assumption
    | ((with_reducible refine Sub.bit hm ?_); exact rfl)
    | ((with_reducible refine Sub.mono hm ?_); exact rfl)
    | ((with_reducible refine .inl (Sub.bit hm ?_)); exact rfl)
    | with_reducible exact .inr rfl
    | with_reducible apply State.wr_keeps
    | with_reducible apply State.wf_keeps
    | with_reducible apply State.stamp_keeps
    | (split; rename_i e; have e3 := congrArg (fun p => p.2.2) e; dsimp only at e3; subst e3)
    | (split; rename_i e; have e2 := congrArg Prod.snd e; dsimp only at e2; subst e2)
    | dsimp only
    | split
    | with_reducible apply keeps_fields
    | with_reducible apply keeps_store

theorem State.wakeSource_keeps {s : State} (b : Nat) (h : s0.Keeps fp s)
    (hm : Sub 0x38000000021 fp) :
    s0.Keeps fp (State.wakeSource s b) := by
  unfold State.wakeSource
  try dsimp only
  repeat' first
    | with_reducible assumption
    | ((with_reducible refine Sub.bit hm ?_); exact rfl)
    | ((with_reducible refine Sub.mono hm ?_); exact rfl)
    | ((with_reducible refine .inl (Sub.bit hm ?_)); exact rfl)
    | with_reducible exact .inr rfl
    | with_reducible apply keeps_ite
    | with_reducible apply State.wb_keeps
    | with_reducible apply State.railsSettle_keeps
    | dsimp only
    | split
    | with_reducible apply keeps_fields
    | with_reducible apply keeps_store

theorem State.hostLoss_keeps {s : State} (cause : Nat) (h : s0.Keeps fp s)
    (hm : Sub 0x3800180042F fp) :
    s0.Keeps fp (State.hostLoss s cause) := by
  unfold State.hostLoss
  try dsimp only
  repeat' first
    | with_reducible assumption
    | ((with_reducible refine Sub.bit hm ?_); exact rfl)
    | ((with_reducible refine Sub.mono hm ?_); exact rfl)
    | ((with_reducible refine .inl (Sub.bit hm ?_)); exact rfl)
    | with_reducible exact .inr rfl
    | with_reducible apply keeps_ite
    | with_reducible apply State.wb_keeps
    | with_reducible apply State.setMode_keeps
    | with_reducible apply State.recordLoss_keeps
    | with_reducible apply State.wakeSource_keeps
    | dsimp only
    | split
    | with_reducible apply keeps_fields
    | with_reducible apply keeps_store

theorem State.linkLoss_keeps {s : State} (cause : Nat) (linkUp : Bool) (perst : Bool) (h : s0.Keeps fp s)
    (hm : Sub 0x38001E0042F fp) :
    s0.Keeps fp (State.linkLoss s cause linkUp perst) := by
  unfold State.linkLoss
  try dsimp only
  repeat' first
    | with_reducible assumption
    | ((with_reducible refine Sub.bit hm ?_); exact rfl)
    | ((with_reducible refine Sub.mono hm ?_); exact rfl)
    | with_reducible apply State.hstReset_keeps
    | with_reducible apply State.hostLoss_keeps
    | dsimp only

theorem busMasterClear_keeps {s : State} (h : s0.Keeps fp s)
    (hm : Sub 0x38001A0042F fp) :
    s0.Keeps fp (busMasterClear s) := by
  unfold busMasterClear
  try dsimp only
  repeat' first
    | with_reducible assumption
    | ((with_reducible refine Sub.bit hm ?_); exact rfl)
    | ((with_reducible refine Sub.mono hm ?_); exact rfl)
    | ((with_reducible refine .inl (Sub.bit hm ?_)); exact rfl)
    | with_reducible exact .inr rfl
    | with_reducible apply keeps_ite
    | with_reducible apply State.hostLoss_keeps
    | dsimp only
    | split
    | with_reducible apply keeps_fields
    | with_reducible apply keeps_store

theorem d3hot_keeps {s : State} (h : s0.Keeps fp s)
    (hm : Sub 0x38001A0042F fp) :
    s0.Keeps fp (d3hot s) := by
  unfold d3hot
  try dsimp only
  repeat' first
    | with_reducible assumption
    | ((with_reducible refine Sub.bit hm ?_); exact rfl)
    | ((with_reducible refine Sub.mono hm ?_); exact rfl)
    | ((with_reducible refine .inl (Sub.bit hm ?_)); exact rfl)
    | with_reducible exact .inr rfl
    | with_reducible apply keeps_ite
    | with_reducible apply State.hostLoss_keeps
    | dsimp only
    | split
    | with_reducible apply keeps_fields
    | with_reducible apply keeps_store

theorem hostResume_keeps {s : State} (h : s0.Keeps fp s)
    (hm : Sub 0x20001C0040F fp) :
    s0.Keeps fp (hostResume s) := by
  unfold hostResume
  try dsimp only
  repeat' first
    | with_reducible assumption
    | ((with_reducible refine Sub.bit hm ?_); exact rfl)
    | ((with_reducible refine Sub.mono hm ?_); exact rfl)
    | ((with_reducible refine .inl (Sub.bit hm ?_)); exact rfl)
    | with_reducible exact .inr rfl
    | with_reducible apply bit_ite
    | ((with_reducible refine rej_parts _ (Sub.mono hm ?_)); exact rfl)
    | with_reducible apply keeps_ite
    | with_reducible apply State.wf_keeps
    | with_reducible apply State.rejectAt_keeps
    | with_reducible apply State.reject_keeps
    | with_reducible apply State.setMode_keeps
    | with_reducible apply State.followVigil_keeps
    | with_reducible apply State.postEvent_keeps
    | dsimp only
    | split
    | with_reducible apply keeps_fields
    | with_reducible apply keeps_store

theorem State.sleepBegin_keeps {s : State} (h : s0.Keeps fp s)
    (hm : Sub 0x14000100001 fp) :
    s0.Keeps fp (State.sleepBegin s) := by
  unfold State.sleepBegin
  try dsimp only
  repeat' first
    | with_reducible assumption
    | ((with_reducible refine Sub.bit hm ?_); exact rfl)
    | ((with_reducible refine Sub.mono hm ?_); exact rfl)
    | ((with_reducible refine .inl (Sub.bit hm ?_)); exact rfl)
    | with_reducible exact .inr rfl
    | with_reducible apply State.wf_keeps
    | with_reducible apply State.cenPause_keeps
    | dsimp only
    | with_reducible apply keeps_fields
    | with_reducible apply keeps_store

theorem modeReq_keeps (q : Nat) {s : State} (h : s0.Keeps fp s)
    (hm : Sub 0x3C00190042D fp) :
    s0.Keeps fp (modeReq q s) := by
  unfold modeReq
  try dsimp only
  repeat' first
    | with_reducible assumption
    | ((with_reducible refine Sub.bit hm ?_); exact rfl)
    | ((with_reducible refine Sub.mono hm ?_); exact rfl)
    | ((with_reducible refine .inl (Sub.bit hm ?_)); exact rfl)
    | with_reducible exact .inr rfl
    | with_reducible apply bit_ite
    | ((with_reducible refine rej_parts _ (Sub.mono hm ?_)); exact rfl)
    | with_reducible apply keeps_ite
    | with_reducible apply State.rejectAt_keeps
    | with_reducible apply State.reject_keeps
    | with_reducible apply State.setMode_keeps
    | with_reducible apply State.followVigil_keeps
    | with_reducible apply State.wakeSource_keeps
    | with_reducible apply State.sleepBegin_keeps
    | dsimp only
    | split
    | with_reducible apply keeps_fields
    | with_reducible apply keeps_store

theorem State.proceed_keeps {s : State} (h : s0.Keeps fp s)
    (hm : Sub 0x2B5D7D08DAF fp) :
    s0.Keeps fp (State.proceed s) := by
  unfold State.proceed
  try dsimp only
  repeat' first
    | with_reducible assumption
    | ((with_reducible refine Sub.bit hm ?_); exact rfl)
    | ((with_reducible refine Sub.mono hm ?_); exact rfl)
    | with_reducible apply State.pleWake_keeps
    | with_reducible apply blitDispatch_keeps
    | with_reducible apply State.dmaResume_keeps
    | with_reducible apply State.cenResume_keeps
    | dsimp only

theorem State.timeWake_keeps {s : State} (h : s0.Keeps fp s)
    (hm : Sub 0x38000000021 fp) :
    s0.Keeps fp (State.timeWake s) := by
  unfold State.timeWake
  try dsimp only
  repeat' first
    | with_reducible assumption
    | ((with_reducible refine Sub.bit hm ?_); exact rfl)
    | ((with_reducible refine Sub.mono hm ?_); exact rfl)
    | with_reducible apply keeps_ite
    | with_reducible apply State.wakeSource_keeps
    | dsimp only
    | split

theorem sleepEntered_keeps {s : State} (h : s0.Keeps fp s)
    (hm : Sub 0x3F5D7D08DBF fp) :
    s0.Keeps fp (sleepEntered s) := by
  unfold sleepEntered
  try dsimp only
  repeat' first
    | with_reducible assumption
    | ((with_reducible refine Sub.bit hm ?_); exact rfl)
    | ((with_reducible refine Sub.mono hm ?_); exact rfl)
    | ((with_reducible refine .inl (Sub.bit hm ?_)); exact rfl)
    | with_reducible exact .inr rfl
    | ((with_reducible refine rej_parts _ (Sub.mono hm ?_)); exact rfl)
    | with_reducible apply keeps_ite
    | with_reducible refine keeps_foldl _ _ ?_ ?_
    | with_reducible refine keeps_foldl2 _ _ _ ?_ ?_
    | with_reducible apply State.emit_keeps
    | with_reducible apply State.wb_keeps
    | with_reducible apply State.rejectAt_keeps
    | with_reducible apply State.reject_keeps
    | with_reducible apply State.setMode_keeps
    | with_reducible apply State.railsSettle_keeps
    | with_reducible apply State.disablePort_keeps
    | with_reducible apply State.refreshPads_keeps
    | with_reducible apply State.proceed_keeps
    | with_reducible apply State.timeWake_keeps
    | (intro _ _ _)
    | (intro _ _)
    | (intro _)
    | dsimp only
    | split
    | with_reducible apply keeps_fields
    | with_reducible apply keeps_store

theorem wakeDone_keeps {s : State} (h : s0.Keeps fp s)
    (hm : Sub 0x3BDD7D08FAF fp) :
    s0.Keeps fp (wakeDone s) := by
  unfold wakeDone
  try dsimp only
  repeat' first
    | with_reducible assumption
    | ((with_reducible refine Sub.bit hm ?_); exact rfl)
    | ((with_reducible refine Sub.mono hm ?_); exact rfl)
    | ((with_reducible refine .inl (Sub.bit hm ?_)); exact rfl)
    | with_reducible exact .inr rfl
    | with_reducible apply keeps_ite
    | with_reducible refine keeps_foldl _ _ ?_ ?_
    | with_reducible refine keeps_foldl2 _ _ _ ?_ ?_
    | with_reducible apply State.wf_keeps
    | with_reducible apply State.wb_keeps
    | with_reducible apply State.setMode_keeps
    | with_reducible apply State.railsSettle_keeps
    | with_reducible apply State.setAudLock_keeps
    | with_reducible apply State.startPort_keeps
    | with_reducible apply State.proceed_keeps
    | (intro _ _ _)
    | (intro _ _)
    | (intro _)
    | dsimp only
    | split
    | with_reducible apply keeps_fields
    | with_reducible apply keeps_store

theorem State.pinWake_keeps {s : State} (h : s0.Keeps fp s)
    (hm : Sub 0x3C000000021 fp) :
    s0.Keeps fp (State.pinWake s) := by
  unfold State.pinWake
  try dsimp only
  repeat' first
    | with_reducible assumption
    | ((with_reducible refine Sub.bit hm ?_); exact rfl)
    | ((with_reducible refine Sub.mono hm ?_); exact rfl)
    | ((with_reducible refine .inl (Sub.bit hm ?_)); exact rfl)
    | with_reducible exact .inr rfl
    | with_reducible apply keeps_ite
    | with_reducible apply State.wakeSource_keeps
    | dsimp only
    | split
    | with_reducible apply keeps_fields
    | with_reducible apply keeps_store

theorem alwaysOnTick_keeps {s : State} (h : s0.Keeps fp s)
    (hm : Sub 0x3C00180002D fp) :
    s0.Keeps fp (alwaysOnTick s) := by
  unfold alwaysOnTick
  try dsimp only
  repeat' first
    | with_reducible assumption
    | ((with_reducible refine Sub.bit hm ?_); exact rfl)
    | ((with_reducible refine Sub.mono hm ?_); exact rfl)
    | ((with_reducible refine .inl (Sub.bit hm ?_)); exact rfl)
    | with_reducible exact .inr rfl
    | with_reducible apply keeps_ite
    | with_reducible apply State.advance_keeps
    | with_reducible apply State.timeWake_keeps
    | with_reducible apply State.pinWake_keeps
    | (split; rename_i e; have e3 := congrArg (fun p => p.2.2) e; dsimp only at e3; subst e3)
    | (split; rename_i e; have e2 := congrArg Prod.snd e; dsimp only at e2; subst e2)
    | dsimp only
    | split
    | with_reducible apply keeps_fields
    | with_reducible apply keeps_store

theorem State.haltCore_keeps {s : State} (c : Nat) (h : s0.Keeps fp s)
    (hm : Sub 0x8000000 fp) :
    s0.Keeps fp (State.haltCore s c) := by
  unfold State.haltCore
  try dsimp only
  repeat' first
    | with_reducible assumption
    | ((with_reducible refine Sub.bit hm ?_); exact rfl)
    | ((with_reducible refine Sub.mono hm ?_); exact rfl)
    | ((with_reducible refine .inl (Sub.bit hm ?_)); exact rfl)
    | with_reducible exact .inr rfl
    | with_reducible apply keeps_ite
    | with_reducible apply State.setCore_keeps
    | with_reducible apply State.waited_keeps
    | dsimp only
    | split
    | with_reducible apply keeps_fields
    | with_reducible apply keeps_store

theorem State.haltAll_keeps {s : State} (h : s0.Keeps fp s)
    (hm : Sub 0x2000980040D fp) :
    s0.Keeps fp (State.haltAll s) := by
  unfold State.haltAll
  try dsimp only
  repeat' first
    | with_reducible assumption
    | ((with_reducible refine Sub.bit hm ?_); exact rfl)
    | ((with_reducible refine Sub.mono hm ?_); exact rfl)
    | with_reducible refine keeps_foldl _ _ ?_ ?_
    | with_reducible refine keeps_foldl2 _ _ _ ?_ ?_
    | with_reducible apply State.wb_keeps
    | with_reducible apply State.setMode_keeps
    | with_reducible apply State.haltCore_keeps
    | (intro _ _ _)
    | (intro _ _)
    | (intro _)
    | dsimp only

theorem State.haltEnd_keeps {s : State} (h : s0.Keeps fp s)
    (hm : Sub 0x2000980040D fp) :
    s0.Keeps fp (State.haltEnd s) := by
  unfold State.haltEnd
  try dsimp only
  repeat' first
    | with_reducible assumption
    | ((with_reducible refine Sub.bit hm ?_); exact rfl)
    | ((with_reducible refine Sub.mono hm ?_); exact rfl)
    | ((with_reducible refine .inl (Sub.bit hm ?_)); exact rfl)
    | with_reducible exact .inr rfl
    | with_reducible apply keeps_ite
    | with_reducible apply State.wb_keeps
    | with_reducible apply State.setMode_keeps
    | with_reducible apply State.followVigil_keeps
    | dsimp only
    | split
    | with_reducible apply keeps_fields
    | with_reducible apply keeps_store

theorem dbgWrite_keeps (halt : Bool) {s : State} (h : s0.Keeps fp s)
    (hm : Sub 0x2000980040D fp) :
    s0.Keeps fp (dbgWrite halt s) := by
  unfold dbgWrite
  try dsimp only
  repeat' first
    | with_reducible assumption
    | ((with_reducible refine Sub.bit hm ?_); exact rfl)
    | ((with_reducible refine Sub.mono hm ?_); exact rfl)
    | ((with_reducible refine rej_parts _ (Sub.mono hm ?_)); exact rfl)
    | with_reducible apply keeps_ite
    | with_reducible apply State.rejectAt_keeps
    | with_reducible apply State.reject_keeps
    | with_reducible apply State.haltAll_keeps
    | with_reducible apply State.haltEnd_keeps
    | dsimp only
    | split

end Sys2Proof.Machine
end

