-- ==== Sys2Proof/Laws/KeepsBoot.lean ====
section
/-! SUPPORT. What the operations of Machine/Boot.lean keep, and the parts they may change. -/

namespace Sys2Proof.Machine

variable {fp : Nat} {s0 : State}

theorem State.lcShow_keeps {s : State} (h : s0.Keeps fp s)
    (hm : Sub 0x8041 fp) :
    s0.Keeps fp (State.lcShow s) := by
  unfold State.lcShow
  try dsimp only
  repeat' first
    | with_reducible assumption
    | ((with_reducible refine Sub.bit hm ?_); exact rfl)
    | ((with_reducible refine Sub.mono hm ?_); exact rfl)
    | ((with_reducible refine .inl (Sub.bit hm ?_)); exact rfl)
    | with_reducible exact .inr rfl
    | with_reducible apply keeps_ite
    | with_reducible apply State.wf_keeps
    | with_reducible apply State.wb_keeps
    | dsimp only
    | split
    | with_reducible apply keeps_fields
    | with_reducible apply keeps_store

theorem State.floorsShow_keeps {s : State} (key : Nat) (h : s0.Keeps fp s)
    (hm : Sub 1 fp) :
    s0.Keeps fp (State.floorsShow s key) := by
  unfold State.floorsShow
  try dsimp only
  repeat' first
    | with_reducible assumption
    | ((with_reducible refine Sub.bit hm ?_); exact rfl)
    | ((with_reducible refine Sub.mono hm ?_); exact rfl)
    | with_reducible apply State.wf_keeps
    | dsimp only

theorem State.setLc_keeps {s : State} (n : Nat) (h : s0.Keeps fp s)
    (hm : Sub 0x10000008041 fp) :
    s0.Keeps fp (State.setLc s n) := by
  unfold State.setLc
  try dsimp only
  repeat' first
    | with_reducible assumption
    | ((with_reducible refine Sub.bit hm ?_); exact rfl)
    | ((with_reducible refine Sub.mono hm ?_); exact rfl)
    | with_reducible apply State.setFuse_keeps
    | with_reducible apply State.lcShow_keeps
    | dsimp only

theorem State.scReset_keeps {s : State} (k : Nat) (h : s0.Keeps fp s)
    (hm : Sub 0x2000D000004 fp) :
    s0.Keeps fp (State.scReset s k) := by
  unfold State.scReset
  try dsimp only
  repeat' first
    | with_reducible assumption
    | ((with_reducible refine Sub.bit hm ?_); exact rfl)
    | ((with_reducible refine Sub.mono hm ?_); exact rfl)
    | ((with_reducible refine .inl (Sub.bit hm ?_)); exact rfl)
    | with_reducible exact .inr rfl
    | with_reducible apply State.setCore_keeps
    | with_reducible apply State.arbitrate_keeps
    | with_reducible apply State.endActive_keeps
    | (intro _ _ _)
    | (intro _ _)
    | (intro _)
    | dsimp only
    | with_reducible apply keeps_fields
    | with_reducible apply keeps_store

theorem State.scResetAll_keeps {s : State} (h : s0.Keeps fp s)
    (hm : Sub 0x2000D000004 fp) :
    s0.Keeps fp (State.scResetAll s) := by
  unfold State.scResetAll
  try dsimp only
  repeat' first
    | with_reducible assumption
    | ((with_reducible refine Sub.bit hm ?_); exact rfl)
    | ((with_reducible refine Sub.mono hm ?_); exact rfl)
    | with_reducible refine keeps_foldl _ _ ?_ ?_
    | with_reducible refine keeps_foldl2 _ _ _ ?_ ?_
    | with_reducible apply State.scReset_keeps
    | (intro _ _ _)
    | (intro _ _)
    | (intro _)
    | dsimp only

theorem State.bootStart_keeps {s : State} (h : s0.Keeps fp s)
    (hm : Sub 0x2000D000005 fp) :
    s0.Keeps fp (State.bootStart s) := by
  unfold State.bootStart
  try dsimp only
  repeat' first
    | with_reducible assumption
    | ((with_reducible refine Sub.bit hm ?_); exact rfl)
    | ((with_reducible refine Sub.mono hm ?_); exact rfl)
    | ((with_reducible refine .inl (Sub.bit hm ?_)); exact rfl)
    | with_reducible exact .inr rfl
    | with_reducible apply keeps_ite
    | with_reducible apply State.wf_keeps
    | with_reducible apply State.askHost_keeps
    | with_reducible apply State.scResetAll_keeps
    | dsimp only
    | split
    | with_reducible apply keeps_fields
    | with_reducible apply keeps_store

theorem State.bootGo_keeps {s : State} (r : RegName) (h : s0.Keeps fp s)
    (hm : Sub 0x2000D000005 fp) (hj_r : fp.testBit r.part.rej.index = true) :
    s0.Keeps fp (State.bootGo s r) := by
  unfold State.bootGo
  try dsimp only
  repeat' first
    | with_reducible assumption
    | ((with_reducible refine Sub.bit hm ?_); exact rfl)
    | ((with_reducible refine Sub.mono hm ?_); exact rfl)
    | ((with_reducible refine .inl (Sub.bit hm ?_)); exact rfl)
    | with_reducible exact .inr rfl
    | ((with_reducible refine rej_parts _ (Sub.mono hm ?_)); exact rfl)
    | with_reducible apply keeps_ite
    | with_reducible apply State.rejectAt_keeps
    | with_reducible apply State.reject_keeps
    | with_reducible apply State.bootStart_keeps
    | dsimp only
    | split
    | with_reducible apply keeps_fields
    | with_reducible apply keeps_store

theorem scCtrlWrite_keeps (mask : Nat) (reload : Bool) {s : State} (h : s0.Keeps fp s)
    (hm : Sub 0x2000D000005 fp) :
    s0.Keeps fp (scCtrlWrite mask reload s) := by
  unfold scCtrlWrite
  try dsimp only
  repeat' first
    | with_reducible assumption
    | ((with_reducible refine Sub.bit hm ?_); exact rfl)
    | ((with_reducible refine Sub.mono hm ?_); exact rfl)
    | ((with_reducible refine .inl (Sub.bit hm ?_)); exact rfl)
    | with_reducible exact .inr rfl
    | with_reducible apply keeps_ite
    | with_reducible refine keeps_foldl _ _ ?_ ?_
    | with_reducible refine keeps_foldl2 _ _ _ ?_ ?_
    | with_reducible apply State.wf_keeps
    | with_reducible apply State.scReset_keeps
    | with_reducible apply State.bootGo_keeps
    | (intro _ _ _)
    | (intro _ _)
    | (intro _)
    | dsimp only
    | split
    | with_reducible apply keeps_fields
    | with_reducible apply keeps_store

theorem State.placeImage_keeps {s : State} (p : List Byte) (h : s0.Keeps fp s)
    (hm : Sub 0x8000000 fp) :
    s0.Keeps fp (State.placeImage s p) := by
  unfold State.placeImage
  try dsimp only
  repeat' first
    | with_reducible assumption
    | ((with_reducible refine Sub.bit hm ?_); exact rfl)
    | ((with_reducible refine Sub.mono hm ?_); exact rfl)
    | ((with_reducible refine .inl (Sub.bit hm ?_)); exact rfl)
    | with_reducible exact .inr rfl
    | ((with_reducible refine reg_bit _ (Sub.mono hm ?_)); exact rfl)
    | ((with_reducible refine rej_bit _ (Sub.mono hm ?_)); exact rfl)
    | with_reducible apply bit_ite
    | with_reducible apply keeps_ite
    | with_reducible refine keeps_foldl _ _ ?_ ?_
    | with_reducible refine keeps_foldl2 _ _ _ ?_ ?_
    | with_reducible apply State.setCore_keeps
    | (intro _ _ _)
    | (intro _ _)
    | (intro _)
    | (split; rename_i e; have e3 := congrArg (fun p => p.2.2) e; dsimp only at e3; subst e3)
    | (split; rename_i e; have e2 := congrArg Prod.snd e; dsimp only at e2; subst e2)
    | dsimp only
    | split
    | with_reducible apply keeps_fields
    | with_reducible apply keeps_store

theorem State.bootFail_keeps {s : State} (r : Nat) (h : s0.Keeps fp s)
    (hm : Sub 0x3000D80000D fp) :
    s0.Keeps fp (State.bootFail s r) := by
  unfold State.bootFail
  try dsimp only
  repeat' first
    | with_reducible assumption
    | ((with_reducible refine Sub.bit hm ?_); exact rfl)
    | ((with_reducible refine Sub.mono hm ?_); exact rfl)
    | ((with_reducible refine .inl (Sub.bit hm ?_)); exact rfl)
    | with_reducible exact .inr rfl
    | with_reducible apply State.wf_keeps
    | with_reducible apply State.raise_keeps
    | with_reducible apply State.scResetAll_keeps
    | dsimp only
    | with_reducible apply keeps_fields
    | with_reducible apply keeps_store

theorem State.imageAt_keeps {s : State} (a : Nat) (h : s0.Keeps fp s)
    (hm : Sub 0x2000380000D fp) :
    s0.Keeps fp (State.imageAt s a).2 := by
  unfold State.imageAt
  try dsimp only
  repeat' first
    | with_reducible assumption
    | ((with_reducible refine Sub.bit hm ?_); exact rfl)
    | ((with_reducible refine Sub.mono hm ?_); exact rfl)
    | ((with_reducible refine .inl (Sub.bit hm ?_)); exact rfl)
    | with_reducible exact .inr rfl
    | with_reducible apply bit_ite
    | with_reducible apply keeps_ite
    | with_reducible apply keeps_ite2
    | with_reducible apply State.psRead_keeps
    | (split; rename_i e; have e3 := congrArg (fun p => p.2.2) e; dsimp only at e3; subst e3)
    | (split; rename_i e; have e2 := congrArg Prod.snd e; dsimp only at e2; subst e2)
    | dsimp only
    | split
    | with_reducible apply keeps_fields
    | with_reducible apply keeps_store

theorem State.storedImage_keeps {s : State} (h : s0.Keeps fp s)
    (hm : Sub 0x2000380000D fp) :
    s0.Keeps fp (State.storedImage s).2 := by
  unfold State.storedImage
  try dsimp only
  repeat' first
    | with_reducible assumption
    | ((with_reducible refine Sub.bit hm ?_); exact rfl)
    | ((with_reducible refine Sub.mono hm ?_); exact rfl)
    | with_reducible apply State.imageAt_keeps
    | dsimp only

theorem imageFetched_keeps (host : Option (List Byte)) {s : State} (h : s0.Keeps fp s)
    (hm : Sub 0x3000F80000D fp) :
    s0.Keeps fp (imageFetched host s) := by
  unfold imageFetched
  try dsimp only
  repeat' first
    | with_reducible assumption
    | ((with_reducible refine Sub.bit hm ?_); exact rfl)
    | ((with_reducible refine Sub.mono hm ?_); exact rfl)
    | ((with_reducible refine .inl (Sub.bit hm ?_)); exact rfl)
    | with_reducible exact .inr rfl
    | ((with_reducible refine reg_bit _ (Sub.mono hm ?_)); exact rfl)
    | ((with_reducible refine rej_bit _ (Sub.mono hm ?_)); exact rfl)
    | with_reducible apply bit_ite
    | with_reducible apply keeps_ite
    | with_reducible apply State.wf_keeps
    | with_reducible apply State.placeImage_keeps
    | with_reducible apply State.bootFail_keeps
    | with_reducible apply State.storedImage_keeps
    | (split; rename_i e; have e3 := congrArg (fun p => p.2.2) e; dsimp only at e3; subst e3)
    | (split; rename_i e; have e2 := congrArg Prod.snd e; dsimp only at e2; subst e2)
    | dsimp only
    | split
    | with_reducible apply keeps_fields
    | with_reducible apply keeps_store

theorem imageChecked_keeps {s : State} (h : s0.Keeps fp s)
    (hm : Sub 0x3000D80000D fp) :
    s0.Keeps fp (imageChecked s) := by
  unfold imageChecked
  try dsimp only
  repeat' first
    | with_reducible assumption
    | ((with_reducible refine Sub.bit hm ?_); exact rfl)
    | ((with_reducible refine Sub.mono hm ?_); exact rfl)
    | ((with_reducible refine .inl (Sub.bit hm ?_)); exact rfl)
    | with_reducible exact .inr rfl
    | with_reducible apply bit_ite
    | with_reducible apply keeps_ite
    | with_reducible refine keeps_foldl _ _ ?_ ?_
    | with_reducible refine keeps_foldl2 _ _ _ ?_ ?_
    | with_reducible apply State.wr_keeps
    | with_reducible apply State.wf_keeps
    | with_reducible apply State.setCore_keeps
    | with_reducible apply State.raise_keeps
    | with_reducible apply State.floorsShow_keeps
    | with_reducible apply State.scReset_keeps
    | with_reducible apply State.bootFail_keeps
    | (intro _ _ _)
    | (intro _ _)
    | (intro _)
    | dsimp only
    | split
    | with_reducible apply keeps_fields
    | with_reducible apply keeps_store

theorem State.lcTorn_keeps {s : State} (h : s0.Keeps fp s)
    (hm : Sub 0x10000000000 fp) :
    s0.Keeps fp (State.lcTorn s) := by
  unfold State.lcTorn
  try dsimp only
  repeat' first
    | with_reducible assumption
    | ((with_reducible refine Sub.bit hm ?_); exact rfl)
    | ((with_reducible refine Sub.mono hm ?_); exact rfl)
    | ((with_reducible refine .inl (Sub.bit hm ?_)); exact rfl)
    | with_reducible exact .inr rfl
    | with_reducible apply keeps_ite
    | with_reducible apply State.fresh_keeps
    | with_reducible apply State.setFuse_keeps
    | (split; rename_i e; have e3 := congrArg (fun p => p.2.2) e; dsimp only at e3; subst e3)
    | (split; rename_i e; have e2 := congrArg Prod.snd e; dsimp only at e2; subst e2)
    | dsimp only
    | split
    | with_reducible apply keeps_fields
    | with_reducible apply keeps_store

theorem State.logTorn_keeps {s : State} (h : s0.Keeps fp s)
    (hm : Sub 0x8000000020 fp) :
    s0.Keeps fp (State.logTorn s) := by
  unfold State.logTorn
  try dsimp only
  repeat' first
    | with_reducible assumption
    | ((with_reducible refine Sub.bit hm ?_); exact rfl)
    | ((with_reducible refine Sub.mono hm ?_); exact rfl)
    | ((with_reducible refine .inl (Sub.bit hm ?_)); exact rfl)
    | with_reducible exact .inr rfl
    | with_reducible apply keeps_ite
    | with_reducible apply State.fresh_keeps
    | with_reducible apply State.logWrite_keeps
    | (split; rename_i e; have e3 := congrArg (fun p => p.2.2) e; dsimp only at e3; subst e3)
    | (split; rename_i e; have e2 := congrArg Prod.snd e; dsimp only at e2; subst e2)
    | dsimp only
    | split
    | with_reducible apply keeps_fields
    | with_reducible apply keeps_store

theorem State.repairTorn_keeps {s : State} (h : s0.Keeps fp s)
    (hm : Sub 0x10000000000 fp) :
    s0.Keeps fp (State.repairTorn s) := by
  unfold State.repairTorn
  try dsimp only
  repeat' first
    | with_reducible assumption
    | ((with_reducible refine Sub.bit hm ?_); exact rfl)
    | ((with_reducible refine Sub.mono hm ?_); exact rfl)
    | ((with_reducible refine .inl (Sub.bit hm ?_)); exact rfl)
    | with_reducible exact .inr rfl
    | with_reducible apply keeps_ite
    | with_reducible apply State.fresh_keeps
    | (split; rename_i e; have e3 := congrArg (fun p => p.2.2) e; dsimp only at e3; subst e3)
    | (split; rename_i e; have e2 := congrArg Prod.snd e; dsimp only at e2; subst e2)
    | dsimp only
    | split
    | with_reducible apply keeps_fields
    | with_reducible apply keeps_store

theorem State.survivors_keeps {s : State} (warm : Bool) (phase : ResetPhase) (h : s0.Keeps fp s) (hm : Sub 0x3FFFFFFFFFF fp) :
    s0.Keeps fp (State.survivors s warm phase) := by
  unfold State.survivors
  exact keeps_regs h (fun hr => RegFile.wf_filter _ hr) id fun _ => no_part (Sub.mono hm rfl)

theorem State.resetBalls_keeps {s : State} (tripped : Bool) (h : s0.Keeps fp s)
    (hm : Sub 0x20000000000 fp) :
    s0.Keeps fp (State.resetBalls s tripped) := by
  unfold State.resetBalls
  try dsimp only
  repeat' first
    | with_reducible assumption
    | ((with_reducible refine Sub.bit hm ?_); exact rfl)
    | ((with_reducible refine Sub.mono hm ?_); exact rfl)
    | ((with_reducible refine .inl (Sub.bit hm ?_)); exact rfl)
    | with_reducible exact .inr rfl
    | with_reducible apply keeps_ite
    | with_reducible apply State.emit_keeps
    | dsimp only
    | split
    | with_reducible apply keeps_fields
    | with_reducible apply keeps_store

theorem State.resetTo_keeps {s : State} (warm : Bool) (phase : ResetPhase) (h : s0.Keeps fp s)
    (hm : Sub 0x3FFFFFFFFFF fp) :
    s0.Keeps fp (State.resetTo s warm phase) := by
  unfold State.resetTo
  try dsimp only
  repeat' first
    | with_reducible assumption
    | ((with_reducible refine Sub.bit hm ?_); exact rfl)
    | ((with_reducible refine Sub.mono hm ?_); exact rfl)
    | ((with_reducible refine .inl (Sub.bit hm ?_)); exact rfl)
    | with_reducible exact .inr rfl
    | ((with_reducible refine reg_bit _ (Sub.mono hm ?_)); exact rfl)
    | ((with_reducible refine rej_bit _ (Sub.mono hm ?_)); exact rfl)
    | with_reducible apply bit_ite
    | with_reducible apply keeps_ite
    | with_reducible apply keeps_ite2
    | with_reducible apply keeps_ite3
    | with_reducible refine keeps_foldl _ _ ?_ ?_
    | with_reducible refine keeps_foldl2 _ _ _ ?_ ?_
    | with_reducible refine keeps_foldl3 _ _ _ ?_ ?_
    | with_reducible apply State.adoptPl_keeps
    | with_reducible apply State.lcTorn_keeps
    | with_reducible apply State.logTorn_keeps
    | with_reducible apply State.repairTorn_keeps
    | with_reducible apply State.survivors_keeps
    | with_reducible apply State.resetBalls_keeps
    | (intro _ _ _)
    | (intro _ _)
    | (intro _)
    | (split; rename_i e; have e3 := congrArg (fun p => p.2.2) e; dsimp only at e3; subst e3)
    | (split; rename_i e; have e2 := congrArg Prod.snd e; dsimp only at e2; subst e2)
    | dsimp only
    | split
    | with_reducible apply keeps_fields
    | with_reducible apply keeps_store

theorem State.warmTrigger_keeps {s : State} (cause : Nat) (h : s0.Keeps fp s)
    (hm : Sub 0x10000000000 fp) :
    s0.Keeps fp (State.warmTrigger s cause) := by
  unfold State.warmTrigger
  try dsimp only
  repeat' first
    | with_reducible assumption
    | ((with_reducible refine Sub.bit hm ?_); exact rfl)
    | ((with_reducible refine Sub.mono hm ?_); exact rfl)
    | ((with_reducible refine .inl (Sub.bit hm ?_)); exact rfl)
    | with_reducible exact .inr rfl
    | with_reducible apply keeps_ite
    | dsimp only
    | split
    | with_reducible apply keeps_fields
    | with_reducible apply keeps_store

theorem warmBegin_keeps {s : State} (h : s0.Keeps fp s)
    (hm : Sub 0x3FFFFFFFFFF fp) :
    s0.Keeps fp (warmBegin s) := by
  unfold warmBegin
  try dsimp only
  repeat' first
    | with_reducible assumption
    | ((with_reducible refine Sub.bit hm ?_); exact rfl)
    | ((with_reducible refine Sub.mono hm ?_); exact rfl)
    | ((with_reducible refine .inl (Sub.bit hm ?_)); exact rfl)
    | with_reducible exact .inr rfl
    | with_reducible apply State.resetTo_keeps
    | dsimp only
    | split
    | with_reducible apply keeps_fields
    | with_reducible apply keeps_store

theorem resetRelease_keeps (straps : Nat) (testmode : Bool) {s : State} (h : s0.Keeps fp s)
    (hm : Sub 0x10000000000 fp) :
    s0.Keeps fp (resetRelease straps testmode s) := by
  unfold resetRelease
  try dsimp only
  repeat' first
    | with_reducible assumption
    | ((with_reducible refine Sub.bit hm ?_); exact rfl)
    | ((with_reducible refine Sub.mono hm ?_); exact rfl)
    | ((with_reducible refine .inl (Sub.bit hm ?_)); exact rfl)
    | with_reducible exact .inr rfl
    | with_reducible apply keeps_ite
    | dsimp only
    | split
    | with_reducible apply keeps_fields
    | with_reducible apply keeps_store

theorem State.senseFuses_keeps {s : State} (h : s0.Keeps fp s)
    (hm : Sub 0x100001FFFFF fp) :
    s0.Keeps fp (State.senseFuses s) := by
  unfold State.senseFuses
  try dsimp only
  repeat' first
    | with_reducible assumption
    | ((with_reducible refine Sub.bit hm ?_); exact rfl)
    | ((with_reducible refine Sub.mono hm ?_); exact rfl)
    | ((with_reducible refine .inl (Sub.bit hm ?_)); exact rfl)
    | with_reducible exact .inr rfl
    | ((with_reducible refine reg_bit _ (Sub.mono hm ?_)); exact rfl)
    | ((with_reducible refine rej_bit _ (Sub.mono hm ?_)); exact rfl)
    | with_reducible apply keeps_ite
    | with_reducible refine keeps_foldl _ _ ?_ ?_
    | with_reducible refine keeps_foldl2 _ _ _ ?_ ?_
    | with_reducible apply State.wr_keeps
    | with_reducible apply State.wf_keeps
    | with_reducible apply State.showLog_keeps
    | with_reducible apply State.lcShow_keeps
    | with_reducible apply State.floorsShow_keeps
    | (intro _ _ _)
    | (intro _ _)
    | (intro _)
    | dsimp only
    | split
    | with_reducible apply keeps_fields
    | with_reducible apply keeps_store

theorem State.sendCorners_keeps {s : State} (vdone : Nat) (h : s0.Keeps fp s)
    (hm : Sub 0x2801180002C fp) :
    s0.Keeps fp (State.sendCorners s vdone) := by
  unfold State.sendCorners
  try dsimp only
  repeat' first
    | with_reducible assumption
    | ((with_reducible refine Sub.bit hm ?_); exact rfl)
    | ((with_reducible refine Sub.mono hm ?_); exact rfl)
    | ((with_reducible refine .inl (Sub.bit hm ?_)); exact rfl)
    | with_reducible exact .inr rfl
    | with_reducible apply keeps_ite
    | with_reducible refine keeps_foldl _ _ ?_ ?_
    | with_reducible refine keeps_foldl2 _ _ _ ?_ ?_
    | with_reducible apply State.railSettle_keeps
    | with_reducible apply State.railDone_keeps
    | with_reducible apply State.setPlan_keeps
    | with_reducible apply State.avsFault_keeps
    | (intro _ _ _)
    | (intro _ _)
    | (intro _)
    | dsimp only
    | split
    | with_reducible apply keeps_fields
    | with_reducible apply keeps_store

theorem State.trainStacks_keeps {s : State} (warm : Bool) (trained : Nat) (h : s0.Keeps fp s) (hm : Sub 0x3FFFFFFFFFF fp) :
    s0.Keeps fp (State.trainStacks s warm trained) := by
  unfold State.trainStacks
  dsimp only
  have h1 : s0.Keeps fp { s with store := {} } := keeps_regs h id (fun _ => rfl) fun _ => no_part (Sub.mono hm rfl)
  repeat' first
    | with_reducible assumption
    | ((with_reducible refine Sub.bit hm ?_); exact rfl)
    | ((with_reducible refine Sub.mono hm ?_); exact rfl)
    | ((with_reducible refine .inl (Sub.bit hm ?_)); exact rfl)
    | with_reducible exact .inr rfl
    | ((with_reducible refine reg_bit _ (Sub.mono hm ?_)); exact rfl)
    | ((with_reducible refine rej_parts _ (Sub.mono hm ?_)); exact rfl)
    | with_reducible apply keeps_ite
    | with_reducible apply State.wb_keeps

theorem State.scanLog_keeps {s : State} (warm : Bool) (cause : Nat) (h : s0.Keeps fp s)
    (hm : Sub 0x8000800021 fp) :
    s0.Keeps fp (State.scanLog s warm cause) := by
  unfold State.scanLog
  try dsimp only
  repeat' first
    | with_reducible assumption
    | ((with_reducible refine Sub.bit hm ?_); exact rfl)
    | ((with_reducible refine Sub.mono hm ?_); exact rfl)
    | ((with_reducible refine .inl (Sub.bit hm ?_)); exact rfl)
    | with_reducible exact .inr rfl
    | with_reducible apply keeps_ite
    | with_reducible apply State.wr_keeps
    | with_reducible apply State.bump_keeps
    | with_reducible apply State.showLog_keeps
    | with_reducible apply State.hwLog_keeps
    | with_reducible apply logOpDone_keeps
    | dsimp only
    | split
    | with_reducible apply keeps_fields
    | with_reducible apply keeps_store

theorem State.bootStep_keeps {s : State} (n : Nat) (warm : Bool) (cause : Nat) (vdone : Nat) (trained : Nat) (pllLock : Bool) (h : s0.Keeps fp s)
    (hm : Sub 0x3FFFFFFFFFF fp) :
    s0.Keeps fp (State.bootStep s n warm cause vdone trained pllLock) := by
  unfold State.bootStep
  try dsimp only
  repeat' first
    | with_reducible assumption
    | ((with_reducible refine Sub.bit hm ?_); exact rfl)
    | ((with_reducible refine Sub.mono hm ?_); exact rfl)
    | ((with_reducible refine .inl (Sub.bit hm ?_)); exact rfl)
    | with_reducible exact .inr rfl
    | with_reducible apply keeps_ite
    | with_reducible apply State.wr_keeps
    | with_reducible apply State.wf_keeps
    | with_reducible apply State.freshWord_keeps
    | with_reducible apply State.setMode_keeps
    | with_reducible apply State.railsSettle_keeps
    | with_reducible apply State.watchBegin_keeps
    | with_reducible apply State.linkTrain_keeps
    | with_reducible apply State.bootStart_keeps
    | with_reducible apply imageFetched_keeps
    | with_reducible apply imageChecked_keeps
    | with_reducible apply State.senseFuses_keeps
    | with_reducible apply State.sendCorners_keeps
    | with_reducible apply State.trainStacks_keeps
    | with_reducible apply State.scanLog_keeps
    | (split; rename_i e; have e3 := congrArg (fun p => p.2.2) e; dsimp only at e3; subst e3)
    | (split; rename_i e; have e2 := congrArg Prod.snd e; dsimp only at e2; subst e2)
    | dsimp only
    | split
    | with_reducible apply keeps_fields
    | with_reducible apply keeps_store

theorem bootStepDone_keeps (vdone : Nat) (trained : Nat) (pllLock : Bool) {s : State} (h : s0.Keeps fp s)
    (hm : Sub 0x3FFFFFFFFFF fp) :
    s0.Keeps fp (bootStepDone vdone trained pllLock s) := by
  unfold bootStepDone
  try dsimp only
  repeat' first
    | with_reducible assumption
    | ((with_reducible refine Sub.bit hm ?_); exact rfl)
    | ((with_reducible refine Sub.mono hm ?_); exact rfl)
    | ((with_reducible refine .inl (Sub.bit hm ?_)); exact rfl)
    | with_reducible exact .inr rfl
    | with_reducible apply keeps_ite
    | with_reducible apply State.bootStep_keeps
    | dsimp only
    | split
    | with_reducible apply keeps_fields
    | with_reducible apply keeps_store

end Sys2Proof.Machine
end

