-- ==== Sys2Proof/Laws/KeepsLifeCycle.lean ====
section
/-! SUPPORT. What the operations of Machine/LifeCycle.lean keep, and the parts they may change. -/

namespace Sys2Proof.Machine

variable {fp : Nat} {s0 : State}

theorem lcCmd_keeps (c : Nat) {s : State} (h : s0.Keeps fp s)
    (hm : Sub 0x30000000001 fp) :
    s0.Keeps fp (lcCmd c s) := by
  unfold lcCmd
  try dsimp only
  repeat' first
    | with_reducible assumption
    | ((with_reducible refine Sub.bit hm ?_); exact rfl)
    | ((with_reducible refine Sub.mono hm ?_); exact rfl)
    | ((with_reducible refine .inl (Sub.bit hm ?_)); exact rfl)
    | with_reducible exact .inr rfl
    | ((with_reducible refine rej_parts _ (Sub.mono hm ?_)); exact rfl)
    | with_reducible apply keeps_ite
    | with_reducible apply State.wb_keeps
    | with_reducible apply State.rejectAt_keeps
    | with_reducible apply State.reject_keeps
    | with_reducible apply State.askHost_keeps
    | dsimp only
    | split
    | with_reducible apply keeps_fields
    | with_reducible apply keeps_store

theorem State.sealDigest_keeps {s : State} (d : Nat) (p : List Byte) (h : s0.Keeps fp s)
    (hm : Sub 0x10000008041 fp) :
    s0.Keeps fp (State.sealDigest s d p).2 := by
  unfold State.sealDigest
  try dsimp only
  repeat' first
    | with_reducible assumption
    | ((with_reducible refine Sub.bit hm ?_); exact rfl)
    | ((with_reducible refine Sub.mono hm ?_); exact rfl)
    | ((with_reducible refine .inl (Sub.bit hm ?_)); exact rfl)
    | with_reducible exact .inr rfl
    | with_reducible apply keeps_ite
    | with_reducible apply keeps_ite2
    | with_reducible refine keeps_foldl _ _ ?_ ?_
    | with_reducible refine keeps_foldl2 _ _ _ ?_ ?_
    | with_reducible apply State.setFuse_keeps
    | with_reducible apply State.lcShow_keeps
    | (intro _ _ _)
    | (intro _ _)
    | (intro _)
    | dsimp only
    | split
    | with_reducible apply keeps_fields
    | with_reducible apply keeps_store

theorem State.clearPl_keeps {s : State} (h : s0.Keeps fp s) (hm : Sub 0x3FFFFFFFFFF fp) : s0.Keeps fp (State.clearPl s) := by
  unfold State.clearPl
  extract_lets lo hi out zeroed s1
  have h1 : s0.Keeps fp s1 := keeps_foldl _ _ h fun _ n h =>
    keeps_foldl _ _ (keeps_foldl _ _ h fun _ r h => State.wr_keeps _ _ _ _ _ h (reg_bit _ (Sub.mono hm rfl)))
      fun _ k h => State.wr_keeps _ _ _ _ _ h (reg_bit _ (Sub.mono hm rfl))
  clear_value s1 out
  exact keeps_regs h1 id (Memory.wf_filter _) fun _ => no_part (Sub.mono hm rfl)

theorem State.lcRun_keeps {s : State} (c : Nat) (operand : Option (List Byte)) (h : s0.Keeps fp s)
    (hm : Sub 0x3FFFFFFFFFF fp) :
    s0.Keeps fp (State.lcRun s c operand).2 := by
  unfold State.lcRun
  try dsimp only
  repeat' first
    | with_reducible assumption
    | ((with_reducible refine Sub.bit hm ?_); exact rfl)
    | ((with_reducible refine Sub.mono hm ?_); exact rfl)
    | ((with_reducible refine .inl (Sub.bit hm ?_)); exact rfl)
    | with_reducible exact .inr rfl
    | with_reducible apply keeps_ite
    | with_reducible apply keeps_ite2
    | with_reducible apply State.setFuse_keeps
    | with_reducible apply State.floorsShow_keeps
    | with_reducible apply State.setLc_keeps
    | with_reducible apply State.warmTrigger_keeps
    | with_reducible apply State.sealDigest_keeps
    | with_reducible apply State.clearPl_keeps
    | dsimp only
    | split
    | with_reducible apply keeps_fields
    | with_reducible apply keeps_store

theorem lcDone_keeps (operand : Option (List Byte)) {s : State} (h : s0.Keeps fp s)
    (hm : Sub 0x3FFFFFFFFFF fp) :
    s0.Keeps fp (lcDone operand s) := by
  unfold lcDone
  try dsimp only
  repeat' first
    | with_reducible assumption
    | ((with_reducible refine Sub.bit hm ?_); exact rfl)
    | ((with_reducible refine Sub.mono hm ?_); exact rfl)
    | ((with_reducible refine .inl (Sub.bit hm ?_)); exact rfl)
    | with_reducible exact .inr rfl
    | with_reducible apply State.wf_keeps
    | with_reducible apply State.wb_keeps
    | with_reducible apply State.raise_keeps
    | with_reducible apply State.lcRun_keeps
    | (split; rename_i e; have e3 := congrArg (fun p => p.2.2) e; dsimp only at e3; subst e3)
    | (split; rename_i e; have e2 := congrArg Prod.snd e; dsimp only at e2; subst e2)
    | dsimp only
    | split
    | with_reducible apply keeps_fields
    | with_reducible apply keeps_store

theorem mgmtRead_keeps (regs : List RegName) {s : State} (h : s0.Keeps fp s)
    (hm : Sub 0x38000000021 fp) :
    s0.Keeps fp (mgmtRead regs s) := by
  unfold mgmtRead
  try dsimp only
  repeat' first
    | with_reducible assumption
    | ((with_reducible refine Sub.bit hm ?_); exact rfl)
    | ((with_reducible refine Sub.mono hm ?_); exact rfl)
    | ((with_reducible refine .inl (Sub.bit hm ?_)); exact rfl)
    | with_reducible exact .inr rfl
    | with_reducible apply keeps_ite
    | with_reducible apply State.emit_keeps
    | with_reducible apply State.wakeSource_keeps
    | (intro _ _ _)
    | (intro _ _)
    | (intro _)
    | dsimp only
    | split
    | with_reducible apply keeps_fields
    | with_reducible apply keeps_store

theorem mgmtReset_keeps (value : Byte) {s : State} (h : s0.Keeps fp s)
    (hm : Sub 0x38000000021 fp) :
    s0.Keeps fp (mgmtReset value s) := by
  unfold mgmtReset
  try dsimp only
  repeat' first
    | with_reducible assumption
    | ((with_reducible refine Sub.bit hm ?_); exact rfl)
    | ((with_reducible refine Sub.mono hm ?_); exact rfl)
    | ((with_reducible refine .inl (Sub.bit hm ?_)); exact rfl)
    | with_reducible exact .inr rfl
    | with_reducible apply keeps_ite
    | with_reducible apply State.wakeSource_keeps
    | with_reducible apply State.warmTrigger_keeps
    | dsimp only
    | split
    | with_reducible apply keeps_fields
    | with_reducible apply keeps_store

theorem configRequest_keeps (q : ConfigReq) {s : State} (h : s0.Keeps fp s)
    (hm : Sub 0x38001A0042F fp) :
    s0.Keeps fp (configRequest q s) := by
  unfold configRequest
  try dsimp only
  repeat' first
    | with_reducible assumption
    | ((with_reducible refine Sub.bit hm ?_); exact rfl)
    | ((with_reducible refine Sub.mono hm ?_); exact rfl)
    | ((with_reducible refine .inl (Sub.bit hm ?_)); exact rfl)
    | with_reducible exact .inr rfl
    | with_reducible apply bit_ite
    | with_reducible apply keeps_ite
    | with_reducible apply State.emit_keeps
    | with_reducible apply State.arbitrate_keeps
    | with_reducible apply State.linkTrain_keeps
    | with_reducible apply busMasterClear_keeps
    | with_reducible apply d3hot_keeps
    | dsimp only
    | split
    | with_reducible apply keeps_fields
    | with_reducible apply keeps_store

theorem perstRelease_keeps {s : State} (h : s0.Keeps fp s)
    (hm : Sub 0x200000 fp) :
    s0.Keeps fp (perstRelease s) := by
  unfold perstRelease
  try dsimp only
  repeat' first
    | with_reducible assumption
    | ((with_reducible refine Sub.bit hm ?_); exact rfl)
    | ((with_reducible refine Sub.mono hm ?_); exact rfl)
    | ((with_reducible refine .inl (Sub.bit hm ?_)); exact rfl)
    | with_reducible exact .inr rfl
    | with_reducible apply keeps_ite
    | with_reducible apply State.linkTrain_keeps
    | dsimp only
    | split
    | with_reducible apply keeps_fields
    | with_reducible apply keeps_store

end Sys2Proof.Machine
end

