-- ==== Sys2Proof/Laws/KeepsBist.lean ====
section
/-! SUPPORT. What the operations of Machine/Bist.lean keep, and the parts they may change. -/

namespace Sys2Proof.Machine

variable {fp : Nat} {s0 : State}

theorem State.setBist_keeps {s : State} (b : Bist) (h : s0.Keeps fp s)
    (hm : Sub 0x10000000000 fp) :
    s0.Keeps fp (State.setBist s b) := by
  unfold State.setBist
  try dsimp only
  repeat' first
    | with_reducible assumption
    | ((with_reducible refine Sub.bit hm ?_); exact rfl)
    | ((with_reducible refine Sub.mono hm ?_); exact rfl)
    | ((with_reducible refine .inl (Sub.bit hm ?_)); exact rfl)
    | with_reducible exact .inr rfl
    | dsimp only
    | with_reducible apply keeps_fields
    | with_reducible apply keeps_store

theorem State.bistEnd_keeps {s : State} (result : Nat) (h : s0.Keeps fp s)
    (hm : Sub 0x3000180004C fp) :
    s0.Keeps fp (State.bistEnd s result) := by
  unfold State.bistEnd
  try dsimp only
  repeat' first
    | with_reducible assumption
    | ((with_reducible refine Sub.bit hm ?_); exact rfl)
    | ((with_reducible refine Sub.mono hm ?_); exact rfl)
    | ((with_reducible refine .inl (Sub.bit hm ?_)); exact rfl)
    | with_reducible exact .inr rfl
    | with_reducible apply State.wf_keeps
    | with_reducible apply State.raise_keeps
    | with_reducible apply State.setBist_keeps
    | dsimp only
    | with_reducible apply keeps_fields
    | with_reducible apply keeps_store

theorem State.bistFetch_keeps {s : State} (h : s0.Keeps fp s)
    (hm : Sub 0x20000000040 fp) :
    s0.Keeps fp (State.bistFetch s) := by
  unfold State.bistFetch
  try dsimp only
  repeat' first
    | with_reducible assumption
    | ((with_reducible refine Sub.bit hm ?_); exact rfl)
    | ((with_reducible refine Sub.mono hm ?_); exact rfl)
    | ((with_reducible refine .inl (Sub.bit hm ?_)); exact rfl)
    | with_reducible exact .inr rfl
    | with_reducible apply keeps_ite
    | with_reducible apply State.wf_keeps
    | with_reducible apply State.askHost_keeps
    | dsimp only
    | split
    | with_reducible apply keeps_fields
    | with_reducible apply keeps_store

theorem bistGo_keeps {s : State} (h : s0.Keeps fp s)
    (hm : Sub 0x3000180004C fp) :
    s0.Keeps fp (bistGo s) := by
  unfold bistGo
  try dsimp only
  repeat' first
    | with_reducible assumption
    | ((with_reducible refine Sub.bit hm ?_); exact rfl)
    | ((with_reducible refine Sub.mono hm ?_); exact rfl)
    | ((with_reducible refine .inl (Sub.bit hm ?_)); exact rfl)
    | with_reducible exact .inr rfl
    | ((with_reducible refine rej_parts _ (Sub.mono hm ?_)); exact rfl)
    | with_reducible apply keeps_ite
    | with_reducible apply State.rejectAt_keeps
    | with_reducible apply State.reject_keeps
    | with_reducible apply State.setBist_keeps
    | with_reducible apply State.bistEnd_keeps
    | with_reducible apply State.bistFetch_keeps
    | dsimp only
    | split
    | with_reducible apply keeps_fields
    | with_reducible apply keeps_store

theorem bistStop_keeps {s : State} (h : s0.Keeps fp s)
    (hm : Sub 0x3000180004C fp) :
    s0.Keeps fp (bistStop s) := by
  unfold bistStop
  try dsimp only
  repeat' first
    | with_reducible assumption
    | ((with_reducible refine Sub.bit hm ?_); exact rfl)
    | ((with_reducible refine Sub.mono hm ?_); exact rfl)
    | ((with_reducible refine .inl (Sub.bit hm ?_)); exact rfl)
    | with_reducible exact .inr rfl
    | with_reducible apply keeps_ite
    | with_reducible apply State.setBist_keeps
    | with_reducible apply State.bistEnd_keeps
    | dsimp only
    | split
    | with_reducible apply keeps_fields
    | with_reducible apply keeps_store

theorem State.programAt_keeps {s : State} (a : Nat) (h : s0.Keeps fp s)
    (hm : Sub 0x2000380000D fp) :
    s0.Keeps fp (State.programAt s a).2 := by
  unfold State.programAt
  try dsimp only
  repeat' first
    | with_reducible assumption
    | ((with_reducible refine Sub.bit hm ?_); exact rfl)
    | ((with_reducible refine Sub.mono hm ?_); exact rfl)
    | ((with_reducible refine .inl (Sub.bit hm ?_)); exact rfl)
    | with_reducible exact .inr rfl
    | with_reducible apply bit_ite
    | with_reducible apply keeps_ite
    | with_reducible apply keeps_ite2
    | with_reducible apply State.psRead_keeps
    | (split; rename_i e; have e3 := congrArg (fun p => p.2.2) e; dsimp only at e3; subst e3)
    | (split; rename_i e; have e2 := congrArg Prod.snd e; dsimp only at e2; subst e2)
    | dsimp only
    | split
    | with_reducible apply keeps_fields
    | with_reducible apply keeps_store

theorem State.storedProgram_keeps {s : State} (h : s0.Keeps fp s)
    (hm : Sub 0x2000380000D fp) :
    s0.Keeps fp (State.storedProgram s).2 := by
  unfold State.storedProgram
  try dsimp only
  repeat' first
    | with_reducible assumption
    | ((with_reducible refine Sub.bit hm ?_); exact rfl)
    | ((with_reducible refine Sub.mono hm ?_); exact rfl)
    | with_reducible apply State.programAt_keeps
    | dsimp only

theorem bistFetched_keeps (host : Option (List Byte)) {s : State} (h : s0.Keeps fp s)
    (hm : Sub 0x3000380004D fp) :
    s0.Keeps fp (bistFetched host s) := by
  unfold bistFetched
  try dsimp only
  repeat' first
    | with_reducible assumption
    | ((with_reducible refine Sub.bit hm ?_); exact rfl)
    | ((with_reducible refine Sub.mono hm ?_); exact rfl)
    | ((with_reducible refine .inl (Sub.bit hm ?_)); exact rfl)
    | with_reducible exact .inr rfl
    | with_reducible apply bit_ite
    | with_reducible apply keeps_ite
    | with_reducible apply State.wr_keeps
    | with_reducible apply State.wf_keeps
    | with_reducible apply State.setBist_keeps
    | with_reducible apply State.bistEnd_keeps
    | with_reducible apply State.storedProgram_keeps
    | (split; rename_i e; have e3 := congrArg (fun p => p.2.2) e; dsimp only at e3; subst e3)
    | (split; rename_i e; have e2 := congrArg Prod.snd e; dsimp only at e2; subst e2)
    | dsimp only
    | split
    | with_reducible apply keeps_fields
    | with_reducible apply keeps_store

theorem State.bistNext_keeps {s : State} (h : s0.Keeps fp s)
    (hm : Sub 0x3000180004C fp) :
    s0.Keeps fp (State.bistNext s) := by
  unfold State.bistNext
  try dsimp only
  repeat' first
    | with_reducible assumption
    | ((with_reducible refine Sub.bit hm ?_); exact rfl)
    | ((with_reducible refine Sub.mono hm ?_); exact rfl)
    | ((with_reducible refine .inl (Sub.bit hm ?_)); exact rfl)
    | with_reducible exact .inr rfl
    | with_reducible apply keeps_ite
    | with_reducible apply State.wf_keeps
    | with_reducible apply State.setBist_keeps
    | with_reducible apply State.bistEnd_keeps
    | with_reducible apply State.bistFetch_keeps
    | dsimp only
    | split
    | with_reducible apply keeps_fields
    | with_reducible apply keeps_store

theorem sliceBegin_keeps {s : State} (h : s0.Keeps fp s)
    (hm : Sub 0x3000180004C fp) :
    s0.Keeps fp (sliceBegin s) := by
  unfold sliceBegin
  try dsimp only
  repeat' first
    | with_reducible assumption
    | ((with_reducible refine Sub.bit hm ?_); exact rfl)
    | ((with_reducible refine Sub.mono hm ?_); exact rfl)
    | ((with_reducible refine .inl (Sub.bit hm ?_)); exact rfl)
    | with_reducible exact .inr rfl
    | with_reducible apply keeps_ite
    | with_reducible apply State.bump_keeps
    | with_reducible apply State.setBist_keeps
    | with_reducible apply State.bistNext_keeps
    | dsimp only
    | split
    | with_reducible apply keeps_fields
    | with_reducible apply keeps_store

theorem State.spareFor_keeps {s : State} (e : BistEntry) (column : Bool) (h : s0.Keeps fp s)
    (hm : Sub 0 fp) :
    s0.Keeps fp (State.spareFor s e column).2 := by
  unfold State.spareFor
  try dsimp only
  repeat' first
    | with_reducible assumption
    | ((with_reducible refine Sub.bit hm ?_); exact rfl)
    | ((with_reducible refine Sub.mono hm ?_); exact rfl)
    | ((with_reducible refine .inl (Sub.bit hm ?_)); exact rfl)
    | with_reducible exact .inr rfl
    | with_reducible apply bit_ite
    | with_reducible apply keeps_ite
    | with_reducible apply keeps_ite2
    | with_reducible apply State.fresh_keeps
    | (split; rename_i e; have e3 := congrArg (fun p => p.2.2) e; dsimp only at e3; subst e3)
    | (split; rename_i e; have e2 := congrArg Prod.snd e; dsimp only at e2; subst e2)
    | dsimp only
    | split
    | with_reducible apply keeps_fields
    | with_reducible apply keeps_store

theorem State.bistFault_keeps {s : State} (e : BistEntry) (f : BistFault) (h : s0.Keeps fp s)
    (hm : Sub 0x3000180004C fp) :
    s0.Keeps fp (State.bistFault s e f) := by
  unfold State.bistFault
  try dsimp only
  repeat' first
    | with_reducible assumption
    | ((with_reducible refine Sub.bit hm ?_); exact rfl)
    | ((with_reducible refine Sub.mono hm ?_); exact rfl)
    | ((with_reducible refine .inl (Sub.bit hm ?_)); exact rfl)
    | with_reducible exact .inr rfl
    | with_reducible apply bit_ite
    | with_reducible apply keeps_ite
    | with_reducible apply State.wr_keeps
    | with_reducible apply State.bump_keeps
    | with_reducible apply State.fresh_keeps
    | with_reducible apply State.raise_keeps
    | with_reducible apply State.setBist_keeps
    | with_reducible apply State.spareFor_keeps
    | (split; rename_i e; have e3 := congrArg (fun p => p.2.2) e; dsimp only at e3; subst e3)
    | (split; rename_i e; have e2 := congrArg Prod.snd e; dsimp only at e2; subst e2)
    | dsimp only
    | split
    | with_reducible apply keeps_fields
    | with_reducible apply keeps_store

theorem State.repairShow_keeps {s : State} (h : s0.Keeps fp s)
    (hm : Sub 0x40 fp) :
    s0.Keeps fp (State.repairShow s) := by
  unfold State.repairShow
  try dsimp only
  repeat' first
    | with_reducible assumption
    | ((with_reducible refine Sub.bit hm ?_); exact rfl)
    | ((with_reducible refine Sub.mono hm ?_); exact rfl)
    | with_reducible apply State.wf_keeps
    | dsimp only

theorem State.repairMade_keeps {s : State} (r : Repair) (h : s0.Keeps fp s)
    (hm : Sub 0x10000000040 fp) :
    s0.Keeps fp (State.repairMade s r) := by
  unfold State.repairMade
  try dsimp only
  repeat' first
    | with_reducible assumption
    | ((with_reducible refine Sub.bit hm ?_); exact rfl)
    | ((with_reducible refine Sub.mono hm ?_); exact rfl)
    | ((with_reducible refine .inl (Sub.bit hm ?_)); exact rfl)
    | with_reducible exact .inr rfl
    | with_reducible apply keeps_ite
    | with_reducible apply State.wf_keeps
    | with_reducible apply State.setBist_keeps
    | with_reducible apply State.repairShow_keeps
    | dsimp only
    | split
    | with_reducible apply keeps_fields
    | with_reducible apply keeps_store

theorem State.slicePreempted_keeps {s : State} (h : s0.Keeps fp s)
    (hm : Sub 0x3000180004C fp) :
    s0.Keeps fp (State.slicePreempted s) := by
  unfold State.slicePreempted
  try dsimp only
  repeat' first
    | with_reducible assumption
    | ((with_reducible refine Sub.bit hm ?_); exact rfl)
    | ((with_reducible refine Sub.mono hm ?_); exact rfl)
    | ((with_reducible refine .inl (Sub.bit hm ?_)); exact rfl)
    | with_reducible exact .inr rfl
    | with_reducible apply keeps_ite
    | with_reducible apply State.bump_keeps
    | with_reducible apply State.setBist_keeps
    | with_reducible apply State.bistNext_keeps
    | dsimp only
    | split
    | with_reducible apply keeps_fields
    | with_reducible apply keeps_store

theorem State.sliceDone_keeps {s : State} (faults : List BistFault) (restoreHit : Bool) (h : s0.Keeps fp s)
    (hm : Sub 0x3000180004C fp) :
    s0.Keeps fp (State.sliceDone s faults restoreHit) := by
  unfold State.sliceDone
  try dsimp only
  repeat' first
    | with_reducible assumption
    | ((with_reducible refine Sub.bit hm ?_); exact rfl)
    | ((with_reducible refine Sub.mono hm ?_); exact rfl)
    | ((with_reducible refine .inl (Sub.bit hm ?_)); exact rfl)
    | with_reducible exact .inr rfl
    | with_reducible apply keeps_ite
    | with_reducible refine keeps_foldl _ _ ?_ ?_
    | with_reducible refine keeps_foldl2 _ _ _ ?_ ?_
    | with_reducible apply State.bump_keeps
    | with_reducible apply State.setBist_keeps
    | with_reducible apply State.bistNext_keeps
    | with_reducible apply State.bistFault_keeps
    | with_reducible apply State.repairMade_keeps
    | (intro _ _ _)
    | (intro _ _)
    | (intro _)
    | dsimp only
    | split
    | with_reducible apply keeps_fields
    | with_reducible apply keeps_store

theorem sliceEnd_keeps (r : SliceEnd) (waited : Bool) (restoreHit : Bool) {s : State} (h : s0.Keeps fp s)
    (hm : Sub 0x3000380004C fp) :
    s0.Keeps fp (sliceEnd r waited restoreHit s) := by
  unfold sliceEnd
  try dsimp only
  repeat' first
    | with_reducible assumption
    | ((with_reducible refine Sub.bit hm ?_); exact rfl)
    | ((with_reducible refine Sub.mono hm ?_); exact rfl)
    | ((with_reducible refine .inl (Sub.bit hm ?_)); exact rfl)
    | with_reducible exact .inr rfl
    | with_reducible apply keeps_ite
    | with_reducible apply State.bump_keeps
    | with_reducible apply State.slicePreempted_keeps
    | with_reducible apply State.sliceDone_keeps
    | dsimp only
    | split
    | with_reducible apply keeps_fields
    | with_reducible apply keeps_store

theorem pauseExpiry_keeps {s : State} (h : s0.Keeps fp s)
    (hm : Sub 0x10000000000 fp) :
    s0.Keeps fp (pauseExpiry s) := by
  unfold pauseExpiry
  try dsimp only
  repeat' first
    | with_reducible assumption
    | ((with_reducible refine Sub.bit hm ?_); exact rfl)
    | ((with_reducible refine Sub.mono hm ?_); exact rfl)
    | ((with_reducible refine .inl (Sub.bit hm ?_)); exact rfl)
    | with_reducible exact .inr rfl
    | with_reducible apply keeps_ite
    | with_reducible apply State.setBist_keeps
    | dsimp only
    | split
    | with_reducible apply keeps_fields
    | with_reducible apply keeps_store

theorem bistRepair_keeps (op : Nat) {s : State} (h : s0.Keeps fp s)
    (hm : Sub 0x10000000040 fp) :
    s0.Keeps fp (bistRepair op s) := by
  unfold bistRepair
  try dsimp only
  repeat' first
    | with_reducible assumption
    | ((with_reducible refine Sub.bit hm ?_); exact rfl)
    | ((with_reducible refine Sub.mono hm ?_); exact rfl)
    | ((with_reducible refine .inl (Sub.bit hm ?_)); exact rfl)
    | with_reducible exact .inr rfl
    | ((with_reducible refine rej_parts _ (Sub.mono hm ?_)); exact rfl)
    | with_reducible apply keeps_ite
    | with_reducible apply State.wb_keeps
    | with_reducible apply State.rejectAt_keeps
    | with_reducible apply State.reject_keeps
    | with_reducible apply State.setBist_keeps
    | with_reducible apply State.spareFor_keeps
    | (intro _ _ _)
    | (intro _ _)
    | (intro _)
    | (split; rename_i e; have e3 := congrArg (fun p => p.2.2) e; dsimp only at e3; subst e3)
    | (split; rename_i e; have e2 := congrArg Prod.snd e; dsimp only at e2; subst e2)
    | dsimp only
    | split
    | with_reducible apply keeps_fields
    | with_reducible apply keeps_store

theorem repairDone_keeps {s : State} (h : s0.Keeps fp s)
    (hm : Sub 0x3000180004C fp) :
    s0.Keeps fp (repairDone s) := by
  unfold repairDone
  try dsimp only
  repeat' first
    | with_reducible assumption
    | ((with_reducible refine Sub.bit hm ?_); exact rfl)
    | ((with_reducible refine Sub.mono hm ?_); exact rfl)
    | ((with_reducible refine .inl (Sub.bit hm ?_)); exact rfl)
    | with_reducible exact .inr rfl
    | with_reducible apply bit_ite
    | with_reducible apply keeps_ite
    | with_reducible apply State.wf_keeps
    | with_reducible apply State.wb_keeps
    | with_reducible apply State.fresh_keeps
    | with_reducible apply State.raise_keeps
    | with_reducible apply State.setBist_keeps
    | with_reducible apply State.repairShow_keeps
    | with_reducible apply State.repairMade_keeps
    | (split; rename_i e; have e3 := congrArg (fun p => p.2.2) e; dsimp only at e3; subst e3)
    | (split; rename_i e; have e2 := congrArg Prod.snd e; dsimp only at e2; subst e2)
    | dsimp only
    | split
    | with_reducible apply keeps_fields
    | with_reducible apply keeps_store

end Sys2Proof.Machine
end

