-- ==== Sys2Proof/Laws/KeepsTap.lean ====
section
/-! SUPPORT. What the operations of Machine/Tap.lean keep, and the parts they may change. -/

namespace Sys2Proof.Machine

variable {fp : Nat} {s0 : State}

theorem tapLoad_keeps (op : Nat) {s : State} (h : s0.Keeps fp s)
    (hm : Sub 0x38401E0042F fp) :
    s0.Keeps fp (tapLoad op s) := by
  unfold tapLoad
  try dsimp only
  repeat' first
    | with_reducible assumption
    | ((with_reducible refine Sub.bit hm ?_); exact rfl)
    | ((with_reducible refine Sub.mono hm ?_); exact rfl)
    | ((with_reducible refine .inl (Sub.bit hm ?_)); exact rfl)
    | with_reducible exact .inr rfl
    | with_reducible apply keeps_ite
    | with_reducible refine keeps_foldl _ _ ?_ ?_
    | with_reducible refine keeps_foldl2 _ _ _ ?_ ?_
    | with_reducible apply State.fresh_keeps
    | with_reducible apply State.renegotiate_keeps
    | with_reducible apply State.linkLoss_keeps
    | (intro _ _ _)
    | (intro _ _)
    | (intro _)
    | (split; rename_i e; have e3 := congrArg (fun p => p.2.2) e; dsimp only at e3; subst e3)
    | (split; rename_i e; have e2 := congrArg Prod.snd e; dsimp only at e2; subst e2)
    | dsimp only
    | split
    | with_reducible apply keeps_fields
    | with_reducible apply keeps_store

theorem tapBypass_keeps {s : State} (h : s0.Keeps fp s)
    (hm : Sub 0x38401E0042F fp) :
    s0.Keeps fp (tapBypass s) := by
  unfold tapBypass
  try dsimp only
  repeat' first
    | with_reducible assumption
    | ((with_reducible refine Sub.bit hm ?_); exact rfl)
    | ((with_reducible refine Sub.mono hm ?_); exact rfl)
    | with_reducible apply tapLoad_keeps
    | dsimp only

theorem lcManufacture_keeps {s : State} (h : s0.Keeps fp s)
    (hm : Sub 0x38401E0846F fp) :
    s0.Keeps fp (lcManufacture s) := by
  unfold lcManufacture
  try dsimp only
  repeat' first
    | with_reducible assumption
    | ((with_reducible refine Sub.bit hm ?_); exact rfl)
    | ((with_reducible refine Sub.mono hm ?_); exact rfl)
    | with_reducible apply keeps_ite
    | with_reducible apply State.setLc_keeps
    | with_reducible apply tapLoad_keeps
    | with_reducible apply tapBypass_keeps
    | dsimp only
    | split

end Sys2Proof.Machine
end

