-- ==== Sys2Proof/Laws/KeepsLpControl.lean ====
section
/-! SUPPORT. What the operations of Machine/LpControl.lean keep, and the parts they may change. -/

namespace Sys2Proof.Machine

variable {fp : Nat} {s0 : State}

theorem lswOp_keeps (c : Nat) (o : FmtHigh) {s : State} (h : s0.Keeps fp s)
    (hm : Sub 0x2001DC1000F fp) :
    s0.Keeps fp (lswOp c o s) := by
  unfold lswOp
  try dsimp only
  repeat' first
    | with_reducible assumption
    | ((with_reducible refine Sub.bit hm ?_); exact rfl)
    | ((with_reducible refine Sub.mono hm ?_); exact rfl)
    | ((with_reducible refine .inl (Sub.bit hm ?_)); exact rfl)
    | with_reducible exact .inr rfl
    | with_reducible apply keeps_ite
    | with_reducible apply State.fenceDrop_keeps
    | with_reducible apply State.setCore_keeps
    | with_reducible apply State.waited_keeps
    | with_reducible apply issueIf_keeps
    | with_reducible apply State.setBeam_keeps
    | with_reducible apply State.finish_keeps
    | (intro _ _ _)
    | (intro _ _)
    | (intro _)
    | dsimp only
    | split
    | with_reducible apply keeps_fields
    | with_reducible apply keeps_store

theorem waitlOp_keeps (c : Nat) (o : FmtSpec) {s : State} (h : s0.Keeps fp s)
    (hm : Sub 0x2000DC1000F fp) :
    s0.Keeps fp (waitlOp c o s) := by
  unfold waitlOp
  try dsimp only
  repeat' first
    | with_reducible assumption
    | ((with_reducible refine Sub.bit hm ?_); exact rfl)
    | ((with_reducible refine Sub.mono hm ?_); exact rfl)
    | ((with_reducible refine .inl (Sub.bit hm ?_)); exact rfl)
    | with_reducible exact .inr rfl
    | with_reducible apply State.setCore_keeps
    | with_reducible apply issueIf_keeps
    | with_reducible apply State.finish_keeps
    | (intro _ _ _)
    | (intro _ _)
    | (intro _)
    | dsimp only
    | split
    | with_reducible apply keeps_fields
    | with_reducible apply keeps_store

theorem waitlEnd_keeps (c : Nat) {s : State} (h : s0.Keeps fp s)
    (hm : Sub 0x20009C0000E fp) :
    s0.Keeps fp (waitlEnd c s) := by
  unfold waitlEnd
  try dsimp only
  repeat' first
    | with_reducible assumption
    | ((with_reducible refine Sub.bit hm ?_); exact rfl)
    | ((with_reducible refine Sub.mono hm ?_); exact rfl)
    | ((with_reducible refine .inl (Sub.bit hm ?_)); exact rfl)
    | with_reducible exact .inr rfl
    | with_reducible apply State.setCore_keeps
    | with_reducible apply State.waited_keeps
    | with_reducible apply State.finish_keeps
    | dsimp only
    | split
    | with_reducible apply keeps_fields
    | with_reducible apply keeps_store

theorem runFanel_keeps (c : Nat) (i : Option Instr) {s : State} (h : s0.Keeps fp s)
    (hm : Sub 0x2001DC1000F fp) :
    s0.Keeps fp (runFanel c i s) := by
  unfold runFanel
  try dsimp only
  repeat' first
    | with_reducible assumption
    | ((with_reducible refine Sub.bit hm ?_); exact rfl)
    | ((with_reducible refine Sub.mono hm ?_); exact rfl)
    | ((with_reducible refine .inl (Sub.bit hm ?_)); exact rfl)
    | with_reducible exact .inr rfl
    | with_reducible apply issue_keeps
    | with_reducible apply illegal_keeps
    | with_reducible apply aluDone_keeps
    | with_reducible apply aluRR_keeps
    | with_reducible apply aluR_keeps
    | with_reducible apply aluSh_keeps
    | with_reducible apply aluImm_keeps
    | with_reducible apply mulOp_keeps
    | with_reducible apply divOp_keeps
    | with_reducible apply loadOp_keeps
    | with_reducible apply storeOp_keeps
    | with_reducible apply branchOp_keeps
    | with_reducible apply jOp_keeps
    | with_reducible apply jrOp_keeps
    | with_reducible apply loopOp_keeps
    | with_reducible apply loopiOp_keeps
    | with_reducible apply leaveOp_keeps
    | with_reducible apply callmOp_keeps
    | with_reducible apply retmOp_keeps
    | with_reducible apply mfsOp_keeps
    | with_reducible apply mtsOp_keeps
    | with_reducible apply wfeOp_keeps
    | with_reducible apply sevOp_keeps
    | with_reducible apply waittOp_keeps
    | with_reducible apply msyncOp_keeps
    | with_reducible apply brkOp_keeps
    | with_reducible apply syscOp_keeps
    | with_reducible apply nopOp_keeps
    | with_reducible apply retiOp_keeps
    | with_reducible apply lswOp_keeps
    | with_reducible apply waitlOp_keeps
    | (intro _ _ _)
    | (intro _ _)
    | (intro _)
    | dsimp only
    | split
    | with_reducible apply keeps_fields
    | with_reducible apply keeps_store

theorem lpStep_keeps (n : Fin 16) {s : State} (h : s0.Keeps fp s)
    (hm : Sub 0x2001DC1000F fp) :
    s0.Keeps fp (lpStep n s) := by
  unfold lpStep
  try dsimp only
  repeat' first
    | with_reducible assumption
    | ((with_reducible refine Sub.bit hm ?_); exact rfl)
    | ((with_reducible refine Sub.mono hm ?_); exact rfl)
    | ((with_reducible refine .inl (Sub.bit hm ?_)); exact rfl)
    | with_reducible exact .inr rfl
    | with_reducible apply keeps_ite
    | with_reducible apply State.setCore_keeps
    | with_reducible apply runFanel_keeps
    | dsimp only
    | split
    | with_reducible apply keeps_fields
    | with_reducible apply keeps_store

theorem State.lpHalt_keeps {s : State} (n : Nat) (halt : Bool) (h : s0.Keeps fp s)
    (hm : Sub 0x8000000 fp) :
    s0.Keeps fp (State.lpHalt s n halt) := by
  unfold State.lpHalt
  try dsimp only
  repeat' first
    | with_reducible assumption
    | ((with_reducible refine Sub.bit hm ?_); exact rfl)
    | ((with_reducible refine Sub.mono hm ?_); exact rfl)
    | ((with_reducible refine .inl (Sub.bit hm ?_)); exact rfl)
    | with_reducible exact .inr rfl
    | with_reducible apply keeps_ite
    | with_reducible apply State.setCore_keeps
    | with_reducible apply State.waited_keeps
    | dsimp only
    | split
    | with_reducible apply keeps_fields
    | with_reducible apply keeps_store

theorem lpCtrlWrite_keeps (n : Fin 16) (w : Word) {s : State} (h : s0.Keeps fp s)
    (hm : Sub 0x2001DC1080F fp) :
    s0.Keeps fp (lpCtrlWrite n w s) := by
  unfold lpCtrlWrite
  try dsimp only
  repeat' first
    | with_reducible assumption
    | ((with_reducible refine Sub.bit hm ?_); exact rfl)
    | ((with_reducible refine Sub.mono hm ?_); exact rfl)
    | ((with_reducible refine .inl (Sub.bit hm ?_)); exact rfl)
    | with_reducible exact .inr rfl
    | with_reducible apply bit_ite
    | ((with_reducible refine rej_parts _ (Sub.mono hm ?_)); exact rfl)
    | with_reducible apply keeps_ite
    | with_reducible apply State.wr_keeps
    | with_reducible apply State.rejectAt_keeps
    | with_reducible apply State.reject_keeps
    | with_reducible apply State.setCore_keeps
    | with_reducible apply State.arbitrate_keeps
    | with_reducible apply State.endActive_keeps
    | with_reducible apply lpStep_keeps
    | with_reducible apply State.lpHalt_keeps
    | dsimp only
    | split
    | with_reducible apply keeps_fields
    | with_reducible apply keeps_store

end Sys2Proof.Machine
end

