-- ==== Sys2Proof/Laws/KeepsBus.lean ====
section
/-! SUPPORT. What the operations of Machine/Bus.lean keep, and the parts they may change. -/

namespace Sys2Proof.Machine

variable {fp : Nat} {s0 : State}

theorem State.put_keeps {s : State} (r : RegName) (i : Nat) (j : Nat) (k : Nat) (w : Word) (h : s0.Keeps fp s)
    (hm : Sub 0 fp) (hb_r : fp.testBit r.bit = true) :
    s0.Keeps fp (State.put s r i j k w) := by
  unfold State.put
  try dsimp only
  repeat' first
    | with_reducible assumption
    | ((with_reducible refine Sub.bit hm ?_); exact rfl)
    | ((with_reducible refine Sub.mono hm ?_); exact rfl)
    | ((with_reducible refine reg_bit _ (Sub.mono hm ?_)); exact rfl)
    | ((with_reducible refine rej_bit _ (Sub.mono hm ?_)); exact rfl)
    | with_reducible apply State.wr_keeps
    | dsimp only

theorem dmaBadWrite_keeps (c : Nat) (w : Word) {s : State} (h : s0.Keeps fp s)
    (hm : Sub 0x80 fp) :
    s0.Keeps fp (dmaBadWrite c w s) := by
  unfold dmaBadWrite
  try dsimp only
  repeat' first
    | with_reducible assumption
    | ((with_reducible refine Sub.bit hm ?_); exact rfl)
    | ((with_reducible refine Sub.mono hm ?_); exact rfl)
    | ((with_reducible refine .inl (Sub.bit hm ?_)); exact rfl)
    | with_reducible exact .inr rfl
    | ((with_reducible refine reg_bit _ (Sub.mono hm ?_)); exact rfl)
    | ((with_reducible refine rej_bit _ (Sub.mono hm ?_)); exact rfl)
    | with_reducible apply keeps_ite
    | with_reducible apply State.wr_keeps
    | with_reducible apply State.put_keeps
    | dsimp only
    | split
    | with_reducible apply keeps_fields
    | with_reducible apply keeps_store

theorem State.tcmWrite_keeps {s : State} (c : Nat) (a : Nat) (w : Word) (h : s0.Keeps fp s)
    (hm : Sub 0x2000D80000D fp) :
    s0.Keeps fp (State.tcmWrite s c a w) := by
  unfold State.tcmWrite
  try dsimp only
  repeat' first
    | with_reducible assumption
    | ((with_reducible refine Sub.bit hm ?_); exact rfl)
    | ((with_reducible refine Sub.mono hm ?_); exact rfl)
    | ((with_reducible refine .inl (Sub.bit hm ?_)); exact rfl)
    | with_reducible exact .inr rfl
    | with_reducible apply keeps_ite
    | with_reducible apply State.setCore_keeps
    | with_reducible apply State.readTable_keeps
    | with_reducible apply State.cleanTable_keeps
    | (intro _ _ _)
    | (intro _ _)
    | (intro _)
    | dsimp only
    | split
    | with_reducible apply keeps_fields
    | with_reducible apply keeps_store

theorem dbgRegWrite_keeps (a : Nat) (n : Nat) (special : Bool) (j : Nat) (w : Word) {s : State} (h : s0.Keeps fp s)
    (hm : Sub 0x8000FFF fp) :
    s0.Keeps fp (dbgRegWrite a n special j w s) := by
  unfold dbgRegWrite
  try dsimp only
  repeat' first
    | with_reducible assumption
    | ((with_reducible refine Sub.bit hm ?_); exact rfl)
    | ((with_reducible refine Sub.mono hm ?_); exact rfl)
    | ((with_reducible refine .inl (Sub.bit hm ?_)); exact rfl)
    | with_reducible exact .inr rfl
    | ((with_reducible refine rej_parts _ (Sub.mono hm ?_)); exact rfl)
    | with_reducible apply keeps_ite
    | with_reducible apply State.rejectAt_keeps
    | with_reducible apply State.reject_keeps
    | with_reducible apply State.setCore_keeps
    | dsimp only
    | split
    | with_reducible apply keeps_fields
    | with_reducible apply keeps_store

theorem writeCentral_keeps (o : Origin) (a : Nat) (r : RegName) (i : Nat) (j : Nat) (k : Nat) (w : Word) {s : State} (h : s0.Keeps fp s)
    (hm : Sub 0x3C5DFD08FFF fp) (hb_r : fp.testBit r.bit = true) (hj_r : fp.testBit r.part.rej.index = true) :
    s0.Keeps fp (writeCentral o a r i j k w s) := by
  unfold writeCentral
  try dsimp only
  repeat' first
    | with_reducible assumption
    | ((with_reducible refine Sub.bit hm ?_); exact rfl)
    | ((with_reducible refine Sub.mono hm ?_); exact rfl)
    | ((with_reducible refine .inl (Sub.bit hm ?_)); exact rfl)
    | with_reducible exact .inr rfl
    | ((with_reducible refine reg_bit _ (Sub.mono hm ?_)); exact rfl)
    | ((with_reducible refine rej_bit _ (Sub.mono hm ?_)); exact rfl)
    | with_reducible apply bit_ite
    | ((with_reducible refine rej_parts _ (Sub.mono hm ?_)); exact rfl)
    | with_reducible apply keeps_ite
    | with_reducible apply State.rejectAt_keeps
    | with_reducible apply State.reject_keeps
    | with_reducible apply State.arbitrate_keeps
    | with_reducible apply srcCfgWrite_keeps
    | with_reducible apply srcStatusWrite_keeps
    | with_reducible apply swiWrite_keeps
    | with_reducible apply tbLoad_keeps
    | with_reducible apply cmpValueWrite_keeps
    | with_reducible apply cmpCtrlWrite_keeps
    | with_reducible apply itCtrlWrite_keeps
    | with_reducible apply itLoadWrite_keeps
    | with_reducible apply injectWrite_keeps
    | with_reducible apply State.capUpdates_keeps
    | with_reducible apply cgMapWrite_keeps
    | with_reducible apply gpioOutWrite_keeps
    | with_reducible apply gpioSet_keeps
    | with_reducible apply gpioClr_keeps
    | with_reducible apply gpioCtrlWrite_keeps
    | with_reducible apply gpioInWrite_keeps
    | with_reducible apply cenCtrlWrite_keeps
    | with_reducible apply modeReq_keeps
    | with_reducible apply State.timeWake_keeps
    | with_reducible apply dbgWrite_keeps
    | with_reducible apply State.bootGo_keeps
    | with_reducible apply scCtrlWrite_keeps
    | with_reducible apply State.warmTrigger_keeps
    | with_reducible apply lcCmd_keeps
    | with_reducible apply crCtrlWrite_keeps
    | with_reducible apply cqCtrlWrite_keeps
    | with_reducible apply eqCtrlWrite_keeps
    | with_reducible apply ringBaseWrite_keeps
    | with_reducible apply hstCtrlWrite_keeps
    | with_reducible apply State.put_keeps
    | dsimp only
    | split
    | with_reducible apply keeps_fields
    | with_reducible apply keeps_store

theorem writeUnits_keeps (a : Nat) (r : RegName) (i : Nat) (j : Nat) (k : Nat) (w : Word) {s : State} (h : s0.Keeps fp s)
    (hm : Sub 0x3BC13C08FFF fp) (hb_r : fp.testBit r.bit = true) :
    s0.Keeps fp (writeUnits a r i j k w s) := by
  unfold writeUnits
  try dsimp only
  repeat' first
    | with_reducible assumption
    | ((with_reducible refine Sub.bit hm ?_); exact rfl)
    | ((with_reducible refine Sub.mono hm ?_); exact rfl)
    | ((with_reducible refine .inl (Sub.bit hm ?_)); exact rfl)
    | with_reducible exact .inr rfl
    | ((with_reducible refine reg_bit _ (Sub.mono hm ?_)); exact rfl)
    | ((with_reducible refine rej_bit _ (Sub.mono hm ?_)); exact rfl)
    | ((with_reducible refine rej_parts _ (Sub.mono hm ?_)); exact rfl)
    | with_reducible apply keeps_ite
    | with_reducible apply State.wf_keeps
    | with_reducible apply State.rejectAt_keeps
    | with_reducible apply State.reject_keeps
    | with_reducible apply State.railSettle_keeps
    | with_reducible apply State.railsSettle_keeps
    | with_reducible apply lnkCtrlWrite_keeps
    | with_reducible apply veqWrite_keeps
    | with_reducible apply feedPush_keeps
    | with_reducible apply crosspointWrite_keeps
    | with_reducible apply busSwap_keeps
    | with_reducible apply audClkWrite_keeps
    | with_reducible apply audCtrlWrite_keeps
    | with_reducible apply gainWrite_keeps
    | with_reducible apply directGo_keeps
    | with_reducible apply dmaCtrlWrite_keeps
    | with_reducible apply logOp_keeps
    | with_reducible apply State.ladderTargets_keeps
    | with_reducible apply ledgerWrite_keeps
    | with_reducible apply leap_keeps
    | with_reducible apply almCtrlWrite_keeps
    | with_reducible apply pmbWrite_keeps
    | with_reducible apply bistGo_keeps
    | with_reducible apply bistStop_keeps
    | with_reducible apply bistRepair_keeps
    | with_reducible apply State.put_keeps
    | with_reducible apply dmaBadWrite_keeps
    | dsimp only
    | split
    | with_reducible apply keeps_fields
    | with_reducible apply keeps_store

theorem writeBeam_keeps (a : Nat) (r : RegName) (i : Nat) (j : Nat) (k : Nat) (w : Word) {s : State} (h : s0.Keeps fp s)
    (hm : Sub 0x2001DC3AFFF fp) (hb_r : fp.testBit r.bit = true) :
    s0.Keeps fp (writeBeam a r i j k w s) := by
  unfold writeBeam
  try dsimp only
  repeat' first
    | with_reducible assumption
    | ((with_reducible refine Sub.bit hm ?_); exact rfl)
    | ((with_reducible refine Sub.mono hm ?_); exact rfl)
    | ((with_reducible refine .inl (Sub.bit hm ?_)); exact rfl)
    | with_reducible exact .inr rfl
    | ((with_reducible refine reg_bit _ (Sub.mono hm ?_)); exact rfl)
    | ((with_reducible refine rej_bit _ (Sub.mono hm ?_)); exact rfl)
    | ((with_reducible refine rej_parts _ (Sub.mono hm ?_)); exact rfl)
    | with_reducible apply keeps_ite
    | with_reducible apply State.wf_keeps
    | with_reducible apply State.rejectAt_keeps
    | with_reducible apply State.reject_keeps
    | with_reducible apply peakClear_keeps
    | with_reducible apply pleGo_keeps
    | with_reducible apply lpCtrlWrite_keeps
    | with_reducible apply State.put_keeps
    | with_reducible apply State.tcmWrite_keeps
    | with_reducible apply dbgRegWrite_keeps
    | dsimp only
    | split
    | with_reducible apply keeps_fields
    | with_reducible apply keeps_store

theorem writeReg_keeps (o : Origin) (a : Nat) (r : RegName) (i : Nat) (j : Nat) (k : Nat) (w : Word) {s : State} (h : s0.Keeps fp s)
    (hm : Sub 0x3FDDFD3AFFF fp) (hb_r : fp.testBit r.bit = true) (hj_r : fp.testBit r.part.rej.index = true) :
    s0.Keeps fp (writeReg o a r i j k w s) := by
  unfold writeReg
  try dsimp only
  repeat' first
    | with_reducible assumption
    | ((with_reducible refine Sub.bit hm ?_); exact rfl)
    | ((with_reducible refine Sub.mono hm ?_); exact rfl)
    | ((with_reducible refine reg_bit _ (Sub.mono hm ?_)); exact rfl)
    | ((with_reducible refine rej_bit _ (Sub.mono hm ?_)); exact rfl)
    | with_reducible apply keeps_ite
    | with_reducible apply State.put_keeps
    | with_reducible apply writeCentral_keeps
    | with_reducible apply writeUnits_keeps
    | with_reducible apply writeBeam_keeps
    | dsimp only
    | split

theorem judged_keeps (a : Nat) (f : State → State) {s : State} (h : s0.Keeps fp s) (hm : Sub 0x1FFFFF fp)
    (hf : ∀ s, s0.Keeps fp s → s0.Keeps fp (f s)) : s0.Keeps fp (judged a f s).2 := by
  unfold judged
  have hr : fp.testBit (rejectReg a).1.bit = true := by
    rw [RegName.bit, rejectReg_part]
    exact rej_parts _ (Sub.mono hm rfl)
  have h1 := hf _ (State.wr_keeps (rejectReg a).1 0 (rejectReg a).2 0 0 h hr)
  exact keeps_ite2 h1 (State.wr_keeps _ _ _ _ _ h1 hr)

theorem busWord_keeps (o : Origin) (a : Nat) (w : Word) {s : State} (h : s0.Keeps fp s)
    (hm : Sub 0x3FDDFDFFFFF fp) :
    s0.Keeps fp (busWord o a w s).2 := by
  unfold busWord
  try dsimp only
  repeat' first
    | with_reducible assumption
    | ((with_reducible refine Sub.bit hm ?_); exact rfl)
    | ((with_reducible refine Sub.mono hm ?_); exact rfl)
    | ((with_reducible refine .inl (Sub.bit hm ?_)); exact rfl)
    | with_reducible exact .inr rfl
    | ((with_reducible refine reg_bit _ (Sub.mono hm ?_)); exact rfl)
    | ((with_reducible refine rej_bit _ (Sub.mono hm ?_)); exact rfl)
    | ((with_reducible refine rej_parts _ (Sub.mono hm ?_)); exact rfl)
    | with_reducible apply keeps_ite
    | with_reducible apply keeps_ite2
    | with_reducible apply keeps_ite3
    | with_reducible apply State.rejectAt_keeps
    | with_reducible apply State.reject_keeps
    | with_reducible apply State.fenceDrop_keeps
    | with_reducible apply oatWrite_keeps
    | with_reducible apply State.put_keeps
    | with_reducible apply writeReg_keeps
    | with_reducible apply judged_keeps
    | (intro _ _ _)
    | (intro _ _)
    | (intro _)
    | (split; rename_i e; have e3 := congrArg (fun p => p.2.2) e; dsimp only at e3; subst e3)
    | (split; rename_i e; have e2 := congrArg Prod.snd e; dsimp only at e2; subst e2)
    | dsimp only
    | split
    | with_reducible apply keeps_fields
    | with_reducible apply keeps_store

theorem State.tableRead_keeps {s : State} (key : Nat) (off : Nat) (w : Word) (h : s0.Keeps fp s)
    (hm : Sub 0x2000D80000D fp) :
    s0.Keeps fp (State.tableRead s key off w).2.2 := by
  unfold State.tableRead
  try dsimp only
  repeat' first
    | with_reducible assumption
    | ((with_reducible refine Sub.bit hm ?_); exact rfl)
    | ((with_reducible refine Sub.mono hm ?_); exact rfl)
    | ((with_reducible refine .inl (Sub.bit hm ?_)); exact rfl)
    | with_reducible exact .inr rfl
    | with_reducible apply State.readTable_keeps
    | (split; rename_i e; have e3 := congrArg (fun p => p.2.2) e; dsimp only at e3; subst e3)
    | (split; rename_i e; have e2 := congrArg Prod.snd e; dsimp only at e2; subst e2)
    | dsimp only
    | split
    | with_reducible apply keeps_fields
    | with_reducible apply keeps_store

theorem readReg_keeps (a : Nat) (r : RegName) (i : Nat) (j : Nat) (k : Nat) {s : State} (h : s0.Keeps fp s)
    (hm : Sub 0x2401D80001D fp) :
    s0.Keeps fp (readReg a r i j k s).2.2 := by
  unfold readReg
  try dsimp only
  repeat' first
    | with_reducible assumption
    | ((with_reducible refine Sub.bit hm ?_); exact rfl)
    | ((with_reducible refine Sub.mono hm ?_); exact rfl)
    | ((with_reducible refine .inl (Sub.bit hm ?_)); exact rfl)
    | with_reducible exact .inr rfl
    | with_reducible apply keeps_ite
    | with_reducible apply keeps_ite3
    | with_reducible apply State.setCore_keeps
    | with_reducible apply queuePop_keeps
    | with_reducible apply tbLoRead_keeps
    | with_reducible apply tbHiRead_keeps
    | with_reducible apply capLoRead_keeps
    | with_reducible apply capHiRead_keeps
    | with_reducible apply capLogPop_keeps
    | with_reducible apply readSpecial_keeps
    | with_reducible apply frameLoRead_keeps
    | with_reducible apply frameHiRead_keeps
    | with_reducible apply State.refreshPads_keeps
    | with_reducible apply State.tableRead_keeps
    | (split; rename_i e; have e3 := congrArg (fun p => p.2.2) e; dsimp only at e3; subst e3)
    | (split; rename_i e; have e2 := congrArg Prod.snd e; dsimp only at e2; subst e2)
    | dsimp only
    | split
    | with_reducible apply keeps_fields
    | with_reducible apply keeps_store

theorem busRead_keeps (a : Nat) {s : State} (h : s0.Keeps fp s)
    (hm : Sub 0x2401D80001D fp) :
    s0.Keeps fp (busRead a s).2.2 := by
  unfold busRead
  try dsimp only
  repeat' first
    | with_reducible assumption
    | ((with_reducible refine Sub.bit hm ?_); exact rfl)
    | ((with_reducible refine Sub.mono hm ?_); exact rfl)
    | ((with_reducible refine .inl (Sub.bit hm ?_)); exact rfl)
    | with_reducible exact .inr rfl
    | with_reducible apply keeps_ite
    | with_reducible apply keeps_ite3
    | with_reducible apply readReg_keeps
    | (split; rename_i e; have e3 := congrArg (fun p => p.2.2) e; dsimp only at e3; subst e3)
    | (split; rename_i e; have e2 := congrArg Prod.snd e; dsimp only at e2; subst e2)
    | dsimp only
    | split
    | with_reducible apply keeps_fields
    | with_reducible apply keeps_store

theorem busReadPair_keeps (a : Nat) {s : State} (h : s0.Keeps fp s)
    (hm : Sub 0x2401D80001D fp) :
    s0.Keeps fp (busReadPair a s).2.2 := by
  unfold busReadPair
  try dsimp only
  repeat' first
    | with_reducible assumption
    | ((with_reducible refine Sub.bit hm ?_); exact rfl)
    | ((with_reducible refine Sub.mono hm ?_); exact rfl)
    | ((with_reducible refine .inl (Sub.bit hm ?_)); exact rfl)
    | with_reducible exact .inr rfl
    | with_reducible apply capTake_keeps
    | with_reducible apply busRead_keeps
    | (split; rename_i e; have e3 := congrArg (fun p => p.2.2) e; dsimp only at e3; subst e3)
    | (split; rename_i e; have e2 := congrArg Prod.snd e; dsimp only at e2; subst e2)
    | dsimp only
    | split
    | with_reducible apply keeps_fields
    | with_reducible apply keeps_store

theorem registerRead_keeps (a : Nat) (q : ReadReq) {s : State} (h : s0.Keeps fp s)
    (hm : Sub 0x2401D80001D fp) :
    s0.Keeps fp (registerRead a q s) := by
  unfold registerRead
  try dsimp only
  repeat' first
    | with_reducible assumption
    | ((with_reducible refine Sub.bit hm ?_); exact rfl)
    | ((with_reducible refine Sub.mono hm ?_); exact rfl)
    | ((with_reducible refine .inl (Sub.bit hm ?_)); exact rfl)
    | with_reducible exact .inr rfl
    | with_reducible apply keeps_ite
    | with_reducible apply State.emit_keeps
    | with_reducible apply busRead_keeps
    | with_reducible apply busReadPair_keeps
    | (intro _ _ _)
    | (intro _ _)
    | (intro _)
    | (split; rename_i e; have e3 := congrArg (fun p => p.2.2) e; dsimp only at e3; subst e3)
    | (split; rename_i e; have e2 := congrArg Prod.snd e; dsimp only at e2; subst e2)
    | dsimp only
    | split
    | with_reducible apply keeps_fields
    | with_reducible apply keeps_store

theorem bar0Unsupported_keeps (a : Nat) (write : Bool) {s : State} (h : s0.Keeps fp s)
    (hm : Sub 0x20000200001 fp) :
    s0.Keeps fp (bar0Unsupported a write s) := by
  unfold bar0Unsupported
  try dsimp only
  repeat' first
    | with_reducible assumption
    | ((with_reducible refine Sub.bit hm ?_); exact rfl)
    | ((with_reducible refine Sub.mono hm ?_); exact rfl)
    | ((with_reducible refine .inl (Sub.bit hm ?_)); exact rfl)
    | with_reducible exact .inr rfl
    | with_reducible apply keeps_ite
    | with_reducible apply State.emit_keeps
    | with_reducible apply State.wr_keeps
    | dsimp only
    | split
    | with_reducible apply keeps_fields
    | with_reducible apply keeps_store

theorem registerWrite_keeps (o : Origin) (a : Nat) (lo : Word) (hi : Option Word) (whole : Bool) {s : State} (h : s0.Keeps fp s)
    (hm : Sub 0x3FDDFFFFFFF fp) :
    s0.Keeps fp (registerWrite o a lo hi whole s) := by
  unfold registerWrite
  try dsimp only
  repeat' first
    | with_reducible assumption
    | ((with_reducible refine Sub.bit hm ?_); exact rfl)
    | ((with_reducible refine Sub.mono hm ?_); exact rfl)
    | ((with_reducible refine .inl (Sub.bit hm ?_)); exact rfl)
    | with_reducible exact .inr rfl
    | with_reducible apply bit_ite
    | ((with_reducible refine rej_parts _ (Sub.mono hm ?_)); exact rfl)
    | with_reducible apply keeps_ite
    | with_reducible apply State.rejectAt_keeps
    | with_reducible apply State.reject_keeps
    | with_reducible apply busWord_keeps
    | with_reducible apply bar0Unsupported_keeps
    | dsimp only
    | split
    | with_reducible apply keeps_fields
    | with_reducible apply keeps_store

theorem bar2Write_keeps (a0 : Nat) (bs : List (Option Byte)) {s : State} (h : s0.Keeps fp s)
    (hm : Sub 0x2000380800F fp) :
    s0.Keeps fp (bar2Write a0 bs s) := by
  unfold bar2Write
  try dsimp only
  repeat' first
    | with_reducible assumption
    | ((with_reducible refine Sub.bit hm ?_); exact rfl)
    | ((with_reducible refine Sub.mono hm ?_); exact rfl)
    | ((with_reducible refine .inl (Sub.bit hm ?_)); exact rfl)
    | with_reducible exact .inr rfl
    | with_reducible apply keeps_ite
    | with_reducible refine keeps_foldl _ _ ?_ ?_
    | with_reducible refine keeps_foldl2 _ _ _ ?_ ?_
    | with_reducible apply State.wb_keeps
    | with_reducible apply State.deny_keeps
    | with_reducible apply State.psWrite_keeps
    | with_reducible apply State.postEvent_keeps
    | (intro _ _ _)
    | (intro _ _)
    | (intro _)
    | dsimp only
    | split
    | with_reducible apply keeps_fields
    | with_reducible apply keeps_store

theorem bar2Read_keeps (a0 : Nat) (n : Nat) {s : State} (h : s0.Keeps fp s)
    (hm : Sub 0x20003A0000D fp) :
    s0.Keeps fp (bar2Read a0 n s) := by
  unfold bar2Read
  try dsimp only
  repeat' first
    | with_reducible assumption
    | ((with_reducible refine Sub.bit hm ?_); exact rfl)
    | ((with_reducible refine Sub.mono hm ?_); exact rfl)
    | ((with_reducible refine .inl (Sub.bit hm ?_)); exact rfl)
    | with_reducible exact .inr rfl
    | ((with_reducible refine reg_bit _ (Sub.mono hm ?_)); exact rfl)
    | ((with_reducible refine rej_bit _ (Sub.mono hm ?_)); exact rfl)
    | with_reducible apply keeps_ite
    | with_reducible apply keeps_ite2
    | with_reducible apply keeps_ite3
    | with_reducible refine keeps_foldl _ _ ?_ ?_
    | with_reducible refine keeps_foldl2 _ _ _ ?_ ?_
    | with_reducible refine keeps_foldl3 _ _ _ ?_ ?_
    | with_reducible apply State.emit_keeps
    | with_reducible apply State.psRead_keeps
    | (intro _ _ _)
    | (intro _ _)
    | (intro _)
    | (split; rename_i e; have e3 := congrArg (fun p => p.2.2) e; dsimp only at e3; subst e3)
    | (split; rename_i e; have e2 := congrArg Prod.snd e; dsimp only at e2; subst e2)
    | dsimp only
    | split
    | with_reducible apply keeps_fields
    | with_reducible apply keeps_store

theorem State.thawed_keeps {s : State} (c : Nat) (h : s0.Keeps fp s)
    (hm : Sub 0x8000000 fp) :
    s0.Keeps fp (State.thawed s c) := by
  unfold State.thawed
  try dsimp only
  repeat' first
    | with_reducible assumption
    | ((with_reducible refine Sub.bit hm ?_); exact rfl)
    | ((with_reducible refine Sub.mono hm ?_); exact rfl)
    | ((with_reducible refine .inl (Sub.bit hm ?_)); exact rfl)
    | with_reducible exact .inr rfl
    | with_reducible apply State.setCore_keeps
    | with_reducible apply State.waited_keeps
    | dsimp only
    | with_reducible apply keeps_fields
    | with_reducible apply keeps_store

theorem State.loadDone_keeps {s : State} (c : Nat) (rd : Nat) (v : Word) (h : s0.Keeps fp s)
    (hm : Sub 0x20009C0000E fp) :
    s0.Keeps fp (State.loadDone s c rd v) := by
  unfold State.loadDone
  try dsimp only
  repeat' first
    | with_reducible assumption
    | ((with_reducible refine Sub.bit hm ?_); exact rfl)
    | ((with_reducible refine Sub.mono hm ?_); exact rfl)
    | ((with_reducible refine .inl (Sub.bit hm ?_)); exact rfl)
    | with_reducible exact .inr rfl
    | with_reducible apply State.setCore_keeps
    | with_reducible apply State.finish_keeps
    | with_reducible apply State.thawed_keeps
    | dsimp only
    | with_reducible apply keeps_fields
    | with_reducible apply keeps_store

theorem State.windowFault_keeps {s : State} (c : Nat) (a : Word) (h : s0.Keeps fp s)
    (hm : Sub 0x2000D81000D fp) :
    s0.Keeps fp (State.windowFault s c a) := by
  unfold State.windowFault
  try dsimp only
  repeat' first
    | with_reducible assumption
    | ((with_reducible refine Sub.bit hm ?_); exact rfl)
    | ((with_reducible refine Sub.mono hm ?_); exact rfl)
    | ((with_reducible refine .inl (Sub.bit hm ?_)); exact rfl)
    | with_reducible exact .inr rfl
    | with_reducible apply State.setCore_keeps
    | with_reducible apply takeException_keeps
    | with_reducible apply State.thawed_keeps
    | dsimp only
    | with_reducible apply keeps_fields
    | with_reducible apply keeps_store

theorem State.storeDone_keeps {s : State} (c : Nat) (h : s0.Keeps fp s)
    (hm : Sub 0x20009C0000E fp) :
    s0.Keeps fp (State.storeDone s c) := by
  unfold State.storeDone
  try dsimp only
  repeat' first
    | with_reducible assumption
    | ((with_reducible refine Sub.bit hm ?_); exact rfl)
    | ((with_reducible refine Sub.mono hm ?_); exact rfl)
    | ((with_reducible refine .inl (Sub.bit hm ?_)); exact rfl)
    | with_reducible exact .inr rfl
    | with_reducible apply State.setCore_keeps
    | with_reducible apply State.finish_keeps
    | with_reducible apply State.thawed_keeps
    | dsimp only
    | with_reducible apply keeps_fields
    | with_reducible apply keeps_store

theorem frozenAccess_keeps (c : Nat) {s : State} (h : s0.Keeps fp s)
    (hm : Sub 0x2401FC1801F fp) :
    s0.Keeps fp (frozenAccess c s) := by
  unfold frozenAccess
  try dsimp only
  repeat' first
    | with_reducible assumption
    | ((with_reducible refine Sub.bit hm ?_); exact rfl)
    | ((with_reducible refine Sub.mono hm ?_); exact rfl)
    | ((with_reducible refine .inl (Sub.bit hm ?_)); exact rfl)
    | with_reducible exact .inr rfl
    | with_reducible apply keeps_ite
    | with_reducible apply State.readLine_keeps
    | with_reducible apply State.psRead_keeps
    | with_reducible apply State.deny_keeps
    | with_reducible apply State.psWrite_keeps
    | with_reducible apply busRead_keeps
    | with_reducible apply State.loadDone_keeps
    | with_reducible apply State.windowFault_keeps
    | with_reducible apply State.storeDone_keeps
    | (split; rename_i e; have e3 := congrArg (fun p => p.2.2) e; dsimp only at e3; subst e3)
    | (split; rename_i e; have e2 := congrArg Prod.snd e; dsimp only at e2; subst e2)
    | dsimp only
    | split
    | with_reducible apply keeps_fields
    | with_reducible apply keeps_store

theorem postedDone_keeps (c off : Nat) (v : Word) (t : List (Word × Word)) {s : State} (h : s0.Keeps fp s)
    (hm : Sub 0x3FDDFDFFFFF fp) : s0.Keeps fp (postedDone c off v t s) := by
  unfold postedDone
  have h1 := fun k => busWord_keeps .steward off v (State.setCore_keeps c k h (Sub.mono hm rfl)) (Sub.mono hm rfl)
  extract_lets k0 s1 k1
  have h2 : s0.Keeps fp s1 := h1 _
  clear_value s1
  split
  · split
    · exact State.storeDone_keeps _ (State.setCore_keeps _ _ h2 (Sub.mono hm rfl)) (Sub.mono hm rfl)
    · exact h2
  · exact h2

theorem windowDone_keeps (c : Nat) {s : State} (h : s0.Keeps fp s)
    (hm : Sub 0x3FDDFDFFFFF fp) :
    s0.Keeps fp (windowDone c s) := by
  unfold windowDone
  try dsimp only
  repeat' first
    | with_reducible assumption
    | ((with_reducible refine Sub.bit hm ?_); exact rfl)
    | ((with_reducible refine Sub.mono hm ?_); exact rfl)
    | ((with_reducible refine .inl (Sub.bit hm ?_)); exact rfl)
    | with_reducible exact .inr rfl
    | with_reducible apply frozenAccess_keeps
    | with_reducible apply postedDone_keeps
    | dsimp only
    | split
    | with_reducible apply keeps_fields
    | with_reducible apply keeps_store

end Sys2Proof.Machine
end

