-- ==== Sys2Proof/Laws/KeepsDmaOps.lean ====
section
/-! SUPPORT. What the operations of Machine/DmaOps.lean keep, and the parts they may change. -/

namespace Sys2Proof.Machine

variable {fp : Nat} {s0 : State}

theorem State.devRead_keeps (n a : Nat) {s : State} (h : s0.Keeps fp s) (hm : Sub 0x2401D80001D fp) :
    s0.Keeps fp (State.devRead n a s).2.2 := by
  induction n generalizing s a with
  | zero => exact h
  | succ n ih =>
    unfold State.devRead
    exact ih _ (busRead_keeps _ h (Sub.mono hm rfl))

theorem State.devWrite_keeps (l : List Word) (a : Nat) {s : State} (h : s0.Keeps fp s) (hm : Sub 0x3FDDFDFFFFF fp) :
    s0.Keeps fp (State.devWrite l a s) := by
  induction l generalizing s a with
  | nil => exact h
  | cons w l ih =>
    unfold State.devWrite
    exact ih _ (busWord_keeps _ _ _ h (Sub.mono hm rfl))

theorem State.dmaRead_keeps {s : State} (k : DmaBlock) (q : DmaReq) (h : s0.Keeps fp s)
    (hm : Sub 0x2401F80001D fp) :
    s0.Keeps fp (State.dmaRead s k q).2 := by
  unfold State.dmaRead
  try dsimp only
  repeat' first
    | with_reducible assumption
    | ((with_reducible refine Sub.bit hm ?_); exact rfl)
    | ((with_reducible refine Sub.mono hm ?_); exact rfl)
    | ((with_reducible refine .inl (Sub.bit hm ?_)); exact rfl)
    | with_reducible exact .inr rfl
    | with_reducible apply bit_ite
    | with_reducible apply keeps_ite
    | with_reducible apply keeps_ite2
    | with_reducible apply State.psRead_keeps
    | with_reducible apply State.devRead_keeps
    | (split; rename_i e; have e3 := congrArg (fun p => p.2.2) e; dsimp only at e3; subst e3)
    | (split; rename_i e; have e2 := congrArg Prod.snd e; dsimp only at e2; subst e2)
    | dsimp only
    | split
    | with_reducible apply keeps_fields
    | with_reducible apply keeps_store

theorem State.dmaApply_keeps {s : State} (c : Nat) (bi : Nat) (ri : Nat) (h : s0.Keeps fp s)
    (hm : Sub 0x2601F80001D fp) :
    s0.Keeps fp (State.dmaApply s c bi ri) := by
  unfold State.dmaApply
  try dsimp only
  repeat' first
    | with_reducible assumption
    | ((with_reducible refine Sub.bit hm ?_); exact rfl)
    | ((with_reducible refine Sub.mono hm ?_); exact rfl)
    | ((with_reducible refine .inl (Sub.bit hm ?_)); exact rfl)
    | with_reducible exact .inr rfl
    | with_reducible apply keeps_ite
    | with_reducible apply State.setChan_keeps
    | with_reducible apply State.dmaRead_keeps
    | (split; rename_i e; have e3 := congrArg (fun p => p.2.2) e; dsimp only at e3; subst e3)
    | (split; rename_i e; have e2 := congrArg Prod.snd e; dsimp only at e2; subst e2)
    | dsimp only
    | split
    | with_reducible apply keeps_fields
    | with_reducible apply keeps_store

theorem State.dmaApplyWhere_keeps {s : State} (c : Nat) (p : Nat → Nat → DmaBlock → DmaReq → Bool) (h : s0.Keeps fp s)
    (hm : Sub 0x2601F80001D fp) :
    s0.Keeps fp (State.dmaApplyWhere s c p) := by
  unfold State.dmaApplyWhere
  try dsimp only
  repeat' first
    | with_reducible assumption
    | ((with_reducible refine Sub.bit hm ?_); exact rfl)
    | ((with_reducible refine Sub.mono hm ?_); exact rfl)
    | with_reducible refine keeps_foldl _ _ ?_ ?_
    | with_reducible refine keeps_foldl2 _ _ _ ?_ ?_
    | with_reducible apply State.dmaApply_keeps
    | (intro _ _ _)
    | (intro _ _)
    | (intro _)
    | dsimp only

theorem State.dmaOrder_keeps {s : State} (c : Nat) (bi : Nat) (ri : Nat) (k : DmaBlock) (q : DmaReq) (h : s0.Keeps fp s)
    (hm : Sub 0x2601F80001D fp) :
    s0.Keeps fp (State.dmaOrder s c bi ri k q) := by
  unfold State.dmaOrder
  try dsimp only
  repeat' first
    | with_reducible assumption
    | ((with_reducible refine Sub.bit hm ?_); exact rfl)
    | ((with_reducible refine Sub.mono hm ?_); exact rfl)
    | ((with_reducible refine .inl (Sub.bit hm ?_)); exact rfl)
    | with_reducible exact .inr rfl
    | with_reducible apply State.dmaApply_keeps
    | with_reducible apply State.dmaApplyWhere_keeps
    | (intro _ _ _)
    | (intro _ _)
    | (intro _)
    | dsimp only
    | with_reducible apply keeps_fields
    | with_reducible apply keeps_store

theorem State.dmaSource_keeps {s : State} (c : Nat) (k : DmaBlock) (q : DmaReq) (data : Option (List Byte)) (h : s0.Keeps fp s)
    (hm : Sub 0x2000000080 fp) :
    s0.Keeps fp (State.dmaSource s c k q data).2 := by
  unfold State.dmaSource
  try dsimp only
  repeat' first
    | with_reducible assumption
    | ((with_reducible refine Sub.bit hm ?_); exact rfl)
    | ((with_reducible refine Sub.mono hm ?_); exact rfl)
    | ((with_reducible refine .inl (Sub.bit hm ?_)); exact rfl)
    | with_reducible exact .inr rfl
    | with_reducible apply keeps_ite
    | with_reducible apply keeps_ite2
    | with_reducible apply State.dmaMark_keeps
    | dsimp only
    | split
    | with_reducible apply keeps_fields
    | with_reducible apply keeps_store

theorem State.dmaPattern_keeps {s : State} (c : Nat) (k : DmaBlock) (a : Nat) (bs : List Byte) (h : s0.Keeps fp s)
    (hm : Sub 0x2200380808D fp) :
    s0.Keeps fp (State.dmaPattern s c k a bs) := by
  unfold State.dmaPattern
  try dsimp only
  repeat' first
    | with_reducible assumption
    | ((with_reducible refine Sub.bit hm ?_); exact rfl)
    | ((with_reducible refine Sub.mono hm ?_); exact rfl)
    | with_reducible apply keeps_ite
    | with_reducible refine keeps_foldl _ _ ?_ ?_
    | with_reducible refine keeps_foldl2 _ _ _ ?_ ?_
    | with_reducible apply State.deny_keeps
    | with_reducible apply State.psWrite_keeps
    | with_reducible apply State.dmaMark_keeps
    | (intro _ _ _)
    | (intro _ _)
    | (intro _)
    | dsimp only
    | split

theorem State.dmaDest_keeps {s : State} (c : Nat) (k : DmaBlock) (a : Nat) (bs : List Byte) (h : s0.Keeps fp s)
    (hm : Sub 0x3FDDFDFFFFF fp) :
    s0.Keeps fp (State.dmaDest s c k a bs) := by
  unfold State.dmaDest
  try dsimp only
  repeat' first
    | with_reducible assumption
    | ((with_reducible refine Sub.bit hm ?_); exact rfl)
    | ((with_reducible refine Sub.mono hm ?_); exact rfl)
    | ((with_reducible refine .inl (Sub.bit hm ?_)); exact rfl)
    | with_reducible exact .inr rfl
    | with_reducible apply keeps_ite
    | with_reducible apply State.putData_keeps
    | with_reducible apply State.dmaMark_keeps
    | with_reducible apply State.devWrite_keeps
    | with_reducible apply State.dmaPattern_keeps
    | dsimp only
    | split
    | with_reducible apply keeps_fields
    | with_reducible apply keeps_store

theorem State.dmaTake_keeps {s : State} (c : Nat) (k : DmaBlock) (q : DmaReq) (data : Option (List Byte)) (h : s0.Keeps fp s)
    (hm : Sub 0x3FDDFDFFFFF fp) :
    s0.Keeps fp (State.dmaTake s c k q data) := by
  unfold State.dmaTake
  try dsimp only
  repeat' first
    | with_reducible assumption
    | ((with_reducible refine Sub.bit hm ?_); exact rfl)
    | ((with_reducible refine Sub.mono hm ?_); exact rfl)
    | ((with_reducible refine .inl (Sub.bit hm ?_)); exact rfl)
    | with_reducible exact .inr rfl
    | with_reducible apply State.dmaSource_keeps
    | with_reducible apply State.dmaDest_keeps
    | (split; rename_i e; have e3 := congrArg (fun p => p.2.2) e; dsimp only at e3; subst e3)
    | (split; rename_i e; have e2 := congrArg Prod.snd e; dsimp only at e2; subst e2)
    | dsimp only
    | split
    | with_reducible apply keeps_fields
    | with_reducible apply keeps_store

theorem State.dmaOn_keeps {s : State} (c : Nat) (issued : Bool) (h : s0.Keeps fp s)
    (hm : Sub 0x22003C0808F fp) :
    s0.Keeps fp (State.dmaOn s c issued) := by
  unfold State.dmaOn
  try dsimp only
  repeat' first
    | with_reducible assumption
    | ((with_reducible refine Sub.bit hm ?_); exact rfl)
    | ((with_reducible refine Sub.mono hm ?_); exact rfl)
    | ((with_reducible refine .inl (Sub.bit hm ?_)); exact rfl)
    | with_reducible exact .inr rfl
    | with_reducible apply keeps_ite
    | with_reducible apply State.dmaSettle_keeps
    | with_reducible apply State.dmaLook_keeps
    | with_reducible apply State.dmaStep_keeps
    | with_reducible apply State.dmaGo_keeps
    | dsimp only
    | split
    | with_reducible apply keeps_fields
    | with_reducible apply keeps_store

theorem dmaResponse_keeps (c : Nat) (bi : Nat) (ri : Nat) (data : Option (List Byte)) {s : State} (h : s0.Keeps fp s)
    (hm : Sub 0x3FDDFDFFFFF fp) :
    s0.Keeps fp (dmaResponse c bi ri data s) := by
  unfold dmaResponse
  try dsimp only
  repeat' first
    | with_reducible assumption
    | ((with_reducible refine Sub.bit hm ?_); exact rfl)
    | ((with_reducible refine Sub.mono hm ?_); exact rfl)
    | ((with_reducible refine .inl (Sub.bit hm ?_)); exact rfl)
    | with_reducible exact .inr rfl
    | with_reducible apply State.setChan_keeps
    | with_reducible apply State.dmaOrder_keeps
    | with_reducible apply State.dmaTake_keeps
    | with_reducible apply State.dmaOn_keeps
    | dsimp only
    | split
    | with_reducible apply keeps_fields
    | with_reducible apply keeps_store

end Sys2Proof.Machine
end

