-- ==== Sys2Proof/Laws/KeepsRings.lean ====
section
/-! SUPPORT. What the operations of Machine/Rings.lean keep, and the parts they may change. -/

namespace Sys2Proof.Machine

variable {fp : Nat} {s0 : State}

theorem State.nextInterval_keeps {s : State} (changed : Bool) (h : s0.Keeps fp s)
    (hm : Sub 2 fp) :
    s0.Keeps fp (State.nextInterval s changed) := by
  unfold State.nextInterval
  try dsimp only
  repeat' first
    | with_reducible assumption
    | ((with_reducible refine Sub.bit hm ?_); exact rfl)
    | ((with_reducible refine Sub.mono hm ?_); exact rfl)
    | ((with_reducible refine .inl (Sub.bit hm ?_)); exact rfl)
    | with_reducible exact .inr rfl
    | with_reducible apply bit_ite
    | with_reducible apply keeps_ite
    | with_reducible apply State.wf_keeps
    | dsimp only
    | split
    | with_reducible apply keeps_fields
    | with_reducible apply keeps_store

theorem State.pollFailed_keeps {s : State} (h : s0.Keeps fp s)
    (hm : Sub 0x38001C0042F fp) :
    s0.Keeps fp (State.pollFailed s) := by
  unfold State.pollFailed
  try dsimp only
  repeat' first
    | with_reducible assumption
    | ((with_reducible refine Sub.bit hm ?_); exact rfl)
    | ((with_reducible refine Sub.mono hm ?_); exact rfl)
    | ((with_reducible refine .inl (Sub.bit hm ?_)); exact rfl)
    | with_reducible exact .inr rfl
    | with_reducible apply keeps_ite
    | with_reducible apply State.hostLoss_keeps
    | with_reducible apply State.nextInterval_keeps
    | dsimp only
    | split
    | with_reducible apply keeps_fields
    | with_reducible apply keeps_store

theorem poll_keeps {s : State} (h : s0.Keeps fp s)
    (hm : Sub 0x38001C0042F fp) :
    s0.Keeps fp (poll s) := by
  unfold poll
  try dsimp only
  repeat' first
    | with_reducible assumption
    | ((with_reducible refine Sub.bit hm ?_); exact rfl)
    | ((with_reducible refine Sub.mono hm ?_); exact rfl)
    | ((with_reducible refine .inl (Sub.bit hm ?_)); exact rfl)
    | with_reducible exact .inr rfl
    | with_reducible apply keeps_ite
    | with_reducible apply State.askHost_keeps
    | with_reducible apply State.pollFailed_keeps
    | dsimp only
    | split
    | with_reducible apply keeps_fields
    | with_reducible apply keeps_store

theorem State.fetchIssue_keeps {s : State} (r : Nat) (h : s0.Keeps fp s)
    (hm : Sub 0x20000400000 fp) :
    s0.Keeps fp (State.fetchIssue s r) := by
  unfold State.fetchIssue
  try dsimp only
  repeat' first
    | with_reducible assumption
    | ((with_reducible refine Sub.bit hm ?_); exact rfl)
    | ((with_reducible refine Sub.mono hm ?_); exact rfl)
    | ((with_reducible refine .inl (Sub.bit hm ?_)); exact rfl)
    | with_reducible exact .inr rfl
    | with_reducible apply keeps_ite
    | with_reducible apply State.askHost_keeps
    | with_reducible apply State.setRing_keeps
    | (intro _ _ _)
    | (intro _ _)
    | (intro _)
    | dsimp only
    | split
    | with_reducible apply keeps_fields
    | with_reducible apply keeps_store

theorem State.crDoorbell_keeps {s : State} (r : Nat) (v : Nat) (h : s0.Keeps fp s)
    (hm : Sub 0x20001C0000E fp) :
    s0.Keeps fp (State.crDoorbell s r v).2 := by
  unfold State.crDoorbell
  try dsimp only
  repeat' first
    | with_reducible assumption
    | ((with_reducible refine Sub.bit hm ?_); exact rfl)
    | ((with_reducible refine Sub.mono hm ?_); exact rfl)
    | ((with_reducible refine .inl (Sub.bit hm ?_)); exact rfl)
    | with_reducible exact .inr rfl
    | with_reducible apply keeps_ite
    | with_reducible apply keeps_ite2
    | with_reducible apply State.wb_keeps
    | with_reducible apply State.setRing_keeps
    | with_reducible apply State.postEvent_keeps
    | with_reducible apply State.fetchIssue_keeps
    | dsimp only
    | split
    | with_reducible apply keeps_fields
    | with_reducible apply keeps_store

theorem State.cqDoorbell_keeps {s : State} (c : Nat) (v : Nat) (h : s0.Keeps fp s)
    (hm : Sub 0x20001C0000E fp) :
    s0.Keeps fp (State.cqDoorbell s c v).2 := by
  unfold State.cqDoorbell
  try dsimp only
  repeat' first
    | with_reducible assumption
    | ((with_reducible refine Sub.bit hm ?_); exact rfl)
    | ((with_reducible refine Sub.mono hm ?_); exact rfl)
    | ((with_reducible refine .inl (Sub.bit hm ?_)); exact rfl)
    | with_reducible exact .inr rfl
    | with_reducible apply keeps_ite
    | with_reducible apply keeps_ite2
    | with_reducible refine keeps_foldl _ _ ?_ ?_
    | with_reducible refine keeps_foldl2 _ _ _ ?_ ?_
    | with_reducible apply State.wb_keeps
    | with_reducible apply State.cqFullBit_keeps
    | with_reducible apply State.flushWaiting_keeps
    | with_reducible apply State.postEvent_keeps
    | (intro _ _ _)
    | (intro _ _)
    | (intro _)
    | dsimp only
    | split
    | with_reducible apply keeps_fields
    | with_reducible apply keeps_store

theorem State.eqDoorbell_keeps {s : State} (v : Nat) (h : s0.Keeps fp s)
    (hm : Sub 0x20001C0000E fp) :
    s0.Keeps fp (State.eqDoorbell s v).2 := by
  unfold State.eqDoorbell
  try dsimp only
  repeat' first
    | with_reducible assumption
    | ((with_reducible refine Sub.bit hm ?_); exact rfl)
    | ((with_reducible refine Sub.mono hm ?_); exact rfl)
    | ((with_reducible refine .inl (Sub.bit hm ?_)); exact rfl)
    | with_reducible exact .inr rfl
    | with_reducible apply keeps_ite
    | with_reducible apply keeps_ite2
    | with_reducible apply State.wb_keeps
    | with_reducible apply State.postEvent_keeps
    | dsimp only
    | split
    | with_reducible apply keeps_fields
    | with_reducible apply keeps_store

theorem State.beat_keeps {s : State} (v : Nat) (h : s0.Keeps fp s)
    (hm : Sub 0x400000 fp) :
    s0.Keeps fp (State.beat s v).2 := by
  unfold State.beat
  try dsimp only
  repeat' first
    | with_reducible assumption
    | ((with_reducible refine Sub.bit hm ?_); exact rfl)
    | ((with_reducible refine Sub.mono hm ?_); exact rfl)
    | ((with_reducible refine .inl (Sub.bit hm ?_)); exact rfl)
    | with_reducible exact .inr rfl
    | dsimp only
    | with_reducible apply keeps_fields
    | with_reducible apply keeps_store

theorem doorbellRead_keeps (data : Option (List Byte)) {s : State} (h : s0.Keeps fp s)
    (hm : Sub 0x38001C0042F fp) :
    s0.Keeps fp (doorbellRead data s) := by
  unfold doorbellRead
  try dsimp only
  repeat' first
    | with_reducible assumption
    | ((with_reducible refine Sub.bit hm ?_); exact rfl)
    | ((with_reducible refine Sub.mono hm ?_); exact rfl)
    | ((with_reducible refine .inl (Sub.bit hm ?_)); exact rfl)
    | with_reducible exact .inr rfl
    | with_reducible apply keeps_ite
    | with_reducible refine keeps_foldl _ _ ?_ ?_
    | with_reducible refine keeps_foldl2 _ _ _ ?_ ?_
    | with_reducible apply State.nextInterval_keeps
    | with_reducible apply State.pollFailed_keeps
    | with_reducible apply State.crDoorbell_keeps
    | with_reducible apply State.cqDoorbell_keeps
    | with_reducible apply State.eqDoorbell_keeps
    | with_reducible apply State.beat_keeps
    | (intro _ _ _)
    | (intro _ _)
    | (intro _)
    | (split; rename_i e; have e3 := congrArg (fun p => p.2.2) e; dsimp only at e3; subst e3)
    | (split; rename_i e; have e2 := congrArg Prod.snd e; dsimp only at e2; subst e2)
    | dsimp only
    | split
    | with_reducible apply keeps_fields
    | with_reducible apply keeps_store

theorem State.descArrive_keeps {s : State} (r : Nat) (d : List Byte) (h : s0.Keeps fp s)
    (hm : Sub 0x20000400002 fp) :
    s0.Keeps fp (State.descArrive s r d) := by
  unfold State.descArrive
  try dsimp only
  repeat' first
    | with_reducible assumption
    | ((with_reducible refine Sub.bit hm ?_); exact rfl)
    | ((with_reducible refine Sub.mono hm ?_); exact rfl)
    | ((with_reducible refine .inl (Sub.bit hm ?_)); exact rfl)
    | with_reducible exact .inr rfl
    | with_reducible apply State.wf_keeps
    | with_reducible apply State.setRing_keeps
    | with_reducible apply State.endRounds_keeps
    | dsimp only
    | split
    | with_reducible apply keeps_fields
    | with_reducible apply keeps_store

theorem descFetched_keeps (r : Nat) (data : List (List Byte)) (failed : Bool) {s : State} (h : s0.Keeps fp s)
    (hm : Sub 0x20001C0000E fp) :
    s0.Keeps fp (descFetched r data failed s) := by
  unfold descFetched
  try dsimp only
  repeat' first
    | with_reducible assumption
    | ((with_reducible refine Sub.bit hm ?_); exact rfl)
    | ((with_reducible refine Sub.mono hm ?_); exact rfl)
    | ((with_reducible refine .inl (Sub.bit hm ?_)); exact rfl)
    | with_reducible exact .inr rfl
    | with_reducible apply keeps_ite
    | with_reducible refine keeps_foldl _ _ ?_ ?_
    | with_reducible refine keeps_foldl2 _ _ _ ?_ ?_
    | with_reducible apply State.wf_keeps
    | with_reducible apply State.wb_keeps
    | with_reducible apply State.setRing_keeps
    | with_reducible apply State.postEvent_keeps
    | with_reducible apply State.endRounds_keeps
    | with_reducible apply State.descArrive_keeps
    | (intro _ _ _)
    | (intro _ _)
    | (intro _)
    | dsimp only
    | split
    | with_reducible apply keeps_fields
    | with_reducible apply keeps_store

theorem heartbeatTimeout_keeps {s : State} (h : s0.Keeps fp s)
    (hm : Sub 0x3800180042F fp) :
    s0.Keeps fp (heartbeatTimeout s) := by
  unfold heartbeatTimeout
  try dsimp only
  repeat' first
    | with_reducible assumption
    | ((with_reducible refine Sub.bit hm ?_); exact rfl)
    | ((with_reducible refine Sub.mono hm ?_); exact rfl)
    | with_reducible apply keeps_ite
    | with_reducible apply State.hostLoss_keeps
    | dsimp only
    | split

theorem cqWaitRecord_keeps (r : Nat) {s : State} (h : s0.Keeps fp s)
    (hm : Sub 0x20001C0000E fp) :
    s0.Keeps fp (cqWaitRecord r s) := by
  unfold cqWaitRecord
  try dsimp only
  repeat' first
    | with_reducible assumption
    | ((with_reducible refine Sub.bit hm ?_); exact rfl)
    | ((with_reducible refine Sub.mono hm ?_); exact rfl)
    | ((with_reducible refine .inl (Sub.bit hm ?_)); exact rfl)
    | with_reducible exact .inr rfl
    | with_reducible apply keeps_ite
    | with_reducible apply State.setRing_keeps
    | with_reducible apply State.postEvent_keeps
    | dsimp only
    | split
    | with_reducible apply keeps_fields
    | with_reducible apply keeps_store

theorem begin__keeps (r op : Nat) (body : Nat → List Byte → State → State) {s : State} (h : s0.Keeps fp s)
    (hm : Sub 0x20001C0000E fp) (hb : ∀ i d s, s0.Keeps fp s → s0.Keeps fp (body i d s)) : s0.Keeps fp (begin_ r op body s) := by
  unfold begin_
  dsimp only
  split
  · exact h
  · refine keeps_ite h ?_
    have h2 := fun x => State.setRing_keeps r x h (Sub.mono hm rfl)
    split
    repeat' first
      | with_reducible assumption
      | ((with_reducible refine Sub.bit hm ?_); exact rfl)
      | ((with_reducible refine Sub.mono hm ?_); exact rfl)
      | ((with_reducible refine .inl (Sub.bit hm ?_)); exact rfl)
      | with_reducible exact .inr rfl
      | ((with_reducible refine reg_bit _ (Sub.mono hm ?_)); exact rfl)
      | ((with_reducible refine rej_parts _ (Sub.mono hm ?_)); exact rfl)
      | with_reducible apply h2
      | with_reducible apply hb
      | with_reducible apply State.finish_keeps
      | with_reducible apply keeps_store

theorem writeWords_keeps (l : List Word) (a : Nat) (x : Written) {s : State} (h : s0.Keeps fp s) (hm : Sub 0x3FDDFDFFFFF fp) :
    s0.Keeps fp (writeWords l a x s).2 := by
  induction l generalizing s a x with
  | nil => exact h
  | cons w l ih =>
    unfold writeWords
    have hb := busWord_keeps .descriptor a w h (Sub.mono hm rfl)
    split <;> (rename_i e; rw [e] at hb; exact ih _ _ hb)

theorem State.finishWords_keeps {s : State} (r : Nat) (i : Nat) (d : List Byte) (x : Written) (h : s0.Keeps fp s)
    (hm : Sub 0x20001C0000E fp) :
    s0.Keeps fp (State.finishWords s r i d x) := by
  unfold State.finishWords
  try dsimp only
  repeat' first
    | with_reducible assumption
    | ((with_reducible refine Sub.bit hm ?_); exact rfl)
    | ((with_reducible refine Sub.mono hm ?_); exact rfl)
    | ((with_reducible refine .inl (Sub.bit hm ?_)); exact rfl)
    | with_reducible exact .inr rfl
    | with_reducible apply State.finish_keeps
    | dsimp only
    | split
    | with_reducible apply keeps_fields
    | with_reducible apply keeps_store

theorem State.writeAll_keeps (r i : Nat) (d : List Byte) (ws : List Word) (a : Nat) (x : Written)
    (next : Written → State → State) {s : State} (h : s0.Keeps fp s) (hm : Sub 0x3FDDFDFFFFF fp)
    (hn : ∀ x s, s0.Keeps fp s → s0.Keeps fp (next x s)) : s0.Keeps fp (State.writeAll s r i d ws a x next) := by
  unfold State.writeAll
  dsimp only
  exact keeps_ite (State.finish_keeps _ _ _ _ _ _ (State.setRing_keeps _ _ h (Sub.mono hm rfl)) (Sub.mono hm rfl))
    (hn _ _ (writeWords_keeps _ _ _ h (Sub.mono hm rfl)))

theorem writeImm_keeps (r : Nat) {x0_ : State} (h : s0.Keeps fp x0_)
    (hm : Sub 0x3FDDFDFFFFF fp) :
    s0.Keeps fp (writeImm r x0_) := by
  unfold writeImm
  try dsimp only
  repeat' first
    | with_reducible assumption
    | ((with_reducible refine Sub.bit hm ?_); exact rfl)
    | ((with_reducible refine Sub.mono hm ?_); exact rfl)
    | with_reducible apply begin__keeps
    | with_reducible apply State.finishWords_keeps
    | with_reducible apply State.writeAll_keeps
    | (intro _ _ _)
    | (intro _ _)
    | (intro _)
    | dsimp only

theorem writeFill_keeps (r : Nat) {x0_ : State} (h : s0.Keeps fp x0_)
    (hm : Sub 0x3FDDFDFFFFF fp) :
    s0.Keeps fp (writeFill r x0_) := by
  unfold writeFill
  try dsimp only
  repeat' first
    | with_reducible assumption
    | ((with_reducible refine Sub.bit hm ?_); exact rfl)
    | ((with_reducible refine Sub.mono hm ?_); exact rfl)
    | with_reducible apply begin__keeps
    | with_reducible apply State.finishWords_keeps
    | with_reducible apply State.writeAll_keeps
    | (intro _ _ _)
    | (intro _ _)
    | (intro _)
    | dsimp only

theorem readWords_keeps (n a : Nat) {s : State} (h : s0.Keeps fp s) (hm : Sub 0x2401D80001D fp) :
    s0.Keeps fp (readWords n a s).2 := by
  induction n generalizing s a with
  | zero => exact h
  | succ n ih =>
    unfold readWords
    exact ih _ (busRead_keeps _ h (Sub.mono hm rfl))

theorem readRegs_keeps (r : Nat) {x0_ : State} (h : s0.Keeps fp x0_)
    (hm : Sub 0x2401DC0001F fp) :
    s0.Keeps fp (readRegs r x0_) := by
  unfold readRegs
  try dsimp only
  repeat' first
    | with_reducible assumption
    | ((with_reducible refine Sub.bit hm ?_); exact rfl)
    | ((with_reducible refine Sub.mono hm ?_); exact rfl)
    | ((with_reducible refine .inl (Sub.bit hm ?_)); exact rfl)
    | with_reducible exact .inr rfl
    | with_reducible apply State.putHost_keeps
    | with_reducible apply State.finish_keeps
    | with_reducible apply begin__keeps
    | with_reducible apply readWords_keeps
    | (intro _ _ _)
    | (intro _ _)
    | (intro _)
    | (split; rename_i e; have e3 := congrArg (fun p => p.2.2) e; dsimp only at e3; subst e3)
    | (split; rename_i e; have e2 := congrArg Prod.snd e; dsimp only at e2; subst e2)
    | dsimp only
    | split
    | with_reducible apply keeps_fields
    | with_reducible apply keeps_store

theorem State.chunkAsk_keeps {s : State} (r : Nat) (i : Nat) (d : List Byte) (done : Nat) (x : Written) (h : s0.Keeps fp s)
    (hm : Sub 0x20001C0000E fp) :
    s0.Keeps fp (State.chunkAsk s r i d done x) := by
  unfold State.chunkAsk
  try dsimp only
  repeat' first
    | with_reducible assumption
    | ((with_reducible refine Sub.bit hm ?_); exact rfl)
    | ((with_reducible refine Sub.mono hm ?_); exact rfl)
    | ((with_reducible refine .inl (Sub.bit hm ?_)); exact rfl)
    | with_reducible exact .inr rfl
    | with_reducible apply keeps_ite
    | with_reducible apply State.askHost_keeps
    | with_reducible apply State.setRing_keeps
    | with_reducible apply State.finish_keeps
    | dsimp only
    | split
    | with_reducible apply keeps_fields
    | with_reducible apply keeps_store

theorem writeIndBegin_keeps (r : Nat) {x0_ : State} (h : s0.Keeps fp x0_)
    (hm : Sub 0x20001C0000E fp) :
    s0.Keeps fp (writeIndBegin r x0_) := by
  unfold writeIndBegin
  try dsimp only
  repeat' first
    | with_reducible assumption
    | ((with_reducible refine Sub.bit hm ?_); exact rfl)
    | ((with_reducible refine Sub.mono hm ?_); exact rfl)
    | with_reducible apply begin__keeps
    | with_reducible apply State.chunkAsk_keeps
    | (intro _ _ _)
    | (intro _ _)
    | (intro _)
    | dsimp only

theorem chunkRead_keeps (r : Nat) (data : List Word) (failedAt : Option Word64) {s : State} (h : s0.Keeps fp s)
    (hm : Sub 0x3FDDFDFFFFF fp) :
    s0.Keeps fp (chunkRead r data failedAt s) := by
  unfold chunkRead
  try dsimp only
  repeat' first
    | with_reducible assumption
    | ((with_reducible refine Sub.bit hm ?_); exact rfl)
    | ((with_reducible refine Sub.mono hm ?_); exact rfl)
    | ((with_reducible refine .inl (Sub.bit hm ?_)); exact rfl)
    | with_reducible exact .inr rfl
    | with_reducible apply bit_ite
    | with_reducible apply keeps_ite
    | with_reducible apply State.setRing_keeps
    | with_reducible apply State.finish_keeps
    | with_reducible apply State.finishWords_keeps
    | with_reducible apply State.writeAll_keeps
    | with_reducible apply State.chunkAsk_keeps
    | (intro _ _ _)
    | (intro _ _)
    | (intro _)
    | dsimp only
    | split
    | with_reducible apply keeps_fields
    | with_reducible apply keeps_store

theorem nopDesc_keeps (r : Nat) {x0_ : State} (h : s0.Keeps fp x0_)
    (hm : Sub 0x20001C0000E fp) :
    s0.Keeps fp (nopDesc r x0_) := by
  unfold nopDesc
  try dsimp only
  repeat' first
    | with_reducible assumption
    | ((with_reducible refine Sub.bit hm ?_); exact rfl)
    | ((with_reducible refine Sub.mono hm ?_); exact rfl)
    | with_reducible apply State.finish_keeps
    | with_reducible apply begin__keeps
    | (intro _ _ _)
    | (intro _ _)
    | (intro _)
    | dsimp only

theorem commitDesc_keeps (r : Nat) (race : Bool) {x0_ : State} (h : s0.Keeps fp x0_)
    (hm : Sub 0x28555D08C2F fp) :
    s0.Keeps fp (commitDesc r race x0_) := by
  unfold commitDesc
  try dsimp only
  repeat' first
    | with_reducible assumption
    | ((with_reducible refine Sub.bit hm ?_); exact rfl)
    | ((with_reducible refine Sub.mono hm ?_); exact rfl)
    | ((with_reducible refine .inl (Sub.bit hm ?_)); exact rfl)
    | with_reducible exact .inr rfl
    | with_reducible apply keeps_ite
    | with_reducible apply State.setRing_keeps
    | with_reducible apply State.setGrp_keeps
    | with_reducible apply State.handOver_keeps
    | with_reducible apply begin__keeps
    | (intro _ _ _)
    | (intro _ _)
    | (intro _)
    | dsimp only
    | split
    | with_reducible apply keeps_fields
    | with_reducible apply keeps_store

theorem waitEpoch_keeps (r : Nat) {x0_ : State} (h : s0.Keeps fp x0_)
    (hm : Sub 0x20001C0000E fp) :
    s0.Keeps fp (waitEpoch r x0_) := by
  unfold waitEpoch
  try dsimp only
  repeat' first
    | with_reducible assumption
    | ((with_reducible refine Sub.bit hm ?_); exact rfl)
    | ((with_reducible refine Sub.mono hm ?_); exact rfl)
    | ((with_reducible refine .inl (Sub.bit hm ?_)); exact rfl)
    | with_reducible exact .inr rfl
    | with_reducible apply State.setRing_keeps
    | with_reducible apply State.settleWait_keeps
    | with_reducible apply begin__keeps
    | (intro _ _ _)
    | (intro _ _)
    | (intro _)
    | dsimp only
    | with_reducible apply keeps_fields
    | with_reducible apply keeps_store

theorem waitLine_keeps (r : Nat) {x0_ : State} (h : s0.Keeps fp x0_)
    (hm : Sub 0x20001C0000E fp) :
    s0.Keeps fp (waitLine r x0_) := by
  unfold waitLine
  try dsimp only
  repeat' first
    | with_reducible assumption
    | ((with_reducible refine Sub.bit hm ?_); exact rfl)
    | ((with_reducible refine Sub.mono hm ?_); exact rfl)
    | ((with_reducible refine .inl (Sub.bit hm ?_)); exact rfl)
    | with_reducible exact .inr rfl
    | with_reducible apply keeps_ite
    | with_reducible apply State.setRing_keeps
    | with_reducible apply State.finish_keeps
    | with_reducible apply begin__keeps
    | (intro _ _ _)
    | (intro _ _)
    | (intro _)
    | dsimp only
    | split
    | with_reducible apply keeps_fields
    | with_reducible apply keeps_store

theorem waitTimeout_keeps (r : Nat) {s : State} (h : s0.Keeps fp s)
    (hm : Sub 0x20001C0000E fp) :
    s0.Keeps fp (waitTimeout r s) := by
  unfold waitTimeout
  try dsimp only
  repeat' first
    | with_reducible assumption
    | ((with_reducible refine Sub.bit hm ?_); exact rfl)
    | ((with_reducible refine Sub.mono hm ?_); exact rfl)
    | ((with_reducible refine .inl (Sub.bit hm ?_)); exact rfl)
    | with_reducible exact .inr rfl
    | with_reducible apply keeps_ite
    | with_reducible apply State.setRing_keeps
    | with_reducible apply State.finish_keeps
    | dsimp only
    | split
    | with_reducible apply keeps_fields
    | with_reducible apply keeps_store

theorem dmaStartDesc_keeps (r : Nat) {x0_ : State} (h : s0.Keeps fp x0_)
    (hm : Sub 0x22003C0808F fp) :
    s0.Keeps fp (dmaStartDesc r x0_) := by
  unfold dmaStartDesc
  try dsimp only
  repeat' first
    | with_reducible assumption
    | ((with_reducible refine Sub.bit hm ?_); exact rfl)
    | ((with_reducible refine Sub.mono hm ?_); exact rfl)
    | ((with_reducible refine .inl (Sub.bit hm ?_)); exact rfl)
    | with_reducible exact .inr rfl
    | with_reducible apply keeps_ite
    | with_reducible apply State.finish_keeps
    | with_reducible apply State.dmaStart_keeps
    | with_reducible apply begin__keeps
    | (intro _ _ _)
    | (intro _ _)
    | (intro _)
    | dsimp only
    | split
    | with_reducible apply keeps_fields
    | with_reducible apply keeps_store

theorem blitDesc_keeps (r : Nat) {x0_ : State} (h : s0.Keeps fp x0_)
    (hm : Sub 0x21001C0010E fp) :
    s0.Keeps fp (blitDesc r x0_) := by
  unfold blitDesc
  try dsimp only
  repeat' first
    | with_reducible assumption
    | ((with_reducible refine Sub.bit hm ?_); exact rfl)
    | ((with_reducible refine Sub.mono hm ?_); exact rfl)
    | with_reducible apply State.bltAccept_keeps
    | with_reducible apply begin__keeps
    | (intro _ _ _)
    | (intro _ _)
    | (intro _)
    | dsimp only

theorem hostWriteDesc_keeps (r : Nat) {x0_ : State} (h : s0.Keeps fp x0_)
    (hm : Sub 0x20001C0000E fp) :
    s0.Keeps fp (hostWriteDesc r x0_) := by
  unfold hostWriteDesc
  try dsimp only
  repeat' first
    | with_reducible assumption
    | ((with_reducible refine Sub.bit hm ?_); exact rfl)
    | ((with_reducible refine Sub.mono hm ?_); exact rfl)
    | ((with_reducible refine .inl (Sub.bit hm ?_)); exact rfl)
    | with_reducible exact .inr rfl
    | with_reducible apply State.setRing_keeps
    | with_reducible apply State.settleHw_keeps
    | with_reducible apply begin__keeps
    | (intro _ _ _)
    | (intro _ _)
    | (intro _)
    | dsimp only
    | with_reducible apply keeps_fields
    | with_reducible apply keeps_store

end Sys2Proof.Machine
end

