-- ==== Sys2Proof/Laws/KeepsExec.lean ====
section
/-! SUPPORT. Every meaning answers a next state, what it keeps, and the parts it may change. -/

namespace Sys2Proof.Machine

variable {fp : Nat} {s0 : State}

theorem execEventArrival_keeps (src : Fin 1024) {s : State} (h : s0.Keeps fp s)
    (hm : Sub 0x2000180000C fp) : ∃ s1, execEventArrival src s = .next s1 ∧ s0.Keeps fp s1 := by
  refine ⟨_, rfl, ?_⟩
  repeat' first
    | with_reducible assumption
    | ((with_reducible refine Sub.bit hm ?_); exact rfl)
    | ((with_reducible refine Sub.mono hm ?_); exact rfl)
    | with_reducible apply arrival_keeps
    | dsimp only

theorem execCoalesceTimeout_keeps (src : Fin 1023) {s : State} (h : s0.Keeps fp s)
    (hm : Sub 0x20001000004 fp) : ∃ s1, execCoalesceTimeout src s = .next s1 ∧ s0.Keeps fp s1 := by
  refine ⟨_, rfl, ?_⟩
  repeat' first
    | with_reducible assumption
    | ((with_reducible refine Sub.bit hm ?_); exact rfl)
    | ((with_reducible refine Sub.mono hm ?_); exact rfl)
    | with_reducible apply coalesceTimeout_keeps
    | dsimp only

theorem execEvtWithdraw_keeps (src : Fin 1023) (byEn : Bool) {s : State} (h : s0.Keeps fp s)
    (hm : Sub 0x20001000004 fp) : ∃ s1, execEvtWithdraw src byEn s = .next s1 ∧ s0.Keeps fp s1 := by
  refine ⟨_, rfl, ?_⟩
  repeat' first
    | with_reducible assumption
    | ((with_reducible refine Sub.bit hm ?_); exact rfl)
    | ((with_reducible refine Sub.mono hm ?_); exact rfl)
    | with_reducible apply bit_ite
    | with_reducible apply keeps_ite
    | with_reducible apply srcCfgWrite_keeps
    | with_reducible apply srcStatusWrite_keeps
    | dsimp only
    | split

theorem execEvtRetarget_keeps (src : Fin 1023) (target : Fin 512) {s : State} (h : s0.Keeps fp s)
    (hm : Sub 0x20001000004 fp) : ∃ s1, execEvtRetarget src target s = .next s1 ∧ s0.Keeps fp s1 := by
  refine ⟨_, rfl, ?_⟩
  repeat' first
    | with_reducible assumption
    | ((with_reducible refine Sub.bit hm ?_); exact rfl)
    | ((with_reducible refine Sub.mono hm ?_); exact rfl)
    | with_reducible apply retarget_keeps
    | dsimp only

theorem execEvtSwi_keeps (w : Word) {s : State} (h : s0.Keeps fp s)
    (hm : Sub 0x2000180000C fp) : ∃ s1, execEvtSwi w s = .next s1 ∧ s0.Keeps fp s1 := by
  refine ⟨_, rfl, ?_⟩
  repeat' first
    | with_reducible assumption
    | ((with_reducible refine Sub.bit hm ?_); exact rfl)
    | ((with_reducible refine Sub.mono hm ?_); exact rfl)
    | with_reducible apply swiWrite_keeps
    | dsimp only

theorem execTbWrap_keeps {s : State} (h : s0.Keeps fp s)
    (hm : Sub 0x2000180000C fp) : ∃ s1, execTbWrap s = .next s1 ∧ s0.Keeps fp s1 := by
  refine ⟨_, rfl, ?_⟩
  repeat' first
    | with_reducible assumption
    | ((with_reducible refine Sub.bit hm ?_); exact rfl)
    | ((with_reducible refine Sub.mono hm ?_); exact rfl)
    | with_reducible apply bit_ite
    | with_reducible apply keeps_ite
    | with_reducible apply State.advance_keeps
    | dsimp only
    | split

theorem execTbLoad_keeps {s : State} (h : s0.Keeps fp s)
    (hm : Sub 0x2000180000C fp) : ∃ s1, execTbLoad s = .next s1 ∧ s0.Keeps fp s1 := by
  refine ⟨_, rfl, ?_⟩
  repeat' first
    | with_reducible assumption
    | ((with_reducible refine Sub.bit hm ?_); exact rfl)
    | ((with_reducible refine Sub.mono hm ?_); exact rfl)
    | with_reducible apply tbLoad_keeps
    | dsimp only

theorem execCmpValueWrite_keeps (c : Fin 64) (v : Word) {s : State} (h : s0.Keeps fp s)
    (hm : Sub 8 fp) : ∃ s1, execCmpValueWrite c v s = .next s1 ∧ s0.Keeps fp s1 := by
  refine ⟨_, rfl, ?_⟩
  repeat' first
    | with_reducible assumption
    | ((with_reducible refine Sub.bit hm ?_); exact rfl)
    | ((with_reducible refine Sub.mono hm ?_); exact rfl)
    | with_reducible apply cmpValueWrite_keeps
    | dsimp only

theorem execCmpMatch_keeps (c : Fin 64) {s : State} (h : s0.Keeps fp s)
    (hm : Sub 0x2000180000C fp) : ∃ s1, execCmpMatch c s = .next s1 ∧ s0.Keeps fp s1 := by
  refine ⟨_, rfl, ?_⟩
  repeat' first
    | with_reducible assumption
    | ((with_reducible refine Sub.bit hm ?_); exact rfl)
    | ((with_reducible refine Sub.mono hm ?_); exact rfl)
    | with_reducible apply bit_ite
    | with_reducible apply keeps_ite
    | with_reducible apply State.advance_keeps
    | dsimp only
    | split

theorem execCmpFire_keeps (c : Fin 64) {s : State} (h : s0.Keeps fp s)
    (hm : Sub 0x2000180000C fp) : ∃ s1, execCmpFire c s = .next s1 ∧ s0.Keeps fp s1 := by
  refine ⟨_, rfl, ?_⟩
  repeat' first
    | with_reducible assumption
    | ((with_reducible refine Sub.bit hm ?_); exact rfl)
    | ((with_reducible refine Sub.mono hm ?_); exact rfl)
    | with_reducible apply cmpFire_keeps
    | dsimp only

theorem execItEnable_keeps (k : Fin 32) (oneshot : Bool) {s : State} (h : s0.Keeps fp s)
    (hm : Sub 8 fp) : ∃ s1, execItEnable k oneshot s = .next s1 ∧ s0.Keeps fp s1 := by
  refine ⟨_, rfl, ?_⟩
  repeat' first
    | with_reducible assumption
    | ((with_reducible refine Sub.bit hm ?_); exact rfl)
    | ((with_reducible refine Sub.mono hm ?_); exact rfl)
    | with_reducible apply itCtrlWrite_keeps
    | dsimp only

theorem execItExpiry_keeps (k : Fin 32) {s : State} (h : s0.Keeps fp s)
    (hm : Sub 0x2000180000C fp) : ∃ s1, execItExpiry k s = .next s1 ∧ s0.Keeps fp s1 := by
  refine ⟨_, rfl, ?_⟩
  repeat' first
    | with_reducible assumption
    | ((with_reducible refine Sub.bit hm ?_); exact rfl)
    | ((with_reducible refine Sub.mono hm ?_); exact rfl)
    | with_reducible apply bit_ite
    | with_reducible apply keeps_ite
    | with_reducible apply State.advance_keeps
    | dsimp only
    | split

theorem execItLoad_keeps (k : Fin 32) (v : Word) {s : State} (h : s0.Keeps fp s)
    (hm : Sub 8 fp) : ∃ s1, execItLoad k v s = .next s1 ∧ s0.Keeps fp s1 := by
  refine ⟨_, rfl, ?_⟩
  repeat' first
    | with_reducible assumption
    | ((with_reducible refine Sub.bit hm ?_); exact rfl)
    | ((with_reducible refine Sub.mono hm ?_); exact rfl)
    | with_reducible apply itLoadWrite_keeps
    | dsimp only

theorem execDeferredPromotion_keeps (client : Fin 23) {s : State} (h : s0.Keeps fp s)
    (hm : Sub 0x2000000 fp) : ∃ s1, execDeferredPromotion client s = .next s1 ∧ s0.Keeps fp s1 := by
  refine ⟨_, rfl, ?_⟩
  repeat' first
    | with_reducible assumption
    | ((with_reducible refine Sub.bit hm ?_); exact rfl)
    | ((with_reducible refine Sub.mono hm ?_); exact rfl)
    | ((with_reducible refine .inl (Sub.bit hm ?_)); exact rfl)
    | with_reducible exact .inr rfl
    | with_reducible apply bit_ite
    | with_reducible apply keeps_ite
    | dsimp only
    | split
    | with_reducible apply keeps_fields
    | with_reducible apply keeps_store

theorem execReservationWindowEnd_keeps (seen : List SlotCount) {s : State} (h : s0.Keeps fp s)
    (hm : Sub 1 fp) : ∃ s1, execReservationWindowEnd seen s = .next s1 ∧ s0.Keeps fp s1 := by
  refine ⟨_, rfl, ?_⟩
  repeat' first
    | with_reducible assumption
    | ((with_reducible refine Sub.bit hm ?_); exact rfl)
    | ((with_reducible refine Sub.mono hm ?_); exact rfl)
    | ((with_reducible refine .inl (Sub.bit hm ?_)); exact rfl)
    | with_reducible exact .inr rfl
    | with_reducible apply keeps_ite
    | with_reducible refine keeps_foldl _ _ ?_ ?_
    | with_reducible refine keeps_foldl2 _ _ _ ?_ ?_
    | with_reducible apply State.bump_keeps
    | (intro _ _ _)
    | (intro _ _)
    | (intro _)
    | dsimp only
    | split
    | with_reducible apply keeps_fields
    | with_reducible apply keeps_store

theorem execScrubLine_keeps (upset : List (Fin 68 × Byte)) {s : State} (h : s0.Keeps fp s)
    (hm : Sub 0x2000380000D fp) : ∃ s1, execScrubLine upset s = .next s1 ∧ s0.Keeps fp s1 := by
  refine ⟨_, rfl, ?_⟩
  repeat' first
    | with_reducible assumption
    | ((with_reducible refine Sub.bit hm ?_); exact rfl)
    | ((with_reducible refine Sub.mono hm ?_); exact rfl)
    | with_reducible apply scrubLine_keeps
    | (intro _ _ _)
    | (intro _ _)
    | (intro _)
    | dsimp only

theorem execPsInjectArm_keeps (n : Fin 3) {s : State} (h : s0.Keeps fp s)
    (hm : Sub 0x2000001 fp) : ∃ s1, execPsInjectArm n s = .next s1 ∧ s0.Keeps fp s1 := by
  refine ⟨_, rfl, ?_⟩
  repeat' first
    | with_reducible assumption
    | ((with_reducible refine Sub.bit hm ?_); exact rfl)
    | ((with_reducible refine Sub.mono hm ?_); exact rfl)
    | with_reducible apply injectWrite_keeps
    | dsimp only

theorem execPsInjectDisarm_keeps {s : State} (h : s0.Keeps fp s)
    (hm : Sub 0x2000001 fp) : ∃ s1, execPsInjectDisarm s = .next s1 ∧ s0.Keeps fp s1 := by
  refine ⟨_, rfl, ?_⟩
  repeat' first
    | with_reducible assumption
    | ((with_reducible refine Sub.bit hm ?_); exact rfl)
    | ((with_reducible refine Sub.mono hm ?_); exact rfl)
    | with_reducible apply injectWrite_keeps
    | dsimp only

theorem execAdd_keeps (c : Fin 20) (o : FmtReg) {s : State} (h : s0.Keeps fp s)
    (hm : Sub 0x2000D81000D fp) : ∃ s1, execAdd c o s = .next s1 ∧ s0.Keeps fp s1 := by
  refine ⟨_, rfl, ?_⟩
  repeat' first
    | with_reducible assumption
    | ((with_reducible refine Sub.bit hm ?_); exact rfl)
    | ((with_reducible refine Sub.mono hm ?_); exact rfl)
    | with_reducible apply aluRR_keeps
    | dsimp only

theorem execSub_keeps (c : Fin 20) (o : FmtReg) {s : State} (h : s0.Keeps fp s)
    (hm : Sub 0x2000D81000D fp) : ∃ s1, execSub c o s = .next s1 ∧ s0.Keeps fp s1 := by
  refine ⟨_, rfl, ?_⟩
  repeat' first
    | with_reducible assumption
    | ((with_reducible refine Sub.bit hm ?_); exact rfl)
    | ((with_reducible refine Sub.mono hm ?_); exact rfl)
    | with_reducible apply aluRR_keeps
    | dsimp only

theorem execAnd_keeps (c : Fin 20) (o : FmtReg) {s : State} (h : s0.Keeps fp s)
    (hm : Sub 0x2000D81000D fp) : ∃ s1, execAnd c o s = .next s1 ∧ s0.Keeps fp s1 := by
  refine ⟨_, rfl, ?_⟩
  repeat' first
    | with_reducible assumption
    | ((with_reducible refine Sub.bit hm ?_); exact rfl)
    | ((with_reducible refine Sub.mono hm ?_); exact rfl)
    | with_reducible apply aluRR_keeps
    | dsimp only

theorem execOr_keeps (c : Fin 20) (o : FmtReg) {s : State} (h : s0.Keeps fp s)
    (hm : Sub 0x2000D81000D fp) : ∃ s1, execOr c o s = .next s1 ∧ s0.Keeps fp s1 := by
  refine ⟨_, rfl, ?_⟩
  repeat' first
    | with_reducible assumption
    | ((with_reducible refine Sub.bit hm ?_); exact rfl)
    | ((with_reducible refine Sub.mono hm ?_); exact rfl)
    | with_reducible apply aluRR_keeps
    | dsimp only

theorem execXor_keeps (c : Fin 20) (o : FmtReg) {s : State} (h : s0.Keeps fp s)
    (hm : Sub 0x2000D81000D fp) : ∃ s1, execXor c o s = .next s1 ∧ s0.Keeps fp s1 := by
  refine ⟨_, rfl, ?_⟩
  repeat' first
    | with_reducible assumption
    | ((with_reducible refine Sub.bit hm ?_); exact rfl)
    | ((with_reducible refine Sub.mono hm ?_); exact rfl)
    | with_reducible apply aluRR_keeps
    | dsimp only

theorem execNor_keeps (c : Fin 20) (o : FmtReg) {s : State} (h : s0.Keeps fp s)
    (hm : Sub 0x2000D81000D fp) : ∃ s1, execNor c o s = .next s1 ∧ s0.Keeps fp s1 := by
  refine ⟨_, rfl, ?_⟩
  repeat' first
    | with_reducible assumption
    | ((with_reducible refine Sub.bit hm ?_); exact rfl)
    | ((with_reducible refine Sub.mono hm ?_); exact rfl)
    | with_reducible apply aluRR_keeps
    | dsimp only

theorem execSlt_keeps (c : Fin 20) (o : FmtReg) {s : State} (h : s0.Keeps fp s)
    (hm : Sub 0x2000D81000D fp) : ∃ s1, execSlt c o s = .next s1 ∧ s0.Keeps fp s1 := by
  refine ⟨_, rfl, ?_⟩
  repeat' first
    | with_reducible assumption
    | ((with_reducible refine Sub.bit hm ?_); exact rfl)
    | ((with_reducible refine Sub.mono hm ?_); exact rfl)
    | with_reducible apply aluRR_keeps
    | dsimp only

theorem execSltu_keeps (c : Fin 20) (o : FmtReg) {s : State} (h : s0.Keeps fp s)
    (hm : Sub 0x2000D81000D fp) : ∃ s1, execSltu c o s = .next s1 ∧ s0.Keeps fp s1 := by
  refine ⟨_, rfl, ?_⟩
  repeat' first
    | with_reducible assumption
    | ((with_reducible refine Sub.bit hm ?_); exact rfl)
    | ((with_reducible refine Sub.mono hm ?_); exact rfl)
    | with_reducible apply aluRR_keeps
    | dsimp only

theorem execSll_keeps (c : Fin 20) (o : FmtReg) {s : State} (h : s0.Keeps fp s)
    (hm : Sub 0x2000D81000D fp) : ∃ s1, execSll c o s = .next s1 ∧ s0.Keeps fp s1 := by
  refine ⟨_, rfl, ?_⟩
  repeat' first
    | with_reducible assumption
    | ((with_reducible refine Sub.bit hm ?_); exact rfl)
    | ((with_reducible refine Sub.mono hm ?_); exact rfl)
    | with_reducible apply aluRR_keeps
    | dsimp only

theorem execSrl_keeps (c : Fin 20) (o : FmtReg) {s : State} (h : s0.Keeps fp s)
    (hm : Sub 0x2000D81000D fp) : ∃ s1, execSrl c o s = .next s1 ∧ s0.Keeps fp s1 := by
  refine ⟨_, rfl, ?_⟩
  repeat' first
    | with_reducible assumption
    | ((with_reducible refine Sub.bit hm ?_); exact rfl)
    | ((with_reducible refine Sub.mono hm ?_); exact rfl)
    | with_reducible apply aluRR_keeps
    | dsimp only

theorem execSra_keeps (c : Fin 20) (o : FmtReg) {s : State} (h : s0.Keeps fp s)
    (hm : Sub 0x2000D81000D fp) : ∃ s1, execSra c o s = .next s1 ∧ s0.Keeps fp s1 := by
  refine ⟨_, rfl, ?_⟩
  repeat' first
    | with_reducible assumption
    | ((with_reducible refine Sub.bit hm ?_); exact rfl)
    | ((with_reducible refine Sub.mono hm ?_); exact rfl)
    | with_reducible apply aluRR_keeps
    | dsimp only

theorem execRor_keeps (c : Fin 20) (o : FmtReg) {s : State} (h : s0.Keeps fp s)
    (hm : Sub 0x2000D81000D fp) : ∃ s1, execRor c o s = .next s1 ∧ s0.Keeps fp s1 := by
  refine ⟨_, rfl, ?_⟩
  repeat' first
    | with_reducible assumption
    | ((with_reducible refine Sub.bit hm ?_); exact rfl)
    | ((with_reducible refine Sub.mono hm ?_); exact rfl)
    | with_reducible apply aluRR_keeps
    | dsimp only

theorem execRol_keeps (c : Fin 20) (o : FmtReg) {s : State} (h : s0.Keeps fp s)
    (hm : Sub 0x2000D81000D fp) : ∃ s1, execRol c o s = .next s1 ∧ s0.Keeps fp s1 := by
  refine ⟨_, rfl, ?_⟩
  repeat' first
    | with_reducible assumption
    | ((with_reducible refine Sub.bit hm ?_); exact rfl)
    | ((with_reducible refine Sub.mono hm ?_); exact rfl)
    | with_reducible apply aluRR_keeps
    | dsimp only

theorem execMin_keeps (c : Fin 20) (o : FmtReg) {s : State} (h : s0.Keeps fp s)
    (hm : Sub 0x2000D81000D fp) : ∃ s1, execMin c o s = .next s1 ∧ s0.Keeps fp s1 := by
  refine ⟨_, rfl, ?_⟩
  repeat' first
    | with_reducible assumption
    | ((with_reducible refine Sub.bit hm ?_); exact rfl)
    | ((with_reducible refine Sub.mono hm ?_); exact rfl)
    | with_reducible apply aluRR_keeps
    | dsimp only

theorem execMax_keeps (c : Fin 20) (o : FmtReg) {s : State} (h : s0.Keeps fp s)
    (hm : Sub 0x2000D81000D fp) : ∃ s1, execMax c o s = .next s1 ∧ s0.Keeps fp s1 := by
  refine ⟨_, rfl, ?_⟩
  repeat' first
    | with_reducible assumption
    | ((with_reducible refine Sub.bit hm ?_); exact rfl)
    | ((with_reducible refine Sub.mono hm ?_); exact rfl)
    | with_reducible apply aluRR_keeps
    | dsimp only

theorem execMinu_keeps (c : Fin 20) (o : FmtReg) {s : State} (h : s0.Keeps fp s)
    (hm : Sub 0x2000D81000D fp) : ∃ s1, execMinu c o s = .next s1 ∧ s0.Keeps fp s1 := by
  refine ⟨_, rfl, ?_⟩
  repeat' first
    | with_reducible assumption
    | ((with_reducible refine Sub.bit hm ?_); exact rfl)
    | ((with_reducible refine Sub.mono hm ?_); exact rfl)
    | with_reducible apply aluRR_keeps
    | dsimp only

theorem execMaxu_keeps (c : Fin 20) (o : FmtReg) {s : State} (h : s0.Keeps fp s)
    (hm : Sub 0x2000D81000D fp) : ∃ s1, execMaxu c o s = .next s1 ∧ s0.Keeps fp s1 := by
  refine ⟨_, rfl, ?_⟩
  repeat' first
    | with_reducible assumption
    | ((with_reducible refine Sub.bit hm ?_); exact rfl)
    | ((with_reducible refine Sub.mono hm ?_); exact rfl)
    | with_reducible apply aluRR_keeps
    | dsimp only

theorem execNeg_keeps (c : Fin 20) (o : FmtReg) {s : State} (h : s0.Keeps fp s)
    (hm : Sub 0x2000D81000D fp) : ∃ s1, execNeg c o s = .next s1 ∧ s0.Keeps fp s1 := by
  refine ⟨_, rfl, ?_⟩
  repeat' first
    | with_reducible assumption
    | ((with_reducible refine Sub.bit hm ?_); exact rfl)
    | ((with_reducible refine Sub.mono hm ?_); exact rfl)
    | with_reducible apply aluR_keeps
    | dsimp only

theorem execSlli_keeps (c : Fin 20) (o : FmtReg) {s : State} (h : s0.Keeps fp s)
    (hm : Sub 0x2000D81000D fp) : ∃ s1, execSlli c o s = .next s1 ∧ s0.Keeps fp s1 := by
  refine ⟨_, rfl, ?_⟩
  repeat' first
    | with_reducible assumption
    | ((with_reducible refine Sub.bit hm ?_); exact rfl)
    | ((with_reducible refine Sub.mono hm ?_); exact rfl)
    | with_reducible apply aluSh_keeps
    | dsimp only

theorem execSrli_keeps (c : Fin 20) (o : FmtReg) {s : State} (h : s0.Keeps fp s)
    (hm : Sub 0x2000D81000D fp) : ∃ s1, execSrli c o s = .next s1 ∧ s0.Keeps fp s1 := by
  refine ⟨_, rfl, ?_⟩
  repeat' first
    | with_reducible assumption
    | ((with_reducible refine Sub.bit hm ?_); exact rfl)
    | ((with_reducible refine Sub.mono hm ?_); exact rfl)
    | with_reducible apply aluSh_keeps
    | dsimp only

theorem execSrai_keeps (c : Fin 20) (o : FmtReg) {s : State} (h : s0.Keeps fp s)
    (hm : Sub 0x2000D81000D fp) : ∃ s1, execSrai c o s = .next s1 ∧ s0.Keeps fp s1 := by
  refine ⟨_, rfl, ?_⟩
  repeat' first
    | with_reducible assumption
    | ((with_reducible refine Sub.bit hm ?_); exact rfl)
    | ((with_reducible refine Sub.mono hm ?_); exact rfl)
    | with_reducible apply aluSh_keeps
    | dsimp only

theorem execRori_keeps (c : Fin 20) (o : FmtReg) {s : State} (h : s0.Keeps fp s)
    (hm : Sub 0x2000D81000D fp) : ∃ s1, execRori c o s = .next s1 ∧ s0.Keeps fp s1 := by
  refine ⟨_, rfl, ?_⟩
  repeat' first
    | with_reducible assumption
    | ((with_reducible refine Sub.bit hm ?_); exact rfl)
    | ((with_reducible refine Sub.mono hm ?_); exact rfl)
    | with_reducible apply aluSh_keeps
    | dsimp only

theorem execAddi_keeps (c : Fin 20) (o : FmtImm) {s : State} (h : s0.Keeps fp s)
    (hm : Sub 0x2000D81000D fp) : ∃ s1, execAddi c o s = .next s1 ∧ s0.Keeps fp s1 := by
  refine ⟨_, rfl, ?_⟩
  repeat' first
    | with_reducible assumption
    | ((with_reducible refine Sub.bit hm ?_); exact rfl)
    | ((with_reducible refine Sub.mono hm ?_); exact rfl)
    | with_reducible apply aluImm_keeps
    | dsimp only

theorem execAndi_keeps (c : Fin 20) (o : FmtImm) {s : State} (h : s0.Keeps fp s)
    (hm : Sub 0x2000D81000D fp) : ∃ s1, execAndi c o s = .next s1 ∧ s0.Keeps fp s1 := by
  refine ⟨_, rfl, ?_⟩
  repeat' first
    | with_reducible assumption
    | ((with_reducible refine Sub.bit hm ?_); exact rfl)
    | ((with_reducible refine Sub.mono hm ?_); exact rfl)
    | with_reducible apply aluImm_keeps
    | dsimp only

theorem execOri_keeps (c : Fin 20) (o : FmtImm) {s : State} (h : s0.Keeps fp s)
    (hm : Sub 0x2000D81000D fp) : ∃ s1, execOri c o s = .next s1 ∧ s0.Keeps fp s1 := by
  refine ⟨_, rfl, ?_⟩
  repeat' first
    | with_reducible assumption
    | ((with_reducible refine Sub.bit hm ?_); exact rfl)
    | ((with_reducible refine Sub.mono hm ?_); exact rfl)
    | with_reducible apply aluImm_keeps
    | dsimp only

theorem execXori_keeps (c : Fin 20) (o : FmtImm) {s : State} (h : s0.Keeps fp s)
    (hm : Sub 0x2000D81000D fp) : ∃ s1, execXori c o s = .next s1 ∧ s0.Keeps fp s1 := by
  refine ⟨_, rfl, ?_⟩
  repeat' first
    | with_reducible assumption
    | ((with_reducible refine Sub.bit hm ?_); exact rfl)
    | ((with_reducible refine Sub.mono hm ?_); exact rfl)
    | with_reducible apply aluImm_keeps
    | dsimp only

theorem execSlti_keeps (c : Fin 20) (o : FmtImm) {s : State} (h : s0.Keeps fp s)
    (hm : Sub 0x2000D81000D fp) : ∃ s1, execSlti c o s = .next s1 ∧ s0.Keeps fp s1 := by
  refine ⟨_, rfl, ?_⟩
  repeat' first
    | with_reducible assumption
    | ((with_reducible refine Sub.bit hm ?_); exact rfl)
    | ((with_reducible refine Sub.mono hm ?_); exact rfl)
    | with_reducible apply aluImm_keeps
    | dsimp only

theorem execSltiu_keeps (c : Fin 20) (o : FmtImm) {s : State} (h : s0.Keeps fp s)
    (hm : Sub 0x2000D81000D fp) : ∃ s1, execSltiu c o s = .next s1 ∧ s0.Keeps fp s1 := by
  refine ⟨_, rfl, ?_⟩
  repeat' first
    | with_reducible assumption
    | ((with_reducible refine Sub.bit hm ?_); exact rfl)
    | ((with_reducible refine Sub.mono hm ?_); exact rfl)
    | with_reducible apply aluImm_keeps
    | dsimp only

theorem execMovu_keeps (c : Fin 20) (o : FmtHigh) {s : State} (h : s0.Keeps fp s)
    (hm : Sub 0x2000D81000D fp) : ∃ s1, execMovu c o s = .next s1 ∧ s0.Keeps fp s1 := by
  refine ⟨_, rfl, ?_⟩
  repeat' first
    | with_reducible assumption
    | ((with_reducible refine Sub.bit hm ?_); exact rfl)
    | ((with_reducible refine Sub.mono hm ?_); exact rfl)
    | with_reducible apply issue_keeps
    | with_reducible apply aluDone_keeps
    | (intro _ _ _)
    | (intro _ _)
    | (intro _)
    | dsimp only

theorem execMul_keeps (c : Fin 20) (o : FmtReg) {s : State} (h : s0.Keeps fp s)
    (hm : Sub 0x2000D81000D fp) : ∃ s1, execMul c o s = .next s1 ∧ s0.Keeps fp s1 := by
  refine ⟨_, rfl, ?_⟩
  repeat' first
    | with_reducible assumption
    | ((with_reducible refine Sub.bit hm ?_); exact rfl)
    | ((with_reducible refine Sub.mono hm ?_); exact rfl)
    | with_reducible apply mulOp_keeps
    | dsimp only

theorem execMulu_keeps (c : Fin 20) (o : FmtReg) {s : State} (h : s0.Keeps fp s)
    (hm : Sub 0x2000D81000D fp) : ∃ s1, execMulu c o s = .next s1 ∧ s0.Keeps fp s1 := by
  refine ⟨_, rfl, ?_⟩
  repeat' first
    | with_reducible assumption
    | ((with_reducible refine Sub.bit hm ?_); exact rfl)
    | ((with_reducible refine Sub.mono hm ?_); exact rfl)
    | with_reducible apply mulOp_keeps
    | dsimp only

theorem execMac_keeps (c : Fin 20) (o : FmtReg) {s : State} (h : s0.Keeps fp s)
    (hm : Sub 0x2000D81000D fp) : ∃ s1, execMac c o s = .next s1 ∧ s0.Keeps fp s1 := by
  refine ⟨_, rfl, ?_⟩
  repeat' first
    | with_reducible assumption
    | ((with_reducible refine Sub.bit hm ?_); exact rfl)
    | ((with_reducible refine Sub.mono hm ?_); exact rfl)
    | with_reducible apply mulOp_keeps
    | dsimp only

theorem execMacu_keeps (c : Fin 20) (o : FmtReg) {s : State} (h : s0.Keeps fp s)
    (hm : Sub 0x2000D81000D fp) : ∃ s1, execMacu c o s = .next s1 ∧ s0.Keeps fp s1 := by
  refine ⟨_, rfl, ?_⟩
  repeat' first
    | with_reducible assumption
    | ((with_reducible refine Sub.bit hm ?_); exact rfl)
    | ((with_reducible refine Sub.mono hm ?_); exact rfl)
    | with_reducible apply mulOp_keeps
    | dsimp only

theorem execDiv_keeps (c : Fin 20) (o : FmtReg) {s : State} (h : s0.Keeps fp s)
    (hm : Sub 0x2000D81000D fp) : ∃ s1, execDiv c o s = .next s1 ∧ s0.Keeps fp s1 := by
  refine ⟨_, rfl, ?_⟩
  repeat' first
    | with_reducible assumption
    | ((with_reducible refine Sub.bit hm ?_); exact rfl)
    | ((with_reducible refine Sub.mono hm ?_); exact rfl)
    | with_reducible apply divOp_keeps
    | dsimp only

theorem execDivu_keeps (c : Fin 20) (o : FmtReg) {s : State} (h : s0.Keeps fp s)
    (hm : Sub 0x2000D81000D fp) : ∃ s1, execDivu c o s = .next s1 ∧ s0.Keeps fp s1 := by
  refine ⟨_, rfl, ?_⟩
  repeat' first
    | with_reducible assumption
    | ((with_reducible refine Sub.bit hm ?_); exact rfl)
    | ((with_reducible refine Sub.mono hm ?_); exact rfl)
    | with_reducible apply divOp_keeps
    | dsimp only

theorem execDivComplete_keeps (c : Fin 20) {s : State} (h : s0.Keeps fp s)
    (hm : Sub 0x8000000 fp) : ∃ s1, execDivComplete c s = .next s1 ∧ s0.Keeps fp s1 := by
  refine ⟨_, rfl, ?_⟩
  repeat' first
    | with_reducible assumption
    | ((with_reducible refine Sub.bit hm ?_); exact rfl)
    | ((with_reducible refine Sub.mono hm ?_); exact rfl)
    | with_reducible apply divComplete_keeps
    | dsimp only

theorem execLdw_keeps (c : Fin 20) (o : FmtImm) {s : State} (h : s0.Keeps fp s)
    (hm : Sub 0x2000D81000D fp) : ∃ s1, execLdw c o s = .next s1 ∧ s0.Keeps fp s1 := by
  refine ⟨_, rfl, ?_⟩
  repeat' first
    | with_reducible assumption
    | ((with_reducible refine Sub.bit hm ?_); exact rfl)
    | ((with_reducible refine Sub.mono hm ?_); exact rfl)
    | with_reducible apply loadOp_keeps
    | dsimp only

theorem execLdh_keeps (c : Fin 20) (o : FmtImm) {s : State} (h : s0.Keeps fp s)
    (hm : Sub 0x2000D81000D fp) : ∃ s1, execLdh c o s = .next s1 ∧ s0.Keeps fp s1 := by
  refine ⟨_, rfl, ?_⟩
  repeat' first
    | with_reducible assumption
    | ((with_reducible refine Sub.bit hm ?_); exact rfl)
    | ((with_reducible refine Sub.mono hm ?_); exact rfl)
    | with_reducible apply loadOp_keeps
    | dsimp only

theorem execLdhu_keeps (c : Fin 20) (o : FmtImm) {s : State} (h : s0.Keeps fp s)
    (hm : Sub 0x2000D81000D fp) : ∃ s1, execLdhu c o s = .next s1 ∧ s0.Keeps fp s1 := by
  refine ⟨_, rfl, ?_⟩
  repeat' first
    | with_reducible assumption
    | ((with_reducible refine Sub.bit hm ?_); exact rfl)
    | ((with_reducible refine Sub.mono hm ?_); exact rfl)
    | with_reducible apply loadOp_keeps
    | dsimp only

theorem execLdb_keeps (c : Fin 20) (o : FmtImm) {s : State} (h : s0.Keeps fp s)
    (hm : Sub 0x2000D81000D fp) : ∃ s1, execLdb c o s = .next s1 ∧ s0.Keeps fp s1 := by
  refine ⟨_, rfl, ?_⟩
  repeat' first
    | with_reducible assumption
    | ((with_reducible refine Sub.bit hm ?_); exact rfl)
    | ((with_reducible refine Sub.mono hm ?_); exact rfl)
    | with_reducible apply loadOp_keeps
    | dsimp only

theorem execLdbu_keeps (c : Fin 20) (o : FmtImm) {s : State} (h : s0.Keeps fp s)
    (hm : Sub 0x2000D81000D fp) : ∃ s1, execLdbu c o s = .next s1 ∧ s0.Keeps fp s1 := by
  refine ⟨_, rfl, ?_⟩
  repeat' first
    | with_reducible assumption
    | ((with_reducible refine Sub.bit hm ?_); exact rfl)
    | ((with_reducible refine Sub.mono hm ?_); exact rfl)
    | with_reducible apply loadOp_keeps
    | dsimp only

theorem execStw_keeps (c : Fin 20) (o : FmtImm) {s : State} (h : s0.Keeps fp s)
    (hm : Sub 0x2000D81000D fp) : ∃ s1, execStw c o s = .next s1 ∧ s0.Keeps fp s1 := by
  refine ⟨_, rfl, ?_⟩
  repeat' first
    | with_reducible assumption
    | ((with_reducible refine Sub.bit hm ?_); exact rfl)
    | ((with_reducible refine Sub.mono hm ?_); exact rfl)
    | with_reducible apply storeOp_keeps
    | dsimp only

theorem execSth_keeps (c : Fin 20) (o : FmtImm) {s : State} (h : s0.Keeps fp s)
    (hm : Sub 0x2000D81000D fp) : ∃ s1, execSth c o s = .next s1 ∧ s0.Keeps fp s1 := by
  refine ⟨_, rfl, ?_⟩
  repeat' first
    | with_reducible assumption
    | ((with_reducible refine Sub.bit hm ?_); exact rfl)
    | ((with_reducible refine Sub.mono hm ?_); exact rfl)
    | with_reducible apply storeOp_keeps
    | dsimp only

theorem execStb_keeps (c : Fin 20) (o : FmtImm) {s : State} (h : s0.Keeps fp s)
    (hm : Sub 0x2000D81000D fp) : ∃ s1, execStb c o s = .next s1 ∧ s0.Keeps fp s1 := by
  refine ⟨_, rfl, ?_⟩
  repeat' first
    | with_reducible assumption
    | ((with_reducible refine Sub.bit hm ?_); exact rfl)
    | ((with_reducible refine Sub.mono hm ?_); exact rfl)
    | with_reducible apply storeOp_keeps
    | dsimp only

theorem execBeq_keeps (c : Fin 20) (o : FmtCmp) {s : State} (h : s0.Keeps fp s)
    (hm : Sub 0x2000D81000D fp) : ∃ s1, execBeq c o s = .next s1 ∧ s0.Keeps fp s1 := by
  refine ⟨_, rfl, ?_⟩
  repeat' first
    | with_reducible assumption
    | ((with_reducible refine Sub.bit hm ?_); exact rfl)
    | ((with_reducible refine Sub.mono hm ?_); exact rfl)
    | with_reducible apply branchOp_keeps
    | (intro _ _ _)
    | (intro _ _)
    | (intro _)
    | dsimp only

theorem execBne_keeps (c : Fin 20) (o : FmtCmp) {s : State} (h : s0.Keeps fp s)
    (hm : Sub 0x2000D81000D fp) : ∃ s1, execBne c o s = .next s1 ∧ s0.Keeps fp s1 := by
  refine ⟨_, rfl, ?_⟩
  repeat' first
    | with_reducible assumption
    | ((with_reducible refine Sub.bit hm ?_); exact rfl)
    | ((with_reducible refine Sub.mono hm ?_); exact rfl)
    | with_reducible apply branchOp_keeps
    | (intro _ _ _)
    | (intro _ _)
    | (intro _)
    | dsimp only

theorem execBlt_keeps (c : Fin 20) (o : FmtCmp) {s : State} (h : s0.Keeps fp s)
    (hm : Sub 0x2000D81000D fp) : ∃ s1, execBlt c o s = .next s1 ∧ s0.Keeps fp s1 := by
  refine ⟨_, rfl, ?_⟩
  repeat' first
    | with_reducible assumption
    | ((with_reducible refine Sub.bit hm ?_); exact rfl)
    | ((with_reducible refine Sub.mono hm ?_); exact rfl)
    | with_reducible apply branchOp_keeps
    | (intro _ _ _)
    | (intro _ _)
    | (intro _)
    | dsimp only

theorem execBge_keeps (c : Fin 20) (o : FmtCmp) {s : State} (h : s0.Keeps fp s)
    (hm : Sub 0x2000D81000D fp) : ∃ s1, execBge c o s = .next s1 ∧ s0.Keeps fp s1 := by
  refine ⟨_, rfl, ?_⟩
  repeat' first
    | with_reducible assumption
    | ((with_reducible refine Sub.bit hm ?_); exact rfl)
    | ((with_reducible refine Sub.mono hm ?_); exact rfl)
    | with_reducible apply branchOp_keeps
    | (intro _ _ _)
    | (intro _ _)
    | (intro _)
    | dsimp only

theorem execBltu_keeps (c : Fin 20) (o : FmtCmp) {s : State} (h : s0.Keeps fp s)
    (hm : Sub 0x2000D81000D fp) : ∃ s1, execBltu c o s = .next s1 ∧ s0.Keeps fp s1 := by
  refine ⟨_, rfl, ?_⟩
  repeat' first
    | with_reducible assumption
    | ((with_reducible refine Sub.bit hm ?_); exact rfl)
    | ((with_reducible refine Sub.mono hm ?_); exact rfl)
    | with_reducible apply branchOp_keeps
    | (intro _ _ _)
    | (intro _ _)
    | (intro _)
    | dsimp only

theorem execBgeu_keeps (c : Fin 20) (o : FmtCmp) {s : State} (h : s0.Keeps fp s)
    (hm : Sub 0x2000D81000D fp) : ∃ s1, execBgeu c o s = .next s1 ∧ s0.Keeps fp s1 := by
  refine ⟨_, rfl, ?_⟩
  repeat' first
    | with_reducible assumption
    | ((with_reducible refine Sub.bit hm ?_); exact rfl)
    | ((with_reducible refine Sub.mono hm ?_); exact rfl)
    | with_reducible apply branchOp_keeps
    | (intro _ _ _)
    | (intro _ _)
    | (intro _)
    | dsimp only

theorem execJ_keeps (c : Fin 20) (off : BitVec 24) {s : State} (h : s0.Keeps fp s)
    (hm : Sub 0x2000D81000D fp) : ∃ s1, execJ c off s = .next s1 ∧ s0.Keeps fp s1 := by
  refine ⟨_, rfl, ?_⟩
  repeat' first
    | with_reducible assumption
    | ((with_reducible refine Sub.bit hm ?_); exact rfl)
    | ((with_reducible refine Sub.mono hm ?_); exact rfl)
    | with_reducible apply jOp_keeps
    | dsimp only

theorem execJal_keeps (c : Fin 20) (off : BitVec 24) {s : State} (h : s0.Keeps fp s)
    (hm : Sub 0x2000D81000D fp) : ∃ s1, execJal c off s = .next s1 ∧ s0.Keeps fp s1 := by
  refine ⟨_, rfl, ?_⟩
  repeat' first
    | with_reducible assumption
    | ((with_reducible refine Sub.bit hm ?_); exact rfl)
    | ((with_reducible refine Sub.mono hm ?_); exact rfl)
    | with_reducible apply jOp_keeps
    | dsimp only

theorem execJr_keeps (c : Fin 20) (o : FmtReg) {s : State} (h : s0.Keeps fp s)
    (hm : Sub 0x2000D81000D fp) : ∃ s1, execJr c o s = .next s1 ∧ s0.Keeps fp s1 := by
  refine ⟨_, rfl, ?_⟩
  repeat' first
    | with_reducible assumption
    | ((with_reducible refine Sub.bit hm ?_); exact rfl)
    | ((with_reducible refine Sub.mono hm ?_); exact rfl)
    | with_reducible apply jrOp_keeps
    | dsimp only

theorem execJalr_keeps (c : Fin 20) (o : FmtReg) {s : State} (h : s0.Keeps fp s)
    (hm : Sub 0x2000D81000D fp) : ∃ s1, execJalr c o s = .next s1 ∧ s0.Keeps fp s1 := by
  refine ⟨_, rfl, ?_⟩
  repeat' first
    | with_reducible assumption
    | ((with_reducible refine Sub.bit hm ?_); exact rfl)
    | ((with_reducible refine Sub.mono hm ?_); exact rfl)
    | with_reducible apply jrOp_keeps
    | dsimp only

theorem execLoop_keeps (c : Fin 20) (o : FmtCmp) {s : State} (h : s0.Keeps fp s)
    (hm : Sub 0x2000D81000D fp) : ∃ s1, execLoop c o s = .next s1 ∧ s0.Keeps fp s1 := by
  refine ⟨_, rfl, ?_⟩
  repeat' first
    | with_reducible assumption
    | ((with_reducible refine Sub.bit hm ?_); exact rfl)
    | ((with_reducible refine Sub.mono hm ?_); exact rfl)
    | with_reducible apply loopOp_keeps
    | dsimp only

theorem execLoopi_keeps (c : Fin 20) (o : FmtLoopi) {s : State} (h : s0.Keeps fp s)
    (hm : Sub 0x2000D81000D fp) : ∃ s1, execLoopi c o s = .next s1 ∧ s0.Keeps fp s1 := by
  refine ⟨_, rfl, ?_⟩
  repeat' first
    | with_reducible assumption
    | ((with_reducible refine Sub.bit hm ?_); exact rfl)
    | ((with_reducible refine Sub.mono hm ?_); exact rfl)
    | with_reducible apply loopiOp_keeps
    | dsimp only

theorem execCallm_keeps (c : Fin 20) (o : FmtCallm) {s : State} (h : s0.Keeps fp s)
    (hm : Sub 0x2000D81000D fp) : ∃ s1, execCallm c o s = .next s1 ∧ s0.Keeps fp s1 := by
  refine ⟨_, rfl, ?_⟩
  repeat' first
    | with_reducible assumption
    | ((with_reducible refine Sub.bit hm ?_); exact rfl)
    | ((with_reducible refine Sub.mono hm ?_); exact rfl)
    | with_reducible apply callmOp_keeps
    | dsimp only

theorem execRetm_keeps (c : Fin 20) (z : BitVec 24) {s : State} (h : s0.Keeps fp s)
    (hm : Sub 0x2000D81000D fp) : ∃ s1, execRetm c z s = .next s1 ∧ s0.Keeps fp s1 := by
  refine ⟨_, rfl, ?_⟩
  repeat' first
    | with_reducible assumption
    | ((with_reducible refine Sub.bit hm ?_); exact rfl)
    | ((with_reducible refine Sub.mono hm ?_); exact rfl)
    | with_reducible apply retmOp_keeps
    | dsimp only

theorem execFanelNop_keeps (c : Fin 20) (o : FmtSpec) {s : State} (h : s0.Keeps fp s)
    (hm : Sub 0x2000D81000D fp) : ∃ s1, execFanelNop c o s = .next s1 ∧ s0.Keeps fp s1 := by
  refine ⟨_, rfl, ?_⟩
  repeat' first
    | with_reducible assumption
    | ((with_reducible refine Sub.bit hm ?_); exact rfl)
    | ((with_reducible refine Sub.mono hm ?_); exact rfl)
    | with_reducible apply nopOp_keeps
    | dsimp only

theorem execMfs_keeps (c : Fin 20) (o : FmtSpec) {s : State} (h : s0.Keeps fp s)
    (hm : Sub 0x2000D81000D fp) : ∃ s1, execMfs c o s = .next s1 ∧ s0.Keeps fp s1 := by
  refine ⟨_, rfl, ?_⟩
  repeat' first
    | with_reducible assumption
    | ((with_reducible refine Sub.bit hm ?_); exact rfl)
    | ((with_reducible refine Sub.mono hm ?_); exact rfl)
    | with_reducible apply mfsOp_keeps
    | dsimp only

theorem execMts_keeps (c : Fin 20) (o : FmtSpec) {s : State} (h : s0.Keeps fp s)
    (hm : Sub 0x2000D81000D fp) : ∃ s1, execMts c o s = .next s1 ∧ s0.Keeps fp s1 := by
  refine ⟨_, rfl, ?_⟩
  repeat' first
    | with_reducible assumption
    | ((with_reducible refine Sub.bit hm ?_); exact rfl)
    | ((with_reducible refine Sub.mono hm ?_); exact rfl)
    | with_reducible apply mtsOp_keeps
    | dsimp only

theorem execWfe_keeps (c : Fin 20) (o : FmtSpec) {s : State} (h : s0.Keeps fp s)
    (hm : Sub 0x2000D81000D fp) : ∃ s1, execWfe c o s = .next s1 ∧ s0.Keeps fp s1 := by
  refine ⟨_, rfl, ?_⟩
  repeat' first
    | with_reducible assumption
    | ((with_reducible refine Sub.bit hm ?_); exact rfl)
    | ((with_reducible refine Sub.mono hm ?_); exact rfl)
    | with_reducible apply wfeOp_keeps
    | dsimp only

theorem execSev_keeps (c : Fin 20) (o : FmtSpec) {s : State} (h : s0.Keeps fp s)
    (hm : Sub 0x2000D81000D fp) : ∃ s1, execSev c o s = .next s1 ∧ s0.Keeps fp s1 := by
  refine ⟨_, rfl, ?_⟩
  repeat' first
    | with_reducible assumption
    | ((with_reducible refine Sub.bit hm ?_); exact rfl)
    | ((with_reducible refine Sub.mono hm ?_); exact rfl)
    | with_reducible apply sevOp_keeps
    | dsimp only

theorem execWaitt_keeps (c : Fin 20) (o : FmtSpec) {s : State} (h : s0.Keeps fp s)
    (hm : Sub 0x2000D81000D fp) : ∃ s1, execWaitt c o s = .next s1 ∧ s0.Keeps fp s1 := by
  refine ⟨_, rfl, ?_⟩
  repeat' first
    | with_reducible assumption
    | ((with_reducible refine Sub.bit hm ?_); exact rfl)
    | ((with_reducible refine Sub.mono hm ?_); exact rfl)
    | with_reducible apply waittOp_keeps
    | dsimp only

theorem execMsync_keeps (c : Fin 20) (o : FmtSpec) {s : State} (h : s0.Keeps fp s)
    (hm : Sub 0x2000D81000D fp) : ∃ s1, execMsync c o s = .next s1 ∧ s0.Keeps fp s1 := by
  refine ⟨_, rfl, ?_⟩
  repeat' first
    | with_reducible assumption
    | ((with_reducible refine Sub.bit hm ?_); exact rfl)
    | ((with_reducible refine Sub.mono hm ?_); exact rfl)
    | with_reducible apply msyncOp_keeps
    | dsimp only

theorem execLeave_keeps (c : Fin 20) (o : FmtSpec) {s : State} (h : s0.Keeps fp s)
    (hm : Sub 0x2000D81000D fp) : ∃ s1, execLeave c o s = .next s1 ∧ s0.Keeps fp s1 := by
  refine ⟨_, rfl, ?_⟩
  repeat' first
    | with_reducible assumption
    | ((with_reducible refine Sub.bit hm ?_); exact rfl)
    | ((with_reducible refine Sub.mono hm ?_); exact rfl)
    | with_reducible apply leaveOp_keeps
    | dsimp only

theorem execBrk_keeps (c : Fin 20) (o : FmtSpec) {s : State} (h : s0.Keeps fp s)
    (hm : Sub 0x2000D81000D fp) : ∃ s1, execBrk c o s = .next s1 ∧ s0.Keeps fp s1 := by
  refine ⟨_, rfl, ?_⟩
  repeat' first
    | with_reducible assumption
    | ((with_reducible refine Sub.bit hm ?_); exact rfl)
    | ((with_reducible refine Sub.mono hm ?_); exact rfl)
    | with_reducible apply brkOp_keeps
    | dsimp only

theorem execSysc_keeps (c : Fin 20) (o : FmtSpec) {s : State} (h : s0.Keeps fp s)
    (hm : Sub 0x2000D81000D fp) : ∃ s1, execSysc c o s = .next s1 ∧ s0.Keeps fp s1 := by
  refine ⟨_, rfl, ?_⟩
  repeat' first
    | with_reducible assumption
    | ((with_reducible refine Sub.bit hm ?_); exact rfl)
    | ((with_reducible refine Sub.mono hm ?_); exact rfl)
    | with_reducible apply syscOp_keeps
    | dsimp only

theorem execWfeWake_keeps (c : Fin 20) {s : State} (h : s0.Keeps fp s)
    (hm : Sub 0x8000000 fp) : ∃ s1, execWfeWake c s = .next s1 ∧ s0.Keeps fp s1 := by
  refine ⟨_, rfl, ?_⟩
  repeat' first
    | with_reducible assumption
    | ((with_reducible refine Sub.bit hm ?_); exact rfl)
    | ((with_reducible refine Sub.mono hm ?_); exact rfl)
    | with_reducible apply wfeWake_keeps
    | dsimp only

theorem execWaittEnd_keeps (c : Fin 20) {s : State} (h : s0.Keeps fp s)
    (hm : Sub 0x8800000 fp) : ∃ s1, execWaittEnd c s = .next s1 ∧ s0.Keeps fp s1 := by
  refine ⟨_, rfl, ?_⟩
  repeat' first
    | with_reducible assumption
    | ((with_reducible refine Sub.bit hm ?_); exact rfl)
    | ((with_reducible refine Sub.mono hm ?_); exact rfl)
    | with_reducible apply waittEnd_keeps
    | dsimp only

theorem execMsyncEnd_keeps (c : Fin 20) {s : State} (h : s0.Keeps fp s)
    (hm : Sub 0x8000000 fp) : ∃ s1, execMsyncEnd c s = .next s1 ∧ s0.Keeps fp s1 := by
  refine ⟨_, rfl, ?_⟩
  repeat' first
    | with_reducible assumption
    | ((with_reducible refine Sub.bit hm ?_); exact rfl)
    | ((with_reducible refine Sub.mono hm ?_); exact rfl)
    | with_reducible apply msyncEnd_keeps
    | dsimp only

theorem execReti_keeps (c : Fin 20) (o : FmtSpec) (during : List IrqChange) {s : State} (h : s0.Keeps fp s)
    (hm : Sub 0x2000D81000D fp) : ∃ s1, execReti c o during s = .next s1 ∧ s0.Keeps fp s1 := by
  refine ⟨_, rfl, ?_⟩
  repeat' first
    | with_reducible assumption
    | ((with_reducible refine Sub.bit hm ?_); exact rfl)
    | ((with_reducible refine Sub.mono hm ?_); exact rfl)
    | with_reducible apply retiOp_keeps
    | dsimp only

theorem execInterruptEntry_keeps (c : Fin 20) (during : List IrqChange) {s : State} (h : s0.Keeps fp s)
    (hm : Sub 0x2000D81000D fp) : ∃ s1, execInterruptEntry c during s = .next s1 ∧ s0.Keeps fp s1 := by
  refine ⟨_, rfl, ?_⟩
  repeat' first
    | with_reducible assumption
    | ((with_reducible refine Sub.bit hm ?_); exact rfl)
    | ((with_reducible refine Sub.mono hm ?_); exact rfl)
    | with_reducible apply interruptEntry_keeps
    | dsimp only

theorem execTblScrubWord_keeps (table : Fin 6) (index : Fin 2621440) (upset : List (Fin 36 × Byte)) {s : State} (h : s0.Keeps fp s)
    (hm : Sub 0x2001F81D00D fp) : ∃ s1, execTblScrubWord table index upset s = .next s1 ∧ s0.Keeps fp s1 := by
  refine ⟨_, rfl, ?_⟩
  repeat' first
    | with_reducible assumption
    | ((with_reducible refine Sub.bit hm ?_); exact rfl)
    | ((with_reducible refine Sub.mono hm ?_); exact rfl)
    | ((with_reducible refine .inl (Sub.bit hm ?_)); exact rfl)
    | with_reducible exact .inr rfl
    | with_reducible apply keeps_ite
    | with_reducible apply State.cleanTable_keeps
    | with_reducible apply tblScrub_keeps
    | with_reducible apply State.windowUe_keeps
    | with_reducible apply State.windowWrong_keeps
    | (intro _ _ _)
    | (intro _ _)
    | (intro _)
    | (split; rename_i e; have e3 := congrArg (fun p => p.2.2) e; dsimp only at e3; subst e3)
    | (split; rename_i e; have e2 := congrArg Prod.snd e; dsimp only at e2; subst e2)
    | dsimp only
    | split
    | with_reducible apply keeps_fields
    | with_reducible apply keeps_store

theorem execLineGenerationStart_keeps (n : Fin 16) {s : State} (h : s0.Keeps fp s)
    (hm : Sub 0x10002000 fp) : ∃ s1, execLineGenerationStart n s = .next s1 ∧ s0.Keeps fp s1 := by
  refine ⟨_, rfl, ?_⟩
  repeat' first
    | with_reducible assumption
    | ((with_reducible refine Sub.bit hm ?_); exact rfl)
    | ((with_reducible refine Sub.mono hm ?_); exact rfl)
    | ((with_reducible refine .inl (Sub.bit hm ?_)); exact rfl)
    | with_reducible exact .inr rfl
    | with_reducible apply keeps_ite
    | with_reducible apply State.beginLine_keeps
    | dsimp only
    | split
    | with_reducible apply keeps_fields
    | with_reducible apply keeps_store

theorem execLineComplete_keeps (n : Fin 16) {s : State} (h : s0.Keeps fp s)
    (hm : Sub 0x2001F80D00D fp) : ∃ s1, execLineComplete n s = .next s1 ∧ s0.Keeps fp s1 := by
  refine ⟨_, rfl, ?_⟩
  repeat' first
    | with_reducible assumption
    | ((with_reducible refine Sub.bit hm ?_); exact rfl)
    | ((with_reducible refine Sub.mono hm ?_); exact rfl)
    | ((with_reducible refine .inl (Sub.bit hm ?_)); exact rfl)
    | with_reducible exact .inr rfl
    | with_reducible apply keeps_ite
    | with_reducible apply State.completeLine_keeps
    | dsimp only
    | split
    | with_reducible apply keeps_fields
    | with_reducible apply keeps_store

theorem execLineDeadline_keeps (n : Fin 16) (upset : List (Fin 163840 × List (Fin 36 × Byte))) {s : State} (h : s0.Keeps fp s)
    (hm : Sub 0x2001F81D00D fp) : ∃ s1, execLineDeadline n upset s = .next s1 ∧ s0.Keeps fp s1 := by
  refine ⟨_, rfl, ?_⟩
  repeat' first
    | with_reducible assumption
    | ((with_reducible refine Sub.bit hm ?_); exact rfl)
    | ((with_reducible refine Sub.mono hm ?_); exact rfl)
    | with_reducible apply bit_ite
    | with_reducible apply keeps_ite
    | with_reducible apply State.deadline_keeps
    | (intro _ _ _)
    | (intro _ _)
    | (intro _)
    | dsimp only
    | split

theorem execGenerationRestart_keeps (n : Fin 16) {s : State} (h : s0.Keeps fp s)
    (hm : Sub 0x10002000 fp) : ∃ s1, execGenerationRestart n s = .next s1 ∧ s0.Keeps fp s1 := by
  refine ⟨_, rfl, ?_⟩
  repeat' first
    | with_reducible assumption
    | ((with_reducible refine Sub.bit hm ?_); exact rfl)
    | ((with_reducible refine Sub.mono hm ?_); exact rfl)
    | ((with_reducible refine .inl (Sub.bit hm ?_)); exact rfl)
    | with_reducible exact .inr rfl
    | with_reducible apply keeps_ite
    | with_reducible apply State.setBeam_keeps
    | with_reducible apply State.beginLine_keeps
    | dsimp only
    | split
    | with_reducible apply keeps_fields
    | with_reducible apply keeps_store

theorem execLsqEntryArrival_keeps (n : Fin 16) {s : State} (h : s0.Keeps fp s)
    (hm : Sub 0x2001F81D00D fp) : ∃ s1, execLsqEntryArrival n s = .next s1 ∧ s0.Keeps fp s1 := by
  refine ⟨_, rfl, ?_⟩
  repeat' first
    | with_reducible assumption
    | ((with_reducible refine Sub.bit hm ?_); exact rfl)
    | ((with_reducible refine Sub.mono hm ?_); exact rfl)
    | ((with_reducible refine .inl (Sub.bit hm ?_)); exact rfl)
    | with_reducible exact .inr rfl
    | with_reducible apply State.setBeam_keeps
    | with_reducible apply State.lsqArrive_keeps
    | dsimp only
    | split
    | with_reducible apply keeps_fields
    | with_reducible apply keeps_store

theorem execRaMinHeldClear_keeps (n : Fin 16) {s : State} (h : s0.Keeps fp s)
    (hm : Sub 0x10000 fp) : ∃ s1, execRaMinHeldClear n s = .next s1 ∧ s0.Keeps fp s1 := by
  refine ⟨_, rfl, ?_⟩
  repeat' first
    | with_reducible assumption
    | ((with_reducible refine Sub.bit hm ?_); exact rfl)
    | ((with_reducible refine Sub.mono hm ?_); exact rfl)
    | with_reducible apply State.wf_keeps
    | dsimp only

theorem execCellSlot_keeps (p : Fin 8) {s : State} (h : s0.Keeps fp s)
    (hm : Sub 0x2040180040C fp) : ∃ s1, execCellSlot p s = .next s1 ∧ s0.Keeps fp s1 := by
  refine ⟨_, rfl, ?_⟩
  repeat' first
    | with_reducible assumption
    | ((with_reducible refine Sub.bit hm ?_); exact rfl)
    | ((with_reducible refine Sub.mono hm ?_); exact rfl)
    | with_reducible apply State.cellSlot_keeps
    | dsimp only

theorem execGroupReady_keeps (g : Fin 16) {s : State} (h : s0.Keeps fp s)
    (hm : Sub 0x450900001 fp) : ∃ s1, execGroupReady g s = .next s1 ∧ s0.Keeps fp s1 := by
  refine ⟨_, rfl, ?_⟩
  repeat' first
    | with_reducible assumption
    | ((with_reducible refine Sub.bit hm ?_); exact rfl)
    | ((with_reducible refine Sub.mono hm ?_); exact rfl)
    | with_reducible apply bit_ite
    | with_reducible apply keeps_ite
    | with_reducible apply State.transferred_keeps
    | dsimp only
    | split

theorem execFenceGuardExpiry_keeps (g : Fin 16) {s : State} (h : s0.Keeps fp s)
    (hm : Sub 0x450000001 fp) : ∃ s1, execFenceGuardExpiry g s = .next s1 ∧ s0.Keeps fp s1 := by
  refine ⟨_, rfl, ?_⟩
  repeat' first
    | with_reducible assumption
    | ((with_reducible refine Sub.bit hm ?_); exact rfl)
    | ((with_reducible refine Sub.mono hm ?_); exact rfl)
    | with_reducible apply bit_ite
    | with_reducible apply keeps_ite
    | with_reducible apply State.makeReady_keeps
    | dsimp only
    | split

theorem execFenceTimeout_keeps (g : Fin 16) {s : State} (h : s0.Keeps fp s)
    (hm : Sub 0x450100001 fp) : ∃ s1, execFenceTimeout g s = .next s1 ∧ s0.Keeps fp s1 := by
  refine ⟨_, rfl, ?_⟩
  repeat' first
    | with_reducible assumption
    | ((with_reducible refine Sub.bit hm ?_); exact rfl)
    | ((with_reducible refine Sub.mono hm ?_); exact rfl)
    | ((with_reducible refine .inl (Sub.bit hm ?_)); exact rfl)
    | with_reducible exact .inr rfl
    | with_reducible apply keeps_ite
    | with_reducible apply State.wb_keeps
    | with_reducible apply State.setGrp_keeps
    | with_reducible apply State.makeReady_keeps
    | dsimp only
    | split
    | with_reducible apply keeps_fields
    | with_reducible apply keeps_store

theorem execCgMapWrite_keeps (half : Fin 2) (w : Word) {s : State} (h : s0.Keeps fp s)
    (hm : Sub 0x20001D0000E fp) : ∃ s1, execCgMapWrite half w s = .next s1 ∧ s0.Keeps fp s1 := by
  refine ⟨_, rfl, ?_⟩
  repeat' first
    | with_reducible assumption
    | ((with_reducible refine Sub.bit hm ?_); exact rfl)
    | ((with_reducible refine Sub.mono hm ?_); exact rfl)
    | with_reducible apply cgMapWrite_keeps
    | dsimp only

theorem execCalends_keeps (n : Fin 16) {s : State} (h : s0.Keeps fp s)
    (hm : Sub 0x28775D1AC2F fp) : ∃ s1, execCalends n s = .next s1 ∧ s0.Keeps fp s1 := by
  refine ⟨_, rfl, ?_⟩
  repeat' first
    | with_reducible assumption
    | ((with_reducible refine Sub.bit hm ?_); exact rfl)
    | ((with_reducible refine Sub.mono hm ?_); exact rfl)
    | with_reducible apply bit_ite
    | with_reducible apply keeps_ite
    | with_reducible apply State.calends_keeps
    | dsimp only
    | split

theorem execBeamPllLock_keeps (n : Fin 16) {s : State} (h : s0.Keeps fp s)
    (hm : Sub 0x28775D1AC2F fp) : ∃ s1, execBeamPllLock n s = .next s1 ∧ s0.Keeps fp s1 := by
  refine ⟨_, rfl, ?_⟩
  repeat' first
    | with_reducible assumption
    | ((with_reducible refine Sub.bit hm ?_); exact rfl)
    | ((with_reducible refine Sub.mono hm ?_); exact rfl)
    | ((with_reducible refine .inl (Sub.bit hm ?_)); exact rfl)
    | with_reducible exact .inr rfl
    | with_reducible apply bit_ite
    | with_reducible apply keeps_ite
    | with_reducible apply State.setBeam_keeps
    | with_reducible apply State.calends_keeps
    | dsimp only
    | split
    | with_reducible apply keeps_fields
    | with_reducible apply keeps_store

theorem execGenlockHoldover_keeps (n : Fin 16) {s : State} (h : s0.Keeps fp s)
    (hm : Sub 0x2001180080C fp) : ∃ s1, execGenlockHoldover n s = .next s1 ∧ s0.Keeps fp s1 := by
  refine ⟨_, rfl, ?_⟩
  repeat' first
    | with_reducible assumption
    | ((with_reducible refine Sub.bit hm ?_); exact rfl)
    | ((with_reducible refine Sub.mono hm ?_); exact rfl)
    | with_reducible apply State.holdover_keeps
    | dsimp only

theorem execOatWrite_keeps (entry : Fin 131072) (word : Fin 8) (w : Word) (byDescriptor : Bool) {s : State} (h : s0.Keeps fp s)
    (hm : Sub 0x100042001 fp) : ∃ s1, execOatWrite entry word w byDescriptor s = .next s1 ∧ s0.Keeps fp s1 := by
  refine ⟨_, rfl, ?_⟩
  repeat' first
    | with_reducible assumption
    | ((with_reducible refine Sub.bit hm ?_); exact rfl)
    | ((with_reducible refine Sub.mono hm ?_); exact rfl)
    | with_reducible apply oatWrite_keeps
    | dsimp only

theorem execSortStageEnd_keeps (n : Fin 16) {s : State} (h : s0.Keeps fp s)
    (hm : Sub 0x2003D80200D fp) : ∃ s1, execSortStageEnd n s = .next s1 ∧ s0.Keeps fp s1 := by
  refine ⟨_, rfl, ?_⟩
  repeat' first
    | with_reducible assumption
    | ((with_reducible refine Sub.bit hm ?_); exact rfl)
    | ((with_reducible refine Sub.mono hm ?_); exact rfl)
    | with_reducible apply bit_ite
    | with_reducible apply keeps_ite
    | with_reducible apply State.endSort_keeps
    | dsimp only
    | split

theorem execBandListComplete_keeps (k : Fin 16) {s : State} (h : s0.Keeps fp s)
    (hm : Sub 0x30002000 fp) : ∃ s1, execBandListComplete k s = .next s1 ∧ s0.Keeps fp s1 := by
  refine ⟨_, rfl, ?_⟩
  repeat' first
    | with_reducible assumption
    | ((with_reducible refine Sub.bit hm ?_); exact rfl)
    | ((with_reducible refine Sub.mono hm ?_); exact rfl)
    | with_reducible apply State.bandComplete_keeps
    | dsimp only

theorem execObjPeakClear_keeps (n : Fin 16) {s : State} (h : s0.Keeps fp s)
    (hm : Sub 0x2000 fp) : ∃ s1, execObjPeakClear n s = .next s1 ∧ s0.Keeps fp s1 := by
  refine ⟨_, rfl, ?_⟩
  repeat' first
    | with_reducible assumption
    | ((with_reducible refine Sub.bit hm ?_); exact rfl)
    | ((with_reducible refine Sub.mono hm ?_); exact rfl)
    | with_reducible apply peakClear_keeps
    | dsimp only

theorem execImportLineMissing_keeps (n : Fin 16) (k : Fin 3) {s : State} (h : s0.Keeps fp s)
    (hm : Sub 0x2001180400C fp) : ∃ s1, execImportLineMissing n k s = .next s1 ∧ s0.Keeps fp s1 := by
  refine ⟨_, rfl, ?_⟩
  repeat' first
    | with_reducible assumption
    | ((with_reducible refine Sub.bit hm ?_); exact rfl)
    | ((with_reducible refine Sub.mono hm ?_); exact rfl)
    | with_reducible apply State.importMissing_keeps
    | dsimp only

theorem execPleGo_keeps (n : Fin 16) {s : State} (h : s0.Keeps fp s)
    (hm : Sub 0x20000008800 fp) : ∃ s1, execPleGo n s = .next s1 ∧ s0.Keeps fp s1 := by
  refine ⟨_, rfl, ?_⟩
  repeat' first
    | with_reducible assumption
    | ((with_reducible refine Sub.bit hm ?_); exact rfl)
    | ((with_reducible refine Sub.mono hm ?_); exact rfl)
    | with_reducible apply pleGo_keeps
    | dsimp only

theorem execPleFetchDone_keeps (pkg : Option (List Byte)) {s : State} (h : s0.Keeps fp s)
    (hm : Sub 0x2020180800C fp) : ∃ s1, execPleFetchDone pkg s = .next s1 ∧ s0.Keeps fp s1 := by
  refine ⟨_, rfl, ?_⟩
  repeat' first
    | with_reducible assumption
    | ((with_reducible refine Sub.bit hm ?_); exact rfl)
    | ((with_reducible refine Sub.mono hm ?_); exact rfl)
    | with_reducible apply pleFetched_keeps
    | dsimp only

theorem execPleVerifyDone_keeps {s : State} (h : s0.Keeps fp s)
    (hm : Sub 0x2020180800C fp) : ∃ s1, execPleVerifyDone s = .next s1 ∧ s0.Keeps fp s1 := by
  refine ⟨_, rfl, ?_⟩
  repeat' first
    | with_reducible assumption
    | ((with_reducible refine Sub.bit hm ?_); exact rfl)
    | ((with_reducible refine Sub.mono hm ?_); exact rfl)
    | with_reducible apply pleVerified_keeps
    | dsimp only

theorem execPleWriteDone_keeps {s : State} (h : s0.Keeps fp s)
    (hm : Sub 0x2020380000D fp) : ∃ s1, execPleWriteDone s = .next s1 ∧ s0.Keeps fp s1 := by
  refine ⟨_, rfl, ?_⟩
  repeat' first
    | with_reducible assumption
    | ((with_reducible refine Sub.bit hm ?_); exact rfl)
    | ((with_reducible refine Sub.mono hm ?_); exact rfl)
    | with_reducible apply pleWritten_keeps
    | dsimp only

theorem execPlBankArrival_keeps {s : State} (h : s0.Keeps fp s)
    (hm : Sub 0x2021180800C fp) : ∃ s1, execPlBankArrival s = .next s1 ∧ s0.Keeps fp s1 := by
  refine ⟨_, rfl, ?_⟩
  repeat' first
    | with_reducible assumption
    | ((with_reducible refine Sub.bit hm ?_); exact rfl)
    | ((with_reducible refine Sub.mono hm ?_); exact rfl)
    | with_reducible apply bankArrival_keeps
    | dsimp only

theorem execLnkPortEnable_keeps (p : Fin 8) {s : State} (h : s0.Keeps fp s)
    (hm : Sub 0x2040180040C fp) : ∃ s1, execLnkPortEnable p s = .next s1 ∧ s0.Keeps fp s1 := by
  refine ⟨_, rfl, ?_⟩
  repeat' first
    | with_reducible assumption
    | ((with_reducible refine Sub.bit hm ?_); exact rfl)
    | ((with_reducible refine Sub.mono hm ?_); exact rfl)
    | with_reducible apply lnkCtrlWrite_keeps
    | dsimp only

theorem execLnkPortDisable_keeps (p : Fin 8) {s : State} (h : s0.Keeps fp s)
    (hm : Sub 0x2040180040C fp) : ∃ s1, execLnkPortDisable p s = .next s1 ∧ s0.Keeps fp s1 := by
  refine ⟨_, rfl, ?_⟩
  repeat' first
    | with_reducible assumption
    | ((with_reducible refine Sub.bit hm ?_); exact rfl)
    | ((with_reducible refine Sub.mono hm ?_); exact rfl)
    | with_reducible apply lnkCtrlWrite_keeps
    | dsimp only

theorem execTrainingFrameRx_keeps (p : Fin 8) (lane : Fin 4) (control : Word) (status : Word) (inverted : Bool) {s : State} (h : s0.Keeps fp s)
    (hm : Sub 0x2040180040C fp) : ∃ s1, execTrainingFrameRx p lane control status inverted s = .next s1 ∧ s0.Keeps fp s1 := by
  refine ⟨_, rfl, ?_⟩
  repeat' first
    | with_reducible assumption
    | ((with_reducible refine Sub.bit hm ?_); exact rfl)
    | ((with_reducible refine Sub.mono hm ?_); exact rfl)
    | with_reducible apply trainingFrame_keeps
    | dsimp only

theorem execLaneGraded_keeps (p : Fin 8) (lane : Fin 4) (errors : Fin 1000000001) {s : State} (h : s0.Keeps fp s)
    (hm : Sub 0x400000400 fp) : ∃ s1, execLaneGraded p lane errors s = .next s1 ∧ s0.Keeps fp s1 := by
  refine ⟨_, rfl, ?_⟩
  repeat' first
    | with_reducible assumption
    | ((with_reducible refine Sub.bit hm ?_); exact rfl)
    | ((with_reducible refine Sub.mono hm ?_); exact rfl)
    | with_reducible apply laneGraded_keeps
    | dsimp only

theorem execBaseComplete_keeps (p : Fin 8) {s : State} (h : s0.Keeps fp s)
    (hm : Sub 0x400000400 fp) : ∃ s1, execBaseComplete p s = .next s1 ∧ s0.Keeps fp s1 := by
  refine ⟨_, rfl, ?_⟩
  repeat' first
    | with_reducible assumption
    | ((with_reducible refine Sub.bit hm ?_); exact rfl)
    | ((with_reducible refine Sub.mono hm ?_); exact rfl)
    | with_reducible apply baseComplete_keeps
    | dsimp only

theorem execDescentComplete_keeps (p : Fin 8) {s : State} (h : s0.Keeps fp s)
    (hm : Sub 0x400000400 fp) : ∃ s1, execDescentComplete p s = .next s1 ∧ s0.Keeps fp s1 := by
  refine ⟨_, rfl, ?_⟩
  repeat' first
    | with_reducible assumption
    | ((with_reducible refine Sub.bit hm ?_); exact rfl)
    | ((with_reducible refine Sub.mono hm ?_); exact rfl)
    | with_reducible apply descentComplete_keeps
    | dsimp only

theorem execAlignmentMarkerRx_keeps (p : Fin 8) (lane : Fin 4) (payload : List Byte) (skew : Fin 4000) {s : State} (h : s0.Keeps fp s)
    (hm : Sub 0x2040180040C fp) : ∃ s1, execAlignmentMarkerRx p lane payload skew s = .next s1 ∧ s0.Keeps fp s1 := by
  refine ⟨_, rfl, ?_⟩
  repeat' first
    | with_reducible assumption
    | ((with_reducible refine Sub.bit hm ?_); exact rfl)
    | ((with_reducible refine Sub.mono hm ?_); exact rfl)
    | with_reducible apply markerRx_keeps
    | dsimp only

theorem execFecCodewordRx_keeps (p : Fin 8) (lane : Fin 4) (errors : Fin 545) (miscorrected : Bool) (cells : Fin 5) {s : State} (h : s0.Keeps fp s)
    (hm : Sub 0x2040180440C fp) : ∃ s1, execFecCodewordRx p lane errors miscorrected cells s = .next s1 ∧ s0.Keeps fp s1 := by
  refine ⟨_, rfl, ?_⟩
  repeat' first
    | with_reducible assumption
    | ((with_reducible refine Sub.bit hm ?_); exact rfl)
    | ((with_reducible refine Sub.mono hm ?_); exact rfl)
    | with_reducible apply codewordRx_keeps
    | dsimp only

theorem execPortStateTimeout_keeps (p : Fin 8) {s : State} (h : s0.Keeps fp s)
    (hm : Sub 0x400000400 fp) : ∃ s1, execPortStateTimeout p s = .next s1 ∧ s0.Keeps fp s1 := by
  refine ⟨_, rfl, ?_⟩
  repeat' first
    | with_reducible assumption
    | ((with_reducible refine Sub.bit hm ?_); exact rfl)
    | ((with_reducible refine Sub.mono hm ?_); exact rfl)
    | with_reducible apply portTimeout_keeps
    | dsimp only

theorem execFaultWaitExpiry_keeps (p : Fin 8) {s : State} (h : s0.Keeps fp s)
    (hm : Sub 0x400000400 fp) : ∃ s1, execFaultWaitExpiry p s = .next s1 ∧ s0.Keeps fp s1 := by
  refine ⟨_, rfl, ?_⟩
  repeat' first
    | with_reducible assumption
    | ((with_reducible refine Sub.bit hm ?_); exact rfl)
    | ((with_reducible refine Sub.mono hm ?_); exact rfl)
    | with_reducible apply bit_ite
    | with_reducible apply keeps_ite
    | with_reducible apply State.enterBase_keeps
    | dsimp only
    | split

theorem execCellIdleRx_keeps (p_ : Fin 8) {s : State} (h : s0.Keeps fp s)
    (hm : Sub 0 fp) : ∃ s1, execCellIdleRx p_ s = .next s1 ∧ s0.Keeps fp s1 := by
  refine ⟨_, rfl, ?_⟩
  repeat' first
    | with_reducible assumption
    | ((with_reducible refine Sub.bit hm ?_); exact rfl)
    | ((with_reducible refine Sub.mono hm ?_); exact rfl)
    | dsimp only

theorem execCellPixelRx_keeps (p : Fin 8) (seq : BitVec 16) (c : PixelCell) {s : State} (h : s0.Keeps fp s)
    (hm : Sub 0x2041380C40D fp) : ∃ s1, execCellPixelRx p seq c s = .next s1 ∧ s0.Keeps fp s1 := by
  refine ⟨_, rfl, ?_⟩
  repeat' first
    | with_reducible assumption
    | ((with_reducible refine Sub.bit hm ?_); exact rfl)
    | ((with_reducible refine Sub.mono hm ?_); exact rfl)
    | ((with_reducible refine .inl (Sub.bit hm ?_)); exact rfl)
    | with_reducible exact .inr rfl
    | with_reducible apply State.pixelCell_keeps
    | with_reducible apply cellRx_keeps
    | (intro _ _ _)
    | (intro _ _)
    | (intro _)
    | dsimp only
    | with_reducible apply keeps_fields
    | with_reducible apply keeps_store

theorem execCellAudioRx_keeps (p : Fin 8) (seq : BitVec 16) {s : State} (h : s0.Keeps fp s)
    (hm : Sub 0x400004400 fp) : ∃ s1, execCellAudioRx p seq s = .next s1 ∧ s0.Keeps fp s1 := by
  refine ⟨_, rfl, ?_⟩
  repeat' first
    | with_reducible assumption
    | ((with_reducible refine Sub.bit hm ?_); exact rfl)
    | ((with_reducible refine Sub.mono hm ?_); exact rfl)
    | with_reducible apply State.unusedCell_keeps
    | with_reducible apply cellRx_keeps
    | (intro _ _ _)
    | (intro _ _)
    | (intro _)
    | dsimp only

theorem execCellFrameStartRx_keeps (p : Fin 8) (seq : BitVec 16) (beam : Fin 16) (repeated : Bool) (lines : Fin 8193) {s : State} (h : s0.Keeps fp s)
    (hm : Sub 0x20411804C0C fp) : ∃ s1, execCellFrameStartRx p seq beam repeated lines s = .next s1 ∧ s0.Keeps fp s1 := by
  refine ⟨_, rfl, ?_⟩
  repeat' first
    | with_reducible assumption
    | ((with_reducible refine Sub.bit hm ?_); exact rfl)
    | ((with_reducible refine Sub.mono hm ?_); exact rfl)
    | with_reducible apply State.frameStartRx_keeps
    | with_reducible apply cellRx_keeps
    | (intro _ _ _)
    | (intro _ _)
    | (intro _)
    | dsimp only

theorem execCellRepeatRx_keeps (p : Fin 8) (seq : BitVec 16) (beam : Fin 16) {s : State} (h : s0.Keeps fp s)
    (hm : Sub 0x410004400 fp) : ∃ s1, execCellRepeatRx p seq beam s = .next s1 ∧ s0.Keeps fp s1 := by
  refine ⟨_, rfl, ?_⟩
  repeat' first
    | with_reducible assumption
    | ((with_reducible refine Sub.bit hm ?_); exact rfl)
    | ((with_reducible refine Sub.mono hm ?_); exact rfl)
    | with_reducible apply State.repeatRx_keeps
    | with_reducible apply cellRx_keeps
    | (intro _ _ _)
    | (intro _ _)
    | (intro _)
    | dsimp only

theorem execCellFenceRx_keeps (p : Fin 8) (seq : BitVec 16) (group : Fin 16) (epoch : Word) {s : State} (h : s0.Keeps fp s)
    (hm : Sub 0x450004401 fp) : ∃ s1, execCellFenceRx p seq group epoch s = .next s1 ∧ s0.Keeps fp s1 := by
  refine ⟨_, rfl, ?_⟩
  repeat' first
    | with_reducible assumption
    | ((with_reducible refine Sub.bit hm ?_); exact rfl)
    | ((with_reducible refine Sub.mono hm ?_); exact rfl)
    | with_reducible apply State.fenceRx_keeps
    | with_reducible apply cellRx_keeps
    | (intro _ _ _)
    | (intro _ _)
    | (intro _)
    | dsimp only

theorem execCellRouteRx_keeps (p : Fin 8) (seq : BitVec 16) {s : State} (h : s0.Keeps fp s) (hm : Sub 0x400004400 fp) :
    ∃ s1, execCellRouteRx p seq s = .next s1 ∧ s0.Keeps fp s1 :=
  ⟨_, rfl, cellRx_keeps _ _ _ h (Sub.mono hm rfl) fun _ hs => hs⟩

theorem execCellCapRx_keeps (p : Fin 8) (seq : BitVec 16) (c : CapFields) {s : State} (h : s0.Keeps fp s)
    (hm : Sub 0x2040180440D fp) : ∃ s1, execCellCapRx p seq c s = .next s1 ∧ s0.Keeps fp s1 := by
  refine ⟨_, rfl, ?_⟩
  repeat' first
    | with_reducible assumption
    | ((with_reducible refine Sub.bit hm ?_); exact rfl)
    | ((with_reducible refine Sub.mono hm ?_); exact rfl)
    | with_reducible apply capRx_keeps
    | dsimp only

theorem execCellCreditRx_keeps (p : Fin 8) (next : BitVec 16) {s : State} (h : s0.Keeps fp s)
    (hm : Sub 0x400000000 fp) : ∃ s1, execCellCreditRx p next s = .next s1 ∧ s0.Keeps fp s1 := by
  refine ⟨_, rfl, ?_⟩
  repeat' first
    | with_reducible assumption
    | ((with_reducible refine Sub.bit hm ?_); exact rfl)
    | ((with_reducible refine Sub.mono hm ?_); exact rfl)
    | with_reducible apply creditRx_keeps
    | dsimp only

theorem execCreditSendTimer_keeps (p : Fin 8) {s : State} (h : s0.Keeps fp s)
    (hm : Sub 0x400000000 fp) : ∃ s1, execCreditSendTimer p s = .next s1 ∧ s0.Keeps fp s1 := by
  refine ⟨_, rfl, ?_⟩
  repeat' first
    | with_reducible assumption
    | ((with_reducible refine Sub.bit hm ?_); exact rfl)
    | ((with_reducible refine Sub.mono hm ?_); exact rfl)
    | with_reducible apply bit_ite
    | with_reducible apply keeps_ite
    | with_reducible apply State.sendCredit_keeps
    | dsimp only
    | split

theorem execCapSendTimer_keeps (p : Fin 8) {s : State} (h : s0.Keeps fp s)
    (hm : Sub 0x2040180040D fp) : ∃ s1, execCapSendTimer p s = .next s1 ∧ s0.Keeps fp s1 := by
  refine ⟨_, rfl, ?_⟩
  repeat' first
    | with_reducible assumption
    | ((with_reducible refine Sub.bit hm ?_); exact rfl)
    | ((with_reducible refine Sub.mono hm ?_); exact rfl)
    | with_reducible apply capTimer_keeps
    | dsimp only

theorem execCreditTimeout_keeps (p : Fin 8) {s : State} (h : s0.Keeps fp s)
    (hm : Sub 0x2040180040C fp) : ∃ s1, execCreditTimeout p s = .next s1 ∧ s0.Keeps fp s1 := by
  refine ⟨_, rfl, ?_⟩
  repeat' first
    | with_reducible assumption
    | ((with_reducible refine Sub.bit hm ?_); exact rfl)
    | ((with_reducible refine Sub.mono hm ?_); exact rfl)
    | with_reducible apply bit_ite
    | with_reducible apply keeps_ite
    | with_reducible apply State.renegotiate_keeps
    | dsimp only
    | split

theorem execReneg_keeps (p : Fin 8) {s : State} (h : s0.Keeps fp s)
    (hm : Sub 0x2040180040C fp) : ∃ s1, execReneg p s = .next s1 ∧ s0.Keeps fp s1 := by
  refine ⟨_, rfl, ?_⟩
  repeat' first
    | with_reducible assumption
    | ((with_reducible refine Sub.bit hm ?_); exact rfl)
    | ((with_reducible refine Sub.mono hm ?_); exact rfl)
    | with_reducible apply State.renegotiate_keeps
    | dsimp only

theorem execAlignmentMarkerMissing_keeps (p : Fin 8) (lane : Fin 4) {s : State} (h : s0.Keeps fp s)
    (hm : Sub 0x2040180040C fp) : ∃ s1, execAlignmentMarkerMissing p lane s = .next s1 ∧ s0.Keeps fp s1 := by
  refine ⟨_, rfl, ?_⟩
  repeat' first
    | with_reducible assumption
    | ((with_reducible refine Sub.bit hm ?_); exact rfl)
    | ((with_reducible refine Sub.mono hm ?_); exact rfl)
    | with_reducible apply markerBad_keeps
    | dsimp only

theorem execCellCrcFailRx_keeps (p : Fin 8) (badType : Bool) {s : State} (h : s0.Keeps fp s)
    (hm : Sub 0x2040180440C fp) : ∃ s1, execCellCrcFailRx p badType s = .next s1 ∧ s0.Keeps fp s1 := by
  refine ⟨_, rfl, ?_⟩
  repeat' first
    | with_reducible assumption
    | ((with_reducible refine Sub.bit hm ?_); exact rfl)
    | ((with_reducible refine Sub.mono hm ?_); exact rfl)
    | with_reducible apply cellBad_keeps
    | dsimp only

theorem execLaneGradeTimeout_keeps (p : Fin 8) (lane : Fin 4) {s : State} (h : s0.Keeps fp s)
    (hm : Sub 0x400000400 fp) : ∃ s1, execLaneGradeTimeout p lane s = .next s1 ∧ s0.Keeps fp s1 := by
  refine ⟨_, rfl, ?_⟩
  repeat' first
    | with_reducible assumption
    | ((with_reducible refine Sub.bit hm ?_); exact rfl)
    | ((with_reducible refine Sub.mono hm ?_); exact rfl)
    | with_reducible apply gradeTimeout_keeps
    | dsimp only

theorem execArrivingLapse_keeps (n : Fin 16) (k : Fin 3) {s : State} (h : s0.Keeps fp s)
    (hm : Sub 0x4000 fp) : ∃ s1, execArrivingLapse n k s = .next s1 ∧ s0.Keeps fp s1 := by
  refine ⟨_, rfl, ?_⟩
  repeat' first
    | with_reducible assumption
    | ((with_reducible refine Sub.bit hm ?_); exact rfl)
    | ((with_reducible refine Sub.mono hm ?_); exact rfl)
    | with_reducible apply State.wb_keeps
    | dsimp only

theorem execVeqPush_keeps (g : Fin 16) (w3 : Word) {s : State} (h : s0.Keeps fp s)
    (hm : Sub 0x2000180020C fp) : ∃ s1, execVeqPush g w3 s = .next s1 ∧ s0.Keeps fp s1 := by
  refine ⟨_, rfl, ?_⟩
  repeat' first
    | with_reducible assumption
    | ((with_reducible refine Sub.bit hm ?_); exact rfl)
    | ((with_reducible refine Sub.mono hm ?_); exact rfl)
    | with_reducible apply veqWrite_keeps
    | dsimp only

theorem execFeedPush_keeps (f : Fin 8) (w : Word) {s : State} (h : s0.Keeps fp s)
    (hm : Sub 0x800000200 fp) : ∃ s1, execFeedPush f w s = .next s1 ∧ s0.Keeps fp s1 := by
  refine ⟨_, rfl, ?_⟩
  repeat' first
    | with_reducible assumption
    | ((with_reducible refine Sub.bit hm ?_); exact rfl)
    | ((with_reducible refine Sub.mono hm ?_); exact rfl)
    | with_reducible apply feedPush_keeps
    | dsimp only

theorem execZcTimeout_keeps (gain : Fin 1152) {s : State} (h : s0.Keeps fp s)
    (hm : Sub 0x800000000 fp) : ∃ s1, execZcTimeout gain s = .next s1 ∧ s0.Keeps fp s1 := by
  refine ⟨_, rfl, ?_⟩
  repeat' first
    | with_reducible assumption
    | ((with_reducible refine Sub.bit hm ?_); exact rfl)
    | ((with_reducible refine Sub.mono hm ?_); exact rfl)
    | with_reducible apply zcTimeout_keeps
    | dsimp only

theorem execAudioSampleBoundary_keeps (late : List (Fin 1024 × Fin 4294967296)) (lateBuses : List (Fin 64)) {s : State} (h : s0.Keeps fp s)
    (hm : Sub 0x20C0380820D fp) : ∃ s1, execAudioSampleBoundary late lateBuses s = .next s1 ∧ s0.Keeps fp s1 := by
  refine ⟨_, rfl, ?_⟩
  repeat' first
    | with_reducible assumption
    | ((with_reducible refine Sub.bit hm ?_); exact rfl)
    | ((with_reducible refine Sub.mono hm ?_); exact rfl)
    | with_reducible apply sampleBoundary_keeps
    | (intro _ _ _)
    | (intro _ _)
    | (intro _)
    | dsimp only

theorem execAudRefLost_keeps {s : State} (h : s0.Keeps fp s)
    (hm : Sub 0x2000180020C fp) : ∃ s1, execAudRefLost s = .next s1 ∧ s0.Keeps fp s1 := by
  refine ⟨_, rfl, ?_⟩
  repeat' first
    | with_reducible assumption
    | ((with_reducible refine Sub.bit hm ?_); exact rfl)
    | ((with_reducible refine Sub.mono hm ?_); exact rfl)
    | with_reducible apply audRefLost_keeps
    | dsimp only

theorem execCrosspointWrite_keeps (x : Fin 2048) (w : Word) {s : State} (h : s0.Keeps fp s)
    (hm : Sub 0x800000200 fp) : ∃ s1, execCrosspointWrite x w s = .next s1 ∧ s0.Keeps fp s1 := by
  refine ⟨_, rfl, ?_⟩
  repeat' first
    | with_reducible assumption
    | ((with_reducible refine Sub.bit hm ?_); exact rfl)
    | ((with_reducible refine Sub.mono hm ?_); exact rfl)
    | with_reducible apply bit_ite
    | ((with_reducible refine rej_parts _ (Sub.mono hm ?_)); exact rfl)
    | with_reducible apply keeps_ite
    | with_reducible apply State.rejectAt_keeps
    | with_reducible apply State.reject_keeps
    | with_reducible apply crosspointWrite_keeps
    | dsimp only
    | split

theorem execGainChange_keeps (g : GainReg) (w : Word) {s : State} (h : s0.Keeps fp s)
    (hm : Sub 0x800000200 fp) : ∃ s1, execGainChange g w s = .next s1 ∧ s0.Keeps fp s1 := by
  refine ⟨_, rfl, ?_⟩
  repeat' first
    | with_reducible assumption
    | ((with_reducible refine Sub.bit hm ?_); exact rfl)
    | ((with_reducible refine Sub.mono hm ?_); exact rfl)
    | ((with_reducible refine .inl (Sub.bit hm ?_)); exact rfl)
    | with_reducible exact .inr rfl
    | ((with_reducible refine rej_parts _ (Sub.mono hm ?_)); exact rfl)
    | with_reducible apply keeps_ite
    | with_reducible apply State.wr_keeps
    | with_reducible apply State.rejectAt_keeps
    | with_reducible apply State.reject_keeps
    | with_reducible apply gainWrite_keeps
    | dsimp only
    | split
    | with_reducible apply keeps_fields
    | with_reducible apply keeps_store

theorem execBusSwap_keeps (i : Fin 2) (w : Word) {s : State} (h : s0.Keeps fp s)
    (hm : Sub 0x800000000 fp) : ∃ s1, execBusSwap i w s = .next s1 ∧ s0.Keeps fp s1 := by
  refine ⟨_, rfl, ?_⟩
  repeat' first
    | with_reducible assumption
    | ((with_reducible refine Sub.bit hm ?_); exact rfl)
    | ((with_reducible refine Sub.mono hm ?_); exact rfl)
    | with_reducible apply busSwap_keeps
    | dsimp only

theorem execTdmFrameStart_keeps (a : Fin 4) (clocks : BitVec 10) {s : State} (h : s0.Keeps fp s)
    (hm : Sub 0x2080180020C fp) : ∃ s1, execTdmFrameStart a clocks s = .next s1 ∧ s0.Keeps fp s1 := by
  refine ⟨_, rfl, ?_⟩
  repeat' first
    | with_reducible assumption
    | ((with_reducible refine Sub.bit hm ?_); exact rfl)
    | ((with_reducible refine Sub.mono hm ?_); exact rfl)
    | with_reducible apply tdmFrameStart_keeps
    | dsimp only

theorem execBlitDispatch_keeps {s : State} (h : s0.Keeps fp s)
    (hm : Sub 0x21001C0010E fp) : ∃ s1, execBlitDispatch s = .next s1 ∧ s0.Keeps fp s1 := by
  refine ⟨_, rfl, ?_⟩
  repeat' first
    | with_reducible assumption
    | ((with_reducible refine Sub.bit hm ?_); exact rfl)
    | ((with_reducible refine Sub.mono hm ?_); exact rfl)
    | with_reducible apply blitDispatch_keeps
    | dsimp only

theorem execBlitSyncStart_keeps (k : Fin 4) {s : State} (h : s0.Keeps fp s)
    (hm : Sub 0x1000000100 fp) : ∃ s1, execBlitSyncStart k s = .next s1 ∧ s0.Keeps fp s1 := by
  refine ⟨_, rfl, ?_⟩
  repeat' first
    | with_reducible assumption
    | ((with_reducible refine Sub.bit hm ?_); exact rfl)
    | ((with_reducible refine Sub.mono hm ?_); exact rfl)
    | with_reducible apply syncStart_keeps
    | dsimp only

theorem execBlitStageDone_keeps (k : Fin 4) {s : State} (h : s0.Keeps fp s)
    (hm : Sub 0x2000380810D fp) : ∃ s1, execBlitStageDone k s = .next s1 ∧ s0.Keeps fp s1 := by
  refine ⟨_, rfl, ?_⟩
  repeat' first
    | with_reducible assumption
    | ((with_reducible refine Sub.bit hm ?_); exact rfl)
    | ((with_reducible refine Sub.mono hm ?_); exact rfl)
    | with_reducible apply stageDone_keeps
    | dsimp only

theorem execBlitRowVisible_keeps (k : Fin 4) {s : State} (h : s0.Keeps fp s)
    (hm : Sub 0x2100380810D fp) : ∃ s1, execBlitRowVisible k s = .next s1 ∧ s0.Keeps fp s1 := by
  refine ⟨_, rfl, ?_⟩
  repeat' first
    | with_reducible assumption
    | ((with_reducible refine Sub.bit hm ?_); exact rfl)
    | ((with_reducible refine Sub.mono hm ?_); exact rfl)
    | with_reducible apply rowVisible_keeps
    | dsimp only

theorem execBlitComplete_keeps (k : Fin 4) {s : State} (h : s0.Keeps fp s)
    (hm : Sub 0x21001C0010E fp) : ∃ s1, execBlitComplete k s = .next s1 ∧ s0.Keeps fp s1 := by
  refine ⟨_, rfl, ?_⟩
  repeat' first
    | with_reducible assumption
    | ((with_reducible refine Sub.bit hm ?_); exact rfl)
    | ((with_reducible refine Sub.mono hm ?_); exact rfl)
    | with_reducible apply blitComplete_keeps
    | dsimp only

theorem execBltDirectGo_keeps {s : State} (h : s0.Keeps fp s)
    (hm : Sub 0x1000000100 fp) : ∃ s1, execBltDirectGo s = .next s1 ∧ s0.Keeps fp s1 := by
  refine ⟨_, rfl, ?_⟩
  repeat' first
    | with_reducible assumption
    | ((with_reducible refine Sub.bit hm ?_); exact rfl)
    | ((with_reducible refine Sub.mono hm ?_); exact rfl)
    | with_reducible apply directGo_keeps
    | dsimp only

theorem execDmaGo_keeps (c : Fin 64) {s : State} (h : s0.Keeps fp s)
    (hm : Sub 0x22003C0808F fp) : ∃ s1, execDmaGo c s = .next s1 ∧ s0.Keeps fp s1 := by
  refine ⟨_, rfl, ?_⟩
  repeat' first
    | with_reducible assumption
    | ((with_reducible refine Sub.bit hm ?_); exact rfl)
    | ((with_reducible refine Sub.mono hm ?_); exact rfl)
    | with_reducible apply dmaCtrlWrite_keeps
    | dsimp only

theorem execDmaStop_keeps (c : Fin 64) {s : State} (h : s0.Keeps fp s)
    (hm : Sub 0x22003C0808F fp) : ∃ s1, execDmaStop c s = .next s1 ∧ s0.Keeps fp s1 := by
  refine ⟨_, rfl, ?_⟩
  repeat' first
    | with_reducible assumption
    | ((with_reducible refine Sub.bit hm ?_); exact rfl)
    | ((with_reducible refine Sub.mono hm ?_); exact rfl)
    | with_reducible apply dmaCtrlWrite_keeps
    | dsimp only

theorem execDmaProgFetchDone_keeps (c : Fin 64) (i : Fin 4) (data : Option (List Byte)) {s : State} (h : s0.Keeps fp s)
    (hm : Sub 0x22003C0808F fp) : ∃ s1, execDmaProgFetchDone c i data s = .next s1 ∧ s0.Keeps fp s1 := by
  refine ⟨_, rfl, ?_⟩
  repeat' first
    | with_reducible assumption
    | ((with_reducible refine Sub.bit hm ?_); exact rfl)
    | ((with_reducible refine Sub.mono hm ?_); exact rfl)
    | with_reducible apply dmaLineDone_keeps
    | dsimp only

theorem execDmaMove_keeps (c : Fin 64) {s : State} (h : s0.Keeps fp s)
    (hm : Sub 0x22003C0808F fp) : ∃ s1, execDmaMove c s = .next s1 ∧ s0.Keeps fp s1 := by
  refine ⟨_, rfl, ?_⟩
  repeat' first
    | with_reducible assumption
    | ((with_reducible refine Sub.bit hm ?_); exact rfl)
    | ((with_reducible refine Sub.mono hm ?_); exact rfl)
    | with_reducible apply dmaMove_keeps
    | dsimp only

theorem execDmaLoop_keeps (c : Fin 64) {s : State} (h : s0.Keeps fp s)
    (hm : Sub 0x22003C0808F fp) : ∃ s1, execDmaLoop c s = .next s1 ∧ s0.Keeps fp s1 := by
  refine ⟨_, rfl, ?_⟩
  repeat' first
    | with_reducible assumption
    | ((with_reducible refine Sub.bit hm ?_); exact rfl)
    | ((with_reducible refine Sub.mono hm ?_); exact rfl)
    | with_reducible apply dmaLoop_keeps
    | dsimp only

theorem execDmaWait_keeps (c : Fin 64) {s : State} (h : s0.Keeps fp s)
    (hm : Sub 0x22003C0808F fp) : ∃ s1, execDmaWait c s = .next s1 ∧ s0.Keeps fp s1 := by
  refine ⟨_, rfl, ?_⟩
  repeat' first
    | with_reducible assumption
    | ((with_reducible refine Sub.bit hm ?_); exact rfl)
    | ((with_reducible refine Sub.mono hm ?_); exact rfl)
    | with_reducible apply dmaWait_keeps
    | dsimp only

theorem execDmaWaitTimeExpiry_keeps (c : Fin 64) {s : State} (h : s0.Keeps fp s)
    (hm : Sub 0x22003C0808F fp) : ∃ s1, execDmaWaitTimeExpiry c s = .next s1 ∧ s0.Keeps fp s1 := by
  refine ⟨_, rfl, ?_⟩
  repeat' first
    | with_reducible assumption
    | ((with_reducible refine Sub.bit hm ?_); exact rfl)
    | ((with_reducible refine Sub.mono hm ?_); exact rfl)
    | with_reducible apply dmaTimeExpiry_keeps
    | dsimp only

theorem execDmaSignal_keeps (c : Fin 64) {s : State} (h : s0.Keeps fp s)
    (hm : Sub 0x22003C0808F fp) : ∃ s1, execDmaSignal c s = .next s1 ∧ s0.Keeps fp s1 := by
  refine ⟨_, rfl, ?_⟩
  repeat' first
    | with_reducible assumption
    | ((with_reducible refine Sub.bit hm ?_); exact rfl)
    | ((with_reducible refine Sub.mono hm ?_); exact rfl)
    | with_reducible apply dmaSignal_keeps
    | dsimp only

theorem execDmaJump_keeps (c : Fin 64) {s : State} (h : s0.Keeps fp s)
    (hm : Sub 0x22003C0808F fp) : ∃ s1, execDmaJump c s = .next s1 ∧ s0.Keeps fp s1 := by
  refine ⟨_, rfl, ?_⟩
  repeat' first
    | with_reducible assumption
    | ((with_reducible refine Sub.bit hm ?_); exact rfl)
    | ((with_reducible refine Sub.mono hm ?_); exact rfl)
    | with_reducible apply dmaJump_keeps
    | dsimp only

theorem execDmaEnd_keeps (c : Fin 64) {s : State} (h : s0.Keeps fp s)
    (hm : Sub 0x22003C0808F fp) : ∃ s1, execDmaEnd c s = .next s1 ∧ s0.Keeps fp s1 := by
  refine ⟨_, rfl, ?_⟩
  repeat' first
    | with_reducible assumption
    | ((with_reducible refine Sub.bit hm ?_); exact rfl)
    | ((with_reducible refine Sub.mono hm ?_); exact rfl)
    | with_reducible apply dmaEnd_keeps
    | dsimp only

theorem execGpioPadChange_keeps (p : Fin 64) (level : Option Bool) {s : State} (h : s0.Keeps fp s)
    (hm : Sub 0x4000000010 fp) : ∃ s1, execGpioPadChange p level s = .next s1 ∧ s0.Keeps fp s1 := by
  refine ⟨_, rfl, ?_⟩
  repeat' first
    | with_reducible assumption
    | ((with_reducible refine Sub.bit hm ?_); exact rfl)
    | ((with_reducible refine Sub.mono hm ?_); exact rfl)
    | with_reducible apply padChange_keeps
    | dsimp only

theorem execGpioFilterSample_keeps (p : Fin 64) {s : State} (h : s0.Keeps fp s)
    (hm : Sub 0x24811800A1C fp) : ∃ s1, execGpioFilterSample p s = .next s1 ∧ s0.Keeps fp s1 := by
  refine ⟨_, rfl, ?_⟩
  repeat' first
    | with_reducible assumption
    | ((with_reducible refine Sub.bit hm ?_); exact rfl)
    | ((with_reducible refine Sub.mono hm ?_); exact rfl)
    | with_reducible apply filterSample_keeps
    | dsimp only

theorem execGpioSet_keeps (x : Fin 2) (w : Word) {s : State} (h : s0.Keeps fp s)
    (hm : Sub 0x4000000010 fp) : ∃ s1, execGpioSet x w s = .next s1 ∧ s0.Keeps fp s1 := by
  refine ⟨_, rfl, ?_⟩
  repeat' first
    | with_reducible assumption
    | ((with_reducible refine Sub.bit hm ?_); exact rfl)
    | ((with_reducible refine Sub.mono hm ?_); exact rfl)
    | with_reducible apply gpioSet_keeps
    | dsimp only

theorem execGpioClr_keeps (x : Fin 2) (w : Word) {s : State} (h : s0.Keeps fp s)
    (hm : Sub 0x4000000010 fp) : ∃ s1, execGpioClr x w s = .next s1 ∧ s0.Keeps fp s1 := by
  refine ⟨_, rfl, ?_⟩
  repeat' first
    | with_reducible assumption
    | ((with_reducible refine Sub.bit hm ?_); exact rfl)
    | ((with_reducible refine Sub.mono hm ?_); exact rfl)
    | with_reducible apply gpioClr_keeps
    | dsimp only

theorem execGpioFunctionChange_keeps (p : Fin 64) (w : Word) {s : State} (h : s0.Keeps fp s)
    (hm : Sub 0x4000000010 fp) : ∃ s1, execGpioFunctionChange p w s = .next s1 ∧ s0.Keeps fp s1 := by
  refine ⟨_, rfl, ?_⟩
  repeat' first
    | with_reducible assumption
    | ((with_reducible refine Sub.bit hm ?_); exact rfl)
    | ((with_reducible refine Sub.mono hm ?_); exact rfl)
    | with_reducible apply bit_ite
    | ((with_reducible refine rej_parts _ (Sub.mono hm ?_)); exact rfl)
    | with_reducible apply keeps_ite
    | with_reducible apply State.rejectAt_keeps
    | with_reducible apply State.reject_keeps
    | with_reducible apply gpioCtrlWrite_keeps
    | dsimp only
    | split

theorem execGpioBankSupplyChange_keeps (b : Fin 4) (supply : Option Bool) {s : State} (h : s0.Keeps fp s)
    (hm : Sub 0x4000000010 fp) : ∃ s1, execGpioBankSupplyChange b supply s = .next s1 ∧ s0.Keeps fp s1 := by
  refine ⟨_, rfl, ?_⟩
  repeat' first
    | with_reducible assumption
    | ((with_reducible refine Sub.bit hm ?_); exact rfl)
    | ((with_reducible refine Sub.mono hm ?_); exact rfl)
    | with_reducible apply bankSupply_keeps
    | dsimp only

theorem execBeamFrameStart_keeps (n : Fin 16) {s : State} (h : s0.Keeps fp s)
    (hm : Sub 0x2BF57D0AFAF fp) : ∃ s1, execBeamFrameStart n s = .next s1 ∧ s0.Keeps fp s1 := by
  refine ⟨_, rfl, ?_⟩
  repeat' first
    | with_reducible assumption
    | ((with_reducible refine Sub.bit hm ?_); exact rfl)
    | ((with_reducible refine Sub.mono hm ?_); exact rfl)
    | ((with_reducible refine .inl (Sub.bit hm ?_)); exact rfl)
    | with_reducible exact .inr rfl
    | with_reducible apply keeps_ite
    | with_reducible apply State.frameStart_keeps
    | with_reducible apply State.audReference_keeps
    | with_reducible apply State.beamEnds_keeps
    | dsimp only
    | split
    | with_reducible apply keeps_fields
    | with_reducible apply keeps_store

theorem execLineEmissionStart_keeps (n : Fin 16) (drained : Fin 5) {s : State} (h : s0.Keeps fp s)
    (hm : Sub 0x2341FC1FC8F fp) : ∃ s1, execLineEmissionStart n drained s = .next s1 ∧ s0.Keeps fp s1 := by
  refine ⟨_, rfl, ?_⟩
  repeat' first
    | with_reducible assumption
    | ((with_reducible refine Sub.bit hm ?_); exact rfl)
    | ((with_reducible refine Sub.mono hm ?_); exact rfl)
    | with_reducible apply bit_ite
    | with_reducible apply keeps_ite
    | with_reducible apply State.lineStart_keeps
    | dsimp only
    | split

theorem execCensusStart_keeps {s : State} (h : s0.Keeps fp s)
    (hm : Sub 0x285D5D08C2F fp) : ∃ s1, execCensusStart s = .next s1 ∧ s0.Keeps fp s1 := by
  refine ⟨_, rfl, ?_⟩
  repeat' first
    | with_reducible assumption
    | ((with_reducible refine Sub.bit hm ?_); exact rfl)
    | ((with_reducible refine Sub.mono hm ?_); exact rfl)
    | with_reducible apply cenStart_keeps
    | dsimp only

theorem execCensusAbort_keeps {s : State} (h : s0.Keeps fp s)
    (hm : Sub 0x2C5DDD08C3F fp) : ∃ s1, execCensusAbort s = .next s1 ∧ s0.Keeps fp s1 := by
  refine ⟨_, rfl, ?_⟩
  repeat' first
    | with_reducible assumption
    | ((with_reducible refine Sub.bit hm ?_); exact rfl)
    | ((with_reducible refine Sub.mono hm ?_); exact rfl)
    | with_reducible apply cenAbort_keeps
    | dsimp only

theorem execCensusGroupCut_keeps {s : State} (h : s0.Keeps fp s)
    (hm : Sub 0x8C900001 fp) : ∃ s1, execCensusGroupCut s = .next s1 ∧ s0.Keeps fp s1 := by
  refine ⟨_, rfl, ?_⟩
  repeat' first
    | with_reducible assumption
    | ((with_reducible refine Sub.bit hm ?_); exact rfl)
    | ((with_reducible refine Sub.mono hm ?_); exact rfl)
    | with_reducible apply cenCut_keeps
    | dsimp only

theorem execCensusRecordWritten_keeps {s : State} (h : s0.Keeps fp s)
    (hm : Sub 0x2C5DDD08C3F fp) : ∃ s1, execCensusRecordWritten s = .next s1 ∧ s0.Keeps fp s1 := by
  refine ⟨_, rfl, ?_⟩
  repeat' first
    | with_reducible assumption
    | ((with_reducible refine Sub.bit hm ?_); exact rfl)
    | ((with_reducible refine Sub.mono hm ?_); exact rfl)
    | with_reducible apply cenRecord_keeps
    | dsimp only

theorem execLedgerWindowEnd_keeps (mw : List (BitVec 16)) {s : State} (h : s0.Keeps fp s)
    (hm : Sub 0x2801180802C fp) : ∃ s1, execLedgerWindowEnd mw s = .next s1 ∧ s0.Keeps fp s1 := by
  refine ⟨_, rfl, ?_⟩
  repeat' first
    | with_reducible assumption
    | ((with_reducible refine Sub.bit hm ?_); exact rfl)
    | ((with_reducible refine Sub.mono hm ?_); exact rfl)
    | with_reducible apply bit_ite
    | with_reducible apply keeps_ite
    | with_reducible apply windowEnd_keeps
    | dsimp only
    | split

theorem execAvsResponse_keeps (g : Fin 4) (reply : AvsReply) {s : State} (h : s0.Keeps fp s)
    (hm : Sub 0x2801180002C fp) : ∃ s1, execAvsResponse g reply s = .next s1 ∧ s0.Keeps fp s1 := by
  refine ⟨_, rfl, ?_⟩
  repeat' first
    | with_reducible assumption
    | ((with_reducible refine Sub.bit hm ?_); exact rfl)
    | ((with_reducible refine Sub.mono hm ?_); exact rfl)
    | with_reducible apply avsResponse_keeps
    | dsimp only

theorem execAvsRetry_keeps (g : Fin 4) {s : State} (h : s0.Keeps fp s)
    (hm : Sub 0x20000000000 fp) : ∃ s1, execAvsRetry g s = .next s1 ∧ s0.Keeps fp s1 := by
  refine ⟨_, rfl, ?_⟩
  repeat' first
    | with_reducible assumption
    | ((with_reducible refine Sub.bit hm ?_); exact rfl)
    | ((with_reducible refine Sub.mono hm ?_); exact rfl)
    | with_reducible apply avsRetry_keeps
    | dsimp only

theorem execTempSensorRead_keeps (t : List (BitVec 16)) {s : State} (h : s0.Keeps fp s)
    (hm : Sub 0x2801180802C fp) : ∃ s1, execTempSensorRead t s = .next s1 ∧ s0.Keeps fp s1 := by
  refine ⟨_, rfl, ?_⟩
  repeat' first
    | with_reducible assumption
    | ((with_reducible refine Sub.bit hm ?_); exact rfl)
    | ((with_reducible refine Sub.mono hm ?_); exact rfl)
    | with_reducible apply tempsRead_keeps
    | dsimp only

theorem execPwrLedgerWrite_keeps (w : Word) {s : State} (h : s0.Keeps fp s)
    (hm : Sub 0x2801180802C fp) : ∃ s1, execPwrLedgerWrite w s = .next s1 ∧ s0.Keeps fp s1 := by
  refine ⟨_, rfl, ?_⟩
  repeat' first
    | with_reducible assumption
    | ((with_reducible refine Sub.bit hm ?_); exact rfl)
    | ((with_reducible refine Sub.mono hm ?_); exact rfl)
    | with_reducible apply ledgerWrite_keeps
    | dsimp only

theorem execLedgerStale_keeps {s : State} (h : s0.Keeps fp s)
    (hm : Sub 0x2801180802C fp) : ∃ s1, execLedgerStale s = .next s1 ∧ s0.Keeps fp s1 := by
  refine ⟨_, rfl, ?_⟩
  repeat' first
    | with_reducible assumption
    | ((with_reducible refine Sub.bit hm ?_); exact rfl)
    | ((with_reducible refine Sub.mono hm ?_); exact rfl)
    | with_reducible apply ledgerStale_keeps
    | dsimp only

theorem execLeap_keeps {s : State} (h : s0.Keeps fp s)
    (hm : Sub 0x2800180002C fp) : ∃ s1, execLeap s = .next s1 ∧ s0.Keeps fp s1 := by
  refine ⟨_, rfl, ?_⟩
  repeat' first
    | with_reducible assumption
    | ((with_reducible refine Sub.bit hm ?_); exact rfl)
    | ((with_reducible refine Sub.mono hm ?_); exact rfl)
    | with_reducible apply leap_keeps
    | dsimp only

theorem execLeapVerifyEnd_keeps (tedRise : BitVec 32) (slack : BitVec 16) {s : State} (h : s0.Keeps fp s)
    (hm : Sub 0x2800180002C fp) : ∃ s1, execLeapVerifyEnd tedRise slack s = .next s1 ∧ s0.Keeps fp s1 := by
  refine ⟨_, rfl, ?_⟩
  repeat' first
    | with_reducible assumption
    | ((with_reducible refine Sub.bit hm ?_); exact rfl)
    | ((with_reducible refine Sub.mono hm ?_); exact rfl)
    | with_reducible apply leapEnd_keeps
    | dsimp only

theorem execAlmSamplePeriod_keeps {s : State} (h : s0.Keeps fp s)
    (hm : Sub 0x8000000020 fp) : ∃ s1, execAlmSamplePeriod s = .next s1 ∧ s0.Keeps fp s1 := by
  refine ⟨_, rfl, ?_⟩
  repeat' first
    | with_reducible assumption
    | ((with_reducible refine Sub.bit hm ?_); exact rfl)
    | ((with_reducible refine Sub.mono hm ?_); exact rfl)
    | with_reducible apply sampleBegin_keeps
    | dsimp only

theorem execAlmSampleNow_keeps {s : State} (h : s0.Keeps fp s)
    (hm : Sub 0x8000000020 fp) : ∃ s1, execAlmSampleNow s = .next s1 ∧ s0.Keeps fp s1 := by
  refine ⟨_, rfl, ?_⟩
  repeat' first
    | with_reducible assumption
    | ((with_reducible refine Sub.bit hm ?_); exact rfl)
    | ((with_reducible refine Sub.mono hm ?_); exact rfl)
    | with_reducible apply sampleBegin_keeps
    | dsimp only

theorem execAlmSampleSetEnd_keeps (vals : List (BitVec 16)) {s : State} (h : s0.Keeps fp s)
    (hm : Sub 0x2800180002C fp) : ∃ s1, execAlmSampleSetEnd vals s = .next s1 ∧ s0.Keeps fp s1 := by
  refine ⟨_, rfl, ?_⟩
  repeat' first
    | with_reducible assumption
    | ((with_reducible refine Sub.bit hm ?_); exact rfl)
    | ((with_reducible refine Sub.mono hm ?_); exact rfl)
    | with_reducible apply sampleEnd_keeps
    | dsimp only

theorem execAlmLogWriteFlash_keeps {s : State} (h : s0.Keeps fp s)
    (hm : Sub 0x8000800020 fp) : ∃ s1, execAlmLogWriteFlash s = .next s1 ∧ s0.Keeps fp s1 := by
  refine ⟨_, rfl, ?_⟩
  repeat' first
    | with_reducible assumption
    | ((with_reducible refine Sub.bit hm ?_); exact rfl)
    | ((with_reducible refine Sub.mono hm ?_); exact rfl)
    | with_reducible apply logOp_keeps
    | dsimp only

theorem execAlmLogWriteFuse_keeps {s : State} (h : s0.Keeps fp s)
    (hm : Sub 0x8000800020 fp) : ∃ s1, execAlmLogWriteFuse s = .next s1 ∧ s0.Keeps fp s1 := by
  refine ⟨_, rfl, ?_⟩
  repeat' first
    | with_reducible assumption
    | ((with_reducible refine Sub.bit hm ?_); exact rfl)
    | ((with_reducible refine Sub.mono hm ?_); exact rfl)
    | with_reducible apply logOp_keeps
    | dsimp only

theorem execAlmLogRead_keeps {s : State} (h : s0.Keeps fp s)
    (hm : Sub 0x8000800020 fp) : ∃ s1, execAlmLogRead s = .next s1 ∧ s0.Keeps fp s1 := by
  refine ⟨_, rfl, ?_⟩
  repeat' first
    | with_reducible assumption
    | ((with_reducible refine Sub.bit hm ?_); exact rfl)
    | ((with_reducible refine Sub.mono hm ?_); exact rfl)
    | with_reducible apply logOp_keeps
    | dsimp only

theorem execAlmLogOpDone_keeps {s : State} (h : s0.Keeps fp s)
    (hm : Sub 0x8000000020 fp) : ∃ s1, execAlmLogOpDone s = .next s1 ∧ s0.Keeps fp s1 := by
  refine ⟨_, rfl, ?_⟩
  repeat' first
    | with_reducible assumption
    | ((with_reducible refine Sub.bit hm ?_); exact rfl)
    | ((with_reducible refine Sub.mono hm ?_); exact rfl)
    | with_reducible apply logOpDone_keeps
    | dsimp only

theorem execPmbGo_keeps (w : Word) {s : State} (h : s0.Keeps fp s)
    (hm : Sub 0x20000000020 fp) : ∃ s1, execPmbGo w s = .next s1 ∧ s0.Keeps fp s1 := by
  refine ⟨_, rfl, ?_⟩
  repeat' first
    | with_reducible assumption
    | ((with_reducible refine Sub.bit hm ?_); exact rfl)
    | ((with_reducible refine Sub.mono hm ?_); exact rfl)
    | with_reducible apply bit_ite
    | ((with_reducible refine rej_parts _ (Sub.mono hm ?_)); exact rfl)
    | with_reducible apply keeps_ite
    | with_reducible apply State.rejectAt_keeps
    | with_reducible apply State.reject_keeps
    | with_reducible apply pmbWrite_keeps
    | dsimp only
    | split

theorem execPmbDone_keeps (reply : PmbReply) {s : State} (h : s0.Keeps fp s)
    (hm : Sub 0x2000180002C fp) : ∃ s1, execPmbDone reply s = .next s1 ∧ s0.Keeps fp s1 := by
  refine ⟨_, rfl, ?_⟩
  repeat' first
    | with_reducible assumption
    | ((with_reducible refine Sub.bit hm ?_); exact rfl)
    | ((with_reducible refine Sub.mono hm ?_); exact rfl)
    | with_reducible apply pmbDone_keeps
    | dsimp only

theorem execModeReqService_keeps {s : State} (h : s0.Keeps fp s)
    (hm : Sub 0x3C00190042D fp) : ∃ s1, execModeReqService s = .next s1 ∧ s0.Keeps fp s1 := by
  refine ⟨_, rfl, ?_⟩
  repeat' first
    | with_reducible assumption
    | ((with_reducible refine Sub.bit hm ?_); exact rfl)
    | ((with_reducible refine Sub.mono hm ?_); exact rfl)
    | with_reducible apply modeReq_keeps
    | dsimp only

theorem execModeReqSleep_keeps {s : State} (h : s0.Keeps fp s)
    (hm : Sub 0x3C00190042D fp) : ∃ s1, execModeReqSleep s = .next s1 ∧ s0.Keeps fp s1 := by
  refine ⟨_, rfl, ?_⟩
  repeat' first
    | with_reducible assumption
    | ((with_reducible refine Sub.bit hm ?_); exact rfl)
    | ((with_reducible refine Sub.mono hm ?_); exact rfl)
    | with_reducible apply modeReq_keeps
    | dsimp only

theorem execModeReqEmber_keeps {s : State} (h : s0.Keeps fp s)
    (hm : Sub 0x3C00190042D fp) : ∃ s1, execModeReqEmber s = .next s1 ∧ s0.Keeps fp s1 := by
  refine ⟨_, rfl, ?_⟩
  repeat' first
    | with_reducible assumption
    | ((with_reducible refine Sub.bit hm ?_); exact rfl)
    | ((with_reducible refine Sub.mono hm ?_); exact rfl)
    | with_reducible apply modeReq_keeps
    | dsimp only

theorem execSleepEntryComplete_keeps {s : State} (h : s0.Keeps fp s)
    (hm : Sub 0x3F5D7D08DBF fp) : ∃ s1, execSleepEntryComplete s = .next s1 ∧ s0.Keeps fp s1 := by
  refine ⟨_, rfl, ?_⟩
  repeat' first
    | with_reducible assumption
    | ((with_reducible refine Sub.bit hm ?_); exact rfl)
    | ((with_reducible refine Sub.mono hm ?_); exact rfl)
    | with_reducible apply sleepEntered_keeps
    | dsimp only

theorem execWakeComplete_keeps {s : State} (h : s0.Keeps fp s)
    (hm : Sub 0x3BDD7D08FAF fp) : ∃ s1, execWakeComplete s = .next s1 ∧ s0.Keeps fp s1 := by
  refine ⟨_, rfl, ?_⟩
  repeat' first
    | with_reducible assumption
    | ((with_reducible refine Sub.bit hm ?_); exact rfl)
    | ((with_reducible refine Sub.mono hm ?_); exact rfl)
    | with_reducible apply wakeDone_keeps
    | dsimp only

theorem execAonTick_keeps {s : State} (h : s0.Keeps fp s)
    (hm : Sub 0x3C00180002D fp) : ∃ s1, execAonTick s = .next s1 ∧ s0.Keeps fp s1 := by
  refine ⟨_, rfl, ?_⟩
  repeat' first
    | with_reducible assumption
    | ((with_reducible refine Sub.bit hm ?_); exact rfl)
    | ((with_reducible refine Sub.mono hm ?_); exact rfl)
    | with_reducible apply alwaysOnTick_keeps
    | dsimp only

theorem execSysDbgHalt_keeps {s : State} (h : s0.Keeps fp s)
    (hm : Sub 0x2000980040D fp) : ∃ s1, execSysDbgHalt s = .next s1 ∧ s0.Keeps fp s1 := by
  refine ⟨_, rfl, ?_⟩
  repeat' first
    | with_reducible assumption
    | ((with_reducible refine Sub.bit hm ?_); exact rfl)
    | ((with_reducible refine Sub.mono hm ?_); exact rfl)
    | with_reducible apply dbgWrite_keeps
    | dsimp only

theorem execSysDbgResume_keeps {s : State} (h : s0.Keeps fp s)
    (hm : Sub 0x2000980040D fp) : ∃ s1, execSysDbgResume s = .next s1 ∧ s0.Keeps fp s1 := by
  refine ⟨_, rfl, ?_⟩
  repeat' first
    | with_reducible assumption
    | ((with_reducible refine Sub.bit hm ?_); exact rfl)
    | ((with_reducible refine Sub.mono hm ?_); exact rfl)
    | with_reducible apply dbgWrite_keeps
    | dsimp only

theorem execBusMasterEnableClear_keeps {s : State} (h : s0.Keeps fp s)
    (hm : Sub 0x38001A0042F fp) : ∃ s1, execBusMasterEnableClear s = .next s1 ∧ s0.Keeps fp s1 := by
  refine ⟨_, rfl, ?_⟩
  repeat' first
    | with_reducible assumption
    | ((with_reducible refine Sub.bit hm ?_); exact rfl)
    | ((with_reducible refine Sub.mono hm ?_); exact rfl)
    | with_reducible apply busMasterClear_keeps
    | dsimp only

theorem execDlDown_keeps {s : State} (h : s0.Keeps fp s)
    (hm : Sub 0x38001E0042F fp) : ∃ s1, execDlDown s = .next s1 ∧ s0.Keeps fp s1 := by
  refine ⟨_, rfl, ?_⟩
  repeat' first
    | with_reducible assumption
    | ((with_reducible refine Sub.bit hm ?_); exact rfl)
    | ((with_reducible refine Sub.mono hm ?_); exact rfl)
    | with_reducible apply State.linkLoss_keeps
    | dsimp only

theorem execHotReset_keeps {s : State} (h : s0.Keeps fp s)
    (hm : Sub 0x38001E0042F fp) : ∃ s1, execHotReset s = .next s1 ∧ s0.Keeps fp s1 := by
  refine ⟨_, rfl, ?_⟩
  repeat' first
    | with_reducible assumption
    | ((with_reducible refine Sub.bit hm ?_); exact rfl)
    | ((with_reducible refine Sub.mono hm ?_); exact rfl)
    | with_reducible apply State.linkLoss_keeps
    | dsimp only

theorem execFunctionLevelReset_keeps {s : State} (h : s0.Keeps fp s)
    (hm : Sub 0x38001E0042F fp) : ∃ s1, execFunctionLevelReset s = .next s1 ∧ s0.Keeps fp s1 := by
  refine ⟨_, rfl, ?_⟩
  repeat' first
    | with_reducible assumption
    | ((with_reducible refine Sub.bit hm ?_); exact rfl)
    | ((with_reducible refine Sub.mono hm ?_); exact rfl)
    | with_reducible apply State.linkLoss_keeps
    | dsimp only

theorem execD3hotEntry_keeps {s : State} (h : s0.Keeps fp s)
    (hm : Sub 0x38001A0042F fp) : ∃ s1, execD3hotEntry s = .next s1 ∧ s0.Keeps fp s1 := by
  refine ⟨_, rfl, ?_⟩
  repeat' first
    | with_reducible assumption
    | ((with_reducible refine Sub.bit hm ?_); exact rfl)
    | ((with_reducible refine Sub.mono hm ?_); exact rfl)
    | with_reducible apply d3hot_keeps
    | dsimp only

theorem execPerstNAssert_keeps {s : State} (h : s0.Keeps fp s)
    (hm : Sub 0x38001E0042F fp) : ∃ s1, execPerstNAssert s = .next s1 ∧ s0.Keeps fp s1 := by
  refine ⟨_, rfl, ?_⟩
  repeat' first
    | with_reducible assumption
    | ((with_reducible refine Sub.bit hm ?_); exact rfl)
    | ((with_reducible refine Sub.mono hm ?_); exact rfl)
    | with_reducible apply State.linkLoss_keeps
    | dsimp only

theorem execAlwaysOnOscillatorStart_keeps {s : State} (h : s0.Keeps fp s)
    (hm : Sub 0x10000000000 fp) : ∃ s1, execAlwaysOnOscillatorStart s = .next s1 ∧ s0.Keeps fp s1 := by
  refine ⟨_, rfl, ?_⟩
  repeat' first
    | with_reducible assumption
    | ((with_reducible refine Sub.bit hm ?_); exact rfl)
    | ((with_reducible refine Sub.mono hm ?_); exact rfl)
    | ((with_reducible refine .inl (Sub.bit hm ?_)); exact rfl)
    | with_reducible exact .inr rfl
    | dsimp only
    | with_reducible apply keeps_fields
    | with_reducible apply keeps_store

theorem execResume_keeps {s : State} (h : s0.Keeps fp s)
    (hm : Sub 0x20001C0040F fp) : ∃ s1, execResume s = .next s1 ∧ s0.Keeps fp s1 := by
  refine ⟨_, rfl, ?_⟩
  repeat' first
    | with_reducible assumption
    | ((with_reducible refine Sub.bit hm ?_); exact rfl)
    | ((with_reducible refine Sub.mono hm ?_); exact rfl)
    | with_reducible apply hostResume_keeps
    | dsimp only

theorem execColdReset_keeps {s : State} (h : s0.Keeps fp s)
    (hm : Sub 0x3FFFFFFFFFF fp) : ∃ s1, execColdReset s = .next s1 ∧ s0.Keeps fp s1 := by
  refine ⟨_, rfl, ?_⟩
  repeat' first
    | with_reducible assumption
    | ((with_reducible refine Sub.bit hm ?_); exact rfl)
    | ((with_reducible refine Sub.mono hm ?_); exact rfl)
    | with_reducible apply State.resetTo_keeps
    | dsimp only

theorem execSysResetNRelease_keeps (straps : BitVec 2) (testmode : Bool) {s : State} (h : s0.Keeps fp s)
    (hm : Sub 0x10000000000 fp) : ∃ s1, execSysResetNRelease straps testmode s = .next s1 ∧ s0.Keeps fp s1 := by
  refine ⟨_, rfl, ?_⟩
  repeat' first
    | with_reducible assumption
    | ((with_reducible refine Sub.bit hm ?_); exact rfl)
    | ((with_reducible refine Sub.mono hm ?_); exact rfl)
    | with_reducible apply resetRelease_keeps
    | dsimp only

theorem execWarmResetRequest_keeps (steward : Bool) {s : State} (h : s0.Keeps fp s)
    (hm : Sub 0x10000000000 fp) : ∃ s1, execWarmResetRequest steward s = .next s1 ∧ s0.Keeps fp s1 := by
  refine ⟨_, rfl, ?_⟩
  repeat' first
    | with_reducible assumption
    | ((with_reducible refine Sub.bit hm ?_); exact rfl)
    | ((with_reducible refine Sub.mono hm ?_); exact rfl)
    | with_reducible apply bit_ite
    | with_reducible apply keeps_ite
    | with_reducible apply State.warmTrigger_keeps
    | dsimp only
    | split

theorem execWarmResetBegin_keeps {s : State} (h : s0.Keeps fp s)
    (hm : Sub 0x3FFFFFFFFFF fp) : ∃ s1, execWarmResetBegin s = .next s1 ∧ s0.Keeps fp s1 := by
  refine ⟨_, rfl, ?_⟩
  repeat' first
    | with_reducible assumption
    | ((with_reducible refine Sub.bit hm ?_); exact rfl)
    | ((with_reducible refine Sub.mono hm ?_); exact rfl)
    | with_reducible apply warmBegin_keeps
    | dsimp only

theorem execBootStepDone_keeps (vdone : BitVec 4) (trained : BitVec 2) (pllLock : Bool) {s : State} (h : s0.Keeps fp s)
    (hm : Sub 0x3FFFFFFFFFF fp) : ∃ s1, execBootStepDone vdone trained pllLock s = .next s1 ∧ s0.Keeps fp s1 := by
  refine ⟨_, rfl, ?_⟩
  repeat' first
    | with_reducible assumption
    | ((with_reducible refine Sub.bit hm ?_); exact rfl)
    | ((with_reducible refine Sub.mono hm ?_); exact rfl)
    | with_reducible apply bootStepDone_keeps
    | dsimp only

theorem execScReset_keeps (mask : BitVec 4) {s : State} (h : s0.Keeps fp s)
    (hm : Sub 0x2000D000005 fp) : ∃ s1, execScReset mask s = .next s1 ∧ s0.Keeps fp s1 := by
  refine ⟨_, rfl, ?_⟩
  repeat' first
    | with_reducible assumption
    | ((with_reducible refine Sub.bit hm ?_); exact rfl)
    | ((with_reducible refine Sub.mono hm ?_); exact rfl)
    | with_reducible apply scCtrlWrite_keeps
    | dsimp only

theorem execScReload_keeps (mask : BitVec 4) {s : State} (h : s0.Keeps fp s)
    (hm : Sub 0x2000D000005 fp) : ∃ s1, execScReload mask s = .next s1 ∧ s0.Keeps fp s1 := by
  refine ⟨_, rfl, ?_⟩
  repeat' first
    | with_reducible assumption
    | ((with_reducible refine Sub.bit hm ?_); exact rfl)
    | ((with_reducible refine Sub.mono hm ?_); exact rfl)
    | with_reducible apply scCtrlWrite_keeps
    | dsimp only

theorem execBootGo_keeps {s : State} (h : s0.Keeps fp s)
    (hm : Sub 0x2000D000005 fp) : ∃ s1, execBootGo s = .next s1 ∧ s0.Keeps fp s1 := by
  refine ⟨_, rfl, ?_⟩
  repeat' first
    | with_reducible assumption
    | ((with_reducible refine Sub.bit hm ?_); exact rfl)
    | ((with_reducible refine Sub.mono hm ?_); exact rfl)
    | with_reducible apply State.bootGo_keeps
    | dsimp only

theorem execBootImageFetched_keeps (image : Option (List Byte)) {s : State} (h : s0.Keeps fp s)
    (hm : Sub 0x3000F80000D fp) : ∃ s1, execBootImageFetched image s = .next s1 ∧ s0.Keeps fp s1 := by
  refine ⟨_, rfl, ?_⟩
  repeat' first
    | with_reducible assumption
    | ((with_reducible refine Sub.bit hm ?_); exact rfl)
    | ((with_reducible refine Sub.mono hm ?_); exact rfl)
    | with_reducible apply imageFetched_keeps
    | dsimp only

theorem execBootImageChecked_keeps {s : State} (h : s0.Keeps fp s)
    (hm : Sub 0x3000D80000D fp) : ∃ s1, execBootImageChecked s = .next s1 ∧ s0.Keeps fp s1 := by
  refine ⟨_, rfl, ?_⟩
  repeat' first
    | with_reducible assumption
    | ((with_reducible refine Sub.bit hm ?_); exact rfl)
    | ((with_reducible refine Sub.mono hm ?_); exact rfl)
    | with_reducible apply imageChecked_keeps
    | dsimp only

theorem execProvision_keeps {s : State} (h : s0.Keeps fp s)
    (hm : Sub 0x30000000001 fp) : ∃ s1, execProvision s = .next s1 ∧ s0.Keeps fp s1 := by
  refine ⟨_, rfl, ?_⟩
  repeat' first
    | with_reducible assumption
    | ((with_reducible refine Sub.bit hm ?_); exact rfl)
    | ((with_reducible refine Sub.mono hm ?_); exact rfl)
    | with_reducible apply lcCmd_keeps
    | dsimp only

theorem execSealSteward_keeps {s : State} (h : s0.Keeps fp s)
    (hm : Sub 0x30000000001 fp) : ∃ s1, execSealSteward s = .next s1 ∧ s0.Keeps fp s1 := by
  refine ⟨_, rfl, ?_⟩
  repeat' first
    | with_reducible assumption
    | ((with_reducible refine Sub.bit hm ?_); exact rfl)
    | ((with_reducible refine Sub.mono hm ?_); exact rfl)
    | with_reducible apply lcCmd_keeps
    | dsimp only

theorem execSealPl_keeps {s : State} (h : s0.Keeps fp s)
    (hm : Sub 0x30000000001 fp) : ∃ s1, execSealPl s = .next s1 ∧ s0.Keeps fp s1 := by
  refine ⟨_, rfl, ?_⟩
  repeat' first
    | with_reducible assumption
    | ((with_reducible refine Sub.bit hm ?_); exact rfl)
    | ((with_reducible refine Sub.mono hm ?_); exact rfl)
    | with_reducible apply lcCmd_keeps
    | dsimp only

theorem execDeploy_keeps {s : State} (h : s0.Keeps fp s)
    (hm : Sub 0x30000000001 fp) : ∃ s1, execDeploy s = .next s1 ∧ s0.Keeps fp s1 := by
  refine ⟨_, rfl, ?_⟩
  repeat' first
    | with_reducible assumption
    | ((with_reducible refine Sub.bit hm ?_); exact rfl)
    | ((with_reducible refine Sub.mono hm ?_); exact rfl)
    | with_reducible apply lcCmd_keeps
    | dsimp only

theorem execRaiseFloor_keeps {s : State} (h : s0.Keeps fp s)
    (hm : Sub 0x30000000001 fp) : ∃ s1, execRaiseFloor s = .next s1 ∧ s0.Keeps fp s1 := by
  refine ⟨_, rfl, ?_⟩
  repeat' first
    | with_reducible assumption
    | ((with_reducible refine Sub.bit hm ?_); exact rfl)
    | ((with_reducible refine Sub.mono hm ?_); exact rfl)
    | with_reducible apply lcCmd_keeps
    | dsimp only

theorem execLcReturn_keeps {s : State} (h : s0.Keeps fp s)
    (hm : Sub 0x30000000001 fp) : ∃ s1, execLcReturn s = .next s1 ∧ s0.Keeps fp s1 := by
  refine ⟨_, rfl, ?_⟩
  repeat' first
    | with_reducible assumption
    | ((with_reducible refine Sub.bit hm ?_); exact rfl)
    | ((with_reducible refine Sub.mono hm ?_); exact rfl)
    | with_reducible apply lcCmd_keeps
    | dsimp only

theorem execRetire_keeps {s : State} (h : s0.Keeps fp s)
    (hm : Sub 0x30000000001 fp) : ∃ s1, execRetire s = .next s1 ∧ s0.Keeps fp s1 := by
  refine ⟨_, rfl, ?_⟩
  repeat' first
    | with_reducible assumption
    | ((with_reducible refine Sub.bit hm ?_); exact rfl)
    | ((with_reducible refine Sub.mono hm ?_); exact rfl)
    | with_reducible apply lcCmd_keeps
    | dsimp only

theorem execLcDone_keeps (operand : Option (List Byte)) {s : State} (h : s0.Keeps fp s)
    (hm : Sub 0x3FFFFFFFFFF fp) : ∃ s1, execLcDone operand s = .next s1 ∧ s0.Keeps fp s1 := by
  refine ⟨_, rfl, ?_⟩
  repeat' first
    | with_reducible assumption
    | ((with_reducible refine Sub.bit hm ?_); exact rfl)
    | ((with_reducible refine Sub.mono hm ?_); exact rfl)
    | with_reducible apply lcDone_keeps
    | dsimp only

theorem execMgmtReadIdentity_keeps {s : State} (h : s0.Keeps fp s)
    (hm : Sub 0x38000000021 fp) : ∃ s1, execMgmtReadIdentity s = .next s1 ∧ s0.Keeps fp s1 := by
  refine ⟨_, rfl, ?_⟩
  repeat' first
    | with_reducible assumption
    | ((with_reducible refine Sub.bit hm ?_); exact rfl)
    | ((with_reducible refine Sub.mono hm ?_); exact rfl)
    | with_reducible apply mgmtRead_keeps
    | dsimp only

theorem execMgmtReadMode_keeps {s : State} (h : s0.Keeps fp s)
    (hm : Sub 0x38000000021 fp) : ∃ s1, execMgmtReadMode s = .next s1 ∧ s0.Keeps fp s1 := by
  refine ⟨_, rfl, ?_⟩
  repeat' first
    | with_reducible assumption
    | ((with_reducible refine Sub.bit hm ?_); exact rfl)
    | ((with_reducible refine Sub.mono hm ?_); exact rfl)
    | with_reducible apply mgmtRead_keeps
    | dsimp only

theorem execMgmtReadThermal_keeps {s : State} (h : s0.Keeps fp s)
    (hm : Sub 0x38000000021 fp) : ∃ s1, execMgmtReadThermal s = .next s1 ∧ s0.Keeps fp s1 := by
  refine ⟨_, rfl, ?_⟩
  repeat' first
    | with_reducible assumption
    | ((with_reducible refine Sub.bit hm ?_); exact rfl)
    | ((with_reducible refine Sub.mono hm ?_); exact rfl)
    | with_reducible apply mgmtRead_keeps
    | dsimp only

theorem execMgmtReadResetCause_keeps {s : State} (h : s0.Keeps fp s)
    (hm : Sub 0x38000000021 fp) : ∃ s1, execMgmtReadResetCause s = .next s1 ∧ s0.Keeps fp s1 := by
  refine ⟨_, rfl, ?_⟩
  repeat' first
    | with_reducible assumption
    | ((with_reducible refine Sub.bit hm ?_); exact rfl)
    | ((with_reducible refine Sub.mono hm ?_); exact rfl)
    | with_reducible apply mgmtRead_keeps
    | dsimp only

theorem execMgmtReadBoot_keeps {s : State} (h : s0.Keeps fp s)
    (hm : Sub 0x38000000021 fp) : ∃ s1, execMgmtReadBoot s = .next s1 ∧ s0.Keeps fp s1 := by
  refine ⟨_, rfl, ?_⟩
  repeat' first
    | with_reducible assumption
    | ((with_reducible refine Sub.bit hm ?_); exact rfl)
    | ((with_reducible refine Sub.mono hm ?_); exact rfl)
    | with_reducible apply mgmtRead_keeps
    | dsimp only

theorem execWarmReset_keeps (value : Byte) {s : State} (h : s0.Keeps fp s)
    (hm : Sub 0x38000000021 fp) : ∃ s1, execWarmReset value s = .next s1 ∧ s0.Keeps fp s1 := by
  refine ⟨_, rfl, ?_⟩
  repeat' first
    | with_reducible assumption
    | ((with_reducible refine Sub.bit hm ?_); exact rfl)
    | ((with_reducible refine Sub.mono hm ?_); exact rfl)
    | with_reducible apply mgmtReset_keeps
    | dsimp only

theorem execConfigurationRequest_keeps (q : ConfigReq) {s : State} (h : s0.Keeps fp s)
    (hm : Sub 0x38001A0042F fp) : ∃ s1, execConfigurationRequest q s = .next s1 ∧ s0.Keeps fp s1 := by
  refine ⟨_, rfl, ?_⟩
  repeat' first
    | with_reducible assumption
    | ((with_reducible refine Sub.bit hm ?_); exact rfl)
    | ((with_reducible refine Sub.mono hm ?_); exact rfl)
    | with_reducible apply configRequest_keeps
    | dsimp only

theorem execPerstNRelease_keeps {s : State} (h : s0.Keeps fp s)
    (hm : Sub 0x200000 fp) : ∃ s1, execPerstNRelease s = .next s1 ∧ s0.Keeps fp s1 := by
  refine ⟨_, rfl, ?_⟩
  repeat' first
    | with_reducible assumption
    | ((with_reducible refine Sub.bit hm ?_); exact rfl)
    | ((with_reducible refine Sub.mono hm ?_); exact rfl)
    | with_reducible apply perstRelease_keeps
    | dsimp only

theorem execPoweredHour_keeps {s : State} (h : s0.Keeps fp s)
    (hm : Sub 0x20 fp) : ∃ s1, execPoweredHour s = .next s1 ∧ s0.Keeps fp s1 := by
  refine ⟨_, rfl, ?_⟩
  repeat' first
    | with_reducible assumption
    | ((with_reducible refine Sub.bit hm ?_); exact rfl)
    | ((with_reducible refine Sub.mono hm ?_); exact rfl)
    | with_reducible apply State.wr_keeps
    | dsimp only

theorem execBistGo_keeps {s : State} (h : s0.Keeps fp s)
    (hm : Sub 0x3000180004C fp) : ∃ s1, execBistGo s = .next s1 ∧ s0.Keeps fp s1 := by
  refine ⟨_, rfl, ?_⟩
  repeat' first
    | with_reducible assumption
    | ((with_reducible refine Sub.bit hm ?_); exact rfl)
    | ((with_reducible refine Sub.mono hm ?_); exact rfl)
    | with_reducible apply bistGo_keeps
    | dsimp only

theorem execBistStop_keeps {s : State} (h : s0.Keeps fp s)
    (hm : Sub 0x3000180004C fp) : ∃ s1, execBistStop s = .next s1 ∧ s0.Keeps fp s1 := by
  refine ⟨_, rfl, ?_⟩
  repeat' first
    | with_reducible assumption
    | ((with_reducible refine Sub.bit hm ?_); exact rfl)
    | ((with_reducible refine Sub.mono hm ?_); exact rfl)
    | with_reducible apply bistStop_keeps
    | dsimp only

theorem execBistProgFetched_keeps (prog : Option (List Byte)) {s : State} (h : s0.Keeps fp s)
    (hm : Sub 0x3000380004D fp) : ∃ s1, execBistProgFetched prog s = .next s1 ∧ s0.Keeps fp s1 := by
  refine ⟨_, rfl, ?_⟩
  repeat' first
    | with_reducible assumption
    | ((with_reducible refine Sub.bit hm ?_); exact rfl)
    | ((with_reducible refine Sub.mono hm ?_); exact rfl)
    | with_reducible apply bistFetched_keeps
    | dsimp only

theorem execBistSliceBegin_keeps {s : State} (h : s0.Keeps fp s)
    (hm : Sub 0x3000180004C fp) : ∃ s1, execBistSliceBegin s = .next s1 ∧ s0.Keeps fp s1 := by
  refine ⟨_, rfl, ?_⟩
  repeat' first
    | with_reducible assumption
    | ((with_reducible refine Sub.bit hm ?_); exact rfl)
    | ((with_reducible refine Sub.mono hm ?_); exact rfl)
    | with_reducible apply sliceBegin_keeps
    | dsimp only

theorem execBistSliceEnd_keeps (r : SliceEnd) (waited : Bool) (restoreHit : Bool) {s : State} (h : s0.Keeps fp s)
    (hm : Sub 0x3000380004C fp) : ∃ s1, execBistSliceEnd r waited restoreHit s = .next s1 ∧ s0.Keeps fp s1 := by
  refine ⟨_, rfl, ?_⟩
  repeat' first
    | with_reducible assumption
    | ((with_reducible refine Sub.bit hm ?_); exact rfl)
    | ((with_reducible refine Sub.mono hm ?_); exact rfl)
    | with_reducible apply sliceEnd_keeps
    | dsimp only

theorem execBistPauseExpiry_keeps {s : State} (h : s0.Keeps fp s)
    (hm : Sub 0x10000000000 fp) : ∃ s1, execBistPauseExpiry s = .next s1 ∧ s0.Keeps fp s1 := by
  refine ⟨_, rfl, ?_⟩
  repeat' first
    | with_reducible assumption
    | ((with_reducible refine Sub.bit hm ?_); exact rfl)
    | ((with_reducible refine Sub.mono hm ?_); exact rfl)
    | with_reducible apply pauseExpiry_keeps
    | dsimp only

theorem execBistRepairSoft_keeps {s : State} (h : s0.Keeps fp s)
    (hm : Sub 0x10000000040 fp) : ∃ s1, execBistRepairSoft s = .next s1 ∧ s0.Keeps fp s1 := by
  refine ⟨_, rfl, ?_⟩
  repeat' first
    | with_reducible assumption
    | ((with_reducible refine Sub.bit hm ?_); exact rfl)
    | ((with_reducible refine Sub.mono hm ?_); exact rfl)
    | with_reducible apply bistRepair_keeps
    | dsimp only

theorem execBistRepairFuse_keeps {s : State} (h : s0.Keeps fp s)
    (hm : Sub 0x10000000040 fp) : ∃ s1, execBistRepairFuse s = .next s1 ∧ s0.Keeps fp s1 := by
  refine ⟨_, rfl, ?_⟩
  repeat' first
    | with_reducible assumption
    | ((with_reducible refine Sub.bit hm ?_); exact rfl)
    | ((with_reducible refine Sub.mono hm ?_); exact rfl)
    | with_reducible apply bistRepair_keeps
    | dsimp only

theorem execRepairDone_keeps {s : State} (h : s0.Keeps fp s)
    (hm : Sub 0x3000180004C fp) : ∃ s1, execRepairDone s = .next s1 ∧ s0.Keeps fp s1 := by
  refine ⟨_, rfl, ?_⟩
  repeat' first
    | with_reducible assumption
    | ((with_reducible refine Sub.bit hm ?_); exact rfl)
    | ((with_reducible refine Sub.mono hm ?_); exact rfl)
    | with_reducible apply repairDone_keeps
    | dsimp only

theorem execTapReset_keeps {s : State} (h : s0.Keeps fp s)
    (hm : Sub 0x38401E0042F fp) : ∃ s1, execTapReset s = .next s1 ∧ s0.Keeps fp s1 := by
  refine ⟨_, rfl, ?_⟩
  repeat' first
    | with_reducible assumption
    | ((with_reducible refine Sub.bit hm ?_); exact rfl)
    | ((with_reducible refine Sub.mono hm ?_); exact rfl)
    | with_reducible apply tapLoad_keeps
    | dsimp only

theorem execExtest_keeps {s : State} (h : s0.Keeps fp s)
    (hm : Sub 0x38401E0042F fp) : ∃ s1, execExtest s = .next s1 ∧ s0.Keeps fp s1 := by
  refine ⟨_, rfl, ?_⟩
  repeat' first
    | with_reducible assumption
    | ((with_reducible refine Sub.bit hm ?_); exact rfl)
    | ((with_reducible refine Sub.mono hm ?_); exact rfl)
    | with_reducible apply tapLoad_keeps
    | dsimp only

theorem execIdcode_keeps {s : State} (h : s0.Keeps fp s)
    (hm : Sub 0x38401E0042F fp) : ∃ s1, execIdcode s = .next s1 ∧ s0.Keeps fp s1 := by
  refine ⟨_, rfl, ?_⟩
  repeat' first
    | with_reducible assumption
    | ((with_reducible refine Sub.bit hm ?_); exact rfl)
    | ((with_reducible refine Sub.mono hm ?_); exact rfl)
    | with_reducible apply tapLoad_keeps
    | dsimp only

theorem execSamplePreload_keeps {s : State} (h : s0.Keeps fp s)
    (hm : Sub 0x38401E0042F fp) : ∃ s1, execSamplePreload s = .next s1 ∧ s0.Keeps fp s1 := by
  refine ⟨_, rfl, ?_⟩
  repeat' first
    | with_reducible assumption
    | ((with_reducible refine Sub.bit hm ?_); exact rfl)
    | ((with_reducible refine Sub.mono hm ?_); exact rfl)
    | with_reducible apply tapLoad_keeps
    | dsimp only

theorem execExtestPulse_keeps {s : State} (h : s0.Keeps fp s)
    (hm : Sub 0x38401E0042F fp) : ∃ s1, execExtestPulse s = .next s1 ∧ s0.Keeps fp s1 := by
  refine ⟨_, rfl, ?_⟩
  repeat' first
    | with_reducible assumption
    | ((with_reducible refine Sub.bit hm ?_); exact rfl)
    | ((with_reducible refine Sub.mono hm ?_); exact rfl)
    | with_reducible apply tapLoad_keeps
    | dsimp only

theorem execExtestTrain_keeps {s : State} (h : s0.Keeps fp s)
    (hm : Sub 0x38401E0042F fp) : ∃ s1, execExtestTrain s = .next s1 ∧ s0.Keeps fp s1 := by
  refine ⟨_, rfl, ?_⟩
  repeat' first
    | with_reducible assumption
    | ((with_reducible refine Sub.bit hm ?_); exact rfl)
    | ((with_reducible refine Sub.mono hm ?_); exact rfl)
    | with_reducible apply tapLoad_keeps
    | dsimp only

theorem execClamp_keeps {s : State} (h : s0.Keeps fp s)
    (hm : Sub 0x38401E0042F fp) : ∃ s1, execClamp s = .next s1 ∧ s0.Keeps fp s1 := by
  refine ⟨_, rfl, ?_⟩
  repeat' first
    | with_reducible assumption
    | ((with_reducible refine Sub.bit hm ?_); exact rfl)
    | ((with_reducible refine Sub.mono hm ?_); exact rfl)
    | with_reducible apply tapLoad_keeps
    | dsimp only

theorem execHighz_keeps {s : State} (h : s0.Keeps fp s)
    (hm : Sub 0x38401E0042F fp) : ∃ s1, execHighz s = .next s1 ∧ s0.Keeps fp s1 := by
  refine ⟨_, rfl, ?_⟩
  repeat' first
    | with_reducible assumption
    | ((with_reducible refine Sub.bit hm ?_); exact rfl)
    | ((with_reducible refine Sub.mono hm ?_); exact rfl)
    | with_reducible apply tapLoad_keeps
    | dsimp only

theorem execDbgHalt_keeps {s : State} (h : s0.Keeps fp s)
    (hm : Sub 0x38409E0042F fp) : ∃ s1, execDbgHalt s = .next s1 ∧ s0.Keeps fp s1 := by
  refine ⟨_, rfl, ?_⟩
  repeat' first
    | with_reducible assumption
    | ((with_reducible refine Sub.bit hm ?_); exact rfl)
    | ((with_reducible refine Sub.mono hm ?_); exact rfl)
    | ((with_reducible refine .inl (Sub.bit hm ?_)); exact rfl)
    | with_reducible exact .inr rfl
    | with_reducible apply bit_ite
    | with_reducible apply keeps_ite
    | with_reducible apply State.haltAll_keeps
    | with_reducible apply tapLoad_keeps
    | with_reducible apply tapBypass_keeps
    | dsimp only
    | split
    | with_reducible apply keeps_fields
    | with_reducible apply keeps_store

theorem execDbgResume_keeps {s : State} (h : s0.Keeps fp s)
    (hm : Sub 0x38409E0042F fp) : ∃ s1, execDbgResume s = .next s1 ∧ s0.Keeps fp s1 := by
  refine ⟨_, rfl, ?_⟩
  repeat' first
    | with_reducible assumption
    | ((with_reducible refine Sub.bit hm ?_); exact rfl)
    | ((with_reducible refine Sub.mono hm ?_); exact rfl)
    | with_reducible apply bit_ite
    | with_reducible apply keeps_ite
    | with_reducible apply State.haltEnd_keeps
    | with_reducible apply tapLoad_keeps
    | with_reducible apply tapBypass_keeps
    | dsimp only
    | split

theorem execWarm_keeps {s : State} (h : s0.Keeps fp s)
    (hm : Sub 0x38401E0042F fp) : ∃ s1, execWarm s = .next s1 ∧ s0.Keeps fp s1 := by
  refine ⟨_, rfl, ?_⟩
  repeat' first
    | with_reducible assumption
    | ((with_reducible refine Sub.bit hm ?_); exact rfl)
    | ((with_reducible refine Sub.mono hm ?_); exact rfl)
    | with_reducible apply bit_ite
    | with_reducible apply keeps_ite
    | with_reducible apply State.warmTrigger_keeps
    | with_reducible apply tapLoad_keeps
    | with_reducible apply tapBypass_keeps
    | dsimp only
    | split

theorem execLcManufacture_keeps {s : State} (h : s0.Keeps fp s)
    (hm : Sub 0x38401E0846F fp) : ∃ s1, execLcManufacture s = .next s1 ∧ s0.Keeps fp s1 := by
  refine ⟨_, rfl, ?_⟩
  repeat' first
    | with_reducible assumption
    | ((with_reducible refine Sub.bit hm ?_); exact rfl)
    | ((with_reducible refine Sub.mono hm ?_); exact rfl)
    | with_reducible apply lcManufacture_keeps
    | dsimp only

theorem execStewardDebugAccess_keeps (k : Fin 15) {s : State} (h : s0.Keeps fp s)
    (hm : Sub 0x38401E0042F fp) : ∃ s1, execStewardDebugAccess k s = .next s1 ∧ s0.Keeps fp s1 := by
  refine ⟨_, rfl, ?_⟩
  repeat' first
    | with_reducible assumption
    | ((with_reducible refine Sub.bit hm ?_); exact rfl)
    | ((with_reducible refine Sub.mono hm ?_); exact rfl)
    | with_reducible apply bit_ite
    | with_reducible apply keeps_ite
    | with_reducible apply tapLoad_keeps
    | with_reducible apply tapBypass_keeps
    | dsimp only
    | split

theorem execBypass_keeps {s : State} (h : s0.Keeps fp s)
    (hm : Sub 0x38401E0042F fp) : ∃ s1, execBypass s = .next s1 ∧ s0.Keeps fp s1 := by
  refine ⟨_, rfl, ?_⟩
  repeat' first
    | with_reducible assumption
    | ((with_reducible refine Sub.bit hm ?_); exact rfl)
    | ((with_reducible refine Sub.mono hm ?_); exact rfl)
    | with_reducible apply tapBypass_keeps
    | dsimp only

theorem execLsw_keeps (c : Fin 20) (o : FmtHigh) {s : State} (h : s0.Keeps fp s)
    (hm : Sub 0x2001DC1000F fp) : ∃ s1, execLsw c o s = .next s1 ∧ s0.Keeps fp s1 := by
  refine ⟨_, rfl, ?_⟩
  repeat' first
    | with_reducible assumption
    | ((with_reducible refine Sub.bit hm ?_); exact rfl)
    | ((with_reducible refine Sub.mono hm ?_); exact rfl)
    | with_reducible apply lswOp_keeps
    | dsimp only

theorem execWaitl_keeps (c : Fin 20) (o : FmtSpec) {s : State} (h : s0.Keeps fp s)
    (hm : Sub 0x2000DC1000F fp) : ∃ s1, execWaitl c o s = .next s1 ∧ s0.Keeps fp s1 := by
  refine ⟨_, rfl, ?_⟩
  repeat' first
    | with_reducible assumption
    | ((with_reducible refine Sub.bit hm ?_); exact rfl)
    | ((with_reducible refine Sub.mono hm ?_); exact rfl)
    | with_reducible apply waitlOp_keeps
    | dsimp only

theorem execWaitlEnd_keeps (c : Fin 20) {s : State} (h : s0.Keeps fp s)
    (hm : Sub 0x20009C0000E fp) : ∃ s1, execWaitlEnd c s = .next s1 ∧ s0.Keeps fp s1 := by
  refine ⟨_, rfl, ?_⟩
  repeat' first
    | with_reducible assumption
    | ((with_reducible refine Sub.bit hm ?_); exact rfl)
    | ((with_reducible refine Sub.mono hm ?_); exact rfl)
    | with_reducible apply waitlEnd_keeps
    | dsimp only

theorem execLpRun_keeps (n : Fin 16) {s : State} (h : s0.Keeps fp s)
    (hm : Sub 0x2001DC1080F fp) : ∃ s1, execLpRun n s = .next s1 ∧ s0.Keeps fp s1 := by
  refine ⟨_, rfl, ?_⟩
  repeat' first
    | with_reducible assumption
    | ((with_reducible refine Sub.bit hm ?_); exact rfl)
    | ((with_reducible refine Sub.mono hm ?_); exact rfl)
    | with_reducible apply lpCtrlWrite_keeps
    | dsimp only

theorem execLpReset_keeps (n : Fin 16) {s : State} (h : s0.Keeps fp s)
    (hm : Sub 0x2001DC1080F fp) : ∃ s1, execLpReset n s = .next s1 ∧ s0.Keeps fp s1 := by
  refine ⟨_, rfl, ?_⟩
  repeat' first
    | with_reducible assumption
    | ((with_reducible refine Sub.bit hm ?_); exact rfl)
    | ((with_reducible refine Sub.mono hm ?_); exact rfl)
    | with_reducible apply lpCtrlWrite_keeps
    | dsimp only

theorem execLpHalt_keeps (n : Fin 16) {s : State} (h : s0.Keeps fp s)
    (hm : Sub 0x2001DC1080F fp) : ∃ s1, execLpHalt n s = .next s1 ∧ s0.Keeps fp s1 := by
  refine ⟨_, rfl, ?_⟩
  repeat' first
    | with_reducible assumption
    | ((with_reducible refine Sub.bit hm ?_); exact rfl)
    | ((with_reducible refine Sub.mono hm ?_); exact rfl)
    | with_reducible apply lpCtrlWrite_keeps
    | dsimp only

theorem execLpResume_keeps (n : Fin 16) {s : State} (h : s0.Keeps fp s)
    (hm : Sub 0x2001DC1080F fp) : ∃ s1, execLpResume n s = .next s1 ∧ s0.Keeps fp s1 := by
  refine ⟨_, rfl, ?_⟩
  repeat' first
    | with_reducible assumption
    | ((with_reducible refine Sub.bit hm ?_); exact rfl)
    | ((with_reducible refine Sub.mono hm ?_); exact rfl)
    | with_reducible apply lpCtrlWrite_keeps
    | dsimp only

theorem execLpStep_keeps (n : Fin 16) (halt : Bool) {s : State} (h : s0.Keeps fp s)
    (hm : Sub 0x2001DC1080F fp) : ∃ s1, execLpStep n halt s = .next s1 ∧ s0.Keeps fp s1 := by
  refine ⟨_, rfl, ?_⟩
  repeat' first
    | with_reducible assumption
    | ((with_reducible refine Sub.bit hm ?_); exact rfl)
    | ((with_reducible refine Sub.mono hm ?_); exact rfl)
    | with_reducible apply lpCtrlWrite_keeps
    | dsimp only

theorem execRingEnable_keeps (ring : RingId) {s : State} (h : s0.Keeps fp s)
    (hm : Sub 0x20001C0000E fp) : ∃ s1, execRingEnable ring s = .next s1 ∧ s0.Keeps fp s1 := by
  refine ⟨_, rfl, ?_⟩
  repeat' first
    | with_reducible assumption
    | ((with_reducible refine Sub.bit hm ?_); exact rfl)
    | ((with_reducible refine Sub.mono hm ?_); exact rfl)
    | with_reducible apply ringEnable_keeps
    | dsimp only

theorem execRingDisable_keeps (ring : RingId) {s : State} (h : s0.Keeps fp s)
    (hm : Sub 0x20001C0000E fp) : ∃ s1, execRingDisable ring s = .next s1 ∧ s0.Keeps fp s1 := by
  refine ⟨_, rfl, ?_⟩
  repeat' first
    | with_reducible assumption
    | ((with_reducible refine Sub.bit hm ?_); exact rfl)
    | ((with_reducible refine Sub.mono hm ?_); exact rfl)
    | with_reducible apply ringEnable_keeps
    | dsimp only

theorem execRegisterWrite_keeps (o : Origin) (addr : BitVec 26) (lo : Word) (hi : Option Word) (whole : Bool) {s : State} (h : s0.Keeps fp s)
    (hm : Sub 0x3FDDFFFFFFF fp) : ∃ s1, execRegisterWrite o addr lo hi whole s = .next s1 ∧ s0.Keeps fp s1 := by
  refine ⟨_, rfl, ?_⟩
  repeat' first
    | with_reducible assumption
    | ((with_reducible refine Sub.bit hm ?_); exact rfl)
    | ((with_reducible refine Sub.mono hm ?_); exact rfl)
    | with_reducible apply registerWrite_keeps
    | dsimp only

theorem execBar0UnsupportedRequest_keeps (addr : BitVec 26) (write : Bool) {s : State} (h : s0.Keeps fp s)
    (hm : Sub 0x20000200001 fp) : ∃ s1, execBar0UnsupportedRequest addr write s = .next s1 ∧ s0.Keeps fp s1 := by
  refine ⟨_, rfl, ?_⟩
  repeat' first
    | with_reducible assumption
    | ((with_reducible refine Sub.bit hm ?_); exact rfl)
    | ((with_reducible refine Sub.mono hm ?_); exact rfl)
    | with_reducible apply bit_ite
    | with_reducible apply keeps_ite
    | with_reducible apply bar0Unsupported_keeps
    | dsimp only
    | split

theorem execPoisonedTlp_keeps (bar2_ : Bool) {s : State} (h : s0.Keeps fp s)
    (hm : Sub 0x200000 fp) : ∃ s1, execPoisonedTlp bar2_ s = .next s1 ∧ s0.Keeps fp s1 := by
  refine ⟨_, rfl, ?_⟩
  repeat' first
    | with_reducible assumption
    | ((with_reducible refine Sub.bit hm ?_); exact rfl)
    | ((with_reducible refine Sub.mono hm ?_); exact rfl)
    | ((with_reducible refine .inl (Sub.bit hm ?_)); exact rfl)
    | with_reducible exact .inr rfl
    | with_reducible apply bit_ite
    | with_reducible apply keeps_ite
    | dsimp only
    | split
    | with_reducible apply keeps_fields
    | with_reducible apply keeps_store

theorem execBar2Write_keeps (at_ : BitVec 36) (data : List (Option Byte)) {s : State} (h : s0.Keeps fp s)
    (hm : Sub 0x2000380800F fp) : ∃ s1, execBar2Write at_ data s = .next s1 ∧ s0.Keeps fp s1 := by
  refine ⟨_, rfl, ?_⟩
  repeat' first
    | with_reducible assumption
    | ((with_reducible refine Sub.bit hm ?_); exact rfl)
    | ((with_reducible refine Sub.mono hm ?_); exact rfl)
    | with_reducible apply bar2Write_keeps
    | dsimp only

theorem execBar2Read_keeps (at_ : BitVec 36) (len : BitVec 13) {s : State} (h : s0.Keeps fp s)
    (hm : Sub 0x20003A0000D fp) : ∃ s1, execBar2Read at_ len s = .next s1 ∧ s0.Keeps fp s1 := by
  refine ⟨_, rfl, ?_⟩
  repeat' first
    | with_reducible assumption
    | ((with_reducible refine Sub.bit hm ?_); exact rfl)
    | ((with_reducible refine Sub.mono hm ?_); exact rfl)
    | with_reducible apply bar2Read_keeps
    | dsimp only

theorem execTbLoRead_keeps (q : ReadReq) {s : State} (h : s0.Keeps fp s)
    (hm : Sub 0x2401D80001D fp) : ∃ s1, execTbLoRead q s = .next s1 ∧ s0.Keeps fp s1 := by
  refine ⟨_, rfl, ?_⟩
  repeat' first
    | with_reducible assumption
    | ((with_reducible refine Sub.bit hm ?_); exact rfl)
    | ((with_reducible refine Sub.mono hm ?_); exact rfl)
    | with_reducible apply registerRead_keeps
    | dsimp only

theorem execCapRead_keeps (k : Fin 32) (q : ReadReq) {s : State} (h : s0.Keeps fp s)
    (hm : Sub 0x2401D80001D fp) : ∃ s1, execCapRead k q s = .next s1 ∧ s0.Keeps fp s1 := by
  refine ⟨_, rfl, ?_⟩
  repeat' first
    | with_reducible assumption
    | ((with_reducible refine Sub.bit hm ?_); exact rfl)
    | ((with_reducible refine Sub.mono hm ?_); exact rfl)
    | with_reducible apply registerRead_keeps
    | dsimp only

theorem execCapLogPop_keeps (k : Fin 32) (q : ReadReq) {s : State} (h : s0.Keeps fp s)
    (hm : Sub 0x2401D80001D fp) : ∃ s1, execCapLogPop k q s = .next s1 ∧ s0.Keeps fp s1 := by
  refine ⟨_, rfl, ?_⟩
  repeat' first
    | with_reducible assumption
    | ((with_reducible refine Sub.bit hm ?_); exact rfl)
    | ((with_reducible refine Sub.mono hm ?_); exact rfl)
    | with_reducible apply registerRead_keeps
    | dsimp only

theorem execBeamFrameLoRead_keeps (n : Fin 16) (q : ReadReq) {s : State} (h : s0.Keeps fp s)
    (hm : Sub 0x2401D80001D fp) : ∃ s1, execBeamFrameLoRead n q s = .next s1 ∧ s0.Keeps fp s1 := by
  refine ⟨_, rfl, ?_⟩
  repeat' first
    | with_reducible assumption
    | ((with_reducible refine Sub.bit hm ?_); exact rfl)
    | ((with_reducible refine Sub.mono hm ?_); exact rfl)
    | with_reducible apply registerRead_keeps
    | dsimp only

theorem execEvtQueuePop_keeps (t : Fin 276) (q : ReadReq) {s : State} (h : s0.Keeps fp s)
    (hm : Sub 0x2401D80001D fp) : ∃ s1, execEvtQueuePop t q s = .next s1 ∧ s0.Keeps fp s1 := by
  refine ⟨_, rfl, ?_⟩
  repeat' first
    | with_reducible assumption
    | ((with_reducible refine Sub.bit hm ?_); exact rfl)
    | ((with_reducible refine Sub.mono hm ?_); exact rfl)
    | with_reducible apply registerRead_keeps
    | dsimp only

theorem execWindowAccessDone_keeps (c : Fin 20) {s : State} (h : s0.Keeps fp s)
    (hm : Sub 0x3FDDFDFFFFF fp) : ∃ s1, execWindowAccessDone c s = .next s1 ∧ s0.Keeps fp s1 := by
  refine ⟨_, rfl, ?_⟩
  repeat' first
    | with_reducible assumption
    | ((with_reducible refine Sub.bit hm ?_); exact rfl)
    | ((with_reducible refine Sub.mono hm ?_); exact rfl)
    | with_reducible apply windowDone_keeps
    | dsimp only

theorem execDmaResponse_keeps (c : Fin 64) (block : Fin 4) (req : Fin 32) (data : Option (List Byte)) {s : State} (h : s0.Keeps fp s)
    (hm : Sub 0x3FDDFDFFFFF fp) : ∃ s1, execDmaResponse c block req data s = .next s1 ∧ s0.Keeps fp s1 := by
  refine ⟨_, rfl, ?_⟩
  repeat' first
    | with_reducible assumption
    | ((with_reducible refine Sub.bit hm ?_); exact rfl)
    | ((with_reducible refine Sub.mono hm ?_); exact rfl)
    | with_reducible apply dmaResponse_keeps
    | dsimp only

theorem execPoll_keeps {s : State} (h : s0.Keeps fp s)
    (hm : Sub 0x38001C0042F fp) : ∃ s1, execPoll s = .next s1 ∧ s0.Keeps fp s1 := by
  refine ⟨_, rfl, ?_⟩
  repeat' first
    | with_reducible assumption
    | ((with_reducible refine Sub.bit hm ?_); exact rfl)
    | ((with_reducible refine Sub.mono hm ?_); exact rfl)
    | with_reducible apply poll_keeps
    | dsimp only

theorem execDoorbellReadComplete_keeps (data : Option (List Byte)) {s : State} (h : s0.Keeps fp s)
    (hm : Sub 0x38001C0042F fp) : ∃ s1, execDoorbellReadComplete data s = .next s1 ∧ s0.Keeps fp s1 := by
  refine ⟨_, rfl, ?_⟩
  repeat' first
    | with_reducible assumption
    | ((with_reducible refine Sub.bit hm ?_); exact rfl)
    | ((with_reducible refine Sub.mono hm ?_); exact rfl)
    | with_reducible apply doorbellRead_keeps
    | dsimp only

theorem execDescriptorFetchComplete_keeps (r : Fin 64) (data : List (List Byte)) (failed : Bool) {s : State} (h : s0.Keeps fp s)
    (hm : Sub 0x20001C0000E fp) : ∃ s1, execDescriptorFetchComplete r data failed s = .next s1 ∧ s0.Keeps fp s1 := by
  refine ⟨_, rfl, ?_⟩
  repeat' first
    | with_reducible assumption
    | ((with_reducible refine Sub.bit hm ?_); exact rfl)
    | ((with_reducible refine Sub.mono hm ?_); exact rfl)
    | with_reducible apply descFetched_keeps
    | dsimp only

theorem execNop_keeps (r : Fin 64) {s : State} (h : s0.Keeps fp s)
    (hm : Sub 0x20001C0000E fp) : ∃ s1, execNop r s = .next s1 ∧ s0.Keeps fp s1 := by
  refine ⟨_, rfl, ?_⟩
  repeat' first
    | with_reducible assumption
    | ((with_reducible refine Sub.bit hm ?_); exact rfl)
    | ((with_reducible refine Sub.mono hm ?_); exact rfl)
    | with_reducible apply nopDesc_keeps
    | dsimp only

theorem execWriteImm_keeps (r : Fin 64) {s : State} (h : s0.Keeps fp s)
    (hm : Sub 0x3FDDFDFFFFF fp) : ∃ s1, execWriteImm r s = .next s1 ∧ s0.Keeps fp s1 := by
  refine ⟨_, rfl, ?_⟩
  repeat' first
    | with_reducible assumption
    | ((with_reducible refine Sub.bit hm ?_); exact rfl)
    | ((with_reducible refine Sub.mono hm ?_); exact rfl)
    | with_reducible apply writeImm_keeps
    | dsimp only

theorem execWriteInd_keeps (r : Fin 64) {s : State} (h : s0.Keeps fp s)
    (hm : Sub 0x20001C0000E fp) : ∃ s1, execWriteInd r s = .next s1 ∧ s0.Keeps fp s1 := by
  refine ⟨_, rfl, ?_⟩
  repeat' first
    | with_reducible assumption
    | ((with_reducible refine Sub.bit hm ?_); exact rfl)
    | ((with_reducible refine Sub.mono hm ?_); exact rfl)
    | with_reducible apply writeIndBegin_keeps
    | dsimp only

theorem execWriteIndChunkRead_keeps (r : Fin 64) (data : List Word) (failedAt : Option Word64) {s : State} (h : s0.Keeps fp s)
    (hm : Sub 0x3FDDFDFFFFF fp) : ∃ s1, execWriteIndChunkRead r data failedAt s = .next s1 ∧ s0.Keeps fp s1 := by
  refine ⟨_, rfl, ?_⟩
  repeat' first
    | with_reducible assumption
    | ((with_reducible refine Sub.bit hm ?_); exact rfl)
    | ((with_reducible refine Sub.mono hm ?_); exact rfl)
    | with_reducible apply chunkRead_keeps
    | dsimp only

theorem execWriteFill_keeps (r : Fin 64) {s : State} (h : s0.Keeps fp s)
    (hm : Sub 0x3FDDFDFFFFF fp) : ∃ s1, execWriteFill r s = .next s1 ∧ s0.Keeps fp s1 := by
  refine ⟨_, rfl, ?_⟩
  repeat' first
    | with_reducible assumption
    | ((with_reducible refine Sub.bit hm ?_); exact rfl)
    | ((with_reducible refine Sub.mono hm ?_); exact rfl)
    | with_reducible apply writeFill_keeps
    | dsimp only

theorem execReadRegs_keeps (r : Fin 64) {s : State} (h : s0.Keeps fp s)
    (hm : Sub 0x2401DC0001F fp) : ∃ s1, execReadRegs r s = .next s1 ∧ s0.Keeps fp s1 := by
  refine ⟨_, rfl, ?_⟩
  repeat' first
    | with_reducible assumption
    | ((with_reducible refine Sub.bit hm ?_); exact rfl)
    | ((with_reducible refine Sub.mono hm ?_); exact rfl)
    | with_reducible apply readRegs_keeps
    | dsimp only

theorem execCommit_keeps (r : Fin 64) (race : Bool) {s : State} (h : s0.Keeps fp s)
    (hm : Sub 0x28555D08C2F fp) : ∃ s1, execCommit r race s = .next s1 ∧ s0.Keeps fp s1 := by
  refine ⟨_, rfl, ?_⟩
  repeat' first
    | with_reducible assumption
    | ((with_reducible refine Sub.bit hm ?_); exact rfl)
    | ((with_reducible refine Sub.mono hm ?_); exact rfl)
    | with_reducible apply commitDesc_keeps
    | dsimp only

theorem execWaitEpoch_keeps (r : Fin 64) {s : State} (h : s0.Keeps fp s)
    (hm : Sub 0x20001C0000E fp) : ∃ s1, execWaitEpoch r s = .next s1 ∧ s0.Keeps fp s1 := by
  refine ⟨_, rfl, ?_⟩
  repeat' first
    | with_reducible assumption
    | ((with_reducible refine Sub.bit hm ?_); exact rfl)
    | ((with_reducible refine Sub.mono hm ?_); exact rfl)
    | with_reducible apply waitEpoch_keeps
    | dsimp only

theorem execWaitLine_keeps (r : Fin 64) {s : State} (h : s0.Keeps fp s)
    (hm : Sub 0x20001C0000E fp) : ∃ s1, execWaitLine r s = .next s1 ∧ s0.Keeps fp s1 := by
  refine ⟨_, rfl, ?_⟩
  repeat' first
    | with_reducible assumption
    | ((with_reducible refine Sub.bit hm ?_); exact rfl)
    | ((with_reducible refine Sub.mono hm ?_); exact rfl)
    | with_reducible apply waitLine_keeps
    | dsimp only

theorem execWaitTimeout_keeps (r : Fin 64) {s : State} (h : s0.Keeps fp s)
    (hm : Sub 0x20001C0000E fp) : ∃ s1, execWaitTimeout r s = .next s1 ∧ s0.Keeps fp s1 := by
  refine ⟨_, rfl, ?_⟩
  repeat' first
    | with_reducible assumption
    | ((with_reducible refine Sub.bit hm ?_); exact rfl)
    | ((with_reducible refine Sub.mono hm ?_); exact rfl)
    | with_reducible apply waitTimeout_keeps
    | dsimp only

theorem execDmaStart_keeps (r : Fin 64) {s : State} (h : s0.Keeps fp s)
    (hm : Sub 0x22003C0808F fp) : ∃ s1, execDmaStart r s = .next s1 ∧ s0.Keeps fp s1 := by
  refine ⟨_, rfl, ?_⟩
  repeat' first
    | with_reducible assumption
    | ((with_reducible refine Sub.bit hm ?_); exact rfl)
    | ((with_reducible refine Sub.mono hm ?_); exact rfl)
    | with_reducible apply dmaStartDesc_keeps
    | dsimp only

theorem execBlit_keeps (r : Fin 64) {s : State} (h : s0.Keeps fp s)
    (hm : Sub 0x21001C0010E fp) : ∃ s1, execBlit r s = .next s1 ∧ s0.Keeps fp s1 := by
  refine ⟨_, rfl, ?_⟩
  repeat' first
    | with_reducible assumption
    | ((with_reducible refine Sub.bit hm ?_); exact rfl)
    | ((with_reducible refine Sub.mono hm ?_); exact rfl)
    | with_reducible apply blitDesc_keeps
    | dsimp only

theorem execHostWrite_keeps (r : Fin 64) {s : State} (h : s0.Keeps fp s)
    (hm : Sub 0x20001C0000E fp) : ∃ s1, execHostWrite r s = .next s1 ∧ s0.Keeps fp s1 := by
  refine ⟨_, rfl, ?_⟩
  repeat' first
    | with_reducible assumption
    | ((with_reducible refine Sub.bit hm ?_); exact rfl)
    | ((with_reducible refine Sub.mono hm ?_); exact rfl)
    | with_reducible apply hostWriteDesc_keeps
    | dsimp only

theorem execCqWaitRecord_keeps (r : Fin 64) {s : State} (h : s0.Keeps fp s)
    (hm : Sub 0x20001C0000E fp) : ∃ s1, execCqWaitRecord r s = .next s1 ∧ s0.Keeps fp s1 := by
  refine ⟨_, rfl, ?_⟩
  repeat' first
    | with_reducible assumption
    | ((with_reducible refine Sub.bit hm ?_); exact rfl)
    | ((with_reducible refine Sub.mono hm ?_); exact rfl)
    | with_reducible apply cqWaitRecord_keeps
    | dsimp only

theorem execHeartbeatTimeout_keeps {s : State} (h : s0.Keeps fp s)
    (hm : Sub 0x3800180042F fp) : ∃ s1, execHeartbeatTimeout s = .next s1 ∧ s0.Keeps fp s1 := by
  refine ⟨_, rfl, ?_⟩
  repeat' first
    | with_reducible assumption
    | ((with_reducible refine Sub.bit hm ?_); exact rfl)
    | ((with_reducible refine Sub.mono hm ?_); exact rfl)
    | with_reducible apply heartbeatTimeout_keeps
    | dsimp only

end Sys2Proof.Machine
end

