-- ==== Sys2Proof/Laws/State.lean ====
section
/-! SUPPORT. One lemma per field per update of the state: an update changes its own field and leaves the others. -/

namespace Sys2Proof.Machine

/-! ### putW -/

@[simp] theorem State.putW_pci (s : State) (a : Nat) (w : Word) : (s.putW a w).pci = s.pci := rfl
@[simp] theorem State.putW_hst (s : State) (a : Nat) (w : Word) : (s.putW a w).hst = s.hst := rfl
@[simp] theorem State.putW_tmr (s : State) (a : Nat) (w : Word) : (s.putW a w).tmr = s.tmr := rfl
@[simp] theorem State.putW_evt (s : State) (a : Nat) (w : Word) : (s.putW a w).evt = s.evt := rfl
@[simp] theorem State.putW_store (s : State) (a : Nat) (w : Word) : (s.putW a w).store = s.store := rfl
@[simp] theorem State.putW_tbl (s : State) (a : Nat) (w : Word) : (s.putW a w).tbl = s.tbl := rfl
@[simp] theorem State.putW_cores (s : State) (a : Nat) (w : Word) : (s.putW a w).cores = s.cores := rfl
@[simp] theorem State.putW_beams (s : State) (a : Nat) (w : Word) : (s.putW a w).beams = s.beams := rfl
@[simp] theorem State.putW_bin (s : State) (a : Nat) (w : Word) : (s.putW a w).bin = s.bin := rfl
@[simp] theorem State.putW_groups (s : State) (a : Nat) (w : Word) : (s.putW a w).groups = s.groups := rfl
@[simp] theorem State.putW_census (s : State) (a : Nat) (w : Word) : (s.putW a w).census = s.census := rfl
@[simp] theorem State.putW_oat (s : State) (a : Nat) (w : Word) : (s.putW a w).oat = s.oat := rfl
@[simp] theorem State.putW_ple (s : State) (a : Nat) (w : Word) : (s.putW a w).ple = s.ple := rfl
@[simp] theorem State.putW_ports (s : State) (a : Nat) (w : Word) : (s.putW a w).ports = s.ports := rfl
@[simp] theorem State.putW_aud (s : State) (a : Nat) (w : Word) : (s.putW a w).aud = s.aud := rfl
@[simp] theorem State.putW_blt (s : State) (a : Nat) (w : Word) : (s.putW a w).blt = s.blt := rfl
@[simp] theorem State.putW_dma (s : State) (a : Nat) (w : Word) : (s.putW a w).dma = s.dma := rfl
@[simp] theorem State.putW_gpio (s : State) (a : Nat) (w : Word) : (s.putW a w).gpio = s.gpio := rfl
@[simp] theorem State.putW_pwr (s : State) (a : Nat) (w : Word) : (s.putW a w).pwr = s.pwr := rfl
@[simp] theorem State.putW_sys (s : State) (a : Nat) (w : Word) : (s.putW a w).sys = s.sys := rfl
@[simp] theorem State.putW_free (s : State) (a : Nat) (w : Word) : (s.putW a w).free = s.free := rfl
@[simp] theorem State.putW_out (s : State) (a : Nat) (w : Word) : (s.putW a w).out = s.out := rfl
@[simp] theorem State.putW_pending (s : State) (a : Nat) (w : Word) : (s.putW a w).pending = s.pending := rfl

/-! ### wr -/

@[simp] theorem State.wr_pci (s : State) (r : RegName) (w : Word) (i j k : Nat) : (s.wr r w i j k).pci = s.pci := rfl
@[simp] theorem State.wr_hst (s : State) (r : RegName) (w : Word) (i j k : Nat) : (s.wr r w i j k).hst = s.hst := rfl
@[simp] theorem State.wr_tmr (s : State) (r : RegName) (w : Word) (i j k : Nat) : (s.wr r w i j k).tmr = s.tmr := rfl
@[simp] theorem State.wr_evt (s : State) (r : RegName) (w : Word) (i j k : Nat) : (s.wr r w i j k).evt = s.evt := rfl
@[simp] theorem State.wr_store (s : State) (r : RegName) (w : Word) (i j k : Nat) : (s.wr r w i j k).store = s.store := rfl
@[simp] theorem State.wr_tbl (s : State) (r : RegName) (w : Word) (i j k : Nat) : (s.wr r w i j k).tbl = s.tbl := rfl
@[simp] theorem State.wr_cores (s : State) (r : RegName) (w : Word) (i j k : Nat) : (s.wr r w i j k).cores = s.cores := rfl
@[simp] theorem State.wr_beams (s : State) (r : RegName) (w : Word) (i j k : Nat) : (s.wr r w i j k).beams = s.beams := rfl
@[simp] theorem State.wr_bin (s : State) (r : RegName) (w : Word) (i j k : Nat) : (s.wr r w i j k).bin = s.bin := rfl
@[simp] theorem State.wr_groups (s : State) (r : RegName) (w : Word) (i j k : Nat) : (s.wr r w i j k).groups = s.groups := rfl
@[simp] theorem State.wr_census (s : State) (r : RegName) (w : Word) (i j k : Nat) : (s.wr r w i j k).census = s.census := rfl
@[simp] theorem State.wr_oat (s : State) (r : RegName) (w : Word) (i j k : Nat) : (s.wr r w i j k).oat = s.oat := rfl
@[simp] theorem State.wr_ple (s : State) (r : RegName) (w : Word) (i j k : Nat) : (s.wr r w i j k).ple = s.ple := rfl
@[simp] theorem State.wr_ports (s : State) (r : RegName) (w : Word) (i j k : Nat) : (s.wr r w i j k).ports = s.ports := rfl
@[simp] theorem State.wr_aud (s : State) (r : RegName) (w : Word) (i j k : Nat) : (s.wr r w i j k).aud = s.aud := rfl
@[simp] theorem State.wr_blt (s : State) (r : RegName) (w : Word) (i j k : Nat) : (s.wr r w i j k).blt = s.blt := rfl
@[simp] theorem State.wr_dma (s : State) (r : RegName) (w : Word) (i j k : Nat) : (s.wr r w i j k).dma = s.dma := rfl
@[simp] theorem State.wr_gpio (s : State) (r : RegName) (w : Word) (i j k : Nat) : (s.wr r w i j k).gpio = s.gpio := rfl
@[simp] theorem State.wr_pwr (s : State) (r : RegName) (w : Word) (i j k : Nat) : (s.wr r w i j k).pwr = s.pwr := rfl
@[simp] theorem State.wr_sys (s : State) (r : RegName) (w : Word) (i j k : Nat) : (s.wr r w i j k).sys = s.sys := rfl
@[simp] theorem State.wr_free (s : State) (r : RegName) (w : Word) (i j k : Nat) : (s.wr r w i j k).free = s.free := rfl
@[simp] theorem State.wr_out (s : State) (r : RegName) (w : Word) (i j k : Nat) : (s.wr r w i j k).out = s.out := rfl
@[simp] theorem State.wr_pending (s : State) (r : RegName) (w : Word) (i j k : Nat) : (s.wr r w i j k).pending = s.pending := rfl

/-! ### wf -/

@[simp] theorem State.wf_pci (s : State) (r : RegName) (hi lo v i j k : Nat) : (s.wf r hi lo v i j k).pci = s.pci := rfl
@[simp] theorem State.wf_hst (s : State) (r : RegName) (hi lo v i j k : Nat) : (s.wf r hi lo v i j k).hst = s.hst := rfl
@[simp] theorem State.wf_tmr (s : State) (r : RegName) (hi lo v i j k : Nat) : (s.wf r hi lo v i j k).tmr = s.tmr := rfl
@[simp] theorem State.wf_evt (s : State) (r : RegName) (hi lo v i j k : Nat) : (s.wf r hi lo v i j k).evt = s.evt := rfl
@[simp] theorem State.wf_store (s : State) (r : RegName) (hi lo v i j k : Nat) : (s.wf r hi lo v i j k).store = s.store := rfl
@[simp] theorem State.wf_tbl (s : State) (r : RegName) (hi lo v i j k : Nat) : (s.wf r hi lo v i j k).tbl = s.tbl := rfl
@[simp] theorem State.wf_cores (s : State) (r : RegName) (hi lo v i j k : Nat) : (s.wf r hi lo v i j k).cores = s.cores := rfl
@[simp] theorem State.wf_beams (s : State) (r : RegName) (hi lo v i j k : Nat) : (s.wf r hi lo v i j k).beams = s.beams := rfl
@[simp] theorem State.wf_bin (s : State) (r : RegName) (hi lo v i j k : Nat) : (s.wf r hi lo v i j k).bin = s.bin := rfl
@[simp] theorem State.wf_groups (s : State) (r : RegName) (hi lo v i j k : Nat) : (s.wf r hi lo v i j k).groups = s.groups := rfl
@[simp] theorem State.wf_census (s : State) (r : RegName) (hi lo v i j k : Nat) : (s.wf r hi lo v i j k).census = s.census := rfl
@[simp] theorem State.wf_oat (s : State) (r : RegName) (hi lo v i j k : Nat) : (s.wf r hi lo v i j k).oat = s.oat := rfl
@[simp] theorem State.wf_ple (s : State) (r : RegName) (hi lo v i j k : Nat) : (s.wf r hi lo v i j k).ple = s.ple := rfl
@[simp] theorem State.wf_ports (s : State) (r : RegName) (hi lo v i j k : Nat) : (s.wf r hi lo v i j k).ports = s.ports := rfl
@[simp] theorem State.wf_aud (s : State) (r : RegName) (hi lo v i j k : Nat) : (s.wf r hi lo v i j k).aud = s.aud := rfl
@[simp] theorem State.wf_blt (s : State) (r : RegName) (hi lo v i j k : Nat) : (s.wf r hi lo v i j k).blt = s.blt := rfl
@[simp] theorem State.wf_dma (s : State) (r : RegName) (hi lo v i j k : Nat) : (s.wf r hi lo v i j k).dma = s.dma := rfl
@[simp] theorem State.wf_gpio (s : State) (r : RegName) (hi lo v i j k : Nat) : (s.wf r hi lo v i j k).gpio = s.gpio := rfl
@[simp] theorem State.wf_pwr (s : State) (r : RegName) (hi lo v i j k : Nat) : (s.wf r hi lo v i j k).pwr = s.pwr := rfl
@[simp] theorem State.wf_sys (s : State) (r : RegName) (hi lo v i j k : Nat) : (s.wf r hi lo v i j k).sys = s.sys := rfl
@[simp] theorem State.wf_free (s : State) (r : RegName) (hi lo v i j k : Nat) : (s.wf r hi lo v i j k).free = s.free := rfl
@[simp] theorem State.wf_out (s : State) (r : RegName) (hi lo v i j k : Nat) : (s.wf r hi lo v i j k).out = s.out := rfl
@[simp] theorem State.wf_pending (s : State) (r : RegName) (hi lo v i j k : Nat) : (s.wf r hi lo v i j k).pending = s.pending := rfl

/-! ### wb -/

@[simp] theorem State.wb_pci (s : State) (r : RegName) (b : Nat) (v : Bool) (i j k : Nat) : (s.wb r b v i j k).pci = s.pci := rfl
@[simp] theorem State.wb_hst (s : State) (r : RegName) (b : Nat) (v : Bool) (i j k : Nat) : (s.wb r b v i j k).hst = s.hst := rfl
@[simp] theorem State.wb_tmr (s : State) (r : RegName) (b : Nat) (v : Bool) (i j k : Nat) : (s.wb r b v i j k).tmr = s.tmr := rfl
@[simp] theorem State.wb_evt (s : State) (r : RegName) (b : Nat) (v : Bool) (i j k : Nat) : (s.wb r b v i j k).evt = s.evt := rfl
@[simp] theorem State.wb_store (s : State) (r : RegName) (b : Nat) (v : Bool) (i j k : Nat) : (s.wb r b v i j k).store = s.store := rfl
@[simp] theorem State.wb_tbl (s : State) (r : RegName) (b : Nat) (v : Bool) (i j k : Nat) : (s.wb r b v i j k).tbl = s.tbl := rfl
@[simp] theorem State.wb_cores (s : State) (r : RegName) (b : Nat) (v : Bool) (i j k : Nat) : (s.wb r b v i j k).cores = s.cores := rfl
@[simp] theorem State.wb_beams (s : State) (r : RegName) (b : Nat) (v : Bool) (i j k : Nat) : (s.wb r b v i j k).beams = s.beams := rfl
@[simp] theorem State.wb_bin (s : State) (r : RegName) (b : Nat) (v : Bool) (i j k : Nat) : (s.wb r b v i j k).bin = s.bin := rfl
@[simp] theorem State.wb_groups (s : State) (r : RegName) (b : Nat) (v : Bool) (i j k : Nat) : (s.wb r b v i j k).groups = s.groups := rfl
@[simp] theorem State.wb_census (s : State) (r : RegName) (b : Nat) (v : Bool) (i j k : Nat) : (s.wb r b v i j k).census = s.census := rfl
@[simp] theorem State.wb_oat (s : State) (r : RegName) (b : Nat) (v : Bool) (i j k : Nat) : (s.wb r b v i j k).oat = s.oat := rfl
@[simp] theorem State.wb_ple (s : State) (r : RegName) (b : Nat) (v : Bool) (i j k : Nat) : (s.wb r b v i j k).ple = s.ple := rfl
@[simp] theorem State.wb_ports (s : State) (r : RegName) (b : Nat) (v : Bool) (i j k : Nat) : (s.wb r b v i j k).ports = s.ports := rfl
@[simp] theorem State.wb_aud (s : State) (r : RegName) (b : Nat) (v : Bool) (i j k : Nat) : (s.wb r b v i j k).aud = s.aud := rfl
@[simp] theorem State.wb_blt (s : State) (r : RegName) (b : Nat) (v : Bool) (i j k : Nat) : (s.wb r b v i j k).blt = s.blt := rfl
@[simp] theorem State.wb_dma (s : State) (r : RegName) (b : Nat) (v : Bool) (i j k : Nat) : (s.wb r b v i j k).dma = s.dma := rfl
@[simp] theorem State.wb_gpio (s : State) (r : RegName) (b : Nat) (v : Bool) (i j k : Nat) : (s.wb r b v i j k).gpio = s.gpio := rfl
@[simp] theorem State.wb_pwr (s : State) (r : RegName) (b : Nat) (v : Bool) (i j k : Nat) : (s.wb r b v i j k).pwr = s.pwr := rfl
@[simp] theorem State.wb_sys (s : State) (r : RegName) (b : Nat) (v : Bool) (i j k : Nat) : (s.wb r b v i j k).sys = s.sys := rfl
@[simp] theorem State.wb_free (s : State) (r : RegName) (b : Nat) (v : Bool) (i j k : Nat) : (s.wb r b v i j k).free = s.free := rfl
@[simp] theorem State.wb_out (s : State) (r : RegName) (b : Nat) (v : Bool) (i j k : Nat) : (s.wb r b v i j k).out = s.out := rfl
@[simp] theorem State.wb_pending (s : State) (r : RegName) (b : Nat) (v : Bool) (i j k : Nat) : (s.wb r b v i j k).pending = s.pending := rfl

/-! ### bump -/

@[simp] theorem State.bump_pci (s : State) (r : RegName) (i j k n : Nat) : (s.bump r i j k n).pci = s.pci := by unfold State.bump; split <;> rfl
@[simp] theorem State.bump_hst (s : State) (r : RegName) (i j k n : Nat) : (s.bump r i j k n).hst = s.hst := by unfold State.bump; split <;> rfl
@[simp] theorem State.bump_tmr (s : State) (r : RegName) (i j k n : Nat) : (s.bump r i j k n).tmr = s.tmr := by unfold State.bump; split <;> rfl
@[simp] theorem State.bump_evt (s : State) (r : RegName) (i j k n : Nat) : (s.bump r i j k n).evt = s.evt := by unfold State.bump; split <;> rfl
@[simp] theorem State.bump_store (s : State) (r : RegName) (i j k n : Nat) : (s.bump r i j k n).store = s.store := by unfold State.bump; split <;> rfl
@[simp] theorem State.bump_tbl (s : State) (r : RegName) (i j k n : Nat) : (s.bump r i j k n).tbl = s.tbl := by unfold State.bump; split <;> rfl
@[simp] theorem State.bump_cores (s : State) (r : RegName) (i j k n : Nat) : (s.bump r i j k n).cores = s.cores := by unfold State.bump; split <;> rfl
@[simp] theorem State.bump_beams (s : State) (r : RegName) (i j k n : Nat) : (s.bump r i j k n).beams = s.beams := by unfold State.bump; split <;> rfl
@[simp] theorem State.bump_bin (s : State) (r : RegName) (i j k n : Nat) : (s.bump r i j k n).bin = s.bin := by unfold State.bump; split <;> rfl
@[simp] theorem State.bump_groups (s : State) (r : RegName) (i j k n : Nat) : (s.bump r i j k n).groups = s.groups := by unfold State.bump; split <;> rfl
@[simp] theorem State.bump_census (s : State) (r : RegName) (i j k n : Nat) : (s.bump r i j k n).census = s.census := by unfold State.bump; split <;> rfl
@[simp] theorem State.bump_oat (s : State) (r : RegName) (i j k n : Nat) : (s.bump r i j k n).oat = s.oat := by unfold State.bump; split <;> rfl
@[simp] theorem State.bump_ple (s : State) (r : RegName) (i j k n : Nat) : (s.bump r i j k n).ple = s.ple := by unfold State.bump; split <;> rfl
@[simp] theorem State.bump_ports (s : State) (r : RegName) (i j k n : Nat) : (s.bump r i j k n).ports = s.ports := by unfold State.bump; split <;> rfl
@[simp] theorem State.bump_aud (s : State) (r : RegName) (i j k n : Nat) : (s.bump r i j k n).aud = s.aud := by unfold State.bump; split <;> rfl
@[simp] theorem State.bump_blt (s : State) (r : RegName) (i j k n : Nat) : (s.bump r i j k n).blt = s.blt := by unfold State.bump; split <;> rfl
@[simp] theorem State.bump_dma (s : State) (r : RegName) (i j k n : Nat) : (s.bump r i j k n).dma = s.dma := by unfold State.bump; split <;> rfl
@[simp] theorem State.bump_gpio (s : State) (r : RegName) (i j k n : Nat) : (s.bump r i j k n).gpio = s.gpio := by unfold State.bump; split <;> rfl
@[simp] theorem State.bump_pwr (s : State) (r : RegName) (i j k n : Nat) : (s.bump r i j k n).pwr = s.pwr := by unfold State.bump; split <;> rfl
@[simp] theorem State.bump_sys (s : State) (r : RegName) (i j k n : Nat) : (s.bump r i j k n).sys = s.sys := by unfold State.bump; split <;> rfl
@[simp] theorem State.bump_free (s : State) (r : RegName) (i j k n : Nat) : (s.bump r i j k n).free = s.free := by unfold State.bump; split <;> rfl
@[simp] theorem State.bump_out (s : State) (r : RegName) (i j k n : Nat) : (s.bump r i j k n).out = s.out := by unfold State.bump; split <;> rfl
@[simp] theorem State.bump_pending (s : State) (r : RegName) (i j k n : Nat) : (s.bump r i j k n).pending = s.pending := by unfold State.bump; split <;> rfl

/-! ### reject -/

@[simp] theorem State.reject_pci (s : State) (a : Nat) : (s.reject a).pci = s.pci := State.wr_pci s _ _ _ _ _
@[simp] theorem State.reject_hst (s : State) (a : Nat) : (s.reject a).hst = s.hst := State.wr_hst s _ _ _ _ _
@[simp] theorem State.reject_tmr (s : State) (a : Nat) : (s.reject a).tmr = s.tmr := State.wr_tmr s _ _ _ _ _
@[simp] theorem State.reject_evt (s : State) (a : Nat) : (s.reject a).evt = s.evt := State.wr_evt s _ _ _ _ _
@[simp] theorem State.reject_store (s : State) (a : Nat) : (s.reject a).store = s.store := State.wr_store s _ _ _ _ _
@[simp] theorem State.reject_tbl (s : State) (a : Nat) : (s.reject a).tbl = s.tbl := State.wr_tbl s _ _ _ _ _
@[simp] theorem State.reject_cores (s : State) (a : Nat) : (s.reject a).cores = s.cores := State.wr_cores s _ _ _ _ _
@[simp] theorem State.reject_beams (s : State) (a : Nat) : (s.reject a).beams = s.beams := State.wr_beams s _ _ _ _ _
@[simp] theorem State.reject_bin (s : State) (a : Nat) : (s.reject a).bin = s.bin := State.wr_bin s _ _ _ _ _
@[simp] theorem State.reject_groups (s : State) (a : Nat) : (s.reject a).groups = s.groups := State.wr_groups s _ _ _ _ _
@[simp] theorem State.reject_census (s : State) (a : Nat) : (s.reject a).census = s.census := State.wr_census s _ _ _ _ _
@[simp] theorem State.reject_oat (s : State) (a : Nat) : (s.reject a).oat = s.oat := State.wr_oat s _ _ _ _ _
@[simp] theorem State.reject_ple (s : State) (a : Nat) : (s.reject a).ple = s.ple := State.wr_ple s _ _ _ _ _
@[simp] theorem State.reject_ports (s : State) (a : Nat) : (s.reject a).ports = s.ports := State.wr_ports s _ _ _ _ _
@[simp] theorem State.reject_aud (s : State) (a : Nat) : (s.reject a).aud = s.aud := State.wr_aud s _ _ _ _ _
@[simp] theorem State.reject_blt (s : State) (a : Nat) : (s.reject a).blt = s.blt := State.wr_blt s _ _ _ _ _
@[simp] theorem State.reject_dma (s : State) (a : Nat) : (s.reject a).dma = s.dma := State.wr_dma s _ _ _ _ _
@[simp] theorem State.reject_gpio (s : State) (a : Nat) : (s.reject a).gpio = s.gpio := State.wr_gpio s _ _ _ _ _
@[simp] theorem State.reject_pwr (s : State) (a : Nat) : (s.reject a).pwr = s.pwr := State.wr_pwr s _ _ _ _ _
@[simp] theorem State.reject_sys (s : State) (a : Nat) : (s.reject a).sys = s.sys := State.wr_sys s _ _ _ _ _
@[simp] theorem State.reject_free (s : State) (a : Nat) : (s.reject a).free = s.free := State.wr_free s _ _ _ _ _
@[simp] theorem State.reject_out (s : State) (a : Nat) : (s.reject a).out = s.out := State.wr_out s _ _ _ _ _
@[simp] theorem State.reject_pending (s : State) (a : Nat) : (s.reject a).pending = s.pending := State.wr_pending s _ _ _ _ _

/-! ### fenceDrop -/

@[simp] theorem State.fenceDrop_pci (s : State) (d : Nat) : (s.fenceDrop d).pci = s.pci := by unfold State.fenceDrop State.bump; split <;> rfl
@[simp] theorem State.fenceDrop_hst (s : State) (d : Nat) : (s.fenceDrop d).hst = s.hst := by unfold State.fenceDrop State.bump; split <;> rfl
@[simp] theorem State.fenceDrop_tmr (s : State) (d : Nat) : (s.fenceDrop d).tmr = s.tmr := by unfold State.fenceDrop State.bump; split <;> rfl
@[simp] theorem State.fenceDrop_evt (s : State) (d : Nat) : (s.fenceDrop d).evt = s.evt := by unfold State.fenceDrop State.bump; split <;> rfl
@[simp] theorem State.fenceDrop_store (s : State) (d : Nat) : (s.fenceDrop d).store = s.store := by unfold State.fenceDrop State.bump; split <;> rfl
@[simp] theorem State.fenceDrop_tbl (s : State) (d : Nat) : (s.fenceDrop d).tbl = s.tbl := by unfold State.fenceDrop State.bump; split <;> rfl
@[simp] theorem State.fenceDrop_cores (s : State) (d : Nat) : (s.fenceDrop d).cores = s.cores := by unfold State.fenceDrop State.bump; split <;> rfl
@[simp] theorem State.fenceDrop_beams (s : State) (d : Nat) : (s.fenceDrop d).beams = s.beams := by unfold State.fenceDrop State.bump; split <;> rfl
@[simp] theorem State.fenceDrop_bin (s : State) (d : Nat) : (s.fenceDrop d).bin = s.bin := by unfold State.fenceDrop State.bump; split <;> rfl
@[simp] theorem State.fenceDrop_groups (s : State) (d : Nat) : (s.fenceDrop d).groups = s.groups := by unfold State.fenceDrop State.bump; split <;> rfl
@[simp] theorem State.fenceDrop_census (s : State) (d : Nat) : (s.fenceDrop d).census = s.census := by unfold State.fenceDrop State.bump; split <;> rfl
@[simp] theorem State.fenceDrop_oat (s : State) (d : Nat) : (s.fenceDrop d).oat = s.oat := by unfold State.fenceDrop State.bump; split <;> rfl
@[simp] theorem State.fenceDrop_ple (s : State) (d : Nat) : (s.fenceDrop d).ple = s.ple := by unfold State.fenceDrop State.bump; split <;> rfl
@[simp] theorem State.fenceDrop_ports (s : State) (d : Nat) : (s.fenceDrop d).ports = s.ports := by unfold State.fenceDrop State.bump; split <;> rfl
@[simp] theorem State.fenceDrop_aud (s : State) (d : Nat) : (s.fenceDrop d).aud = s.aud := by unfold State.fenceDrop State.bump; split <;> rfl
@[simp] theorem State.fenceDrop_blt (s : State) (d : Nat) : (s.fenceDrop d).blt = s.blt := by unfold State.fenceDrop State.bump; split <;> rfl
@[simp] theorem State.fenceDrop_dma (s : State) (d : Nat) : (s.fenceDrop d).dma = s.dma := by unfold State.fenceDrop State.bump; split <;> rfl
@[simp] theorem State.fenceDrop_gpio (s : State) (d : Nat) : (s.fenceDrop d).gpio = s.gpio := by unfold State.fenceDrop State.bump; split <;> rfl
@[simp] theorem State.fenceDrop_pwr (s : State) (d : Nat) : (s.fenceDrop d).pwr = s.pwr := by unfold State.fenceDrop State.bump; split <;> rfl
@[simp] theorem State.fenceDrop_sys (s : State) (d : Nat) : (s.fenceDrop d).sys = s.sys := by unfold State.fenceDrop State.bump; split <;> rfl
@[simp] theorem State.fenceDrop_free (s : State) (d : Nat) : (s.fenceDrop d).free = s.free := by unfold State.fenceDrop State.bump; split <;> rfl
@[simp] theorem State.fenceDrop_out (s : State) (d : Nat) : (s.fenceDrop d).out = s.out := by unfold State.fenceDrop State.bump; split <;> rfl
@[simp] theorem State.fenceDrop_pending (s : State) (d : Nat) : (s.fenceDrop d).pending = s.pending := by unfold State.fenceDrop State.bump; split <;> rfl

/-! ### fresh -/

@[simp] theorem State.fresh_regs (s : State) (n : Nat) : ((s.fresh n).2).regs = s.regs := rfl
@[simp] theorem State.fresh_pci (s : State) (n : Nat) : ((s.fresh n).2).pci = s.pci := rfl
@[simp] theorem State.fresh_hst (s : State) (n : Nat) : ((s.fresh n).2).hst = s.hst := rfl
@[simp] theorem State.fresh_tmr (s : State) (n : Nat) : ((s.fresh n).2).tmr = s.tmr := rfl
@[simp] theorem State.fresh_evt (s : State) (n : Nat) : ((s.fresh n).2).evt = s.evt := rfl
@[simp] theorem State.fresh_store (s : State) (n : Nat) : ((s.fresh n).2).store = s.store := rfl
@[simp] theorem State.fresh_tbl (s : State) (n : Nat) : ((s.fresh n).2).tbl = s.tbl := rfl
@[simp] theorem State.fresh_cores (s : State) (n : Nat) : ((s.fresh n).2).cores = s.cores := rfl
@[simp] theorem State.fresh_beams (s : State) (n : Nat) : ((s.fresh n).2).beams = s.beams := rfl
@[simp] theorem State.fresh_bin (s : State) (n : Nat) : ((s.fresh n).2).bin = s.bin := rfl
@[simp] theorem State.fresh_groups (s : State) (n : Nat) : ((s.fresh n).2).groups = s.groups := rfl
@[simp] theorem State.fresh_census (s : State) (n : Nat) : ((s.fresh n).2).census = s.census := rfl
@[simp] theorem State.fresh_oat (s : State) (n : Nat) : ((s.fresh n).2).oat = s.oat := rfl
@[simp] theorem State.fresh_ple (s : State) (n : Nat) : ((s.fresh n).2).ple = s.ple := rfl
@[simp] theorem State.fresh_ports (s : State) (n : Nat) : ((s.fresh n).2).ports = s.ports := rfl
@[simp] theorem State.fresh_aud (s : State) (n : Nat) : ((s.fresh n).2).aud = s.aud := rfl
@[simp] theorem State.fresh_blt (s : State) (n : Nat) : ((s.fresh n).2).blt = s.blt := rfl
@[simp] theorem State.fresh_dma (s : State) (n : Nat) : ((s.fresh n).2).dma = s.dma := rfl
@[simp] theorem State.fresh_gpio (s : State) (n : Nat) : ((s.fresh n).2).gpio = s.gpio := rfl
@[simp] theorem State.fresh_pwr (s : State) (n : Nat) : ((s.fresh n).2).pwr = s.pwr := rfl
@[simp] theorem State.fresh_sys (s : State) (n : Nat) : ((s.fresh n).2).sys = s.sys := rfl
@[simp] theorem State.fresh_out (s : State) (n : Nat) : ((s.fresh n).2).out = s.out := rfl
@[simp] theorem State.fresh_pending (s : State) (n : Nat) : ((s.fresh n).2).pending = s.pending := rfl

/-! ### stamp -/

@[simp] theorem State.stamp_regs (s : State) (d : Nat) : ((s.stamp d).2).regs = s.regs := by unfold State.stamp; split <;> rfl
@[simp] theorem State.stamp_pci (s : State) (d : Nat) : ((s.stamp d).2).pci = s.pci := by unfold State.stamp; split <;> rfl
@[simp] theorem State.stamp_hst (s : State) (d : Nat) : ((s.stamp d).2).hst = s.hst := by unfold State.stamp; split <;> rfl
@[simp] theorem State.stamp_evt (s : State) (d : Nat) : ((s.stamp d).2).evt = s.evt := by unfold State.stamp; split <;> rfl
@[simp] theorem State.stamp_store (s : State) (d : Nat) : ((s.stamp d).2).store = s.store := by unfold State.stamp; split <;> rfl
@[simp] theorem State.stamp_tbl (s : State) (d : Nat) : ((s.stamp d).2).tbl = s.tbl := by unfold State.stamp; split <;> rfl
@[simp] theorem State.stamp_cores (s : State) (d : Nat) : ((s.stamp d).2).cores = s.cores := by unfold State.stamp; split <;> rfl
@[simp] theorem State.stamp_beams (s : State) (d : Nat) : ((s.stamp d).2).beams = s.beams := by unfold State.stamp; split <;> rfl
@[simp] theorem State.stamp_bin (s : State) (d : Nat) : ((s.stamp d).2).bin = s.bin := by unfold State.stamp; split <;> rfl
@[simp] theorem State.stamp_groups (s : State) (d : Nat) : ((s.stamp d).2).groups = s.groups := by unfold State.stamp; split <;> rfl
@[simp] theorem State.stamp_census (s : State) (d : Nat) : ((s.stamp d).2).census = s.census := by unfold State.stamp; split <;> rfl
@[simp] theorem State.stamp_oat (s : State) (d : Nat) : ((s.stamp d).2).oat = s.oat := by unfold State.stamp; split <;> rfl
@[simp] theorem State.stamp_ple (s : State) (d : Nat) : ((s.stamp d).2).ple = s.ple := by unfold State.stamp; split <;> rfl
@[simp] theorem State.stamp_ports (s : State) (d : Nat) : ((s.stamp d).2).ports = s.ports := by unfold State.stamp; split <;> rfl
@[simp] theorem State.stamp_aud (s : State) (d : Nat) : ((s.stamp d).2).aud = s.aud := by unfold State.stamp; split <;> rfl
@[simp] theorem State.stamp_blt (s : State) (d : Nat) : ((s.stamp d).2).blt = s.blt := by unfold State.stamp; split <;> rfl
@[simp] theorem State.stamp_dma (s : State) (d : Nat) : ((s.stamp d).2).dma = s.dma := by unfold State.stamp; split <;> rfl
@[simp] theorem State.stamp_gpio (s : State) (d : Nat) : ((s.stamp d).2).gpio = s.gpio := by unfold State.stamp; split <;> rfl
@[simp] theorem State.stamp_pwr (s : State) (d : Nat) : ((s.stamp d).2).pwr = s.pwr := by unfold State.stamp; split <;> rfl
@[simp] theorem State.stamp_sys (s : State) (d : Nat) : ((s.stamp d).2).sys = s.sys := by unfold State.stamp; split <;> rfl
@[simp] theorem State.stamp_out (s : State) (d : Nat) : ((s.stamp d).2).out = s.out := by unfold State.stamp; split <;> rfl
@[simp] theorem State.stamp_pending (s : State) (d : Nat) : ((s.stamp d).2).pending = s.pending := by unfold State.stamp; split <;> rfl

/-! ### emit -/

@[simp] theorem State.emit_regs (s : State) (e : OutEvent) : (s.emit e).regs = s.regs := by unfold State.emit; split <;> rfl
@[simp] theorem State.emit_pci (s : State) (e : OutEvent) : (s.emit e).pci = s.pci := by unfold State.emit; split <;> rfl
@[simp] theorem State.emit_hst (s : State) (e : OutEvent) : (s.emit e).hst = s.hst := by unfold State.emit; split <;> rfl
@[simp] theorem State.emit_tmr (s : State) (e : OutEvent) : (s.emit e).tmr = s.tmr := by unfold State.emit; split <;> rfl
@[simp] theorem State.emit_evt (s : State) (e : OutEvent) : (s.emit e).evt = s.evt := by unfold State.emit; split <;> rfl
@[simp] theorem State.emit_store (s : State) (e : OutEvent) : (s.emit e).store = s.store := by unfold State.emit; split <;> rfl
@[simp] theorem State.emit_tbl (s : State) (e : OutEvent) : (s.emit e).tbl = s.tbl := by unfold State.emit; split <;> rfl
@[simp] theorem State.emit_cores (s : State) (e : OutEvent) : (s.emit e).cores = s.cores := by unfold State.emit; split <;> rfl
@[simp] theorem State.emit_beams (s : State) (e : OutEvent) : (s.emit e).beams = s.beams := by unfold State.emit; split <;> rfl
@[simp] theorem State.emit_bin (s : State) (e : OutEvent) : (s.emit e).bin = s.bin := by unfold State.emit; split <;> rfl
@[simp] theorem State.emit_groups (s : State) (e : OutEvent) : (s.emit e).groups = s.groups := by unfold State.emit; split <;> rfl
@[simp] theorem State.emit_census (s : State) (e : OutEvent) : (s.emit e).census = s.census := by unfold State.emit; split <;> rfl
@[simp] theorem State.emit_oat (s : State) (e : OutEvent) : (s.emit e).oat = s.oat := by unfold State.emit; split <;> rfl
@[simp] theorem State.emit_ple (s : State) (e : OutEvent) : (s.emit e).ple = s.ple := by unfold State.emit; split <;> rfl
@[simp] theorem State.emit_ports (s : State) (e : OutEvent) : (s.emit e).ports = s.ports := by unfold State.emit; split <;> rfl
@[simp] theorem State.emit_aud (s : State) (e : OutEvent) : (s.emit e).aud = s.aud := by unfold State.emit; split <;> rfl
@[simp] theorem State.emit_blt (s : State) (e : OutEvent) : (s.emit e).blt = s.blt := by unfold State.emit; split <;> rfl
@[simp] theorem State.emit_dma (s : State) (e : OutEvent) : (s.emit e).dma = s.dma := by unfold State.emit; split <;> rfl
@[simp] theorem State.emit_gpio (s : State) (e : OutEvent) : (s.emit e).gpio = s.gpio := by unfold State.emit; split <;> rfl
@[simp] theorem State.emit_pwr (s : State) (e : OutEvent) : (s.emit e).pwr = s.pwr := by unfold State.emit; split <;> rfl
@[simp] theorem State.emit_sys (s : State) (e : OutEvent) : (s.emit e).sys = s.sys := by unfold State.emit; split <;> rfl
@[simp] theorem State.emit_free (s : State) (e : OutEvent) : (s.emit e).free = s.free := by unfold State.emit; split <;> rfl
@[simp] theorem State.emit_pending (s : State) (e : OutEvent) : (s.emit e).pending = s.pending := by unfold State.emit; split <;> rfl

/-! ### askHost -/

@[simp] theorem State.askHost_regs (s : State) (a n : Nat) : (s.askHost a n).regs = s.regs := by unfold State.askHost; split <;> simp
@[simp] theorem State.askHost_pci (s : State) (a n : Nat) : (s.askHost a n).pci = s.pci := by unfold State.askHost; split <;> simp
@[simp] theorem State.askHost_hst (s : State) (a n : Nat) : (s.askHost a n).hst = s.hst := by unfold State.askHost; split <;> simp
@[simp] theorem State.askHost_tmr (s : State) (a n : Nat) : (s.askHost a n).tmr = s.tmr := by unfold State.askHost; split <;> simp
@[simp] theorem State.askHost_evt (s : State) (a n : Nat) : (s.askHost a n).evt = s.evt := by unfold State.askHost; split <;> simp
@[simp] theorem State.askHost_store (s : State) (a n : Nat) : (s.askHost a n).store = s.store := by unfold State.askHost; split <;> simp
@[simp] theorem State.askHost_tbl (s : State) (a n : Nat) : (s.askHost a n).tbl = s.tbl := by unfold State.askHost; split <;> simp
@[simp] theorem State.askHost_cores (s : State) (a n : Nat) : (s.askHost a n).cores = s.cores := by unfold State.askHost; split <;> simp
@[simp] theorem State.askHost_beams (s : State) (a n : Nat) : (s.askHost a n).beams = s.beams := by unfold State.askHost; split <;> simp
@[simp] theorem State.askHost_bin (s : State) (a n : Nat) : (s.askHost a n).bin = s.bin := by unfold State.askHost; split <;> simp
@[simp] theorem State.askHost_groups (s : State) (a n : Nat) : (s.askHost a n).groups = s.groups := by unfold State.askHost; split <;> simp
@[simp] theorem State.askHost_census (s : State) (a n : Nat) : (s.askHost a n).census = s.census := by unfold State.askHost; split <;> simp
@[simp] theorem State.askHost_oat (s : State) (a n : Nat) : (s.askHost a n).oat = s.oat := by unfold State.askHost; split <;> simp
@[simp] theorem State.askHost_ple (s : State) (a n : Nat) : (s.askHost a n).ple = s.ple := by unfold State.askHost; split <;> simp
@[simp] theorem State.askHost_ports (s : State) (a n : Nat) : (s.askHost a n).ports = s.ports := by unfold State.askHost; split <;> simp
@[simp] theorem State.askHost_aud (s : State) (a n : Nat) : (s.askHost a n).aud = s.aud := by unfold State.askHost; split <;> simp
@[simp] theorem State.askHost_blt (s : State) (a n : Nat) : (s.askHost a n).blt = s.blt := by unfold State.askHost; split <;> simp
@[simp] theorem State.askHost_dma (s : State) (a n : Nat) : (s.askHost a n).dma = s.dma := by unfold State.askHost; split <;> simp
@[simp] theorem State.askHost_gpio (s : State) (a n : Nat) : (s.askHost a n).gpio = s.gpio := by unfold State.askHost; split <;> simp
@[simp] theorem State.askHost_pwr (s : State) (a n : Nat) : (s.askHost a n).pwr = s.pwr := by unfold State.askHost; split <;> simp
@[simp] theorem State.askHost_sys (s : State) (a n : Nat) : (s.askHost a n).sys = s.sys := by unfold State.askHost; split <;> simp
@[simp] theorem State.askHost_free (s : State) (a n : Nat) : (s.askHost a n).free = s.free := by unfold State.askHost; split <;> simp
@[simp] theorem State.askHost_pending (s : State) (a n : Nat) : (s.askHost a n).pending = s.pending := by unfold State.askHost; split <;> simp

/-! ### putHost -/

@[simp] theorem State.putHost_regs (s : State) (a : Nat) (bs : List Byte) : (s.putHost a bs).regs = s.regs := by unfold State.putHost; split <;> simp
@[simp] theorem State.putHost_pci (s : State) (a : Nat) (bs : List Byte) : (s.putHost a bs).pci = s.pci := by unfold State.putHost; split <;> simp
@[simp] theorem State.putHost_hst (s : State) (a : Nat) (bs : List Byte) : (s.putHost a bs).hst = s.hst := by unfold State.putHost; split <;> simp
@[simp] theorem State.putHost_tmr (s : State) (a : Nat) (bs : List Byte) : (s.putHost a bs).tmr = s.tmr := by unfold State.putHost; split <;> simp
@[simp] theorem State.putHost_evt (s : State) (a : Nat) (bs : List Byte) : (s.putHost a bs).evt = s.evt := by unfold State.putHost; split <;> simp
@[simp] theorem State.putHost_store (s : State) (a : Nat) (bs : List Byte) : (s.putHost a bs).store = s.store := by unfold State.putHost; split <;> simp
@[simp] theorem State.putHost_tbl (s : State) (a : Nat) (bs : List Byte) : (s.putHost a bs).tbl = s.tbl := by unfold State.putHost; split <;> simp
@[simp] theorem State.putHost_cores (s : State) (a : Nat) (bs : List Byte) : (s.putHost a bs).cores = s.cores := by unfold State.putHost; split <;> simp
@[simp] theorem State.putHost_beams (s : State) (a : Nat) (bs : List Byte) : (s.putHost a bs).beams = s.beams := by unfold State.putHost; split <;> simp
@[simp] theorem State.putHost_bin (s : State) (a : Nat) (bs : List Byte) : (s.putHost a bs).bin = s.bin := by unfold State.putHost; split <;> simp
@[simp] theorem State.putHost_groups (s : State) (a : Nat) (bs : List Byte) : (s.putHost a bs).groups = s.groups := by unfold State.putHost; split <;> simp
@[simp] theorem State.putHost_census (s : State) (a : Nat) (bs : List Byte) : (s.putHost a bs).census = s.census := by unfold State.putHost; split <;> simp
@[simp] theorem State.putHost_oat (s : State) (a : Nat) (bs : List Byte) : (s.putHost a bs).oat = s.oat := by unfold State.putHost; split <;> simp
@[simp] theorem State.putHost_ple (s : State) (a : Nat) (bs : List Byte) : (s.putHost a bs).ple = s.ple := by unfold State.putHost; split <;> simp
@[simp] theorem State.putHost_ports (s : State) (a : Nat) (bs : List Byte) : (s.putHost a bs).ports = s.ports := by unfold State.putHost; split <;> simp
@[simp] theorem State.putHost_aud (s : State) (a : Nat) (bs : List Byte) : (s.putHost a bs).aud = s.aud := by unfold State.putHost; split <;> simp
@[simp] theorem State.putHost_blt (s : State) (a : Nat) (bs : List Byte) : (s.putHost a bs).blt = s.blt := by unfold State.putHost; split <;> simp
@[simp] theorem State.putHost_dma (s : State) (a : Nat) (bs : List Byte) : (s.putHost a bs).dma = s.dma := by unfold State.putHost; split <;> simp
@[simp] theorem State.putHost_gpio (s : State) (a : Nat) (bs : List Byte) : (s.putHost a bs).gpio = s.gpio := by unfold State.putHost; split <;> simp
@[simp] theorem State.putHost_pwr (s : State) (a : Nat) (bs : List Byte) : (s.putHost a bs).pwr = s.pwr := by unfold State.putHost; split <;> simp
@[simp] theorem State.putHost_sys (s : State) (a : Nat) (bs : List Byte) : (s.putHost a bs).sys = s.sys := by unfold State.putHost; split <;> simp
@[simp] theorem State.putHost_free (s : State) (a : Nat) (bs : List Byte) : (s.putHost a bs).free = s.free := by unfold State.putHost; split <;> simp
@[simp] theorem State.putHost_pending (s : State) (a : Nat) (bs : List Byte) : (s.putHost a bs).pending = s.pending := by unfold State.putHost; split <;> simp

/-! ### setCore -/

@[simp] theorem State.setCore_regs (s : State) (c : Nat) (x : Core) : (s.setCore c x).regs = s.regs := rfl
@[simp] theorem State.setCore_pci (s : State) (c : Nat) (x : Core) : (s.setCore c x).pci = s.pci := rfl
@[simp] theorem State.setCore_hst (s : State) (c : Nat) (x : Core) : (s.setCore c x).hst = s.hst := rfl
@[simp] theorem State.setCore_tmr (s : State) (c : Nat) (x : Core) : (s.setCore c x).tmr = s.tmr := rfl
@[simp] theorem State.setCore_evt (s : State) (c : Nat) (x : Core) : (s.setCore c x).evt = s.evt := rfl
@[simp] theorem State.setCore_store (s : State) (c : Nat) (x : Core) : (s.setCore c x).store = s.store := rfl
@[simp] theorem State.setCore_tbl (s : State) (c : Nat) (x : Core) : (s.setCore c x).tbl = s.tbl := rfl
@[simp] theorem State.setCore_beams (s : State) (c : Nat) (x : Core) : (s.setCore c x).beams = s.beams := rfl
@[simp] theorem State.setCore_bin (s : State) (c : Nat) (x : Core) : (s.setCore c x).bin = s.bin := rfl
@[simp] theorem State.setCore_groups (s : State) (c : Nat) (x : Core) : (s.setCore c x).groups = s.groups := rfl
@[simp] theorem State.setCore_census (s : State) (c : Nat) (x : Core) : (s.setCore c x).census = s.census := rfl
@[simp] theorem State.setCore_oat (s : State) (c : Nat) (x : Core) : (s.setCore c x).oat = s.oat := rfl
@[simp] theorem State.setCore_ple (s : State) (c : Nat) (x : Core) : (s.setCore c x).ple = s.ple := rfl
@[simp] theorem State.setCore_ports (s : State) (c : Nat) (x : Core) : (s.setCore c x).ports = s.ports := rfl
@[simp] theorem State.setCore_aud (s : State) (c : Nat) (x : Core) : (s.setCore c x).aud = s.aud := rfl
@[simp] theorem State.setCore_blt (s : State) (c : Nat) (x : Core) : (s.setCore c x).blt = s.blt := rfl
@[simp] theorem State.setCore_dma (s : State) (c : Nat) (x : Core) : (s.setCore c x).dma = s.dma := rfl
@[simp] theorem State.setCore_gpio (s : State) (c : Nat) (x : Core) : (s.setCore c x).gpio = s.gpio := rfl
@[simp] theorem State.setCore_pwr (s : State) (c : Nat) (x : Core) : (s.setCore c x).pwr = s.pwr := rfl
@[simp] theorem State.setCore_sys (s : State) (c : Nat) (x : Core) : (s.setCore c x).sys = s.sys := rfl
@[simp] theorem State.setCore_free (s : State) (c : Nat) (x : Core) : (s.setCore c x).free = s.free := rfl
@[simp] theorem State.setCore_out (s : State) (c : Nat) (x : Core) : (s.setCore c x).out = s.out := rfl
@[simp] theorem State.setCore_pending (s : State) (c : Nat) (x : Core) : (s.setCore c x).pending = s.pending := rfl

/-! ### setBeam -/

@[simp] theorem State.setBeam_regs (s : State) (n : Nat) (x : Beam) : (s.setBeam n x).regs = s.regs := rfl
@[simp] theorem State.setBeam_pci (s : State) (n : Nat) (x : Beam) : (s.setBeam n x).pci = s.pci := rfl
@[simp] theorem State.setBeam_hst (s : State) (n : Nat) (x : Beam) : (s.setBeam n x).hst = s.hst := rfl
@[simp] theorem State.setBeam_tmr (s : State) (n : Nat) (x : Beam) : (s.setBeam n x).tmr = s.tmr := rfl
@[simp] theorem State.setBeam_evt (s : State) (n : Nat) (x : Beam) : (s.setBeam n x).evt = s.evt := rfl
@[simp] theorem State.setBeam_store (s : State) (n : Nat) (x : Beam) : (s.setBeam n x).store = s.store := rfl
@[simp] theorem State.setBeam_tbl (s : State) (n : Nat) (x : Beam) : (s.setBeam n x).tbl = s.tbl := rfl
@[simp] theorem State.setBeam_cores (s : State) (n : Nat) (x : Beam) : (s.setBeam n x).cores = s.cores := rfl
@[simp] theorem State.setBeam_bin (s : State) (n : Nat) (x : Beam) : (s.setBeam n x).bin = s.bin := rfl
@[simp] theorem State.setBeam_groups (s : State) (n : Nat) (x : Beam) : (s.setBeam n x).groups = s.groups := rfl
@[simp] theorem State.setBeam_census (s : State) (n : Nat) (x : Beam) : (s.setBeam n x).census = s.census := rfl
@[simp] theorem State.setBeam_oat (s : State) (n : Nat) (x : Beam) : (s.setBeam n x).oat = s.oat := rfl
@[simp] theorem State.setBeam_ple (s : State) (n : Nat) (x : Beam) : (s.setBeam n x).ple = s.ple := rfl
@[simp] theorem State.setBeam_ports (s : State) (n : Nat) (x : Beam) : (s.setBeam n x).ports = s.ports := rfl
@[simp] theorem State.setBeam_aud (s : State) (n : Nat) (x : Beam) : (s.setBeam n x).aud = s.aud := rfl
@[simp] theorem State.setBeam_blt (s : State) (n : Nat) (x : Beam) : (s.setBeam n x).blt = s.blt := rfl
@[simp] theorem State.setBeam_dma (s : State) (n : Nat) (x : Beam) : (s.setBeam n x).dma = s.dma := rfl
@[simp] theorem State.setBeam_gpio (s : State) (n : Nat) (x : Beam) : (s.setBeam n x).gpio = s.gpio := rfl
@[simp] theorem State.setBeam_pwr (s : State) (n : Nat) (x : Beam) : (s.setBeam n x).pwr = s.pwr := rfl
@[simp] theorem State.setBeam_sys (s : State) (n : Nat) (x : Beam) : (s.setBeam n x).sys = s.sys := rfl
@[simp] theorem State.setBeam_free (s : State) (n : Nat) (x : Beam) : (s.setBeam n x).free = s.free := rfl
@[simp] theorem State.setBeam_out (s : State) (n : Nat) (x : Beam) : (s.setBeam n x).out = s.out := rfl
@[simp] theorem State.setBeam_pending (s : State) (n : Nat) (x : Beam) : (s.setBeam n x).pending = s.pending := rfl

/-! ### setPort -/

@[simp] theorem State.setPort_regs (s : State) (p : Nat) (x : Port) : (s.setPort p x).regs = s.regs := rfl
@[simp] theorem State.setPort_pci (s : State) (p : Nat) (x : Port) : (s.setPort p x).pci = s.pci := rfl
@[simp] theorem State.setPort_hst (s : State) (p : Nat) (x : Port) : (s.setPort p x).hst = s.hst := rfl
@[simp] theorem State.setPort_tmr (s : State) (p : Nat) (x : Port) : (s.setPort p x).tmr = s.tmr := rfl
@[simp] theorem State.setPort_evt (s : State) (p : Nat) (x : Port) : (s.setPort p x).evt = s.evt := rfl
@[simp] theorem State.setPort_store (s : State) (p : Nat) (x : Port) : (s.setPort p x).store = s.store := rfl
@[simp] theorem State.setPort_tbl (s : State) (p : Nat) (x : Port) : (s.setPort p x).tbl = s.tbl := rfl
@[simp] theorem State.setPort_cores (s : State) (p : Nat) (x : Port) : (s.setPort p x).cores = s.cores := rfl
@[simp] theorem State.setPort_beams (s : State) (p : Nat) (x : Port) : (s.setPort p x).beams = s.beams := rfl
@[simp] theorem State.setPort_bin (s : State) (p : Nat) (x : Port) : (s.setPort p x).bin = s.bin := rfl
@[simp] theorem State.setPort_groups (s : State) (p : Nat) (x : Port) : (s.setPort p x).groups = s.groups := rfl
@[simp] theorem State.setPort_census (s : State) (p : Nat) (x : Port) : (s.setPort p x).census = s.census := rfl
@[simp] theorem State.setPort_oat (s : State) (p : Nat) (x : Port) : (s.setPort p x).oat = s.oat := rfl
@[simp] theorem State.setPort_ple (s : State) (p : Nat) (x : Port) : (s.setPort p x).ple = s.ple := rfl
@[simp] theorem State.setPort_aud (s : State) (p : Nat) (x : Port) : (s.setPort p x).aud = s.aud := rfl
@[simp] theorem State.setPort_blt (s : State) (p : Nat) (x : Port) : (s.setPort p x).blt = s.blt := rfl
@[simp] theorem State.setPort_dma (s : State) (p : Nat) (x : Port) : (s.setPort p x).dma = s.dma := rfl
@[simp] theorem State.setPort_gpio (s : State) (p : Nat) (x : Port) : (s.setPort p x).gpio = s.gpio := rfl
@[simp] theorem State.setPort_pwr (s : State) (p : Nat) (x : Port) : (s.setPort p x).pwr = s.pwr := rfl
@[simp] theorem State.setPort_sys (s : State) (p : Nat) (x : Port) : (s.setPort p x).sys = s.sys := rfl
@[simp] theorem State.setPort_free (s : State) (p : Nat) (x : Port) : (s.setPort p x).free = s.free := rfl
@[simp] theorem State.setPort_out (s : State) (p : Nat) (x : Port) : (s.setPort p x).out = s.out := rfl
@[simp] theorem State.setPort_pending (s : State) (p : Nat) (x : Port) : (s.setPort p x).pending = s.pending := rfl

/-! ### setGrp -/

@[simp] theorem State.setGrp_regs (s : State) (g : Nat) (x : Group) : (s.setGrp g x).regs = s.regs := rfl
@[simp] theorem State.setGrp_pci (s : State) (g : Nat) (x : Group) : (s.setGrp g x).pci = s.pci := rfl
@[simp] theorem State.setGrp_hst (s : State) (g : Nat) (x : Group) : (s.setGrp g x).hst = s.hst := rfl
@[simp] theorem State.setGrp_tmr (s : State) (g : Nat) (x : Group) : (s.setGrp g x).tmr = s.tmr := rfl
@[simp] theorem State.setGrp_evt (s : State) (g : Nat) (x : Group) : (s.setGrp g x).evt = s.evt := rfl
@[simp] theorem State.setGrp_store (s : State) (g : Nat) (x : Group) : (s.setGrp g x).store = s.store := rfl
@[simp] theorem State.setGrp_tbl (s : State) (g : Nat) (x : Group) : (s.setGrp g x).tbl = s.tbl := rfl
@[simp] theorem State.setGrp_cores (s : State) (g : Nat) (x : Group) : (s.setGrp g x).cores = s.cores := rfl
@[simp] theorem State.setGrp_beams (s : State) (g : Nat) (x : Group) : (s.setGrp g x).beams = s.beams := rfl
@[simp] theorem State.setGrp_bin (s : State) (g : Nat) (x : Group) : (s.setGrp g x).bin = s.bin := rfl
@[simp] theorem State.setGrp_census (s : State) (g : Nat) (x : Group) : (s.setGrp g x).census = s.census := rfl
@[simp] theorem State.setGrp_oat (s : State) (g : Nat) (x : Group) : (s.setGrp g x).oat = s.oat := rfl
@[simp] theorem State.setGrp_ple (s : State) (g : Nat) (x : Group) : (s.setGrp g x).ple = s.ple := rfl
@[simp] theorem State.setGrp_ports (s : State) (g : Nat) (x : Group) : (s.setGrp g x).ports = s.ports := rfl
@[simp] theorem State.setGrp_aud (s : State) (g : Nat) (x : Group) : (s.setGrp g x).aud = s.aud := rfl
@[simp] theorem State.setGrp_blt (s : State) (g : Nat) (x : Group) : (s.setGrp g x).blt = s.blt := rfl
@[simp] theorem State.setGrp_dma (s : State) (g : Nat) (x : Group) : (s.setGrp g x).dma = s.dma := rfl
@[simp] theorem State.setGrp_gpio (s : State) (g : Nat) (x : Group) : (s.setGrp g x).gpio = s.gpio := rfl
@[simp] theorem State.setGrp_pwr (s : State) (g : Nat) (x : Group) : (s.setGrp g x).pwr = s.pwr := rfl
@[simp] theorem State.setGrp_sys (s : State) (g : Nat) (x : Group) : (s.setGrp g x).sys = s.sys := rfl
@[simp] theorem State.setGrp_free (s : State) (g : Nat) (x : Group) : (s.setGrp g x).free = s.free := rfl
@[simp] theorem State.setGrp_out (s : State) (g : Nat) (x : Group) : (s.setGrp g x).out = s.out := rfl
@[simp] theorem State.setGrp_pending (s : State) (g : Nat) (x : Group) : (s.setGrp g x).pending = s.pending := rfl

/-! ### setChan -/

@[simp] theorem State.setChan_regs (s : State) (c : Nat) (x : DmaChan) : (s.setChan c x).regs = s.regs := rfl
@[simp] theorem State.setChan_pci (s : State) (c : Nat) (x : DmaChan) : (s.setChan c x).pci = s.pci := rfl
@[simp] theorem State.setChan_hst (s : State) (c : Nat) (x : DmaChan) : (s.setChan c x).hst = s.hst := rfl
@[simp] theorem State.setChan_tmr (s : State) (c : Nat) (x : DmaChan) : (s.setChan c x).tmr = s.tmr := rfl
@[simp] theorem State.setChan_evt (s : State) (c : Nat) (x : DmaChan) : (s.setChan c x).evt = s.evt := rfl
@[simp] theorem State.setChan_store (s : State) (c : Nat) (x : DmaChan) : (s.setChan c x).store = s.store := rfl
@[simp] theorem State.setChan_tbl (s : State) (c : Nat) (x : DmaChan) : (s.setChan c x).tbl = s.tbl := rfl
@[simp] theorem State.setChan_cores (s : State) (c : Nat) (x : DmaChan) : (s.setChan c x).cores = s.cores := rfl
@[simp] theorem State.setChan_beams (s : State) (c : Nat) (x : DmaChan) : (s.setChan c x).beams = s.beams := rfl
@[simp] theorem State.setChan_bin (s : State) (c : Nat) (x : DmaChan) : (s.setChan c x).bin = s.bin := rfl
@[simp] theorem State.setChan_groups (s : State) (c : Nat) (x : DmaChan) : (s.setChan c x).groups = s.groups := rfl
@[simp] theorem State.setChan_census (s : State) (c : Nat) (x : DmaChan) : (s.setChan c x).census = s.census := rfl
@[simp] theorem State.setChan_oat (s : State) (c : Nat) (x : DmaChan) : (s.setChan c x).oat = s.oat := rfl
@[simp] theorem State.setChan_ple (s : State) (c : Nat) (x : DmaChan) : (s.setChan c x).ple = s.ple := rfl
@[simp] theorem State.setChan_ports (s : State) (c : Nat) (x : DmaChan) : (s.setChan c x).ports = s.ports := rfl
@[simp] theorem State.setChan_aud (s : State) (c : Nat) (x : DmaChan) : (s.setChan c x).aud = s.aud := rfl
@[simp] theorem State.setChan_blt (s : State) (c : Nat) (x : DmaChan) : (s.setChan c x).blt = s.blt := rfl
@[simp] theorem State.setChan_gpio (s : State) (c : Nat) (x : DmaChan) : (s.setChan c x).gpio = s.gpio := rfl
@[simp] theorem State.setChan_pwr (s : State) (c : Nat) (x : DmaChan) : (s.setChan c x).pwr = s.pwr := rfl
@[simp] theorem State.setChan_sys (s : State) (c : Nat) (x : DmaChan) : (s.setChan c x).sys = s.sys := rfl
@[simp] theorem State.setChan_free (s : State) (c : Nat) (x : DmaChan) : (s.setChan c x).free = s.free := rfl
@[simp] theorem State.setChan_out (s : State) (c : Nat) (x : DmaChan) : (s.setChan c x).out = s.out := rfl
@[simp] theorem State.setChan_pending (s : State) (c : Nat) (x : DmaChan) : (s.setChan c x).pending = s.pending := rfl

/-! ### setEng -/

@[simp] theorem State.setEng_regs (s : State) (k : Nat) (x : Engine) : (s.setEng k x).regs = s.regs := rfl
@[simp] theorem State.setEng_pci (s : State) (k : Nat) (x : Engine) : (s.setEng k x).pci = s.pci := rfl
@[simp] theorem State.setEng_hst (s : State) (k : Nat) (x : Engine) : (s.setEng k x).hst = s.hst := rfl
@[simp] theorem State.setEng_tmr (s : State) (k : Nat) (x : Engine) : (s.setEng k x).tmr = s.tmr := rfl
@[simp] theorem State.setEng_evt (s : State) (k : Nat) (x : Engine) : (s.setEng k x).evt = s.evt := rfl
@[simp] theorem State.setEng_store (s : State) (k : Nat) (x : Engine) : (s.setEng k x).store = s.store := rfl
@[simp] theorem State.setEng_tbl (s : State) (k : Nat) (x : Engine) : (s.setEng k x).tbl = s.tbl := rfl
@[simp] theorem State.setEng_cores (s : State) (k : Nat) (x : Engine) : (s.setEng k x).cores = s.cores := rfl
@[simp] theorem State.setEng_beams (s : State) (k : Nat) (x : Engine) : (s.setEng k x).beams = s.beams := rfl
@[simp] theorem State.setEng_bin (s : State) (k : Nat) (x : Engine) : (s.setEng k x).bin = s.bin := rfl
@[simp] theorem State.setEng_groups (s : State) (k : Nat) (x : Engine) : (s.setEng k x).groups = s.groups := rfl
@[simp] theorem State.setEng_census (s : State) (k : Nat) (x : Engine) : (s.setEng k x).census = s.census := rfl
@[simp] theorem State.setEng_oat (s : State) (k : Nat) (x : Engine) : (s.setEng k x).oat = s.oat := rfl
@[simp] theorem State.setEng_ple (s : State) (k : Nat) (x : Engine) : (s.setEng k x).ple = s.ple := rfl
@[simp] theorem State.setEng_ports (s : State) (k : Nat) (x : Engine) : (s.setEng k x).ports = s.ports := rfl
@[simp] theorem State.setEng_aud (s : State) (k : Nat) (x : Engine) : (s.setEng k x).aud = s.aud := rfl
@[simp] theorem State.setEng_dma (s : State) (k : Nat) (x : Engine) : (s.setEng k x).dma = s.dma := rfl
@[simp] theorem State.setEng_gpio (s : State) (k : Nat) (x : Engine) : (s.setEng k x).gpio = s.gpio := rfl
@[simp] theorem State.setEng_pwr (s : State) (k : Nat) (x : Engine) : (s.setEng k x).pwr = s.pwr := rfl
@[simp] theorem State.setEng_sys (s : State) (k : Nat) (x : Engine) : (s.setEng k x).sys = s.sys := rfl
@[simp] theorem State.setEng_free (s : State) (k : Nat) (x : Engine) : (s.setEng k x).free = s.free := rfl
@[simp] theorem State.setEng_out (s : State) (k : Nat) (x : Engine) : (s.setEng k x).out = s.out := rfl
@[simp] theorem State.setEng_pending (s : State) (k : Nat) (x : Engine) : (s.setEng k x).pending = s.pending := rfl

/-! ### setRing -/

@[simp] theorem State.setRing_regs (s : State) (r : Nat) (x : Ring) : (s.setRing r x).regs = s.regs := rfl
@[simp] theorem State.setRing_pci (s : State) (r : Nat) (x : Ring) : (s.setRing r x).pci = s.pci := rfl
@[simp] theorem State.setRing_tmr (s : State) (r : Nat) (x : Ring) : (s.setRing r x).tmr = s.tmr := rfl
@[simp] theorem State.setRing_evt (s : State) (r : Nat) (x : Ring) : (s.setRing r x).evt = s.evt := rfl
@[simp] theorem State.setRing_store (s : State) (r : Nat) (x : Ring) : (s.setRing r x).store = s.store := rfl
@[simp] theorem State.setRing_tbl (s : State) (r : Nat) (x : Ring) : (s.setRing r x).tbl = s.tbl := rfl
@[simp] theorem State.setRing_cores (s : State) (r : Nat) (x : Ring) : (s.setRing r x).cores = s.cores := rfl
@[simp] theorem State.setRing_beams (s : State) (r : Nat) (x : Ring) : (s.setRing r x).beams = s.beams := rfl
@[simp] theorem State.setRing_bin (s : State) (r : Nat) (x : Ring) : (s.setRing r x).bin = s.bin := rfl
@[simp] theorem State.setRing_groups (s : State) (r : Nat) (x : Ring) : (s.setRing r x).groups = s.groups := rfl
@[simp] theorem State.setRing_census (s : State) (r : Nat) (x : Ring) : (s.setRing r x).census = s.census := rfl
@[simp] theorem State.setRing_oat (s : State) (r : Nat) (x : Ring) : (s.setRing r x).oat = s.oat := rfl
@[simp] theorem State.setRing_ple (s : State) (r : Nat) (x : Ring) : (s.setRing r x).ple = s.ple := rfl
@[simp] theorem State.setRing_ports (s : State) (r : Nat) (x : Ring) : (s.setRing r x).ports = s.ports := rfl
@[simp] theorem State.setRing_aud (s : State) (r : Nat) (x : Ring) : (s.setRing r x).aud = s.aud := rfl
@[simp] theorem State.setRing_blt (s : State) (r : Nat) (x : Ring) : (s.setRing r x).blt = s.blt := rfl
@[simp] theorem State.setRing_dma (s : State) (r : Nat) (x : Ring) : (s.setRing r x).dma = s.dma := rfl
@[simp] theorem State.setRing_gpio (s : State) (r : Nat) (x : Ring) : (s.setRing r x).gpio = s.gpio := rfl
@[simp] theorem State.setRing_pwr (s : State) (r : Nat) (x : Ring) : (s.setRing r x).pwr = s.pwr := rfl
@[simp] theorem State.setRing_sys (s : State) (r : Nat) (x : Ring) : (s.setRing r x).sys = s.sys := rfl
@[simp] theorem State.setRing_free (s : State) (r : Nat) (x : Ring) : (s.setRing r x).free = s.free := rfl
@[simp] theorem State.setRing_out (s : State) (r : Nat) (x : Ring) : (s.setRing r x).out = s.out := rfl
@[simp] theorem State.setRing_pending (s : State) (r : Nat) (x : Ring) : (s.setRing r x).pending = s.pending := rfl

/-! ### setRail -/

@[simp] theorem State.setRail_regs (s : State) (g : Nat) (x : Rail) : (s.setRail g x).regs = s.regs := rfl
@[simp] theorem State.setRail_pci (s : State) (g : Nat) (x : Rail) : (s.setRail g x).pci = s.pci := rfl
@[simp] theorem State.setRail_hst (s : State) (g : Nat) (x : Rail) : (s.setRail g x).hst = s.hst := rfl
@[simp] theorem State.setRail_tmr (s : State) (g : Nat) (x : Rail) : (s.setRail g x).tmr = s.tmr := rfl
@[simp] theorem State.setRail_evt (s : State) (g : Nat) (x : Rail) : (s.setRail g x).evt = s.evt := rfl
@[simp] theorem State.setRail_store (s : State) (g : Nat) (x : Rail) : (s.setRail g x).store = s.store := rfl
@[simp] theorem State.setRail_tbl (s : State) (g : Nat) (x : Rail) : (s.setRail g x).tbl = s.tbl := rfl
@[simp] theorem State.setRail_cores (s : State) (g : Nat) (x : Rail) : (s.setRail g x).cores = s.cores := rfl
@[simp] theorem State.setRail_beams (s : State) (g : Nat) (x : Rail) : (s.setRail g x).beams = s.beams := rfl
@[simp] theorem State.setRail_bin (s : State) (g : Nat) (x : Rail) : (s.setRail g x).bin = s.bin := rfl
@[simp] theorem State.setRail_groups (s : State) (g : Nat) (x : Rail) : (s.setRail g x).groups = s.groups := rfl
@[simp] theorem State.setRail_census (s : State) (g : Nat) (x : Rail) : (s.setRail g x).census = s.census := rfl
@[simp] theorem State.setRail_oat (s : State) (g : Nat) (x : Rail) : (s.setRail g x).oat = s.oat := rfl
@[simp] theorem State.setRail_ple (s : State) (g : Nat) (x : Rail) : (s.setRail g x).ple = s.ple := rfl
@[simp] theorem State.setRail_ports (s : State) (g : Nat) (x : Rail) : (s.setRail g x).ports = s.ports := rfl
@[simp] theorem State.setRail_aud (s : State) (g : Nat) (x : Rail) : (s.setRail g x).aud = s.aud := rfl
@[simp] theorem State.setRail_blt (s : State) (g : Nat) (x : Rail) : (s.setRail g x).blt = s.blt := rfl
@[simp] theorem State.setRail_dma (s : State) (g : Nat) (x : Rail) : (s.setRail g x).dma = s.dma := rfl
@[simp] theorem State.setRail_gpio (s : State) (g : Nat) (x : Rail) : (s.setRail g x).gpio = s.gpio := rfl
@[simp] theorem State.setRail_sys (s : State) (g : Nat) (x : Rail) : (s.setRail g x).sys = s.sys := rfl
@[simp] theorem State.setRail_free (s : State) (g : Nat) (x : Rail) : (s.setRail g x).free = s.free := rfl
@[simp] theorem State.setRail_out (s : State) (g : Nat) (x : Rail) : (s.setRail g x).out = s.out := rfl
@[simp] theorem State.setRail_pending (s : State) (g : Nat) (x : Rail) : (s.setRail g x).pending = s.pending := rfl

/-! ### avsIssue -/

@[simp] theorem State.avsIssue_regs (s : State) (g : Nat) : (s.avsIssue g).regs = s.regs := by simp [State.avsIssue]
@[simp] theorem State.avsIssue_pci (s : State) (g : Nat) : (s.avsIssue g).pci = s.pci := by simp [State.avsIssue]
@[simp] theorem State.avsIssue_hst (s : State) (g : Nat) : (s.avsIssue g).hst = s.hst := by simp [State.avsIssue]
@[simp] theorem State.avsIssue_tmr (s : State) (g : Nat) : (s.avsIssue g).tmr = s.tmr := by simp [State.avsIssue]
@[simp] theorem State.avsIssue_evt (s : State) (g : Nat) : (s.avsIssue g).evt = s.evt := by simp [State.avsIssue]
@[simp] theorem State.avsIssue_store (s : State) (g : Nat) : (s.avsIssue g).store = s.store := by simp [State.avsIssue]
@[simp] theorem State.avsIssue_tbl (s : State) (g : Nat) : (s.avsIssue g).tbl = s.tbl := by simp [State.avsIssue]
@[simp] theorem State.avsIssue_cores (s : State) (g : Nat) : (s.avsIssue g).cores = s.cores := by simp [State.avsIssue]
@[simp] theorem State.avsIssue_beams (s : State) (g : Nat) : (s.avsIssue g).beams = s.beams := by simp [State.avsIssue]
@[simp] theorem State.avsIssue_bin (s : State) (g : Nat) : (s.avsIssue g).bin = s.bin := by simp [State.avsIssue]
@[simp] theorem State.avsIssue_groups (s : State) (g : Nat) : (s.avsIssue g).groups = s.groups := by simp [State.avsIssue]
@[simp] theorem State.avsIssue_census (s : State) (g : Nat) : (s.avsIssue g).census = s.census := by simp [State.avsIssue]
@[simp] theorem State.avsIssue_oat (s : State) (g : Nat) : (s.avsIssue g).oat = s.oat := by simp [State.avsIssue]
@[simp] theorem State.avsIssue_ple (s : State) (g : Nat) : (s.avsIssue g).ple = s.ple := by simp [State.avsIssue]
@[simp] theorem State.avsIssue_ports (s : State) (g : Nat) : (s.avsIssue g).ports = s.ports := by simp [State.avsIssue]
@[simp] theorem State.avsIssue_aud (s : State) (g : Nat) : (s.avsIssue g).aud = s.aud := by simp [State.avsIssue]
@[simp] theorem State.avsIssue_blt (s : State) (g : Nat) : (s.avsIssue g).blt = s.blt := by simp [State.avsIssue]
@[simp] theorem State.avsIssue_dma (s : State) (g : Nat) : (s.avsIssue g).dma = s.dma := by simp [State.avsIssue]
@[simp] theorem State.avsIssue_gpio (s : State) (g : Nat) : (s.avsIssue g).gpio = s.gpio := by simp [State.avsIssue]
@[simp] theorem State.avsIssue_pwr (s : State) (g : Nat) : (s.avsIssue g).pwr = s.pwr := by simp [State.avsIssue]
@[simp] theorem State.avsIssue_sys (s : State) (g : Nat) : (s.avsIssue g).sys = s.sys := by simp [State.avsIssue]
@[simp] theorem State.avsIssue_free (s : State) (g : Nat) : (s.avsIssue g).free = s.free := by simp [State.avsIssue]
@[simp] theorem State.avsIssue_pending (s : State) (g : Nat) : (s.avsIssue g).pending = s.pending := by simp [State.avsIssue]

/-! ### setBist -/

@[simp] theorem State.setBist_regs (s : State) (b : Bist) : (s.setBist b).regs = s.regs := rfl
@[simp] theorem State.setBist_pci (s : State) (b : Bist) : (s.setBist b).pci = s.pci := rfl
@[simp] theorem State.setBist_hst (s : State) (b : Bist) : (s.setBist b).hst = s.hst := rfl
@[simp] theorem State.setBist_tmr (s : State) (b : Bist) : (s.setBist b).tmr = s.tmr := rfl
@[simp] theorem State.setBist_evt (s : State) (b : Bist) : (s.setBist b).evt = s.evt := rfl
@[simp] theorem State.setBist_store (s : State) (b : Bist) : (s.setBist b).store = s.store := rfl
@[simp] theorem State.setBist_tbl (s : State) (b : Bist) : (s.setBist b).tbl = s.tbl := rfl
@[simp] theorem State.setBist_cores (s : State) (b : Bist) : (s.setBist b).cores = s.cores := rfl
@[simp] theorem State.setBist_beams (s : State) (b : Bist) : (s.setBist b).beams = s.beams := rfl
@[simp] theorem State.setBist_bin (s : State) (b : Bist) : (s.setBist b).bin = s.bin := rfl
@[simp] theorem State.setBist_groups (s : State) (b : Bist) : (s.setBist b).groups = s.groups := rfl
@[simp] theorem State.setBist_census (s : State) (b : Bist) : (s.setBist b).census = s.census := rfl
@[simp] theorem State.setBist_oat (s : State) (b : Bist) : (s.setBist b).oat = s.oat := rfl
@[simp] theorem State.setBist_ple (s : State) (b : Bist) : (s.setBist b).ple = s.ple := rfl
@[simp] theorem State.setBist_ports (s : State) (b : Bist) : (s.setBist b).ports = s.ports := rfl
@[simp] theorem State.setBist_aud (s : State) (b : Bist) : (s.setBist b).aud = s.aud := rfl
@[simp] theorem State.setBist_blt (s : State) (b : Bist) : (s.setBist b).blt = s.blt := rfl
@[simp] theorem State.setBist_dma (s : State) (b : Bist) : (s.setBist b).dma = s.dma := rfl
@[simp] theorem State.setBist_gpio (s : State) (b : Bist) : (s.setBist b).gpio = s.gpio := rfl
@[simp] theorem State.setBist_pwr (s : State) (b : Bist) : (s.setBist b).pwr = s.pwr := rfl
@[simp] theorem State.setBist_free (s : State) (b : Bist) : (s.setBist b).free = s.free := rfl
@[simp] theorem State.setBist_out (s : State) (b : Bist) : (s.setBist b).out = s.out := rfl
@[simp] theorem State.setBist_pending (s : State) (b : Bist) : (s.setBist b).pending = s.pending := rfl

/-! ### A register word after a word is stored -/

/-- The word stored at an address reads back. -/
@[simp] theorem State.getW_putW_same (s : State) (a : Nat) (w : Word) : (s.putW a w).getW a = w :=
  rfGet_rfSet_same s.regs a w

/-- Every other address keeps its word. -/
theorem State.getW_putW_other (s : State) (a b : Nat) (w : Word) (h : b ≠ a) : (s.putW a w).getW b = s.getW b :=
  rfGet_rfSet_other h s.regs w

/-- A register reads what was stored in it. -/
@[simp] theorem State.rd_wr_same (s : State) (r : RegName) (w : Word) (i j k : Nat) : (s.wr r w i j k).rd r i j k = w :=
  State.getW_putW_same s _ w

/-- A register at another address keeps its word. -/
theorem State.rd_wr_other (s : State) (r r' : RegName) (w : Word) (i j k i' j' k' : Nat)
    (h : addrOf r' i' j' k' ≠ addrOf r i j k) : (s.wr r w i j k).rd r' i' j' k' = s.rd r' i' j' k' :=
  State.getW_putW_other s _ _ w h

/-- A register whose field is written holds its old word with the field replaced. -/
@[simp] theorem State.rd_wf_same (s : State) (r : RegName) (hi lo v i j k : Nat) :
    (s.wf r hi lo v i j k).rd r i j k = setFld (s.rd r i j k) hi lo v := State.rd_wr_same ..

theorem State.rd_wf_other (s : State) (r r' : RegName) (hi lo v i j k i' j' k' : Nat)
    (h : addrOf r' i' j' k' ≠ addrOf r i j k) : (s.wf r hi lo v i j k).rd r' i' j' k' = s.rd r' i' j' k' :=
  State.rd_wr_other _ _ _ _ _ _ _ _ _ _ h

/-- A word at another address keeps its value when a register is stored. -/
theorem State.getW_wr_other (s : State) (a : Nat) (r : RegName) (w : Word) (i j k : Nat)
    (h : a ≠ addrOf r i j k) : (s.wr r w i j k).getW a = s.getW a := State.getW_putW_other s _ _ w h

/-- A state whose registers are the same reads the same words. -/
theorem State.getW_congr {s t : State} (h : t.regs = s.regs) (a : Nat) : t.getW a = s.getW a := by
  unfold State.getW; rw [h]

theorem State.rd_congr {s t : State} (h : t.regs = s.regs) (r : RegName) (i j k : Nat) : t.rd r i j k = s.rd r i j k :=
  State.getW_congr h _

/-! ### Members of the vectors -/

@[simp] theorem State.core_setCore_same (s : State) (c : Nat) (x : Core) (h : c < 20) : (s.setCore c x).core c = x :=
  vget_vset_same _ _ _ _ h

theorem State.core_setCore_other (s : State) (c m : Nat) (x : Core) (h : m ≠ c) : (s.setCore c x).core m = s.core m :=
  vget_vset_other _ _ _ _ _ h

@[simp] theorem State.beam_setBeam_same (s : State) (n : Nat) (x : Beam) (h : n < 16) : (s.setBeam n x).beam n = x :=
  vget_vset_same _ _ _ _ h

theorem State.beam_setBeam_other (s : State) (n m : Nat) (x : Beam) (h : m ≠ n) : (s.setBeam n x).beam m = s.beam m :=
  vget_vset_other _ _ _ _ _ h

@[simp] theorem State.port_setPort_same (s : State) (p : Nat) (x : Port) (h : p < 8) : (s.setPort p x).port p = x :=
  vget_vset_same _ _ _ _ h

theorem State.port_setPort_other (s : State) (p m : Nat) (x : Port) (h : m ≠ p) : (s.setPort p x).port m = s.port m :=
  vget_vset_other _ _ _ _ _ h

@[simp] theorem State.grp_setGrp_same (s : State) (g : Nat) (x : Group) (h : g < 16) : (s.setGrp g x).grp g = x :=
  vget_vset_same _ _ _ _ h

theorem State.grp_setGrp_other (s : State) (g m : Nat) (x : Group) (h : m ≠ g) : (s.setGrp g x).grp m = s.grp m :=
  vget_vset_other _ _ _ _ _ h

@[simp] theorem State.chan_setChan_same (s : State) (c : Nat) (x : DmaChan) (h : c < 64) : (s.setChan c x).chan c = x :=
  vget_vset_same _ _ _ _ h

theorem State.chan_setChan_other (s : State) (c m : Nat) (x : DmaChan) (h : m ≠ c) : (s.setChan c x).chan m = s.chan m :=
  vget_vset_other _ _ _ _ _ h

@[simp] theorem State.eng_setEng_same (s : State) (k : Nat) (x : Engine) (h : k < 4) : (s.setEng k x).eng k = x :=
  vget_vset_same _ _ _ _ h

theorem State.eng_setEng_other (s : State) (k m : Nat) (x : Engine) (h : m ≠ k) : (s.setEng k x).eng m = s.eng m :=
  vget_vset_other _ _ _ _ _ h

@[simp] theorem State.ring_setRing_same (s : State) (r : Nat) (x : Ring) (h : r < 64) : (s.setRing r x).ring r = x :=
  vget_vset_same _ _ _ _ h

theorem State.ring_setRing_other (s : State) (r m : Nat) (x : Ring) (h : m ≠ r) : (s.setRing r x).ring m = s.ring m :=
  vget_vset_other _ _ _ _ _ h

@[simp] theorem State.rail_setRail_same (s : State) (g : Nat) (x : Rail) (h : g < 4) : (s.setRail g x).rail g = x :=
  vget_vset_same _ _ _ _ h

theorem State.rail_setRail_other (s : State) (g m : Nat) (x : Rail) (h : m ≠ g) : (s.setRail g x).rail m = s.rail m :=
  vget_vset_other _ _ _ _ _ h

end Sys2Proof.Machine
end

