-- ==== Sys2Proof/WellFormed.lean ====
section
/-! DEFINITION. Well-formed commands: the sizes and alignments that what a command carries has on its interface. Bounds of
single operands are in their types; here stand the lengths of lists and the ranges that two operands share. -/

namespace Sys2Proof

/-- No key occurs twice in a list of upsets. -/
def distinctKeys {α : Type} {n : Nat} (l : List (Fin n × α)) : Bool := (l.map (·.1)).Nodup

/-- A read request enables bytes of its own width alone (R22). -/
def ReadReq.wf (q : ReadReq) : Bool := q.wide || q.enables.toNat < 16

/-- The operands of a command have the sizes that their interface gives them. -/
def Instr.wf : Instr → Bool
  -- a 32-bit write is aligned to 4 bytes and a 64-bit one to 8 (R22, R49)
  | .registerWrite _ addr _ hi _ => addr.toNat % (if hi.isSome then 8 else 4) = 0
  | .beamFrameLoRead _ q => q.wf
  | .evtQueuePop _ q => q.wf
  | .tbLoRead q => q.wf
  | .capRead _ q => q.wf
  | .capLogPop _ q => q.wf
  -- BAR2 is at most 64 GiB, a payload at most 512 bytes, a read at most 4,096 bytes (R47, R50)
  | .bar2Write at_ data => 1 ≤ data.length && data.length ≤ 512 && at_.toNat + data.length ≤ 2 ^ 36
  | .bar2Read at_ len => 1 ≤ len.toNat && len.toNat ≤ 4096 && at_.toNat + len.toNat ≤ 2 ^ 36
  -- the doorbell area is 0x210 bytes (R54)
  | .doorbellReadComplete (some bs) => bs.length = 0x210
  -- a descriptor is 64 bytes (R59)
  | .descriptorFetchComplete _ data _ => data.all (·.length = 64)
  -- a WRITE_IND chunk is at most 4,096 words (R62)
  | .writeIndChunkRead _ data _ => data.length ≤ 4096
  | .scrubLine upset => distinctKeys upset
  | .tblScrubWord _ _ upset => distinctKeys upset
  | .lineDeadline _ upset => distinctKeys upset && upset.all (fun u => distinctKeys u.2)
  -- each of 1,023 sources changes at most once in each of four cycles of an entry (R236)
  | .reti _ _ during => during.length ≤ 1023 * 4
  | .interruptEntry _ during => during.length ≤ 1023 * 4
  -- an alignment marker carries 32 bytes (R250), a pixel cell 240 (R251)
  | .alignmentMarkerRx _ _ payload _ => payload.length = 32
  | .cellPixelRx _ _ c => c.payload.length = 240
  -- a line of a DMA program is 64 bytes; a request is at most 4,096 (R311, R47)
  | .dmaProgFetchDone _ _ (some bs) => bs.length = 64
  | .dmaResponse _ _ _ (some bs) => bs.length ≤ 4096
  -- thirty-eight estimators, 48 sensors, 256 monitors (R358, R359, R375)
  | .ledgerWindowEnd mw => mw.length = 38
  | .tempSensorRead t => t.length = 48
  | .almSampleSetEnd vals => vals.length = 256
  -- a PMBus block is at most 32 bytes (R379)
  | .pmbDone (.ok data) => data.length ≤ 32
  | .audioSampleBoundary late lateBuses => (late.map (·.1)).Nodup && lateBuses.Nodup
  | .bistSliceEnd (.done faults) _ _ => faults.length ≤ 1024
  | _ => true

end Sys2Proof
end

