-- ==== Sys2Proof/Tests/Slice0.lean ====
section
/-! SUPPORT. The model's own tests: the well-formedness checks refuse ill-formed commands; a few single steps by the spec's tables;
and, for every statement with hypotheses, states and operands that meet the hypotheses of its clauses. -/

namespace Sys2Proof.Tests
open Sys2Proof.Machine

/-! Well-formedness: each check refuses an ill-formed command, and an aligned one passes. -/

theorem test_wf_accepts : (Instr.registerWrite .host 0x30014 1 (some 2) true).wf = false ∧
    (Instr.registerWrite .host 0x30018 1 (some 2) true).wf = true ∧ (Instr.poll).wf = true := by decide

theorem test_wf_register_write : (Instr.registerWrite .host 2 0 none true).wf = false ∧
    (Instr.registerWrite .host 4 0 (some 0) true).wf = false := by decide

theorem test_wf_bar2 : (Instr.bar2Write 0 []).wf = false ∧ (Instr.bar2Write 0xFFFFFFFFF [some 1, some 2]).wf = false ∧
    (Instr.bar2Read 0 0).wf = false ∧ (Instr.bar2Read 0 4097).wf = false ∧ (Instr.bar2Read 0xFFFFFFFFF 2).wf = false := by decide

theorem test_wf_ring_data : (Instr.doorbellReadComplete (some [1])).wf = false ∧
    (Instr.descriptorFetchComplete 0 [[1]] false).wf = false ∧ (Instr.dmaProgFetchDone 0 0 (some [1])).wf = false := by decide

theorem test_wf_long_lists : (Instr.bar2Write 0 (List.replicate 513 none)).wf = false ∧
    (Instr.writeIndChunkRead 0 (List.replicate 4097 0) none).wf = false ∧
    (Instr.dmaResponse 0 0 0 (some (List.replicate 4097 0))).wf = false := by
  simp only [Instr.wf, List.length_replicate]; decide

theorem test_wf_interrupts : (Instr.reti 0 ⟨0, 0, 0, 0⟩ (List.replicate 4093 (.arrive 0))).wf = false ∧
    (Instr.interruptEntry 0 (List.replicate 4093 (.arrive 0))).wf = false ∧
    (Instr.bistSliceEnd (.done (List.replicate 1025 ⟨0, 0, false⟩)) false false).wf = false := by
  simp only [Instr.wf, List.length_replicate]; decide

theorem test_wf_upsets : (Instr.scrubLine [(0, 1), (0, 2)]).wf = false ∧ (Instr.tblScrubWord 0 0 [(3, 1), (3, 1)]).wf = false ∧
    (Instr.lineDeadline 0 [(1, []), (1, [])]).wf = false ∧ (Instr.lineDeadline 0 [(1, [(2, 1), (2, 1)])]).wf = false := by decide

theorem test_wf_link : (Instr.alignmentMarkerRx 0 0 [1] 0).wf = false ∧
    (Instr.cellPixelRx 0 0 ⟨0, false, false, 0, 0, 0, 0, false, 0, []⟩).wf = false := by decide

theorem test_wf_units : (Instr.ledgerWindowEnd [1]).wf = false ∧ (Instr.tempSensorRead []).wf = false ∧
    (Instr.almSampleSetEnd [0]).wf = false ∧ (Instr.pmbDone (.ok (List.replicate 33 0))).wf = false ∧
    (Instr.audioSampleBoundary [(0, 1), (0, 2)] []).wf = false ∧ (Instr.audioSampleBoundary [] [3, 3]).wf = false := by decide

theorem test_wf_reads : (Instr.tbLoRead ⟨false, 0x1F⟩).wf = false ∧ (Instr.tbLoRead ⟨true, 0xFF⟩).wf = true ∧
    (Instr.evtQueuePop 3 ⟨false, 0x10⟩).wf = false ∧ (Instr.capRead 0 ⟨false, 0x80⟩).wf = false ∧
    (Instr.capLogPop 0 ⟨false, 0xF0⟩).wf = false ∧ (Instr.beamFrameLoRead 0 ⟨false, 0xF⟩).wf = true := by decide

/-! Single steps. -/

/-- A line processor that runs at pc 0x100, on core 3, and a steward core, 17. -/
def lp (k : Core) : State := State.reset.setCore 3 { k with run := .running, pc := 0x100 }
def sc (k : Core) : State := State.reset.setCore 17 { k with run := .running, pc := 0x100 }

/-- The state that a command leaves. -/
def after (i : Instr) (s : State) : State := match exec i s with | .next t => t | _ => s

/-- A core with values in g1 and g2, in the M configuration. -/
def two (a b : Word) : Core := { g := vset (vset (Vector.replicate 32 0) 1 a) 2 b }

/-- R214: a sum that wraps sets C and Z, and an overflow V and N. -/
theorem test_add_flags : (((after (.add 3 ⟨0, 0, 2, 1, 4⟩) (lp (two 0xFFFFFFFF 1))).core 3).pass 1).st.toNat % 16 = 0x6 ∧
    (((after (.add 3 ⟨0, 0, 2, 1, 4⟩) (lp (two 0x7FFFFFFF 1))).core 3).pass 1).st.toNat % 16 = 0x9 := by decide

/-- R216: division truncates toward zero, and the remainder has the sign of the dividend. -/
theorem test_div_truncates : (((after (.div 3 ⟨0, 0, 2, 1, 0⟩) (lp (two (-7) 2))).core 3).pass 18).ml = -3 ∧
    (((after (.div 3 ⟨0, 0, 2, 1, 0⟩) (lp (two (-7) 2))).core 3).pass 18).mh = -1 := by decide

/-- R212: a word of each of four formats, from the opcode tables. -/
theorem test_decode_words : decodeFanel 5 0x00082301 = some (.add 5 ⟨0, 0, 2, 1, 3⟩) ∧
    decodeFanel 5 0xFFFC0120 = some (.addi 5 ⟨-1, 0, 1⟩) ∧ decodeFanel 5 0x00C00565 = some (.loopi 5 ⟨3, 5, 1⟩) ∧
    decodeFanel 5 0x000000E0 = some (.fanelNop 5 ⟨0, 0, 0, 0⟩) ∧ decodeFanel 5 0 = none := by decide

/-! Witnesses of the statements' hypotheses. -/

/-- The state of every arithmetic statement: ready, outside every loop, in M and in X. -/
theorem test_witness_FanelAddSub : (lp {}).ready 3 ∧ (lp { pipeX := true }).ready 3 ∧ (sc {}).ready 17 ∧ ((lp {}).core 3).ld = 0 ∧
    (⟨0, 0, 0, 1, 2⟩ : FmtReg).top = 0 ∧ (⟨0, 0, 0, 1, 2⟩ : FmtReg).sh = 0 ∧ (⟨0, 0, 0, 1, 2⟩ : FmtReg).rb = 0 := by
  simp only [State.ready, State.tcmClean]; decide

theorem test_witness_FanelLogic : (lp (two 5 3)).ready 3 ∧ ((lp (two 5 3)).core 3).ld = 0 := by
  simp only [State.ready, State.tcmClean]; decide

theorem test_witness_FanelCompare : (sc (two 5 3)).ready 17 ∧ ((sc (two 5 3)).core 17).ld = 0 := by
  simp only [State.ready, State.tcmClean]; decide

theorem test_witness_FanelShifts : (lp (two 5 63)).ready 3 ∧ ((lp (two 5 63)).core 3).ld = 0 ∧
    (⟨0, 0, 2, 1, 3⟩ : FmtReg).sh = 0 ∧ (⟨0, 31, 0, 1, 3⟩ : FmtReg).rb = 0 := by
  simp only [State.ready, State.tcmClean]; decide

theorem test_witness_FanelMultiply : (lp { two 5 63 with mh := 1 }).ready 3 ∧ ((lp { two 5 63 with mh := 1 }).core 3).ld = 0 := by
  simp only [State.ready, State.tcmClean]; decide

/-- The operands of each clause: the overflow, an ordinary pair, and a zero divisor with DZE 0 and 1 where the stack can take an entry. -/
theorem test_witness_FanelDivide :
    (lp (two 0x80000000 0xFFFFFFFF)).ready 3 ∧ ((lp (two 0x80000000 0xFFFFFFFF)).core 3).gr 1 = 0x80000000 ∧
    ((lp (two 0x80000000 0xFFFFFFFF)).core 3).gr 2 = 0xFFFFFFFF ∧ (lp (two 7 2)).ready 3 ∧ ((lp (two 7 2)).core 3).gr 2 ≠ 0 ∧
    (lp (two 7 0)).ready 3 ∧ bit ((lp (two 7 0)).core 3).st 5 = false ∧
    (lp { two 7 0 with st := 0x20, g := vset (two 7 0).g 30 0x20000 }).ready 3 ∧
    bit ((lp { two 7 0 with st := 0x20, g := vset (two 7 0).g 30 0x20000 }).core 3).st 5 = true ∧
    (lp { two 7 0 with st := 0x20, g := vset (two 7 0).g 30 0x20000 }).canEnter 3 := by
  simp only [State.ready, State.tcmClean, State.canEnter, State.stackOk, State.noExcHalt, State.vectorsClean]; decide

/-- Aligned words at the first and the last address of the memories, clean and unwatched. -/
theorem test_witness_FanelLoads : (lp (two 0x1FFFC 0)).ready 3 ∧ (0x1FFFC : Nat) % 4 = 0 ∧ (lp {}).tcmClean 3 0x1FFFC ∧
    (lp {}).watchAt 3 0x1FFFC false = false ∧ (lp {}).tcmClean 3 0 ∧ (lp {}).watchAt 3 0 false = false := by
  simp only [State.ready, State.tcmClean]; decide

theorem test_witness_FanelStores : (lp (two 0x1FFFC 0)).ready 3 ∧ (lp {}).tcmClean 3 0x1FFFF ∧
    (lp {}).watchAt 3 0x1FFFF true = false ∧ (lp {}).watchAt 3 0x1FFFC true = false := by
  simp only [State.ready, State.tcmClean]; decide

/-- Windows: a steward's device and pattern windows, a line processor's own beam, a full posting queue, misaligned and unmapped
addresses with a stack for the entry. -/
theorem test_witness_FanelWindows : (sc (two 0x43FFFFFC 0)).ready 17 ∧ (sc (two 0xBFFFFFFE 0)).ready 17 ∧
    (lp (two (0x40100000 + 3 * 0x100000) 0)).ready 3 ∧ (sc { posted := List.replicate 16 (0x40000000, 1) }).ready 17 ∧
    (lp { two 0x20000 0 with g := vset (two 0x20000 0).g 30 0x10008 }).ready 3 := by
  simp only [State.ready, State.tcmClean]; decide

theorem test_witness_FanelWindows_entry : (lp { two 0x20000 0 with g := vset (two 0x20000 0).g 30 0x10008 }).canEnter 3 ∧
    (sc { two 0x40000001 0 with g := vset (two 0x20000 0).g 30 0x10008 }).canEnter 17 := by
  simp only [State.tcmClean, State.canEnter, State.stackOk, State.noExcHalt, State.vectorsClean]; decide

theorem test_witness_FanelBranches : (lp (two 1 1)).ready 3 ∧ (lp (two 1 2)).ready 3 ∧ ((lp (two 1 2)).core 3).ld = 0 ∧
    (⟨0, 0, 0, 7, 0⟩ : FmtReg).rb = 0 := by
  simp only [State.ready, State.tcmClean]; decide

/-- A core at the end of its levels: one level with passes left, one at its last pass, and two that end together. -/
def looped (d : Nat) (inner outer : Word) : Core :=
  { st := BitVec.ofNat 32 (d * 0x2000), le := vset (vset (Vector.replicate 4 0) (d - 1) 0x100) (d - 2) 0x100,
    lc := vset (vset (Vector.replicate 4 0) (d - 2) outer) (d - 1) inner }

theorem test_witness_FanelLoops : (lp {}).ready 3 ∧ ((lp {}).core 3).ld = 0 ∧ (lp (looped 1 2 0)).ready 3 ∧
    ((lp (looped 1 2 0)).core 3).ld = 1 ∧ vget ((lp (looped 1 2 0)).core 3).le 0 0 = 0x100 ∧
    1 < (vget ((lp (looped 1 2 0)).core 3).lc 0 0).toNat ∧ ((lp (looped 4 1 9)).core 3).ld = 4 ∧
    vget ((lp (looped 4 1 9)).core 3).le 3 0 = 0x100 ∧ vget ((lp (looped 4 1 9)).core 3).le 2 0 = 0x100 ∧
    (vget ((lp (looped 4 1 9)).core 3).lc 3 0).toNat ≤ 1 ∧ 1 < (vget ((lp (looped 4 1 9)).core 3).lc 2 0).toNat ∧
    (lp (looped 4 1 9)).ready 3 := by
  simp only [State.ready, State.tcmClean]; decide

/-- The stack at its two ends: room for the words of CALLM just above 0x1_0000, and of RETM just below 0x2_0000. -/
theorem test_witness_FanelFrames : (maskRegs 0).length + 2 = 2 ∧ (lp { g := vset (two 0 0).g 30 0x10008 }).ready 3 ∧
    ((lp { g := vset (two 0 0).g 30 0x10008 }).core 3).gr 30 = 0x10008 ∧
    (∀ j, j < 2 → (lp {}).tcmClean 3 (0x10008 - 4 * 2 + 4 * j)) ∧ (lp { g := vset (two 0 0).g 30 0x1FFF8 }).ready 3 ∧
    (∀ j, j < 2 → (lp {}).tcmClean 3 (0x1FFF8 + 4 * j)) ∧ (lp { g := vset (two 0 0).g 30 0x10009 }).ready 3 ∧
    (lp {}).noExcHalt 3 := by
  simp only [State.ready, State.tcmClean, State.noExcHalt]; decide

/-- Values that each special register takes and, at the next bit, refuses. -/
theorem test_witness_FanelSpecials : (lp (two 0xFFFFF 0xFC00)).ready 3 ∧ (sc (two 47 48)).ready 17 ∧
    (lp { two 0x100000 0x10000 with g := vset (two 0 0).g 30 0x10008 }).canEnter 3 ∧
    (0xFC00 : Nat) < 0x10000 ∧ (0xFC00 : Nat) % 1024 = 0 ∧
    (0x1917F : Nat) < 2 ^ 17 ∧ (0x1917F : Nat) / 256 % 32 ≤ 17 ∧ (0x1917F : Nat) / 8192 % 8 ≤ 4 := by
  simp only [State.ready, State.tcmClean, State.canEnter, State.stackOk, State.noExcHalt, State.vectorsClean]; decide

theorem test_witness_FanelEvents : (lp (two 0xFFFFF 0)).ready 3 ∧ (lp { two 1 0 with ev := 1 }).ready 3 ∧
    ((lp { two 1 0 with ev := 1 }).core 3).ev &&& 1 ≠ 0 ∧
    (State.reset.setCore 3 { run := .waiting, wait := .wfe 2 1, ev := 3 }).core 3 = { run := .waiting, wait := .wfe 2 1, ev := 3 } ∧
    (3 : Word) &&& 1 ≠ 0 := by
  simp only [State.ready, State.tcmClean]; decide

/-- A stopped beam (1), a line past its beam's (2), a line reached (0), and a unit that divides. -/
theorem test_witness_FanelWaits : (lp (two 0 0)).ready 3 ∧ State.reset.rb .beamStatus 0 3 = false ∧
    ((State.reset.wb .beamStatus 0 true 3).beam 3).cf .beamTotal 30 16 3 ≤ 0x3FFF ∧
    ((State.reset.wb .beamStatus 0 true 3).setCore 3 { run := .running, pc := 0x100 }).ready 3 ∧
    (lp { div := some ⟨19, 1, 0⟩ }).fetches 3 ∧ ((lp { div := some ⟨19, 1, 0⟩ }).core 3).t + 1 < 19 ∧
    (State.reset.setCore 3 { run := .waiting, wait := .msync, div := some ⟨19, 1, 0⟩ }).core 3 =
      { run := .waiting, wait := .msync, div := some ⟨19, 1, 0⟩ } := by
  simp only [State.ready, State.fetches, State.tcmClean]; decide

/-- A stack, both debug controls set and clear, and a reserved form. -/
theorem test_witness_FanelExceptions : (lp { g := vset (two 0 0).g 30 0x20000 }).ready 3 ∧
    (lp { g := vset (two 0 0).g 30 0x20000 }).canEnter 3 ∧ (lp {}).rb .lpDbgCtrl 0 3 = false ∧
    ((lp {}).wb .lpDbgCtrl 0 true 3).rb .lpDbgCtrl 0 3 = true ∧ ((lp {}).wb .lpDbgCtrl 1 true 3).rb .lpDbgCtrl 1 3 = true ∧
    ((lp {}).wb .lpDbgCtrl 1 true 3).ready 3 ∧ ((lp {}).core 3).ipl = 0 ∧ (⟨0, 0, 1, 0⟩ : FmtSpec) ≠ ⟨0, 0, 0, 0⟩ := by
  simp only [State.ready, State.tcmClean, State.canEnter, State.stackOk, State.noExcHalt, State.vectorsClean]; decide

/-- A handler that returns with and without IE, and a request of source 704 presented to core 3. -/
def asked : State :=
  ((lp { st := 0x40, g := vset (two 0 0).g 30 0x20000 }).wr .evtSrcCfg (BitVec.ofNat 32 (1 + 3 * 64)) 704).wb .evtSrcStatus 0 true 704

theorem test_witness_FanelInterrupts : (lp { st := 0x100, g := vset (two 0 0).g 30 0x1FFF8 }).ready 3 ∧
    ((lp { st := 0x100, g := vset (two 0 0).g 30 0x1FFF8 }).core 3).ipl ≠ 0 ∧ (lp {}).tcmClean 3 0x1FFF8 ∧ (lp {}).tcmClean 3 0x1FFFC ∧
    (lp {}).vectorsClean 3 ∧ asked.vectorsClean 3 ∧ asked.ready 3 ∧ asked.stackOk 3 ∧ bit (asked.core 3).st 6 = true ∧ asked.presented 3 = some 704 ∧
    (asked.core 3).ipl < asked.srcLevel 704 + 1 ∧ (lp {}).presented 3 = none := by
  simp only [State.ready, State.tcmClean, State.stackOk, State.vectorsClean]; decide

theorem test_witness_FanelDistances : (lp (two 0x10000 5)).ready 3 ∧ (lp { two 0x10000 5 with pipeX := true }).ready 3 ∧
    (after (.ldw 3 ⟨0, 1, 4⟩) (lp (two 0x10000 5))).fetches 3 ∧ (lp {}).tcmClean 3 0x10000 ∧
    (lp {}).watchAt 3 0x10000 false = false := by
  simp only [State.ready, State.fetches, State.tcmClean]; decide

/-- A device in Service with its host: memory and bus mastering enabled, completion ring 0, the event ring and command ring 0 too. -/
def host : State :=
  ((((({ State.reset with pci := { memSpace := true, busMaster := true, linkUp := true, perst := false } }.wf .sysMode 2 0 2).wb .hstCtrl 0 true).wb
    .hstCqCtrl 0 true).wb .hstEqCtrl 0 true).wb .hstCrCtrl 0 true).wf .hstCrStatus 18 17 1

/-- A plain register, a steward's one, a reserved offset, and a word with a reserved bit. -/
theorem test_witness_RegisterWrites : host.barOpen = true ∧ host.mode ≠ 0 ∧
    (addrOf .lpBkpt 15 3 0 < 2 ^ 26 ∧ 15 < (rowOf .lpBkpt).n1 ∧ 3 < (rowOf .lpBkpt).n2 ∧ 0 < (rowOf .lpBkpt).n3) ∧
    regAt (canonAddr (addrOf .lpBkpt 15 3 0)) = some (.lpBkpt, 15, 3, 0) ∧ wordOk .lpBkpt 3 0x8000 = true ∧
    host.fencedAt (addrOf .lpBkpt 15 3 0) = false ∧
    regAt (canonAddr (addrOf .pwrPlanW0 0 0 0)) = some (.pwrPlanW0, 0, 0, 0) ∧ wordOk .pwrPlanW0 0 0xFFFFFFFF = true ∧
    (0x3C : Nat) % 4 = 0 ∧ regAt (canonAddr 0x3C) = none ∧ wordOk .pwrPlanW1 0 0xFC00 = false ∧ (8 : Nat) % 8 = 0 := by decide

/-- A BAR2 write and a read that end at the window's size, over clean lines. -/
theorem test_witness_HostWindow : host.barOpen = true ∧ host.scanned = false ∧ (0x3FFFFFFF : Nat) + 1 ≤ 2 ^ (30 + host.pci.bar2Size) ∧
    host.rf .hstBar2Offset 5 0 = 0 ∧ (∀ ln, host.lineErr ln = [] ∧ host.store.poison.contains ln = false ∧ host.fenced (20 + stackOf (64 * ln)) = false) ∧
    host.store.inject = none ∧ host.inPlRegion 0x3FFFFFC0 64 = false := by
  refine ⟨by decide, by decide, by decide, by decide, fun ln => ⟨rfl, rfl, ?_⟩, rfl, by decide⟩
  have h : ∀ c, c < 64 → host.fenced (20 + c / 32) = false := by decide
  exact h _ (by unfold pseudoChannel; exact Nat.xor_lt_two_pow (n := 6) (Nat.xor_lt_two_pow (n := 6) (by omega) (by omega)) (by omega))

/-- Modes that allow an injection and not; a scrubber that runs over a clean line and over lines with one to three symbols upset; a client
of each kind; clean and upset table words. -/
theorem test_witness_StoreProtection : (host.wf .sysMode 2 0 1).rf .sysMode 2 0 = 1 ∧ host.rf .sysMode 2 0 = 2 ∧
    (host.wf .sysMode 2 0 5).rf .sysMode 2 0 = 5 ∧
    host.rb .sysPsStatus 0 = false ∧ (host.wb .sysPsCtrl 0 true).rb .sysPsCtrl 0 = true ∧ (host.wb .sysPsCtrl 1 true).rb .sysPsCtrl 1 = true ∧
    host.lineErr (host.rf .sysPsScrubPos 29 0) = [] ∧ host.store.poison.contains 0 = false ∧
    (∀ n, n ≤ 3 → State.lineErr { host with store := { host.store with err := [(0, [(0, 0x5A), (21, 0x5A), (42, 0x5A)].take n)] } } 0 =
      [(0, 0x5A), (21, 0x5A), (42, 0x5A)].take n) ∧ host.barOpen = true ∧
    (0 : Nat) + 64 ≤ 2 ^ (30 + host.pci.bar2Size) ∧ host.inPlRegion 0 64 = false ∧ (20 : Fin 23).val < 21 ∧ 21 ≤ (21 : Fin 23).val ∧
    kvGet (5 * 2 ^ 32 + 2621439) host.tbl.err = none ∧ host.tbl.poison.contains (5 * 2 ^ 32 + 2621439) = false ∧
    kvGet (5 * 2 ^ 32 + 2621439) host.tbl.off = none ∧ host.fenced (20 + stackOf 0) = false ∧
    (host.wb .sysPsCtrl 0 true).deferredWaits 21 = true ∧ (host.wb .sysPsCtrl 0 false).deferredWaits 21 = false ∧
    kvGet (5 * 2 ^ 32) [(5 * 2 ^ 32, [((0 : Nat), (0x5A : Byte))])] = some [(0, 0x5A)] := by decide

/-- A 64-byte descriptor from its first bytes, and command ring 0 with it next. -/
def desc (bs : List Byte) : List Byte := bs ++ List.replicate (64 - bs.length) 0
def queued (bs : List Byte) : State := host.setRing 0 { ready := [(7, desc bs)] }

/-- Ring 0 begins its descriptor: a check that evaluates. -/
theorem begins_of {s : State} {r i : Nat} {d : List Byte} {op : Nat} (h : (s.ring r).ready.head? = some (i, d)) (k : s.turn r = true)
    (x : descOp d = op ∧ descBadByte d = none ∧ descBadRange d = none) : s.begins r i d op := by
  refine ⟨?_, k, x⟩
  cases hl : (s.ring r).ready with
  | nil => rw [hl] at h; cases h
  | cons a l =>
    rw [hl] at h
    simp only [List.head?_cons, Option.some.injEq] at h
    exact ⟨l, by rw [h]⟩

/-- A poll in progress and one that is due, seven failed reads, fetched descriptors and a completion that waits. -/
theorem test_witness_RingPolling : host.polling = true ∧ host.hst.polling = false ∧ host.pci.busMaster = true ∧ host.scanned = false ∧
    State.polling { host with hst := { host.hst with polling := true, failed := 6 } } = true ∧ (6 : Nat) < 7 ∧
    host.rb .hstCrCtrl 0 0 = true ∧ (0 : Nat) < 2 ^ (6 + 1) ∧ ringCount 6 64 0 ≤ 2 ^ 6 ∧ 2 ^ 6 < ringCount 6 65 0 ∧ host.rf .hstCrCtrl 5 1 0 ≤ 16 ∧
    (host.setRing 0 { fetching := [(0, 1), (1, 1)] }).rf .hstCrCtrl 5 1 0 ≤ 16 ∧
    ((host.setRing 0 { waiting := [⟨0, 0, 0, 0, 0, 0, 0⟩] }).ring 0).waiting ≠ [] ∧ host.canPostEvent := by
  simp only [State.canPostEvent]; decide

/-- Bases at 4 KiB that are aligned and not, a completion ring that is enabled and not, rings to be disabled. -/
def idle : State := (host.wb .hstCrCtrl 0 false).wf .hstCrStatus 18 17 0

theorem test_witness_RingControl : idle.rb .hstCrCtrl 0 0 = false ∧ idle.rf .hstCrStatus 18 17 0 = 0 ∧
    idle.addr64 .hstCrBaseLo .hstCrBaseHi 0 % 4096 = 0 ∧
    idle.addr64 .hstCrBaseLo .hstCrBaseHi 0 % (2 ^ idle.rf .hstCrCtrl 5 1 0 * 64) = 0 ∧ idle.rb .hstCqCtrl 0 (idle.rf .hstCrCtrl 11 6 0) = true ∧
    host.rb .hstCrCtrl 0 1 = false ∧ (host.wr .hstCrBaseLo 0x40 1).addr64 .hstCrBaseLo .hstCrBaseHi 1 % 4096 ≠ 0 ∧ host.rb .hstCqCtrl 0 1 = false ∧
    host.rb .hstCrCtrl 0 0 = true ∧ host.rf .hstCrStatus 18 17 0 = 1 ∧ (host.ring 0).ready = [] ∧ (host.ring 0).cq = 0 ∧
    (host.wb .hstCrCtrl 0 false).rf .hstCrStatus 18 17 0 ≠ 0 ∧ 7 ∉ ((queued []).ring 0).begun ∧
    ((queued []).ring 0).ready = [(7, desc [])] ∧ ((queued []).ring 0).hold = none ∧ (queued []).canPost 0 ∧
    host.rb .hstCqCtrl 0 0 = true ∧ host.rb .hstEqCtrl 0 = true ∧ State.reset.rb .hstEqCtrl 0 = false := by
  simp only [State.canPost]; decide

set_option maxRecDepth 4000 in
theorem test_witness_RingControl_unused : (State.reset.wb .hstCqCtrl 0 true).rb .hstCqCtrl 0 = true ∧
    ¬∃ q, q < 64 ∧ (State.reset.wb .hstCqCtrl 0 true).rf .hstCrStatus 18 17 q ≠ 0 ∧ ((State.reset.wb .hstCqCtrl 0 true).ring q).cq = 0 := by
  decide

/-- Each opcode begins on a ring that can post; an epoch that is met and not; a line of a stopped beam and of a running one, inside and past
it; a channel that runs and not. -/
theorem test_witness_RingWaits :
    (queued []).begins 0 7 (desc []) 0 ∧
    (queued [9, 0, 0, 0, 0, 0, 0, 0, 0, 0, 0, 0, 1]).begins 0 7 (desc [9, 0, 0, 0, 0, 0, 0, 0, 0, 0, 0, 0, 1]) 9 ∧
    (queued [9, 0, 0, 0]).begins 0 7 (desc [9, 0, 0, 0]) 9 ∧
    (queued [10, 0, 0, 0, 0, 0, 0, 0, 0, 0, 0xFF, 0x3F]).begins 0 7 (desc [10, 0, 0, 0, 0, 0, 0, 0, 0, 0, 0xFF, 0x3F]) 10 ∧
    (queued [10]).begins 0 7 (desc [10]) 10 ∧
    (queued [0x10]).begins 0 7 (desc [0x10]) 0x10 ∧
    (queued [0x11]).begins 0 7 (desc [0x11]) 0x11 ∧
    (queued [0x18]).begins 0 7 (desc [0x18]) 0x18 ∧
    (queued []).canPost 0 ∧
    host.rd .sysBeamEpoch 0 = 0 ∧
    newer 0 1 = false ∧
    (host.beam 0).run = .stopped ∧
    (0 < (host.beam 0).cf .beamTotal 30 16 0 ∧ (host.beam 0).cf .beamTotal 30 16 0 ≤ 0x3FFF) ∧
    (host.chan 0).active = false ∧
    ((queued [0x18]).ring 0).begun = [] := by
  refine ⟨begins_of (by decide) (by decide) (by decide), begins_of (by decide) (by decide) (by decide), begins_of (by decide) (by decide) (by decide), begins_of (by decide) (by decide) (by decide), begins_of (by decide) (by decide) (by decide), begins_of (by decide) (by decide) (by decide), begins_of (by decide) (by decide) (by decide), begins_of (by decide) (by decide) (by decide), ?_⟩
  simp only [State.canPost]; decide

/-- Accesses to the last two words of a colour table's plane, and one of no word. -/
def access (op : Byte) (tail : List Byte) : List Byte :=
  desc ([op, 0, 0, 0, 0, 0, 0, 0] ++ bytesLE 4 (addrOf .lutPlane 15 8 2046) ++ tail)
def accessing (op : Byte) (tail : List Byte) : State := host.setRing 0 { ready := [(7, access op tail)] }

theorem test_witness_RingAccesses :
    (accessing 1 [2, 0, 0, 0, 0xFF, 0xF, 0xFF, 0xF]).begins 0 7 (access 1 [2, 0, 0, 0, 0xFF, 0xF, 0xFF, 0xF]) 1 ∧
    (accessing 3 [2]).begins 0 7 (access 3 [2]) 3 ∧
    (accessing 2 [2]).begins 0 7 (access 2 [2]) 2 ∧
    (accessing 4 [2]).begins 0 7 (access 4 [2]) 4 ∧
    (access 1 [2, 0, 0, 0, 0xFF, 0xF, 0xFF, 0xF]).length = 64 ∧
    (0xFFF0FFF : Word) &&& 0xF000F000 ≠ 0xF000F000 ∧
    (0xFFF0FFF : Word) &&& 0xF000F000 = 0 ∧
    descField (access 4 [2]) 12 4 = 2 ∧
    2046 + 2 ≤ 2048 ∧
    descField (access 4 [2]) 8 4 = addrOf .lutPlane 15 8 2046 ∧
    (accessing 3 []).turn 0 = true ∧
    descOp (access 3 []) = 3 ∧
    descBadByte (access 3 []) = none ∧
    descField (access 3 []) 12 4 = 0 ∧
    (host.tbl.err = [] ∧ host.tbl.poison = [] ∧ host.tbl.off = []) ∧
    (accessing 4 [2]).canPost 0 ∧
    (0 : Nat) < 0 + 4 * min 4096 2 := by
  refine ⟨begins_of (by decide) (by decide) (by decide), begins_of (by decide) (by decide) (by decide), begins_of (by decide) (by decide) (by decide), begins_of (by decide) (by decide) (by decide), ?_⟩
  simp only [State.canPost]; decide

/-- Every mode from which a loss is taken and in which it is silent, and a record that can be posted. -/
theorem test_witness_HostLoss : host.sys.entering = false ∧ host.mode = 2 ∧ (host.wf .sysMode 2 0 6).mode = 6 ∧ State.reset.mode = 0 ∧
    host.rb .hstCtrl 0 = true ∧ (host.wf .hstHb 15 0 1).rf .hstHb 15 0 ≠ 0 ∧ (host.wf .hstHb 15 0 0).rf .hstHb 15 0 = 0 ∧
    (host.wf .sysMode 2 0 6).sys.lossAt ≠ some (host.wf .sysMode 2 0 6).now ∧
    State.now { host with sys := { host.sys with lossAt := some 0 } } = 0 ∧ (host.ring 0).waiting = [] ∧ (host.ring 0).hold = none ∧
    host.pci.busMaster = true ∧ host.pci.d3hot = false ∧ (host.wf .sysMode 2 0 6).canPostEvent := by
  simp only [State.canPostEvent]; decide

theorem test_witness_Configuration : State.reset.pci.perst = true ∧ host.pci.perst = false ∧ host.sys.reset ≠ .up ∧ host.scanned = false ∧
    ({ host with sys := { host.sys with reset := .up } } : State).sys.reset = .up ∧ host.pci.linkUp = true ∧
    State.reset.pci.linkUp = false := by decide

/-- A COMMIT of group 15 that names an older epoch, a newer one and none; one that the census holds; a leader and a follower whose transfer
has arrived, whose guard runs, and whose fence has not come. -/
def commits (epoch explicit : Byte) : State := queued [8, 0, 0, 0, 0, 0, 0, 0, 15, explicit, 0, 0, epoch]
def follower : State :=
  ((host.wb .sysCgCtrl 0 true 15).wb .sysCgCtrl 1 true 15).setGrp 15 { want := true, moving := true }

theorem test_witness_Commits :
    (commits 0 1).begins 0 7 (desc [8, 0, 0, 0, 0, 0, 0, 0, 15, 1, 0, 0, 0]) 8 ∧
    (commits 1 1).begins 0 7 (desc [8, 0, 0, 0, 0, 0, 0, 0, 15, 1, 0, 0, 1]) 8 ∧
    (commits 0 0).begins 0 7 (desc [8, 0, 0, 0, 0, 0, 0, 0, 15, 0, 0, 0, 0]) 8 ∧
    newer 0 ((commits 0 1).rd .sysCgEpoch 15) = false ∧
    newer 1 ((commits 1 1).rd .sysCgEpoch 15) = true ∧
    (commits 0 0).cenHolds 15 = false ∧
    (((commits 0 0).wf .sysCenStatus 7 4 15).wb .sysCenStatus 8 true).cenHolds 15 = true ∧
    (commits 0 1).canPost 0 ∧
    (follower.grp 15).moving = true ∧
    (follower.grp 15).want = true ∧
    (follower.grp 15).fence ≠ some (follower.rd .sysCgEpoch 15) ∧
    follower.rb .sysCgCtrl 0 15 = true ∧
    follower.rb .sysCgCtrl 1 15 = true ∧
    host.rb .sysCgCtrl 0 15 = false ∧
    ((follower.setGrp 15 { guard := true }).grp 15).guard = true ∧
    ((follower.setGrp 15 { moving := true, waived := true }).grp 15).waived = true ∧
    ((follower.setGrp 15 { moving := true, fence := some 0 }).grp 15).fence = some (follower.rd .sysCgEpoch 15) ∧
    (host.grp 15).moving = false ∧ (host.grp 15).guard = false ∧ (host.grp 15).want = false ∧
    (host.beam 0).run = .stopped ∧ ((host.setBeam 3 { run := .running }).beam 3).run ≠ .stopped ∧ host.groupOf 3 = 3 ∧
    (addrOf .beamTotal 3 0 0 < 2 ^ 26 ∧ ttIndex (addrOf .cmpOrder0 3 0 0) = none) := by
  refine ⟨begins_of (by decide) (by decide) (by decide), begins_of (by decide) (by decide) (by decide), begins_of (by decide) (by decide) (by decide), ?_⟩
  simp only [State.canPost]; decide


/-- A census that is streaming a group's section, a record or its end, of 4096 bytes of which some are used, and one that waits. -/
def taking (todo : List CenItem) (used : Nat) : State :=
  { (host.wf .sysCenStatus 2 0 2).wf .sysCenSize 19 0 1 with census := { todo, bytes := used } }

theorem test_witness_Census : host.mode ≠ 0 ∧ State.reset.mode = 0 ∧ host.cenState ≠ 1 ∧ host.cenState ≠ 2 ∧ host.asleep = false ∧
    (host.wf .sysMode 2 0 4).asleep = true ∧ host.rf .sysCenSize 19 0 = 0 ∧ (taking [] 0).rf .sysCenSize 19 0 * 4096 = 4096 ∧
    host.rb .sysCenStatus 8 = false ∧ (cenPlan ((host.wf .sysCenScope 15 0 0x8000).rd .sysCenScope)).head? = some (.group 15) ∧
    host.rf .pwrStatus 1 0 ≠ 2 ∧ (host.wf .sysCenStatus 2 0 1).cenState = 1 ∧ (taking [.group 15] 0).cenState = 2 ∧
    (taking [.group 15] 0).rb .sysCenStatus 8 = false ∧ ((taking [.group 15] 0).grp 15).commits = [] ∧
    ((taking [.group 15] 0).grp 15).want = false ∧ (taking [.record (List.replicate 32 1), .done] 4064).census.abort = false ∧
    (4064 : Nat) + 32 ≤ 4096 ∧ (32 : Nat) ≤ 4096 - 4064 ∧ (4096 : Nat) < 4065 + 32 ∧ (4056 : Nat) + 40 ≤ 4096 ∧
    host.pci.busMaster = true ∧ host.scanned = false ∧ (taking [.record (List.replicate 32 1), .done] 0).asleep = false ∧
    (taking [.record (List.replicate 32 1), .done] 0).census.todo = [.record (List.replicate 32 1), .done] := by decide

/-- A running beam, and one whose group is ready with its pending epoch. -/
def beaming (b : Beam) : State := host.setBeam 15 { b with run := .running }
def adopting (lines next : Nat) : Beam := { curLines := lines, nextLine := next, atStart := false }

set_option maxRecDepth 20000 in
theorem test_witness_BeamFrames :
    (({} : Beam).emf .beamCalends 7 0 15 = 0 ∧ (adopting 1080 1080).curLines ≤ 1080 + 0 ∧ ¬(adopting 1080 1079).curLines ≤ 1079 + 0) ∧
    ((((beaming { adopting 1080 1080 with pend := some (0, 1, []) }).setGrp 0 { ready := some 1 }).grp 0).ready = some 1) ∧
    ((beaming (adopting 1080 1080)).beam 15).pend = none ∧ ((beaming (adopting 1080 1080)).beam 15).calDone = false ∧
    ((beaming { adopting 1080 1080 with calDone := true }).beam 15).run = .running ∧
    (beaming {}).frameNo 15 + 1 < 2 ^ 48 ∧
    2 ^ 48 ≤ (((beaming {}).wf .beamFrameHi 15 0 0xFFFF 15).wr .beamFrameLo 0xFFFFFFFF 15).frameNo 15 + 1 ∧
    ((beaming { adopting 1080 1080 with calDone := true, stopping := true }).beam 15).plPend = none ∧
    ((host.setBeam 15 { run := .starting }).beam 15).run = .starting ∧ (host.rail 1).ready = true ∧
    ((host.setRail 1 { ready := false }).rail 1).ready = false ∧
    (host.wf .beamStatus 3 2 1 15).rf .beamStatus 3 2 15 = 1 ∧ (host.wf .beamStatus 3 2 2 15).rf .beamStatus 3 2 15 = 2 ∧
    host.scanned = false ∧
    ((beaming { adopting 1080 1080 with calDone := true, genlock := { jump := some 5 } }).beam 15).genlock.jump = some 5 ∧
    ((beaming { adopting 1080 1080 with calDone := true }).beam 15).genlock.jump = none ∧
    ((beaming { adopting 1080 1079 with dl := 1080, copied := some ⟨1079, 1, false, default⟩ }).beam 15).lines 15 = 1080 ∧
    (1079 : Nat) + 0 < 1080 ∧ (adopting 1080 1079).routePend = none ∧ (adopting 1080 1079).curKind ≠ .repeated := by
  decide

/-- A generator that may begin line 0, one at the last line, one with a line whose band is complete; deadlines of each source; entries
that are good, late, past, and wrong. -/
def gen1 (b : Beam) : State := host.setBeam 15 { b with run := .running, generating := true }
def entry (w2 w3 : Word) : Rec4 := ⟨1, 0xFFFFFFFF, w2, w3⟩

def bgb : Word := BitVec.ofNat 32 (addrOf .cmpBgB 15 0 0 - beamBase 15)
def good : Rec4 := entry bgb 1079
def ver : Version := host.idleVersion 15
def doing : GenLine := ⟨1079, []⟩
def banded : Beam := { gen := some doing, bands := List.replicate 135 ⟨some [], false⟩ }

set_option maxRecDepth 20000 in
theorem test_witness_RunAhead :
    (let b := (gen1 {}).beam 15
     b.run = .running ∧ b.generating = true ∧ b.gen = none ∧ b.restart = none ∧ b.lines 15 = 1080 ∧
       b.heldLines < b.leadLimit 15 (host.rd .lpRaCtrl 15) ∧ b.slotsUsed < b.slotsN 15) ∧
    max ({ g := 1079 } : Beam).g 0 < 1080 ∧
    ((gen1 banded).beam 15).bandOf 1079 = some [] ∧ (gen1 banded).lineReady 15 doing = true ∧
    ((gen1 { gen := some doing }).beam 15).bandOf 1079 = none ∧
    ([⟨0, true, some ver, none⟩].find? (fun x : Slot => x.line == 0) = some ⟨0, true, some ver, none⟩) ∧
    ([⟨0, true, none, some ver⟩].find? (fun x : Slot => x.line == 0)).isSome = true ∧ ver.bad = false ∧
    ((gen1 {}).beam 15).dl = ((gen1 {}).beam 15).emitted ∧ ((gen1 {}).beam 15).atStart = true ∧
    ((gen1 { last := some ⟨0, 1, false, ver⟩ }).beam 15).last = some ⟨0, 1, false, ver⟩ ∧
    ((gen1 { restart := some 1079 }).beam 15).restart = some 1079 ∧
    entryReason 15 1080 { good with w1 := 0xFFF } = 0 ∧ entryReason 15 1080 { good with w1 := 0xFFF, w3 := 1080 } = 5 ∧
    entryReason 15 1080 good = 3 ∧
    (entryFrame { good with w3 := 0x7F0000 } + 256) % 256 = 127 ∧ (entryFrame { good with w3 := 0x800000 } + 256) % 256 = 128 ∧
    (entryFrame good + 256) % 256 = 0 ∧ entryLine good = 1079 ∧ (({ g := 1080 } : Beam).emitted ≤ 1079 ∧ 1079 < ({ g := 1080 } : Beam).g) ∧
    (1079 : Nat) < ({ emitted := 1080 } : Beam).emitted := by decide

/-- The last entry of the OAT in a beam of another group; a change store that is full; a worker with the last band; an importing plane
whose line has not come by its grace. -/
def split : State := (host.wr .sysCgMap 0x10000000 0).wr .oat 1 131071 0
def importing (b : Beam) : State :=
  let live : RegFile := [(addrOf .bmpCtrl 15 2 0, 0x19), (addrOf .bmpImp 15 2 0, 0x100)]
  host.setBeam 15 { b with live, curLines := 1080, nextLine := 1080, calDone := true, atStart := false, gen := some ⟨0, []⟩ }

set_option maxRecDepth 20000 in
theorem test_witness_Objects :
    wordOk .oat 6 0xFFFFFFFF = false ∧ wordOk .oat 0 0x1E = true ∧
    (bit (oatW split.regs 131071 0) 0 = true ∧ split.groupOf (oatBeam split.regs 131071) ≠ split.groupOf (fld 0xE 4 1)) ∧
    (bit (oatW host.regs 131071 0) 0 = false ∧ ∀ m, m < 16 → bit (oatW (host.committedOf m) 131071 0) 0 = false) ∧ (131071 : Nat) ∉ host.oat.slots ∧ host.oat.slots.length < 32768 ∧
    ((host.setBeam 15 { sorting := true }).beam 15).sorting = true ∧ host.tbl = {} ∧
    (let s := host.setBeam 15 { bands := List.replicate 135 ⟨none, false⟩ }
     vget { s.bin with work := vset s.bin.work 15 (some (15, 134)) }.work 15 none = some (15, 134) ∧
       (s.beam 15).bandStore 15 + ((bandAll 15 (s.beam 15).live (s.beam 15).sorted 134).take 16384).length ≤ 131072) ∧
    ((importing {}).lineCtx 15 ⟨0, []⟩).bmpReady 2 {} = false ∧
    ((importing {}).beam 15).graceOver 0 (((importing {}).lineCtx 15 ⟨0, []⟩).f .bmpImp 11 8 2) = true ∧
    ((importing {}).lineCtx 15 ⟨0, []⟩).bmpReady 2 { slots := [(0, { line := 0, epochLo := 0, count := 1 })] } = true := by
  decide
theorem test_witness_Objects_full : (5 : Nat) ∉ List.replicate 32768 6 ∧ 32768 ≤ (List.replicate 32768 6).length := by
  simp only [List.mem_replicate, List.length_replicate]; decide

/-- A package of no beams, unsigned, and one of a wrong format; the engine in each of its states. -/
def engine (st : Nat) (p : List Byte) : State := { host.wf .cmpPleStatus 2 0 st with ple := { pkg := p } }
def pkg (version flags : Byte) : List Byte :=
  [version, 0, 0, 0x80] ++ bytesLE 4 0 ++ bytesLE 8 1 ++ bytesLE 4 0 ++ [flags, 0, 0, 0] ++ bytesLE 4 64 ++ bytesLE 4 0 ++
    bytesLE 4 1 ++ bytesLE 4 128 ++ List.replicate 24 0 ++ bytesLE 4 0 ++ bytesLE 4 0x100 ++ bytesLE 4 0x100 ++ List.replicate 180 0 ++ List.replicate 64 0x5A

set_option maxRecDepth 20000 in
theorem test_witness_PlPackages :
    (engine 2 []).rf .cmpPleStatus 2 0 = 2 ∧ (host.wf .cmpPleStatus 2 0 4).rf .cmpPleStatus 2 0 = 4 ∧ host.lcState ≠ 5 ∧
    (host.wf .sysLcStatus 2 0 5).lcState = 5 ∧ host.asleep = false ∧ host.pci.busMaster = true ∧ host.scanned = false ∧
    (engine 3 (pkg 1 2)).ple.pkg = pkg 1 2 ∧ (engine 3 (pkg 1 2)).rb .cmpPleStatus 3 = false ∧
    pkgFormatOk (pkg 1 2) = true ∧ pkgFormatOk (pkg 2 2) = false ∧
    (pkgField (pkg 1 2) 24 4 ≤ 2 ^ 24 ∧ pkgField (pkg 1 2) 24 4 % 64 = 0) ∧
    (engine 3 []).addr64 .cmpPleSeqLo .cmpPleSeqHi < pkgField (pkg 1 2) 8 8 ∧ (pkgField (pkg 1 2) 20 1).testBit 0 = false ∧
    (pkgField (pkg 1 2) 20 1).testBit 1 = true ∧ pkgFormatOk (pkg 1 0) = false ∧
    (∀ open_, (engine 3 []).regionOk (pkg 1 2) open_ = true) ∧
    ((pkg 1 2).drop (64 + 192 * (pkgBeams (pkg 1 2)).length)).take 64 = List.replicate 64 0x5A ∧
    ((engine 4 (pkg 1 2)).rf .cmpPleRegionBase 15 0 * 2 ^ 20 + pkgField (pkg 1 2) 28 4 * 64 + 64 ≤ 0xC00000000) ∧
    (host.fenced 20 = false ∧ host.fenced 21 = false) ∧ State.rf { engine 2 [] with pci := {} } .cmpPleStatus 2 0 = 2 ∧
    (engine 4 (pkg 1 2)).ple.sent = false ∧ (pkgBeams (pkg 1 2))[0]? = some 15 ∧ host.store = {} ∧
    (host.beam 15).run = .stopped ∧ ((beaming {}).beam 15).run ≠ .stopped := by
  decide

/-- Line processor 15 under LP_CTRL, and steward core 19 in a window access at a window's last bytes. -/
def up (k : Core) : State := (host.wb .lpCtrl 0 true 15).setCore 15 k
def stepping : State := up { run := .halted, pc := 0x100, itcm := [(64, 0xE0)] }
def steppingOn (halt : Bool) : State :=
  (stepping.wr .lpCtrl (setBit (setBit (stepping.rd .lpCtrl 15) 2 halt) 3 false) 15).setCore 15
    { run := .running, why := 0, skipBp := true, pc := 0x100, itcm := [(64, 0xE0)] }
def returning : State :=
  up { run := .halted, pc := 0x100, st := 0x100, g := vset (two 0 0).g 30 0x1FFF8, itcm := [(64, (encodeFanel (.reti 15 ⟨0, 0, 0, 0⟩ [])).elim 0 (·.2))] }
def windowed (w : CoreWait) : State := host.setCore 19 { run := .waiting, wait := w }

theorem test_witness_LpControl :
    host.rb .lpCtrl 1 15 = (host.core 15).pipeX ∧ host.rb .lpCtrl 3 15 = false ∧ host.rb .lpCtrl 2 15 = false ∧ (host.core 15).run = .reset ∧
    host.mode ≠ 7 ∧ (host.wf .sysMode 2 0 7).mode = 7 ∧ stepping.rb .lpCtrl 0 15 = true ∧ stepping.rb .lpCtrl 1 15 = (stepping.core 15).pipeX ∧
    ((up { run := .running }).core 15).run = .running ∧ ((up { run := .waiting }).core 15).pend = [] ∧
    ((up { run := .waiting }).core 15).inWindow = false ∧ ((up { run := .waiting, wait := .load 0x80000000 4 true 3 }).core 15).inWindow = true ∧ (stepping.core 15).run = .halted ∧
    decodeFanel 15 ((stepping.core 15).tcmWord (stepping.core 15).pc.toNat) = some (.fanelNop 15 ⟨0, 0, 0, 0⟩) ∧
    (decodeFanel 15 ((returning.core 15).tcmWord 0x100) = some (.reti 15 ⟨0, 0, 0, 0⟩ []) ∧ (returning.core 15).ipl ≠ 0 ∧
      (returning.core 15).gr 30 = 0x1FFF8 ∧ returning.tbl.err = [] ∧ returning.tbl.poison = []) ∧ stepping.pendingSrcs = [] ∧
    host.fenced (20 + stackOf 0x3FFFFFFC) = false ∧
    (∀ size, size = 1 ∨ size = 2 ∨ size = 4 → 0x3FFFFFFC % size = 0) ∧
    (0x3FFFFFFC : Nat) + ((windowed .none).core 19).pswin.toNat * 2 ^ 30 < 0xC00000000 ∧
    host.lineErr 0xFFFFFF = [] ∧ host.store.poison = [] ∧ host.store.inject = none ∧ host.inPlRegion 0x3FFFFFFC 4 = false ∧
    ((windowed (.load 0xBFFFFFFC 4 true 3)).core 19).ld = 0 ∧ ((windowed (.store 0xBFFFFFFC 4 5)).core 19).posted = [] := by
  refine ⟨by decide, by decide, by decide, by decide, by decide, by decide, by decide, by decide, by decide, by decide, by decide, by decide, by decide, by decide, by decide, by decide, by decide, ?_, by decide⟩
  rintro _ (rfl | rfl | rfl) <;> decide

theorem test_witness_LpControl_step (halt : Bool) : ∃ u, exec (.fanelNop 15 ⟨0, 0, 0, 0⟩) (steppingOn halt) = .next u ∧
    (u.core 15).run = .running ∧ (u.core 15).pend = [] ∧ (u.core 15).div = none ∧ u.mode ≠ 7 := by
  cases halt <;> exact ⟨_, rfl, by decide⟩

/-- A posted store that enables a plain register's word. -/
theorem test_witness_LpControl_posted : ∃ u, exec (.registerWrite .steward (BitVec.ofNat 26 (addrOf .lpBkpt 15 0 0)) 0x8000 none true)
    (host.setCore 19 { run := .running }) = .next u ∧ (u.core 19).run ≠ .waiting ∧ u.rd .lpBkpt 15 0 = 0x8000 :=
  ⟨_, rfl, by decide⟩

/-- Port 7 in a state, and its lanes all with the same grades. -/
def port7 (st : Nat) (g : Port) : State := (host.wf .lnkPStatus 2 0 st 7).setPort 7 g
def graded (l r : Nat) : Vector Lane 4 := Vector.replicate 4 { localGrade := l, remoteGrade := r }
def heard : Port := { lanes := Vector.replicate 4 { ctl := 1, status := 0xE700, ctlSame := 2, statusSame := 2 } }
def all4 : Port := { ctl0 := 0xF8, rate := 1, lastRate := 1, lanes := graded 3 3 }

set_option maxRecDepth 20000 in
theorem test_witness_LinkTraining : host.rb .lnkPCtrl 11 7 = false ∧ host.portState 7 = 0 ∧ host.mode ≠ 4 ∧ (host.wf .sysMode 2 0 4).mode = 4 ∧
    (∀ st, st < 8 → (port7 st {}).portState 7 = st) ∧ host.scanned = false ∧
    ((({} : Port).lane 3).ctl ≠ 1 ∧ (({} : Port).lane 3).statusSame = 0 ∧ (heard.lane 3).ctlSame = 2 ∧ (heard.lane 3).statusSame = 2 ∧
      (heard.lane 3).ctl = 1 ∧ (heard.lane 3).status = 0xE700) ∧
    (all4.rate ≠ 0 ∧ 3 ∈ all4.mask) ∧ (({ all4 with lanes := graded 0 1 }).lane 3).localGrade = 0 ∧ (all4.lane 3).localGrade ≠ 0 ∧
    (({ all4 with lanes := graded 1 0 }).lane 3).remoteGrade = 0 ∧
    (all4.allGraded = true ∧ all4.fecBad = false ∧ all4.usable ≠ [] ∧ all4.common = 0 ∧ ({ all4 with lanes := graded 0 0 }).usable = []) ∧
    (4 : Nat).testBit 2 = true ∧ (2 : Nat).testBit 1 = true ∧ all4.trained = [] ∧ all4.lastRate = 1 ∧
    ({ all4 with rate := 0, mode := [3] }).mode ≠ [] := by decide

def marker : List Byte := List.replicate 28 0x5A ++ bytesLE 4 (crc32c (List.replicate 28 0x5A))
def lane3 (st : Nat) (x : Lane) : State := (port7 st { lanes := vset (Vector.replicate 4 {}) 3 x }).wb .lnkPStatus 8 true 7
def ready7 (g : Port) : State := (port7 5 g).wf .lnkPMasqCtrl 2 0 0 7
def masq : State := (((port7 5 { pixels := [(0, { type := 1 })] }).wr .lnkPMasqCtrl 0x10001 7).wr .lnkPMasqBeams 0xFFFF 7).wr .lnkPMasqPeriod 1 7

set_option maxRecDepth 20000 in
theorem test_witness_LinkFlow :
    crc32c (marker.take 28) = leNat ((marker.drop 28).take 4) ∧ crc32c [] ≠ leNat [1] ∧ 3 ∈ (lane3 3 {}).modeLanes 7 ∧
    (lane3 3 {}).portState 7 = 3 ∧ (lane3 5 {}).portState 7 = 5 ∧ (((lane3 5 { locked := true, amBad := 2 }).port 7).lane 3).amBad = 2 ∧
    (((lane3 5 { amBad := 2 }).port 7).lane 3).locked = false ∧ ((host.wb .lnkPStatus 9 true 7).rb .lnkPStatus 9 7 = true) ∧
    host.rb .lnkPStatus 9 7 = false ∧ (host.port 7).ucw.length = 4 ∧ ((host.port 7).ucw.getD 3 []).length < host.rf .lnkPCtrl 23 16 7 ∧
    (host.port 7).crcBad.length < host.rf .lnkPCtrl 23 16 7 ∧ 0 < host.rf .lnkPCtrl 23 16 7 ∧ (host.wf .lnkPCtrl 23 16 0 7).rf .lnkPCtrl 23 16 7 = 0 ∧
    host.rf .lnkPPeerDepth 15 0 7 = 0 ∧ (host.wf .lnkPPeerDepth 15 0 1 7).rf .lnkPPeerDepth 15 0 7 = 1 ∧
    ((ready7 {}).rf .lnkPMasqCtrl 2 0 7 = 0 ∧ (ready7 {}).scanned = false) ∧ ((ready7 {}).port 7).held = [] ∧ ((ready7 {}).port 7).headSeq 0 = none ∧
    ((ready7 { pixels := [(0, { type := 1 })] }).port 7).headSeq 0 = some { type := 1 } ∧ (ready7 {}).now = 0 ∧
    ((ready7 { held := [(0, [1])] }).port 7).held.find? (fun h => h.1 == 0) = some (0, [1]) ∧
    ((ready7 { credit := [creditCell 1] }).port 7).credit = [creditCell 1] ∧ ((port7 1 all4).port 7).rate ≠ 0 ∧ ((ready7 {}).port 7).credit = [] ∧
    ((host.wf .lnkPPeerDepth 15 0 1 7).rf .lnkPPeerDepth 15 0 7 ≤ (1 + (2 ^ 16 - 0)) % 2 ^ 16) ∧
    masq.rf .lnkPMasqCtrl 2 0 7 = 1 ∧ masq.rb .lnkPMasqCtrl 20 7 = false ∧ masq.masqCandidate 7 { type := 1 } = true ∧ masq.masqSpent 7 = false ∧
    masq.rf .lnkPMasqPeriod 23 0 7 ≤ (masq.port 7).masqCount + 1 := by decide

/-- Plane 2 of beam 15 imports beam 14 from port 7, which is Active and at SEQ 0xFFFF, with a line under way. -/
def rx (l : List RxLine) (ip : ImportPlane) : State :=
  let live : RegFile := [(addrOf .bmpCtrl 15 2 0, 0x19), (addrOf .bmpImp 15 2 0, 0x2077)]
  (port7 5 { rxSeq := 0xFFFF, rxLines := l }).setBeam 15 { live, imports := vset (Vector.replicate 3 {}) 2 ip }
def px : PixelCell := ⟨14, false, true, 0, 1, 1, 0, false, 0, [0x5A]⟩
def capF : CapFields := ⟨0, 0, false, 1, 0, 0, 0, 0⟩

set_option maxRecDepth 20000 in
theorem test_witness_LinkCells :
    ((rx [] {}).portState 7 = 5 ∧ (0xFFFF + 2 ^ 16 - ((rx [] {}).port 7).rxSeq) % 2 ^ 16 = 0 ∧
      (0x7FFF + 2 ^ 16 - ((rx [] {}).port 7).rxSeq) % 2 ^ 16 = 32768 ∧ (0x7FFE + 2 ^ 16 - ((rx [] {}).port 7).rxSeq) % 2 ^ 16 = 32767) ∧
    (rx [] {}).importers 7 14 = [(15, 2)] ∧ (rx [] {}).importers 7 13 = [] ∧ (vget ((rx [] { repeating := true }).beam 15).imports 2 {}).repeating = true ∧
    (rx [] {}).rf .lnkPRxCtrl 3 0 7 ≠ 14 ∧ (∀ j, j < 16 → ¬(host.rb .sysCgCtrl 0 j = true ∧ host.rb .sysCgCtrl 1 j = true ∧ host.rb .sysCgCtrl 9 j = true)) ∧
    ((host.wr .sysCgCtrl 0x203 15).rb .sysCgCtrl 0 15 = true ∧ (host.wr .sysCgCtrl 0x203 15).rb .sysCgCtrl 1 15 = true ∧
      (host.wr .sysCgCtrl 0x203 15).rb .sysCgCtrl 9 15 = true) ∧
    ((rx [⟨14, 0, 1, 0, []⟩] {}).port 7).rxLines.find? (fun l => l.beam == px.beam.val) = some ⟨14, 0, 1, 0, []⟩ ∧
    px.cidx.val = 1 ∧ px.line.val = 0 ∧ px.eol = true ∧
    (let b := (rx [] {}).beam 15
     b.cf .bmpBaseY 27 0 15 2 * 256 + 8 * 1 ≤ 0xC00000000 ∧ b.cf .bmpSize 13 0 15 2 + 1 = 1920 ∧ (rx [] {}).inPlRegion (b.cf .bmpBaseY 27 0 15 2 * 256) 8 = false) ∧
    (rx [] {}).store = {} ∧ (rx [] {}).fenced 20 = false ∧ (rx [] {}).fenced 21 = false ∧ ((rx [] {}).grp 15).fence = none ∧ (((port7 4 {}).port 7).okSent = false) ∧
    (port7 4 {}).capMatches 7 capF = true ∧ (port7 4 {}).capMatches 7 { capF with lanes := 1 } = false ∧ capF.flags.getLsbD 2 = false ∧ capF.flags.getLsbD 3 = false ∧
    (0x7FFF + 2 ^ 16 - (host.port 7).next) % 2 ^ 16 < 32768 := by decide

/-- Audio runs in Service; a note of voice 1023 at its lowest and highest step waits in group 15's queue. -/
def audio (a : Aud) : State := { host.wb .audCtrl 0 true with aud := a }
def step (x : Word) : Rec4 := ⟨BitVec.ofNat 32 (1023 * 2 ^ 16 + 3), 0, x, 0⟩
def noted (x : Word) : State := { audio {} with evt := { queues := [(291, [step x])] } }
def tdm3 (fs : List (List Int)) : State := { host with aud := { tdm := [(3, fs)] } }

/-- Every crosspoint of the reset state is unrouted: the rows of the audio block do not overlap (R285). -/
theorem aud_row (x : Nat) (h : x < 2048) (r : RegName) (hr : r ∈ audRegs) :
   ∀ q, indexIn r (614400 + x * 4) = some q → q.1 = .audXp := by
  simp only [audRegs, List.mem_cons, List.not_mem_nil, or_false] at hr
  intro q hq
  repeat' (first | (rcases hr with rfl | hr) | subst hr)
  all_goals
    (simp only [indexIn, rowOf, Nat.reduceEqDiff, if_true, if_false] at hq
     split at hq
     · cases hq
     · split at hq
       · first | (cases hq; rfl) | (exfalso; omega)
       · cases hq)
theorem aud_silent (x : Nat) (h : x < 2048) : fld ((host.wb .audCtrl 0 true).rd .audXp x) 31 18 = 0 := by
  have ha : addrOf .audXp x 0 0 = 614400 + x * 4 := by
    simp only [addrOf, rowOf, Nat.mod_eq_of_lt h, Nat.zero_mod, Nat.zero_mul, Nat.add_zero]
  have hk : kvGet (614400 + x * 4) (host.wb .audCtrl 0 true).regs = none := by
    rw [show (host.wb .audCtrl 0 true).regs = [(20, 2), (65536, 1), (65624, 13), (69640, 13), (69644, 0x20000), (73736, 13), (0x90000, 0xA01)] from by decide]
    simp only [kvGet]
    simp (disch := omega) only [if_neg]
  have hr : resetWord (614400 + x * 4) = 0 := by
    simp only [resetWord]
    cases hq : regAt (614400 + x * 4) with
    | none => rfl
    | some q =>
      have hn : regsNear (614400 + x * 4) = audRegs := by
        simp only [regsNear]
        simp (disch := omega) only [if_neg, if_pos]
      rw [regAt, hn] at hq
      obtain ⟨r, hr, he⟩ := List.exists_of_findSome?_eq_some hq
      have := aud_row x h r hr q he
      obtain ⟨r', i, j, k⟩ := q
      cases this
      simp only [resetOf, rowOf, Nat.zero_mul, Nat.add_zero]; rfl
  rw [State.rd, State.getW, ha, rfGet, hk, Option.getD_none, hr]
  rfl


set_option maxRecDepth 20000 in
theorem test_witness_Audio : (audio {}).rb .audCtrl 0 = true ∧ host.mode ≠ 4 ∧ host.rb .audCtrl 0 = false ∧ (audio {}).aud.xpDirty = [] ∧
    (audio { frame := some [] }).aud.frame = some [] ∧
    (host.wr .audTdmCtrl 1 3).rb .audTdmCtrl 0 3 = true ∧ ((List.replicate 15 ([] : List Int)).length < 16 ∧ 16 ≤ (List.replicate 16 ([] : List Int)).length) ∧
    (noted 0x2000).queue (276 + 15) = [step 0x2000] ∧ bit (step 0).w0 8 = false ∧ fld (step 0).w0 7 0 = 3 ∧ fld (step 0).w0 25 16 / 64 = 15 ∧
    (0x80000 : Word).toNat ≤ 0x80000 ∧ (host.wf .audStatus 1 0 1).rf .audStatus 1 0 = 1 ∧ (host.wf .audStatus 1 0 2).rf .audStatus 1 0 = 2 ∧
    host.rf .audStatus 1 0 = 0 ∧ (host.wb .audVeqW 15 true 15 0).rb .audVeqW 15 15 0 = true ∧ host.canPush 291 = true ∧
    host.rb .audVeqW 15 15 0 = false ∧ wordOk .audXp 0 0x8000043F = true ∧ wordOk .audXp 0 0xFFFFFFFF = false ∧ kvGet 2047 host.aud.fades = none ∧
    wordOk .audV5 0 0x2000 = true ∧ host.liveSet 63 = 0 * 64 + 63 ∧ host.liveSet 63 ≠ 1 * 64 + 63 ∧ wordOk .audBusGain 0 0x2000 = true ∧
    kvGet 1151 (audio { gains := [(1151, { cur := (0, 0), wait := some 0x3FFF })] }).aud.gains = some { cur := (0, 0), wait := some 0x3FFF } ∧
    host.rf .audCtrl 15 8 = 10 ∧ State.now { host with tmr := { tb := 10000000 } } = 10000000 ∧
    (let c := (host.wr .audTdmCtrl 0x1 3).rd .audTdmCtrl 3; bit c 0 = true ∧ bit c 8 = false) ∧
    (let c := (host.wr .audTdmCtrl 0x101 3).rd .audTdmCtrl 3; bit c 0 = true ∧ bit c 8 = true) ∧ bit (host.rd .audTdmCtrl 3) 0 = false ∧
    (kvGet 3 (tdm3 [[1], [2]]).aud.tdm).getD [] = [[1], [2]] := by decide
theorem test_witness_Audio_full : (List.replicate 4095 (0 : Word)).length < 4096 ∧ 4096 ≤ (List.replicate 4096 (0 : Word)).length := by
  simp only [List.length_replicate]; decide

/-- Blits of one row: a fill, a copy, a copy onto itself, one that waits for the last line of beam 15; an engine at each state. -/
def blit (op sync : Byte) (src dst : Nat) (sp dp : Nat) : Blit :=
  ⟨List.replicate 8 0 ++ [op, 0, sync, 0] ++ (if sync = 0 then [0, 0] else [0x64, 0x04]) ++ [0, 0] ++ bytesLE 8 src ++ bytesLE 8 dst ++
    bytesLE 4 sp ++ bytesLE 4 dp ++ List.replicate 24 0, none⟩
def fill : Blit := blit 0 0 0 0xBFFFFFFC0 0 64
def enabled (j : Blit) : State := { host.wf .bltCtrl 3 0 15 with blt := { queue := [j] } }
def working (st row : Nat) (e : Engine) : State :=
  let s := (host.wf .bltEStatus 1 0 st 3).wf .bltEProgress 16 0 row 3
  { s with blt := { engines := vset s.blt.engines 3 e } }

set_option maxRecDepth 20000 in
theorem test_witness_Blits : (enabled fill).blt.queue = [fill] ∧ (enabled fill).asleep = false ∧ (enabled fill).rf .pwrStatus 1 0 = 1 ∧
    ((enabled fill).wf .pwrStatus 1 0 0).rf .pwrStatus 1 0 = 0 ∧
    ((enabled fill).eng 0).job = none ∧ (enabled fill).rb .bltCtrl 0 = true ∧ (host.wf .bltCtrl 3 0 8).rb .bltCtrl 3 = true ∧
    (∀ m, m < 3 → (host.wf .bltCtrl 3 0 8).rb .bltCtrl m = false) ∧
    host.bltCheck fill.desc = (0, none) ∧ bltSync fill.desc = false ∧ bltMeets fill.desc = false ∧
    ((host.wf .bltStageSize 15 0 4).wf .bltStageBase 19 0 1).bltCheck (blit 1 0 0 0 64 128).desc = (0, none) ∧ bltMeets (blit 1 0 0 0 64 128).desc = true ∧
    bltSrcPitch (blit 1 0 0 0 64 128).desc ≠ bltDstPitch (blit 1 0 0 0 64 128).desc ∧
    (beaming {}).bltCheck (blit 0 0x1F 0 0 0 64).desc = (0, none) ∧ bltSync (blit 0 0x1F 0 0 0 64).desc = true ∧
    host.bltCheck (blit 0 0x1F 0 0 0 64).desc = (8, none) ∧
    ((working 1 0 { job := some fill, seen := true }).eng 3).seen = true ∧ (working 1 0 { job := some fill }).engState 3 = 1 ∧
    (working 3 0 { job := some fill }).engState 3 = 3 ∧ bltHeight fill.desc = 1 ∧ (working 2 0 { job := some fill }).engState 3 = 2 ∧
    (working 2 0 {}).rf .bltEProgress 16 0 3 = 0 ∧ (working 2 1 {}).rf .bltEProgress 16 0 3 = bltHeight fill.desc ∧
    bltOp fill.desc = 0 ∧ bltOp (blit 1 0 0 64 64 64).desc = 1 ∧ bltMeets (blit 1 0 0 64 64 64).desc = false ∧
    host.rb .bltDirectStatus 8 = false ∧ (host.wb .bltDirectStatus 8 true).rb .bltDirectStatus 8 = true ∧
    ((List.replicate 31 fill).length < 32 ∧ 32 ≤ (List.replicate 32 fill).length) := by decide

/-- Bytes at the end of the pattern store that can be read and written. -/
theorem test_witness_writable : host.writableAt 0xBFFFFFFC0 64 ∧ host.cleanAt 0 64 := by
  refine ⟨⟨⟨by decide, by decide, by decide, fun _ _ _ => ⟨rfl, rfl⟩⟩, rfl, fun b m _ _ => ?_⟩, by decide, by decide, by decide,
    fun _ _ _ => ⟨rfl, rfl⟩⟩
  have h : host.rf .cmpPleRegionSize 11 0 = 0 := by decide
  have k : host.ple.old = [] := rfl
  simp [State.inPlRegion, h, k]

/-- DMA channel 63 with an instruction to execute and an END after it. -/
def program (d : List Byte) : List Byte := d ++ List.replicate (32 - d.length) 0 ++ 6 :: List.replicate 31 0
def dma (d : List Byte) (x : DmaChan) : State :=
  (host.wf .pwrStatus 1 0 0).setChan 63 { x with active := true, host := true, lines := [(0, some (program d))] }
def at63 (d : List Byte) : Option (List Byte) := some ((program d).take 32)
/-- The channel after its first instruction. -/
def second : DmaChan := { active := true, lines := [(0, some (program []))], pc := 1 }
def block (ss ds len : Nat) : DmaBlock := ⟨0, ss, ds, 0xBFFFFFF80, 0xBFFFFFFC0, len, len, [{ off := 0, len }], false⟩
def signal : DmaSignal := ⟨none, false, false, false, false, 0, 0⟩

set_option maxRecDepth 20000 in
theorem test_witness_DmaPrograms : (host.chan 63).active = false ∧ host.asleep = false ∧ (dma [] {}).rb .dmaChCtrl 2 63 = false ∧
    (host.wb .dmaChCtrl 2 true 63).rb .dmaChCtrl 2 63 = true ∧ ((dma [] {}).chan 63).active = true ∧ ((dma [] {}).chan 63).ring = none ∧
    (((dma [] { fetching := [(0, false)] }).chan 63).fetching[(0 : Fin 4).val]? = some (0, false) ∧
      ((dma [] { fetching := [(0, true)] }).chan 63).fetching[(0 : Fin 4).val]? = some (0, true) ∧ ((dma [] {}).chan 63).stop = false ∧
      ((dma [] { blocks := [{ block 1 0 64 with next := 0 }] }).chan 63).issuing = true ∧ 0 ∈ ((dma [] {}).chan 63).wanted) ∧
    (second.fetched = some (some (6 :: List.replicate 31 0)) ∧ second.badByte (6 :: List.replicate 31 0) = none) ∧
    (dma [5] {}).dmaAt 63 5 = at63 [5] ∧
    (dma [2, 1, 0, 0, 0] {}).dmaAt 63 2 = at63 [2, 1, 0, 0, 0] ∧ (dma [2, 1, 0, 0, 1] {}).dmaAt 63 2 = at63 [2, 1, 0, 0, 1] ∧
    (dma [3] {}).dmaAt 63 3 = at63 [3] ∧ (dma [3, 1, 15, 0, 0xFF, 0x3F] {}).dmaAt 63 3 = at63 [3, 1, 15, 0, 0xFF, 0x3F] ∧
    (host.beam 15).run = .stopped ∧ ((beaming {}).beam 15).cf .beamTotal 30 16 15 ≤ 0x3FFF ∧ 0 < ((beaming {}).beam 15).cf .beamTotal 30 16 15 ∧
    (dma [3, 2] {}).dmaAt 63 3 = at63 [3, 2] ∧ (dma [3, 2, 0, 0, 0, 0, 0, 0, 1] {}).dmaAt 63 3 = at63 [3, 2, 0, 0, 0, 0, 0, 0, 1] ∧
    ((dma [] { wait := some (.time 0 1) }).chan 63).wait = some (.time 0 1) ∧ host.now = 0 ∧
    (dma [4, 6] {}).dmaAt 63 4 = at63 [4, 6] ∧ (dma [4] { blocks := [block 1 0 64], next := 1 }).dmaAt 63 4 = at63 [4] ∧
    (block 1 0 64).reqs ≠ [] ∧ (dma [6] {}).dmaAt 63 6 = at63 [6] ∧
    (dma [6] { ring := some (0, 7, desc [0x18]) }).dmaAt 63 6 = at63 [6] ∧ host.rd .dmaChBad 63 = 0 ∧
    ((host.wr .dmaChBad 1 63).rd .dmaChBad 63 ≠ 0) ∧ ((dma [] { signals := [signal] }).chan 63).signals ≠ [] := by decide

/-- A MOVE of a line's last word between spaces, a device range over two rows, and blocks of one request at the store's end. -/
def move (spaces : Byte) (src : Nat) : List Byte := [1, spaces, 0, 0, 4, 0, 0, 0] ++ bytesLE 8 src

set_option maxRecDepth 20000 in
theorem test_witness_DmaData : (dma (move 0 60) {}).dmaAt 63 1 = at63 (move 0 60) ∧ (dma (move 1 508) {}).dmaAt 63 1 = at63 (move 1 508) ∧
    (dma [] {}).rf .pwrStatus 1 0 ≠ 2 ∧ ((dma [] {}).wf .pwrStatus 1 0 2).rf .pwrStatus 1 0 = 2 ∧ 60 % 64 + 4 ≤ 64 ∧ 508 % host.pci.readSize + 4 ≤ host.pci.readSize ∧
    (dma (move 2 0xB0000) {}).dmaAt 63 1 = at63 (move 2 0xB0000) ∧ rowRange 0xB0000 4 = false ∧ host.rf .dmaChErr 2 0 63 = 0 ∧
    (∀ ss ds : Fin 2, ((dma [] { blocks := [block ss ds 64] }).chan 63).blocks = [block ss ds 64] ∧ (block ss ds 64).bad = false ∧
      (block ss ds 64).reqs = [{ off := 0, len := 64 }] ∧ (block ss ds 64).sspace = ss ∧ (block ss ds 64).dspace = ds ∧
      (block ss ds 64).src + 0 + 64 < 2 ^ 64 ∧ (block ss ds 64).dst + 0 + 64 < 2 ^ 64) := by decide

/-- Source 786 goes to message vector 255, at once or after 65,535 µs, which have passed. -/
def vec : State :=
  (((host.wb .evtSrcCfg 0 true 786).wf .evtSrcCfg 14 6 511 786).wr .hstMsixAddrLo 0x1000 255).wb .hstMsixMask 0 false 255
def late786 : State :=
  { (vec.wr .evtSrcStatus 0x10001 786).wr .evtSrcCoal 0xFFFF02 786 with evt := { stamps := [(786, 0)] }, tmr := { tb := 65535000 } }

set_option maxRecDepth 20000 in
theorem test_witness_EventDelivery : isSource 1023 = false ∧ isSource 786 = true ∧ host.rb .evtSrcCfg 0 786 = false ∧
    vec.rb .evtSrcCfg 0 786 = true ∧ vec.rb .evtCtrl 0 = true ∧ (vec.wb .evtCtrl 0 false).rb .evtCtrl 0 = false ∧
    vec.rb .evtSrcStatus 1 786 = false ∧ vec.rf .evtSrcCoal 7 0 786 ≤ 1 ∧ vec.rf .evtSrcCfg 14 6 786 = 256 + 255 ∧
    vec.rb .hstMsixMask 0 255 = false ∧ vec.rd .hstMsixAddrLo 255 ≠ 0 ∧ vec.pci.fnMask = false ∧ vec.pci.busMaster = true ∧ vec.scanned = false ∧
    vec.pendingSrcs = [] ∧ (∀ k, k < 32 → vec.rb .tmrCapCtrl 10 k = false) ∧
    late786.pendingSrcs = [786] ∧ late786.rb .evtSrcStatus 0 786 = true ∧ late786.rf .evtSrcCoal 23 8 786 = 65535 ∧
    65535 * 1000 ≤ (late786.now + 2 ^ 64 - ((kvGet 786 late786.evt.stamps).getD 0).toNat) % 2 ^ 64 ∧
    (let s : State := { late786 with evt := { stamps := [(786, 0xFFFFFFFFFFFFFFFF)] }, tmr := { tb := 65534999 } }
     65535 * 1000 ≤ (s.now + 2 ^ 64 - ((kvGet 786 s.evt.stamps).getD 0).toNat) % 2 ^ 64) ∧ late786.rb .hstMsixMask 0 255 = false ∧
    (20 : Fin 512).val < 256 ∧ (19 : Fin 512).val < 20 ∧ 256 ≤ (256 : Fin 512).val ∧
    (let s := { host with evt := { queues := [(275, [step 0])] } }
     s.queue 275 = [step 0] ∧ s.scanned = false) ∧ host.queue 275 = [] := by decide

/-- A count at its end, a compare channel armed for the next nanosecond, a log entry, an interval timer at its last count. -/
def clock (tb : Word64) (slow : Bool) : State := { host with tmr := { tb, slow } }
def armed (v : Word) : State := ((clock 0xFFFFFFFF false).wr .tmrCmpValue v 63).wb .tmrCmpStatus 0 true 63

set_option maxRecDepth 20000 in
theorem test_witness_Timers : (clock 0xFFFFFFFFFFFFFFFF false).now = 2 ^ 64 - 1 ∧ (clock 0xFFFFFFFFFFFFFFFE false).now ≠ 2 ^ 64 - 1 ∧
    host.rf .sysMode 2 0 ≠ 0 ∧ State.reset.rf .sysMode 2 0 = 0 ∧ ({ host with sys := { host.sys with aonClock := true } } : State).sys.aonClock = true ∧
    ({ host with sys := { host.sys with aonClock := false } } : State).sys.aonClock = false ∧ (clock 0 true).tmr.slow = true ∧ host.scanned = false ∧
    (let s := (host.wf .sysMode 2 0 5).wr .tmrTbSetLo 1
     s.rf .sysMode 2 0 = 5 ∧ s.now < s.addr64 .tmrTbSetLo .tmrTbSetHi) ∧ host.addr64 .tmrTbSetLo .tmrTbSetHi ≤ host.now ∧
    (host.wb .tmrCmpCtrl 0 true 63).rb .tmrCmpCtrl 0 63 = true ∧ host.rb .tmrCmpCtrl 0 63 = false ∧
    (armed 0).rb .tmrCmpStatus 0 63 = true ∧ ((armed 0).now + 1) % 2 ^ 32 = ((armed 0).rd .tmrCmpValue 63).toNat ∧
    ((armed 1).now + 1) % 2 ^ 32 ≠ ((armed 1).rd .tmrCmpValue 63).toNat ∧ (armed 0).tmr.slow = false ∧
    ({ host with tmr := { capLog := [(31, [1, 2])] } } : State).capLogOf 31 = [1, 2] ∧ host.capLogOf 31 = [] ∧
    (let s : State := { host with tmr := { tb := 5, capOld := [(31, ⟨5, 1, 2, true⟩)] } }
     kvGet 31 s.tmr.capOld = some ⟨5, 1, 2, true⟩ ∧ (5 : Word64) = s.tmr.tb) ∧ kvGet 31 host.tmr.capOld = none ∧
    (let s := (host.wb .tmrItCtrl 0 true 31).wr .tmrItCount 1 31
     s.rb .tmrItCtrl 0 31 = true ∧ s.rd .tmrItCount 31 = 1 ∧ s.tmr.slow = false) ∧ host.rb .tmrItCtrl 0 31 = false := by decide

/-- Pad 63 is an input with a pull, its bank supplied, driven from outside; pad 63 as an output. -/
def pad (ctrl : Word) (drv : List (Nat × Bool)) (n : Nat) : State :=
  { (host.wb .gpioBank 3 true).wr .gpioPCtrl ctrl 63 with gpio := { outside := drv, samples := [(63, n)] } }

set_option maxRecDepth 20000 in
theorem test_witness_Gpio : host.mode ≠ 4 ∧ (host.wf .sysMode 2 0 4).mode = 4 ∧ (pad 0 [] 0).rb .gpioBank (63 / 16) = true ∧
    (host.wb .gpioBank 3 false).rb .gpioBank 3 = false ∧ (pad 0x1000 [] 0).rf .gpioPCtrl 3 0 63 = 0 ∧ (pad 0x1000 [] 0).rb .gpioPCtrl 10 63 = false ∧
    (pad 0x1000 [] 0).rf .gpioPCtrl 13 12 63 = 1 ∧ (pad 0x2000 [] 0).rf .gpioPCtrl 13 12 63 = 2 ∧
    kvGet 63 (pad 0 [(63, true)] 0).gpio.outside = some true ∧ (pad 0 [(63, true)] 0).rb .gpioFilt 31 1 = false ∧
    ((kvGet 63 (pad 0 [] 0).gpio.samples).getD 0 + 1 < ((pad 0 [] 0).wf .gpioPIn 11 4 255 63).rf .gpioPIn 11 4 63) ∧
    (((pad 0 [] 254).wf .gpioPIn 11 4 255 63).rf .gpioPIn 11 4 63 ≤ (kvGet 63 (pad 0 [] 254).gpio.samples).getD 0 + 1) ∧
    (pad 0x400 [] 0).rb .gpioPCtrl 10 63 = true ∧ (pad 0x400 [] 0).rb .gpioPCtrl 11 63 = false ∧ kvGet 63 (pad 0x400 [] 0).gpio.outside = none ∧
    wordOk .gpioPCtrl 0 0x400 = true ∧ wordOk .gpioPCtrl 0 0xFFFFFFFF = false := by decide

/-- The time that has passed since a count, across the wrap of the time base. -/
def since (s : State) (a : Nat) : Nat := (s.now + 2 ^ 64 - a % 2 ^ 64) % 2 ^ 64
/-- Group 3's regulator as it last answered; a firmware's write that began its watchdog at 0. -/
def rail3 (x : Rail) : State := host.setRail 3 x
/-- The device in Service at a time, its windows and sample sets begun at 0, or at the last count before the wrap. -/
def clocked (now : Word64) (from_ : Nat) : State :=
  { host with pwr := { host.pwr with windowAt := from_, sampleAt := from_ }, tmr := { tb := now } }
def watched (now : Word64) : State := { host with pwr := { host.pwr with watch := some (0, 255) }, tmr := { tb := now } }

set_option maxRecDepth 20000 in
theorem test_witness_PowerLedger : host.rf .pwrCfg 9 0 = 100 ∧
    since (clocked 100000 0) (clocked 100000 0).pwr.windowAt = 100000 ∧ since (clocked 99999 0) (clocked 99999 0).pwr.windowAt = 99999 ∧
    since (clocked 99999 (2 ^ 64 - 1)) (clocked 99999 (2 ^ 64 - 1)).pwr.windowAt = 100000 ∧
    (((rail3 {}).rail 3).ready = true ∧ ((rail3 { ready := false }).rail 3).ready = false ∧ ((rail3 { ready := false }).rail 3).reading = false ∧
      ((rail3 { ready := false, reading := true }).rail 3).ready = false ∧ ((rail3 { ready := false, reading := true }).rail 3).reading = true) ∧
    (3 = (24 : Nat) / 8 ∧ 1 = (15 : Fin 16).val / 8) ∧ (((rail3 {}).setBeam 15 { slewWait := true }).beam 15).slewWait = true ∧ host.mode ≠ 0 ∧ host.mode ≠ 4 ∧ State.reset.mode = 0 ∧
    ((List.range 38).map (fun i => (([0xFFFF, 0xFFFF, 0xFFFF, 0xFFFF] : List (BitVec 16)).getD i 0).toNat)).sum < 2 ^ 18 ∧
    ((rail3 { fails := 1 }).rail 3).fails < 2 ∧ 2 ≤ ((rail3 { fails := 2 }).rail 3).fails ∧ ((rail3 { fails := 2 }).rail 3).faulted = false ∧
    ((rail3 { faulted := true }).rail 3).faulted = true ∧ host.scanned = false ∧ host.rb .pwrStatus 9 = false ∧
    (host.wb .pwrStatus 9 true).rb .pwrStatus 9 = true ∧ wordOk .pwrLedger 0 2 = true ∧ wordOk .pwrLedger 0 3 = false ∧
    (watched 255000000).pwr.watch = some (0, 255) ∧ 255 * 1000000 ≤ since (watched 255000000) 0 ∧ since (watched 254999999) 0 < 255 * 1000000 ∧
    host.pwr.watch = none ∧ wordOk .pwrPmbCtrl 0 0x40050 = true ∧ wordOk .pwrPmbCtrl 0 0xFFFFFFFF = false ∧ host.rb .pwrPmbStatus 0 = false ∧
    (host.wb .pwrPmbStatus 0 true).rb .pwrPmbStatus 0 = true ∧ ((host.wf .pwrPmbCtrl 18 16 4).rf .pwrPmbCtrl 18 16 = ([1, 2, 3, 4] : List Byte).length) := by
  decide

/-- A staged plan of group 3 with all voltages alike, against a live plan that is none. -/
def planned (seq : Word) (volts v7 : Nat) (guard : Word) : State :=
  let w := BitVec.ofNat 32 (volts * 0x10001)
  ((((((host.wr .pwrPlanW0 seq).wr .pwrPlanW1 (guard + 0xF)).wr .pwrPlanW w 0).wr .pwrPlanW w 1).wr .pwrPlanW w 2).wr .pwrPlanW
    (BitVec.ofNat 32 (volts + v7 * 0x10000)) 3)
def logging (op : Option LogOp) (queue : List LogOp) : State := { host with pwr := { host.pwr with op, queue } }
def installed (now : Word64) : State := { host with pwr := { host.pwr with verify := some (3, [], false) }, tmr := { tb := now } }

set_option maxRecDepth 20000 in
theorem test_witness_Almanac : host.pwr.verify = none ∧ (installed 0).pwr.verify = some (3, [], false) ∧ host.rf .almLeap 9 0 = 100 ∧
    100 * 1000000 ≤ since (installed 100000000) (installed 100000000).pwr.verifyAt ∧ since (installed 99999999) (installed 99999999).pwr.verifyAt < 100 * 1000000 ∧
    host.rf .almCtrl 15 4 * 1000000000 ≤ since (clocked 0xFFFFFFFFFFFF 0) (clocked 0xFFFFFFFFFFFF 0).pwr.sampleAt ∧
    since (clocked 0 0) (clocked 0 0).pwr.sampleAt < host.rf .almCtrl 15 4 * 1000000000 ∧
    ((planned 0 650 650 0).stagedPlan.getD 0 0).toNat ≤ (host.rd .pwrLive 3 0).toNat ∧
    ¬((planned 1 650 650 0).stagedPlan.getD 0 0).toNat ≤ (host.rd .pwrLive 3 0).toNat ∧
    (planV (planned 1 649 649 0).stagedPlan 7 + planGuard (planned 1 649 649 0).stagedPlan < 650) ∧
    (850 < planV (planned 1 850 850 16).stagedPlan 7 + planGuard (planned 1 850 850 16).stagedPlan) ∧
    (¬∃ k, k < 8 ∧ (planV (planned 1 850 850 0).stagedPlan k + planGuard (planned 1 850 850 0).stagedPlan < 650 ∨
      850 < planV (planned 1 850 850 0).stagedPlan k + planGuard (planned 1 850 850 0).stagedPlan)) ∧
    (planV (planned 1 651 650 0).stagedPlan 7 < planV (planned 1 651 650 0).stagedPlan 6) ∧
    (¬∃ k, k < 7 ∧ planV (planned 1 650 850 0).stagedPlan (k + 1) < planV (planned 1 650 850 0).stagedPlan k) ∧
    ¬planBand (planned 1 850 850 0).stagedPlan < host.rf .pwrRailStatus 11 10 3 ∧
    host.rf .almLeap 17 10 < (0xFFFFFFFF : BitVec 32).toNat ∧ ((0x7FFF : BitVec 16).toInt < (host.rf .almLeap 25 18 : Nat)) = False ∧
    host.pwr.sampling = false ∧ host.rb .almCtrl 0 = true ∧ (host.wb .almCtrl 0 false).rb .almCtrl 0 = false ∧
    ({ host with pwr := { host.pwr with sampling := true } } : State).pwr.sampling = true ∧
    0x80 ≤ (((List.range 16).flatMap (fun k => bytesLE 4 ((host.wr .almLogData 0x80 0).rd .almLogData k).toNat)).getD 0 0).toNat ∧
    host.pwr.op = none ∧ host.pwr.fuses.length < 1024 ∧ (255 : Nat) < 256 ∧ (List.replicate 40 (1 : Byte)).length ≤ 40 ∧ host.pwr.seq < 2 ^ 32 ∧
    (logging (some (.write 255 [] 0 true)) [.read]).pwr.op = some (.write 255 [] 0 true) ∧ (logging (some .read) []).rb .almLogIdx 12 = false ∧
    ([some ([1] : List Byte), none].filterMap id).reverse[host.rf .almLogIdx 11 0]? = some [1] := by
  decide

/-- A plan of 850 mV passes the check against the fused corner plan, whatever it is up to 910 mV, and one of 650 mV fails it where a fused
voltage exceeds 710 mV; a plan is stale where its group's band lies above its own and no entry stands for the pair. -/
theorem test_witness_Almanac_corner : (∀ v, v ≤ 910 → ¬850 + 60 < v) ∧ (∀ v, 710 < v → 650 + 60 < v) ∧
    planV (planned 1 650 650 0).stagedPlan 7 + planGuard (planned 1 650 650 0).stagedPlan = 650 ∧
    (let s := ((planned 1 850 850 0).wr .pwrPlanW1 3).wf .pwrRailStatus 11 10 1 3
     planBand s.stagedPlan < s.rf .pwrRailStatus 11 10 3 ∧ (s.wf .pwrDat 7 0 255 3 0).droopEntry 3 0 1 = 255) := by
  refine ⟨fun v h => by omega, fun v h => by omega, by decide, by decide⟩

/-- The device in a mode, with beams in Vigil, as it enters Sleep, and asleep. -/
def inMode (m : Nat) : State := { host.wf .sysMode 2 0 m with sys := { host.sys with aonClock := true } }
def shining (vigil : Bool) : State := ((inMode 1).wb .beamStatus 0 true 15).wb .beamStatus 1 vigil 15
def entering : State := { inMode 2 with sys := { (inMode 2).sys with entering := true } }
def asleep (prev : Nat) : State := { (inMode 4).wf .sysMode 5 3 prev with sys := { (inMode 4).sys with waking := true } }

set_option maxRecDepth 20000 in
theorem test_witness_Modes : (∀ m, m < 8 → (inMode m).mode = m) ∧ (inMode 4).sys.entering = false ∧ entering.sys.entering = true ∧
    (∃ n, n < 16 ∧ (shining true).rb .beamStatus 0 n = true) ∧
    (∀ n, n < 16 → (shining true).rb .beamStatus 0 n = true → (shining true).rb .beamStatus 1 n = true) ∧
    ((shining false).rb .beamStatus 0 15 = true ∧ (shining false).rb .beamStatus 1 15 = false) ∧
    (¬∃ n, n < 16 ∧ (inMode 3).rb .beamStatus 0 n = true) ∧ (¬∃ g, g < 16 ∧ (inMode 3).rb .sysCgStatus 0 g = true) ∧
    ((inMode 3).wb .sysCgStatus 0 true 15).rb .sysCgStatus 0 15 = true ∧ (inMode 3).pleState = 0 ∧ (inMode 3).sys.aonClock = true ∧
    entering.rested = true ∧ (entering.setEng 3 { job := some fill }).rested = false ∧ entering.mode = 2 ∧
    (∀ c, c < 64 → (entering.chan c).boundary = false) ∧ entering.blt.queue = [] ∧ entering.cenState ≠ 1 ∧
    (asleep 2).mode = 4 ∧ (asleep 2).sys.waking = true ∧ (asleep 2).rf .sysMode 5 3 = 2 ∧ (asleep 2).sys.wakeLoss = false ∧
    (∀ g, g < 4 → ((asleep 2).rail g).ready = true) ∧ (((asleep 2).setRail 3 { ready := false }).rail 3).ready = false ∧
    ((asleep 2).wb .lnkPCtrl 0 true 7).rb .lnkPCtrl 0 7 = true ∧ (asleep 2).portState 7 = 0 ∧
    (inMode 6).lcState ≤ 1 ∧ ((inMode 6).wf .sysLcStatus 2 0 4).lcState = 4 ∧ ((inMode 6).wf .sysLcStatus 2 0 5).lcState = 5 ∧
    (((inMode 6).setCore 19 { run := .waiting }).core 19).run = .waiting ∧ ((inMode 7).core 19).run = .reset ∧
    (let s := (inMode 7).setCore 19 { run := .halted, why := 7 }; (s.core 19).run = .halted ∧ (s.core 19).why = 7) ∧
    (((inMode 7).wb .sysMode 6 true).rb .sysMode 6 = true) ∧ ((inMode 7).wf .sysMode 5 3 3).rf .sysMode 5 3 = 3 := by decide

/-- Each reset phase, fused words that differ, a warm reset that is due, and registers that survive one and do not. -/
def phase (p : ResetPhase) : State := { State.reset with sys := { State.reset.sys with reset := p } }

set_option maxRecDepth 20000 in
theorem test_witness_Resets : State.reset.sys.reset = .held ∧ (phase .up).sys.reset = .up ∧ (phase .up).sys.warm = none ∧
    ({ phase .up with sys := { (phase .up).sys with warm := some 6 } } : State).sys.warm = some 6 ∧
    (∀ n, 1 ≤ n → n ≤ 9 → (phase (.boot n true 6)).sys.reset = .boot n true 6) ∧ (∀ n w c, (phase .up).sys.reset ≠ .boot n w c) ∧ ((phase (.stuck true)).sys.reset ≠ .held ∧ (phase (.stuck true)).sys.reset ≠ .up) ∧
    (let p := { (phase (.boot 2 true 6)).pci with perst := false, linkUp := false }; p.perst = false ∧ p.linkUp = false) ∧ State.reset.pci.perst = true ∧
    (∀ n, n < 16 → ((phase .up).beam n).plPend = none) ∧ (((phase .up).setBeam 15 { plPend := some (7, [1]) }).beam 15).plPend = some (7, [1]) ∧
    regAt (addrOf .gpioBank 0 0 0) = some (.gpioBank, 0, 0, 0) ∧ State.reset.rb .sysBootCtrl 2 = false ∧
    (let s := ((phase (.boot 8 true 6)).wb .sysBootCtrl 2 true).wb .sysBootCtrl 1 false; s.rb .sysBootCtrl 2 = true ∧ s.rb .sysBootCtrl 1 = false) ∧
    (State.reset.sys.lc = none ∧ State.reset.pwr.op = none ∧ State.reset.sys.bist.op = none ∧ State.reset.sys.bist.fixing = false) ∧
    regAt (addrOf .cmpPleNonce 0 0 0) = some (.cmpPleNonce, 0, 0, 0) ∧ regAt (addrOf .cmpPlCtrl 15 0 0) = some (.cmpPlCtrl, 15, 0, 0) ∧
    RegName.cmpPlCtrl ∈ plRegs ∧ regAt (addrOf .sysMode 0 0 0) = some (.sysMode, 0, 0, 0) ∧ RegName.sysMode ∉ plRegs ∧
    (phase (.boot 5 true 6)).lcState ≠ 5 := by
  refine ⟨by decide, by decide, by decide, by decide, fun _ _ _ => rfl, fun n w c h => ?_, by decide, by decide, by decide, by decide, by decide, by decide,
    by decide, by decide, by decide, by decide, by decide, by decide, by decide, by decide, by decide⟩
  cases h

/-- A key and its digest, and the signatures with it of an image of one empty start word and of a RETURN token (R243, R392). -/
def keyPair : List Byte := bytesLE 97 0x0E746B1CE69A33EBE8E8A90604F1B2804397CF0410FED1BEB08A12E00F8E7F3EC07A6774569844826D0370826F7F1F9FD5136D1655C65B914E665C9ED35E4E01D1D8DA847736957A6A751EA4CF2F80A1380F08C2AE239BC498D1B1BB3FBA744F04
def keyHash : List Byte := bytesLE 48 0xB3CC778EA24ADDCF28D7B000736699834C5254AAD67C1175D06B8367E913CCF372E5609040680BFF8FD99B54C956E095
def signedImage : List Byte :=
  bytesLE 4 0x4C4E4146 ++ [1, 0, 1, 0] ++ bytesLE 8 0 ++ bytesLE 304 1 ++ keyPair ++ bytesLE 96 0x53D18D7F1A12530DFA2592D95AA45FB389F6E14C8CC7BCFE5D5A4658735495D78AD1871DF08E51B6AEC44CA761B6BDC8417B1EE32E2705AB75A4EEC68E27FD7C95FB6E2509BE2DDFFF01A94EA063BC93DAD8415A1AA7C717238F7A9D103CD7C7
/-- A RETURN or RETIRE token of serial number 0 and nonce 0 (R392), signed with the key. -/
def token (target : Byte) (sig : Nat) : List Byte := bytesLE 4 0x4E4B4F54 ++ [1, 0, target, 0] ++ bytesLE 56 0 ++ keyPair ++ bytesLE 96 sig
def returnToken : List Byte := token 4 0x8A1CF2AD68F457F2FD7E245B2ED14E14D43FA04E9A3549FE176DF2ACDD287B0592AF8430A642AD9287BE0250F051843135081327AE6EB925C4B03A11CB7BF534D342DCCC9897181D37E9347649775B28BC0C0D7EC4B634C700C750A8463FD971
def retireToken : List Byte := token 5 0xA8D692E3AFD459B5B0B6AEEF78C25E8B3E46D9C5A64E8FFBD58F87B145435AAF17CFD3E1BDBE22F89F0B0FDEBBA372960DC38423ECE9A44110BB2633823B972E9A90655E0BE0C48456C23EEFF60CB2EA0B5718C8EF1B1B1528C229A86454D80E
/-- The key's digest is fused in slot 0 of digest d. -/
def admitting (d : Nat) (s : State) : State :=
  (List.range 12).foldl (fun s k => s.setFuse (digestKey d 0 k) (BitVec.ofNat 32 (descField keyHash (4 * k) 4))) (s.setFuse (digestKey d 0 12) 1)

theorem test_key_hash : keyDigest signedImage 320 = keyHash ∧ keyDigest returnToken 64 = keyHash ∧ keyDigest retireToken 64 = keyHash := by
  decide +kernel
theorem test_image_signed : signedAt signedImage 320 = true := by decide +kernel
theorem test_return_signed : signedAt returnToken 64 = true := by decide +kernel
theorem test_retire_signed : signedAt retireToken 64 = true := by decide +kernel
/-- The signature does not hold over other bytes. -/
theorem test_token_unsigned : signedAt (putBytes returnToken 6 [5]) 64 = false := by decide +kernel

/-- An image of one section that ends at the last word of SC3's D-TCM; the boot engine at a state, over a life-cycle state. -/
def image (version : Byte) (size : Nat) : List Byte :=
  bytesLE 4 0x4C4E4146 ++ [version, 0, 0xF, 0] ++ bytesLE 4 7 ++ bytesLE 4 0 ++ bytesLE 8 1 ++ bytesLE 4 size ++ bytesLE 4 1 ++
    [3, 1, 0, 0] ++ bytesLE 4 0xFFFC ++ bytesLE 4 4 ++ bytesLE 4 60 ++ List.replicate 272 0 ++ List.replicate 64 0x5A
/-- The fuses that the checks read, as a state has programmed them: none. -/
def unfused (s : State) : State :=
  [digestKey 0 0 12, digestKey 0 1 12, digestKey 1 0 12, digestKey 1 1 12, digestKey 2 0 12, digestKey 2 1 12, digestKey 2 0 13, digestKey 2 1 13,
    floorCount 0].foldl (fun s k => s.setFuse k 0) s
def boot (st lc : Nat) : State :=
  let s := (((unfused host).wf .sysBootStatus 2 0 st).wf .sysLcStatus 2 0 lc).wb .sysBootCtrl 1 true
  { s with sys := { s.sys with image := signedImage } }

set_option maxRecDepth 20000 in
theorem test_witness_StewardBoot : host.mode ≠ 0 ∧ host.mode ≠ 4 ∧ host.lcState ≠ 5 ∧ (boot 5 0).rf .sysBootStatus 2 0 ≠ 1 ∧
    (boot 1 0).rf .sysBootStatus 2 0 = 1 ∧ (boot 1 0).rb .sysBootCtrl 1 = true ∧ (boot 1 0).pci.busMaster = true ∧
    imageFormat (image 1 64) = 0 ∧ imageFormat (image 2 64) = 2 ∧ imageFormat (image 1 65) = 3 ∧ descField (image 2 64) 4 2 ≠ 1 ∧
    4 * 0 < descField (image 1 64) 40 4 ∧ (boot 2 3).rf .sysBootStatus 2 0 = 2 ∧ (boot 2 3).admits 1 = true ∧ (boot 2 3).admits 2 = false ∧
    (boot 2 3).floor 0 ≤ descField (boot 2 3).sys.image 16 8 ∧
    descField (boot 2 3).sys.image 16 8 < ((((boot 2 3).setFuse (floorCount 0) 1).setFuse (floorKey 0 0) 2).setFuse (floorKey 0 0 + 1) 0).floor 0 ∧
    (descField (boot 2 3).sys.image 6 1).testBit 0 = true ∧ (boot 2 3).rb .sysScCtrl 0 = false ∧
    ((boot 2 3).wb .sysScCtrl 0 true).rb .sysScCtrl 0 = true ∧ (descField (boot 2 3).sys.image 6 1).testBit 3 = false := by decide

/-- The image's key matches an admitted digest: that of Kamnor in state 1, the customer's in state 3; and none where none is fused. -/
theorem test_witness_StewardBoot_key : (boot 2 1).sys.image = signedImage ∧ 320 + descField signedImage 24 4 = 320 ∧
    (admitting 0 (boot 2 1)).admits 1 = true ∧ (admitting 0 (boot 2 1)).digestIs 0 (keyDigest signedImage 320) = true ∧
    (admitting 1 (boot 2 3)).admits 1 = false ∧ (admitting 1 (boot 2 3)).admits 2 = true ∧
    (admitting 1 (boot 2 3)).digestIs 1 (keyDigest signedImage 320) = true ∧ (boot 2 1).digestIs 0 (keyDigest signedImage 320) = false ∧
    (boot 2 1).admits 2 = false ∧ signedAt (putBytes signedImage 6 [3]) 320 = false := by
  rw [test_key_hash.1]; decide +kernel

/-- A life-cycle command under way in a state. -/
def life (st c : Nat) : State :=
  let s := ((unfused host).wf .sysMode 2 0 5).wf .sysLcStatus 2 0 st
  { s with sys := { s.sys with lc := some c, mgmtUp := true, reset := .up } }

set_option maxRecDepth 20000 in
theorem test_witness_LifeCycle : (life 1 1).mode = 5 ∧ (life 1 1).rb .sysLcStatus 6 = false ∧ host.mode = 2 ∧ (life 1 1).lcState = 1 ∧
    (life 1 1).sys.lc = some 1 ∧ host.sys.lc = none ∧ (life 2 3).lcState = 2 ∧ (life 2 3).sealedDigest 2 = false ∧ (life 2 3).freeSlot 2 = some 0 ∧
    ((life 2 3).setFuse (digestKey 2 1 12) 1).sealedDigest 2 = true ∧
    (((life 2 3).setFuse (digestKey 2 0 13) 1).setFuse (digestKey 2 1 13) 1).freeSlot 2 = none ∧
    (((life 2 3).setFuse (digestKey 2 0 13) 1).setFuse (digestKey 2 1 13) 1).sealedDigest 2 = false ∧
    (life 3 5).rf .sysBootStatus 2 0 ≠ 3 ∧ ((life 3 5).wf .sysBootStatus 2 0 3).rf .sysBootStatus 2 0 = 3 ∧
    ((life 3 5).setFuse (floorCount 0) 31).floorsUsed 0 = 31 ∧ ((life 3 5).setFuse (floorCount 0) 32).floorsUsed 0 = 32 ∧
    (∀ x, x < 6 → (life x 6).lcState = x) ∧
    (let p := returnToken
     descField p 0 4 = 0x4E4B4F54 ∧ descField p 4 2 = 1 ∧ descField p 6 1 = 4 ∧ descField p 7 1 = 0 ∧ descField p 20 44 = 0 ∧
       descField p 8 8 = (life 3 6).addr64 .sysSerialLo .sysSerialHi ∧ descField p 16 4 = ((life 3 6).rd .cmpPleNonce).toNat) ∧
    (let p := retireToken
     descField p 6 1 = 5 ∧ descField p 0 4 = 0x4E4B4F54 ∧ descField p 4 2 = 1 ∧ descField p 7 1 = 0 ∧ descField p 20 44 = 0) ∧
    descField returnToken 16 4 ≠ (((life 3 6).wr .cmpPleNonce 1).rd .cmpPleNonce).toNat ∧
    ((life 3 6).wf .cmpPleRegionSize 11 0 1).rf .cmpPleRegionSize 11 0 = 1 ∧ (life 3 6).sys.mgmtUp = true ∧ host.sys.mgmtUp = false ∧
    (life 3 6).scanned = false ∧ ((host.wb .sysWake 9 true).wf .sysMode 2 0 4).rb .sysWake 9 = true ∧ (host.wf .sysMode 2 0 4).asleep = true ∧
    ((life 3 6).wb .sysMgmtCtrl 0 true).rb .sysMgmtCtrl 0 = true ∧ (life 3 6).sys.warm = none ∧ (life 3 6).sys.reset = .up := by decide

/-- The key of both tokens is the sealed PL owner's; in a device without the digest it is not. -/
theorem test_witness_LifeCycle_key : (admitting 2 (life 3 6)).digestIs 2 (keyDigest returnToken 64) = true ∧
    (admitting 2 (life 3 7)).digestIs 2 (keyDigest retireToken 64) = true ∧ (life 3 6).digestIs 2 (keyDigest returnToken 64) = false := by
  rw [test_key_hash.2.1, test_key_hash.2.2]; decide +kernel

/-- A device whose fuses are sensed, and one whose balls the TAP holds. -/
def tap (ir m lc : Nat) : State :=
  let s := ((unfused host).wf .sysMode 2 0 m).wf .sysLcStatus 2 0 lc
  { s with sys := { s.sys with tapIr := ir, reset := .up, aonClock := true } }

set_option maxRecDepth 20000 in
theorem test_witness_TestPort : (tap 4 2 0).scanned = true ∧ (tap 1 2 0).scanned = false ∧ (tap 1 2 0).sys.reset = .up ∧
    ((tap 1 2 0).wf .lnkPStatus 2 0 5 7).portState 7 = 5 ∧ (tap 1 2 0).asleep = false ∧ (∀ m, m < 8 → (tap 1 m 0).mode = m) ∧
    (tap 1 2 0).lcState = 0 ∧ (tap 1 2 4).lcState = 4 ∧ (tap 1 2 3).lcState = 3 ∧ State.reset.sys.reset = .held ∧
    (phase (.boot 9 true 6)).sys.reset = .boot 9 true 6 ∧ (phase (.stuck true)).sys.reset = .stuck true ∧ (tap 1 2 0).sys.aonClock = true ∧ (tap 1 2 0).sys.entering = false ∧
    ((tap 1 7 0).wb .sysMode 6 true).rb .sysMode 6 = true ∧ ((tap 1 7 0).wf .sysMode 5 3 1).rf .sysMode 5 3 = 1 ∧
    ((tap 1 2 0).setFuse (digestKey 0 1 12) 1).sealedDigest 0 = true ∧ (tap 1 2 0).sealedDigest 0 = false := by decide

/-- A signed program of one slice of beam 15's worker over rows from first on; the engine with it at a state. -/
def bistProg (flags alg : Byte) (cls unit : Byte) (first rows : Nat) : List Byte :=
  bytesLE 4 0x54534942 ++ [1, 0, 1, 0, flags, 0, 0, 0] ++ bytesLE 4 7 ++ bytesLE 4 (if flags = 3 then 86400000 else 0) ++ List.replicate 44 0 ++
    [cls, 0, unit, alg] ++ bytesLE 4 first ++ bytesLE 4 rows ++ bytesLE 4 0
def slice1 : BistEntry := ⟨2, 0, 15, 1, false, 7104, 64⟩
def bist (st : Nat) (x : Bist) : State :=
  let s := (((unfused host).wf .bistCtrl 15 8 255).wf .bistStatus 2 0 st).wf .bistStatus 8 7 1
  (((s.wb .bistProgCtrl 2 true).wb .bistCtrl 0 true).wf .sysLcStatus 2 0 2).setBist x
def under : Bist := { entries := [slice1], slice := true }
def repairing : Repair := ⟨2, 0, 15, false, 7104, 0⟩

set_option maxRecDepth 20000 in
theorem test_witness_SelfTest : host.rf .bistStatus 8 7 = 0 ∧ (bist 1 {}).rf .bistStatus 8 7 = 1 ∧ (bist 1 {}).rf .bistStatus 2 0 = 1 ∧
    (bist 1 {}).rb .bistProgCtrl 2 = true ∧ (bist 1 {}).pci.busMaster = true ∧ (bist 1 {}).admits 1 = true ∧ (bist 1 {}).admits 0 = false ∧
    ((bist 3 under).sys.bist.slice = true ∧ (bist 3 under).sys.bist.fixing = false) ∧ (bist 3 {}).sys.bist.slice = false ∧
    (∀ f : Fin 2, let p := bistProg (BitVec.ofNat 8 (2 * f.val + 1)) 1 2 15 7104 64
      descField p 0 4 = 0x54534942 ∧ descField p 4 2 = 1 ∧ descField p 6 2 = 1 ∧ descField p 8 1 = 2 * f.val + 1 ∧ descField p 9 3 = 0 ∧
        descField p 20 44 = 0 ∧ descField p 16 4 ≤ 86400000 ∧ bistEntryOf p 0 = slice1 ∧ descField p 67 1 < 32 ∧ descField p 76 4 = 0) ∧
    1 ≤ descField (bistProg 3 1 2 15 7104 64) 16 4 ∧
    slice1.part < bistParts 2 ∧ slice1.unit < bistUnits 2 ∧ slice1.first + slice1.rows ≤ bistRows 2 ∧
    (bist 1 {}).inBudget ((bist 1 {}).sliceTime slice1) = true ∧ descField (bistProg 4 1 2 15 7104 64) 8 1 = 4 ∧
    (bistEntryOf (bistProg 1 0x10 2 15 0 65) 0).offline = true ∧ (bistEntryOf (bistProg 1 0 2 15 0 65) 0).rows = 65 := by decide

set_option maxRecDepth 20000 in
theorem test_witness_SelfTest_slices : (bist 3 {}).rb .bistCtrl 0 = true ∧ (bist 3 {}).rf .pwrStatus 1 0 ≠ 2 ∧ (bist 3 {}).mode = 2 ∧ (bist 3 {}).retryDue = true ∧
    (bist 3 under).sys.bist.entries[(bist 3 under).rf .bistStatus 16 9]? = some slice1 ∧ (bist 3 under).boundBeam slice1 = some 15 ∧
    ((bist 3 under).beam 15).run = .stopped ∧ (bist 3 under).boundBeam { slice1 with cls := 0 } = none ∧
    ((bist 3 under).wf .bistCtrl 15 8 0).inBudget (((bist 3 under).wf .bistCtrl 15 8 0).sliceTime slice1) = false ∧
    ((bist 3 { under with fix := [repairing] }).sys.bist.fix = [repairing]) ∧ (bist 3 under).boundBeam repairing.entry = some 15 ∧
    0 + 1 = under.entries.length ∧ 0 + 1 < ({ under with entries := [slice1, slice1] }).entries.length ∧ under.cut < 15 ∧
    15 ≤ ({ under with cut := 15 }).cut ∧ (7104 : BitVec 24).toNat < slice1.first + slice1.rows ∧ (7167 : BitVec 24).toNat < slice1.first + slice1.rows ∧
    (bist 3 under).bistSkips slice1 7104 = false ∧ (bist 3 under).freeSpare 2 0 15 false = some 0 ∧
    ((bist 3 { under with pausing := some 0, pause := 0 }).sys.bist.pausing = some 0) ∧ 0 * 1000000 ≤ since (bist 3 under) 0 ∧
    since (bist 3 { under with pausing := some 0, pause := 1 }) 0 < 1 * 1000000 ∧
    (let x := { under with fixing := true, fix := [repairing] }; (x.slice = true ∧ x.fixing = true ∧ x.fixCut < 15) ∧ 15 ≤ ({ x with fixCut := 15 }).fixCut) ∧ host.rb .bistRepairStatus 19 = false ∧
    (host.wb .bistRepairStatus 19 true).rb .bistRepairStatus 19 = true ∧
    (let w := (host.wr .bistFailHi 0x90003C02).rd .bistFailHi
     bit w 31 = true ∧ fld w 29 28 = 1 ∧ fld w 3 0 = 2 ∧ host.freeSpare (fld w 3 0) (fld w 9 4) (fld w 15 10) false = some 0) ∧
    bit (host.rd .bistFailHi) 31 = false ∧ (bist 5 { op := some (1, some repairing) }).sys.bist.op = some (1, some repairing) ∧
    (bist 5 { op := some (2, none), log := [some repairing] }).sys.bist.op = some (2, none) ∧
    (host.wf .bistStatus 8 7 2).rf .bistStatus 8 7 = 2 := by
  decide

/-- A signed program whose key is admitted and whose signature does not hold; one whose key is not admitted, and one that needs none. -/
theorem test_witness_SelfTest_key : (let p := bistProg 1 1 2 15 7104 64 ++ keyPair ++ bytesLE 96 0
    keyDigest p 80 = keyHash ∧ (admitting 0 (bist 1 {})).digestIs 0 (keyDigest p 80) = true ∧ signedAt p 80 = false ∧
      (bist 1 {}).digestIs 0 (keyDigest p 80) = false ∧ (bist 1 {}).admits 2 = false) ∧ (admitting 0 (bist 1 {})).admits 1 = true ∧
    (descField (bistProg 0 1 2 15 7104 64) 8 1).testBit 0 = false := by decide +kernel

set_option maxRecDepth 20000 in
/-- An idle step from reset, a step of a command, and states in canonical form. -/
theorem test_witness_StepKeepsCanonical : State.reset.canonical = true ∧ State.reset.pending = [] ∧
    ∃ t, Machine.step { State.reset with pending := [.gpioSet 0 1] } = .next t ∧ t.rd .gpioOut 0 = 1 ∧ t.pending = [] ∧ t.canonical = true :=
  ⟨by decide, rfl, _, rfl, by decide⟩
end Sys2Proof.Tests
end

section
/-! Proofs of spec 03, host rings: losses of the host, the reset of the HST block and RESUME (R72 to R74). What a frame gives,
modes, and stamps come first; then each operation of a loss and of RESUME with what it changes. -/

namespace Sys2Proof.Machine

/-! ### What a frame gives -/

/-- The part of an address is a block of registers. -/
theorem regPart_index_le (a : Nat) : (regPart a).index ≤ 20 := by
  unfold regPart
  repeat' split
  all_goals decide

/-- When the part of an address is the same, so is its word. -/
theorem Part.same_getW {s t : State} {a : Nat} (h : (regPart a).same s t) : t.getW a = s.getW a := by
  have hi := regPart_index_le a
  generalize hp : regPart a = p at h hi
  cases p <;> simp [Part.index] at hi <;> exact h a hp

section
variable {m : Nat} {s t : State} (h : s.Keeps m t)
include h

theorem State.Keeps.getW {a : Nat} (ha : m.testBit (regPart a).index = false) : t.getW a = s.getW a :=
  Part.same_getW (h.2.2.2 _ ha)

theorem State.Keeps.rd (r : RegName) (hr : m.testBit r.bit = false) (i j k : Nat) : t.rd r i j k = s.rd r i j k :=
  h.getW (by rw [regPart_addrOf]; exact hr)

theorem State.Keeps.pci (hm : m.testBit 21 = false) : t.pci = s.pci := h.2.2.2 .pci hm
theorem State.Keeps.hst (hm : m.testBit 22 = false) : t.hst = s.hst := h.2.2.2 .host hm
theorem State.Keeps.tmr (hm : m.testBit 23 = false) : t.tmr = s.tmr := h.2.2.2 .timers hm
theorem State.Keeps.sys (hm : m.testBit 40 = false) : t.sys = s.sys := h.2.2.2 .device hm

/-- What has left the block has left it. -/
theorem State.Keeps.mem_out {e : OutEvent} (he : e ∈ s.out) : e ∈ t.out := h.2.2.1.subset he
end

theorem State.raise_frame (s : State) (n d : Nat) : s.Keeps 0x2000180000C (s.raise n d) :=
  State.raise_keeps n d (.refl _ s) rfl

theorem State.setMode_frame (s : State) (m : Nat) : s.Keeps 0x2000180040D (s.setMode m) :=
  State.setMode_keeps m (.refl _ s) rfl

theorem State.followVigil_frame (s : State) : s.Keeps 0x2000180040D s.followVigil :=
  State.followVigil_keeps (.refl _ s) rfl

theorem State.postEvent_frame (s : State) (type ring info addr : Nat) :
    s.Keeps 0x2000180000E (s.postEvent type ring info addr) := State.postEvent_keeps type ring info addr (.refl _ s) rfl

theorem State.hostLoss_frame (s : State) (cause : Nat) : s.Keeps 0x3800180042F (s.hostLoss cause) :=
  State.hostLoss_keeps cause (.refl _ s) rfl

/-! ### Modes -/

theorem State.mode_lt (s : State) : s.mode < 8 := Nat.mod_lt _ (by decide)

theorem State.mode_congr {s t : State} (h : t.rd .sysMode = s.rd .sysMode) : t.mode = s.mode :=
  congrArg (fld · 2 0) h

/-- The word of SYS_MODE after a mode change (R382). -/
theorem State.setMode_sysMode (s : State) (m : Nat) (h : s.mode ≠ m) :
    ∃ w, (s.setMode m).rd .sysMode = setFld (setFld w 5 3 s.mode) 2 0 m := by
  unfold State.setMode
  rw [if_neg h]
  dsimp only
  rw [(State.raise_frame _ _ _).rd .sysMode rfl, State.rd_wf_same, State.rd_wf_same]
  exact ⟨_, rfl⟩

theorem State.setMode_mode (s : State) {m : Nat} (hm : m < 8) : (s.setMode m).mode = m := by
  by_cases h : s.mode = m
  · rw [State.setMode, if_pos h, h]
  · obtain ⟨w, hw⟩ := s.setMode_sysMode m h
    rw [State.mode, State.rf, hw, fld_setFld_same _ _ _ _ (by decide) (by decide)]
    exact Nat.mod_eq_of_lt hm

theorem State.setMode_prev (s : State) {m : Nat} (h : s.mode ≠ m) : (s.setMode m).rf .sysMode 5 3 = s.mode := by
  obtain ⟨w, hw⟩ := s.setMode_sysMode m h
  rw [State.rf, hw, fld_setFld_other _ _ _ _ _ _ (by decide) (by decide) (by decide),
    fld_setFld_same _ _ _ _ (by decide) (by decide)]
  exact Nat.mod_eq_of_lt s.mode_lt

theorem State.allVigil_congr {s t : State} (h : ∀ n, t.rd .beamStatus n = s.rd .beamStatus n) :
    t.allVigil = s.allVigil := by
  simp only [State.allVigil, State.runningBeams, State.rb, h]

/-- Service becomes Vigil when the beams are in Vigil; Provisioning stays (R382). -/
theorem State.followVigil_mode (s : State) (h : s.mode ≠ 3) :
    s.followVigil.mode = if s.mode = 2 ∧ s.allVigil = true then 3 else s.mode := by
  unfold State.followVigil
  by_cases hv : s.mode = 2 ∧ s.allVigil = true
  · simp [hv, State.setMode_mode]
  · rw [if_neg hv, if_neg (by simpa using hv), if_neg (by simp [h])]

/-! ### The count and its replicas -/

/-- The count of ns and its replicas are the same in two states: a stamp taken in one can be taken in the other. -/
def State.SameClock (s t : State) : Prop := t.tmr.tb = s.tmr.tb ∧ t.tmr.replicas = s.tmr.replicas

theorem State.SameClock.refl (s : State) : s.SameClock s := ⟨rfl, rfl⟩

theorem State.SameClock.trans {a b c : State} (h : a.SameClock b) (k : b.SameClock c) : a.SameClock c :=
  ⟨k.1.trans h.1, k.2.trans h.2⟩

theorem State.SameClock.of_tmr {s t : State} (h : t.tmr = s.tmr) : s.SameClock t := by
  rw [State.SameClock, h]; exact ⟨rfl, rfl⟩

theorem State.SameClock.ite {s a b : State} {c : Prop} [Decidable c] (ha : s.SameClock a) (hb : s.SameClock b) :
    s.SameClock (if c then a else b) := by split <;> assumption

theorem State.SameClock.foldl {α : Type} {f : State → α → State} (hf : ∀ (s : State) x, s.SameClock (f s x)) (l : List α)
    (s : State) : s.SameClock (l.foldl f s) := by
  induction l generalizing s with
  | nil => exact .refl s
  | cons x l ih => exact (hf s x).trans (ih _)

theorem State.SameClock.stamps {s t : State} {d v : Nat} (h : s.SameClock t) (hv : t.stamps d v) : s.stamps d v := by
  unfold State.stamps State.now at *
  rwa [h.1, h.2] at hv

theorem State.arrive_sameClock (s : State) (n k : Nat) (v : Word64) : s.SameClock (s.arrive n k v) :=
  .of_tmr ((State.arrive_keeps n k v (fp := 0x1000004) (.refl _ s) rfl).tmr rfl)

theorem State.arbitrate_sameClock (s : State) : s.SameClock s.arbitrate :=
  .of_tmr ((State.arbitrate_keeps (fp := 0x20001000004) (.refl _ s) rfl).tmr rfl)

theorem State.capture_sameClock (s : State) (k : Nat) (v : Word64) : s.SameClock (s.capture k v) := by
  unfold State.capture
  exact .ite (.ite ⟨rfl, rfl⟩ ⟨rfl, rfl⟩) ⟨rfl, rfl⟩

theorem State.captureSecond_sameClock (s : State) (j : Nat) (v : Word64) : s.SameClock (s.captureSecond j v) :=
  .foldl (fun s k => (s.capture_sameClock k v).trans (State.arrive_sameClock _ _ _ _)) _ s

theorem State.captureAll_sameClock (s : State) (n : Nat) (v : Word64) : s.SameClock (s.captureAll n v) := by
  unfold State.captureAll
  split
  · exact s.captureSecond_sameClock _ _
  · exact .foldl (fun s k => ((s.capture_sameClock k v).trans (State.arrive_sameClock _ _ _ _)).trans
      (State.captureSecond_sameClock _ _ _)) _ s

/-- An arrival from the central fabric, which stamps with the count itself, moves no replica (R14). -/
theorem State.raise_central_sameClock (s : State) (n : Nat) : s.SameClock (s.raise n domCentral) :=
  ((s.captureAll_sameClock n _).trans (State.arrive_sameClock _ _ _ _)).trans (State.arbitrate_sameClock _)

theorem State.setMode_sameClock (s : State) (m : Nat) : s.SameClock (s.setMode m) := by
  unfold State.setMode
  have hports : s.SameClock (if s.mode = 5 then (List.range 8).foldl (fun s p => s.wf .lnkPMasqCtrl 2 0 0 p) s else s) :=
    .ite (.foldl (fun s p => .of_tmr (s.wf_tmr .lnkPMasqCtrl 2 0 0 p 0 0)) _ s) (.refl s)
  exact .ite (.refl s) (.trans (hports.trans ⟨rfl, rfl⟩) (State.raise_central_sameClock _ 784))

/-- A stamp lags by a free value of at most 32 ns, and never behind the replica (R14). -/
theorem State.stamp_toNat (s : State) {d : Nat} (hd : d ≠ 3) :
    (s.stamp d).1.toNat = (s.now + 2 ^ 64 - min (s.fresh 33).1
      ((s.now + 2 ^ 64 - (kvGet d s.tmr.replicas).getD 0 % 2 ^ 64) % 2 ^ 64)) % 2 ^ 64 := by
  unfold State.stamp
  rw [if_neg (c := d = domCentral) hd]
  dsimp only
  rw [BitVec.toNat_ofNat, Nat.mod_mod]

/-- A stamp of a domain with a replica is a time that the domain shows (R14). -/
theorem State.stamp_stamps (s : State) {d : Nat} (hd : d ≠ 3) : s.stamps d (s.stamp d).1.toNat := by
  have hnow : s.now < 2 ^ 64 := s.tmr.tb.isLt
  have hlag : (s.fresh 33).1 < 33 := Nat.mod_lt _ (by decide)
  have hv := s.stamp_toNat hd
  unfold State.stamps
  dsimp only
  rw [if_neg hd]
  generalize (s.stamp d).1.toNat = v at *
  generalize s.now = now at *
  generalize (s.fresh 33).1 = lag at *
  generalize (kvGet d s.tmr.replicas).getD 0 = x at *
  omega

/-! ### The reset of the HST block -/

/-- The words that the reset of the HST block leaves (R73): HST_LOSS, its stamp, and HST_LOST. -/
def hstKept : List RegName := [.hstLoss, .hstLossStampLo, .hstLossStampHi, .hstLost]

/-- Every register of the HST block but those that a reset leaves holds its reset word. -/
def State.hstOff (s : State) : Prop :=
  ∀ a, a / 0x10000 = 1 → (∀ r, r ∈ hstKept → a ≠ addrOf r 0 0 0) → s.getW a = resetWord a

/-- A ring without a completion that waits, and without a HOST_WRITE that waits for others. -/
def Ring.quiet (g : Ring) : Prop := g.waiting = [] ∧ ∀ i d, g.hold ≠ some (.hostWrite i d)

/-- From s to t completions are lost: HST_LOST alone counts them, and of the rings those with a property are the same. -/
structure State.Drops (P : Nat → Prop) (s t : State) : Prop where
  word : ∀ a, a ≠ addrOf .hstLost 0 0 0 → t.getW a = s.getW a
  pci : t.pci = s.pci
  hst : t.hst = { s.hst with rings := t.hst.rings }
  ring : ∀ q, P q → t.ring q = s.ring q

section
variable {P : Nat → Prop} {s t u : State}

theorem State.Drops.refl : s.Drops P s := ⟨fun _ _ => rfl, rfl, rfl, fun _ _ => rfl⟩

theorem State.Drops.of_same (hr : t.regs = s.regs) (hp : t.pci = s.pci) (hh : t.hst = s.hst) : s.Drops P t where
  word a _ := State.getW_congr hr a
  pci := hp
  hst := by rw [hh]
  ring q _ := by rw [State.ring, hh, State.ring]

theorem State.Drops.trans (h : s.Drops P t) (k : t.Drops P u) : s.Drops P u where
  word a ha := (k.word a ha).trans (h.word a ha)
  pci := k.pci.trans h.pci
  hst := k.hst.trans (by rw [h.hst])
  ring q hq := (k.ring q hq).trans (h.ring q hq)

theorem State.Drops.hstOff (h : s.Drops P t) (ho : s.hstOff) : t.hstOff := fun a ha hk =>
  (h.word a (hk .hstLost (by decide))).trans (ho a ha hk)

theorem State.setRing_drops (r : Nat) (x : Ring) : s.Drops (· ≠ r) (s.setRing r x) :=
  ⟨fun _ _ => rfl, rfl, rfl, fun q hq => s.ring_setRing_other r q x hq⟩

theorem State.bump_drops : s.Drops P (s.bump .hstLost) where
  word a ha := s.getW_wr_other a .hstLost _ 0 0 0 ha
  pci := State.bump_pci ..
  hst := by rw [State.bump_hst]
  ring _ _ := by rw [State.ring, State.bump_hst, State.ring]
end

theorem addrOf_cqCtrl (c : Nat) : addrOf .hstCqCtrl c 0 0 = 0x12008 + c % 64 * 0x20 := rfl

theorem addrOf_crStatus (r : Nat) : addrOf .hstCrStatus r 0 0 = 0x1100C + r % 64 * 0x20 := rfl

/-- No completion ring is enabled at reset. -/
theorem bit_resetWord_cqCtrl (c : Nat) : bit (resetWord (addrOf .hstCqCtrl c 0 0)) 0 = false := by
  have hall : ∀ c : Fin 64, bit (resetWord (addrOf .hstCqCtrl c 0 0)) 0 = false := by decide
  have hc := hall ⟨c % 64, Nat.mod_lt _ (by decide)⟩
  rwa [addrOf_cqCtrl, Nat.mod_mod, ← addrOf_cqCtrl] at hc

/-- Every command ring is Idle at reset, and its status shows nothing else. -/
theorem resetWord_crStatus (r : Nat) : resetWord (addrOf .hstCrStatus r 0 0) = 0 := by
  have hall : ∀ r : Fin 64, resetWord (addrOf .hstCrStatus r 0 0) = 0 := by decide
  have hr := hall ⟨r % 64, Nat.mod_lt _ (by decide)⟩
  rwa [addrOf_crStatus, Nat.mod_mod, ← addrOf_crStatus] at hr

theorem hstKept_addr {r : RegName} (h : r ∈ hstKept) : addrOf r 0 0 0 < 0x11000 := by
  revert r; decide

section
variable {s : State} (h : s.hstOff)
include h

/-- The registers of the rings lie beyond the words that a reset leaves. -/
theorem State.hstOff.ringWord {a : Nat} (hlo : 0x11000 ≤ a) (hhi : a < 0x20000) : s.getW a = resetWord a :=
  h a (by omega) fun r hr e => by have := hstKept_addr hr; omega

theorem State.hstOff.cqCtrl (c : Nat) : s.rb .hstCqCtrl 0 c = false := by
  have hw : s.rd .hstCqCtrl c = resetWord (addrOf .hstCqCtrl c 0 0) :=
    h.ringWord (by rw [addrOf_cqCtrl]; omega) (by rw [addrOf_cqCtrl]; omega)
  rw [State.rb, hw, bit_resetWord_cqCtrl]

theorem State.hstOff.crStatus (r : Nat) : s.rd .hstCrStatus r = 0 := by
  have hw : s.rd .hstCrStatus r = resetWord (addrOf .hstCrStatus r 0 0) :=
    h.ringWord (by rw [addrOf_crStatus]; omega) (by rw [addrOf_crStatus]; omega)
  rw [hw, resetWord_crStatus]

theorem State.hstOff.writeCpl (r c : Nat) (x : Cpl) : s.writeCpl r c x = s.bump .hstLost := by
  rw [State.writeCpl, h.cqCtrl]; rfl

theorem State.hstOff.settleRing (r : Nat) : s.settleRing r = s := by
  rw [State.settleRing, State.rf, h.crStatus]; rfl

theorem State.hstOff.clearWait_drops {P : Nat → Prop} (r : Nat) : s.Drops P (s.wb .hstCrStatus 21 false r) where
  word a _ := by
    by_cases e : a = addrOf .hstCrStatus r 0 0
    · subst e
      refine (s.rd_wf_same .hstCrStatus 21 21 0 r 0 0).trans ?_
      rw [h.crStatus]
      exact (h.crStatus r).symm
    · exact s.getW_wr_other a .hstCrStatus _ r 0 0 e
  pci := State.wb_pci ..
  hst := by rw [State.wb_hst]
  ring _ _ := by rw [State.ring, State.wb_hst, State.ring]

/-- A completion of a ring is lost (R73). -/
theorem State.hstOff.lose_drops (r c : Nat) (g : Ring) (x : Cpl) :
    s.Drops (· ≠ r) (((s.setRing r g).writeCpl r c x).settleRing r) := by
  have hd : s.Drops (· ≠ r) ((s.setRing r g).bump .hstLost) := (State.setRing_drops r g).trans State.bump_drops
  rw [((State.setRing_drops r g).hstOff h).writeCpl, (hd.hstOff h).settleRing]
  exact hd

theorem State.hstOff.postCpl_drops (r : Nat) (x : Cpl) (hw : (s.ring r).waiting = []) :
    s.Drops (· ≠ r) (s.postCpl r x) := by
  unfold State.postCpl
  simp only [hw, h.cqCtrl, List.isEmpty_nil, Bool.not_true, Bool.false_and, Bool.or_self, Bool.false_eq_true, if_false]
  exact h.lose_drops r _ _ x
end

theorem State.hstOff.flushRing_drops (n r : Nat) {s : State} (h : s.hstOff) :
    s.Drops (· ≠ r) (State.flushRing n s r) := by
  induction n generalizing s with
  | zero => exact .refl
  | succ n ih =>
    unfold State.flushRing
    dsimp only
    split
    · exact h.clearWait_drops r
    · rw [h.cqCtrl]
      have hd := h.lose_drops r (s.ring r).cq
      exact (hd _ _).trans (ih ((hd _ _).hstOff h))

theorem State.hstOff.settleHw_drops {r : Nat} (hr : r < 64) {s : State} (h : s.hstOff) :
    s.Drops (· ≠ r) (s.settleHw r) := by
  unfold State.settleHw
  dsimp only
  split
  case h_1 i d hold =>
    split
    case isTrue hc =>
      generalize hu : (((s.setRing r { s.ring r with hold := none }).putHost (descField d 8 8)
        ((d.drop 16).take 8)).stamp 2).2 = u
      have hd : s.Drops (· ≠ r) u := by
        refine (State.setRing_drops r { s.ring r with hold := none }).trans ?_
        rw [← hu]
        exact .of_same (by simp) (by simp) (by simp)
      have hg : u.ring r = { s.ring r with hold := none } := by
        rw [← hu, State.ring, State.stamp_hst, State.putHost_hst]
        exact s.ring_setRing_same r _ hr
      have hw : (u.ring r).waiting = [] := by
        rw [hg]; exact List.isEmpty_iff.1 ((Bool.and_eq_true _ _).mp hc).2
      split
      · have hk : s.Drops (· ≠ r) (u.setRing r { u.ring r with begun := (u.ring r).begun.erase i }) :=
          hd.trans (State.setRing_drops r _)
        rw [(hk.hstOff h).settleRing]
        exact hk
      · exact hd.trans ((hd.hstOff h).postCpl_drops r _ hw)
    case isFalse => exact .refl
  case h_2 => exact .refl

/-- A quiet ring has nothing to flush. -/
theorem State.flushWaiting_hst_of_quiet {s : State} {r : Nat} (h : (s.ring r).quiet) :
    (s.flushWaiting r).hst = s.hst := by
  obtain ⟨hw, hh⟩ := h
  have hf : State.flushRing (s.ring r).waiting.length.succ s r = s.wb .hstCrStatus 21 false r := by
    rw [hw, State.flushRing, hw]
  have hr : (s.wb .hstCrStatus 21 false r).ring r = s.ring r := by rw [State.ring, State.wb_hst, State.ring]
  rw [State.flushWaiting, hf, State.settleHw, hr]
  dsimp only
  split
  case h_1 i d hold => exact absurd hold (hh i d)
  case h_2 => exact State.wb_hst ..

/-- What waits in a ring is lost; a ring with nothing to flush stays. -/
theorem State.hstOff.flushWaiting_drops {P : Nat → Prop} {r : Nat} (hr : r < 64) {s : State} (h : s.hstOff)
    (hP : P r → (s.ring r).quiet) : s.Drops P (s.flushWaiting r) := by
  have hf := h.flushRing_drops (s.ring r).waiting.length.succ r
  have hd : s.Drops (· ≠ r) (s.flushWaiting r) := hf.trans ((hf.hstOff h).settleHw_drops hr)
  refine ⟨hd.word, hd.pci, hd.hst, fun q hq => ?_⟩
  by_cases e : q = r
  · subst e
    rw [State.ring, State.flushWaiting_hst_of_quiet (hP hq), State.ring]
  · exact hd.ring q e

theorem State.hstOff.flushAll_drops {P : Nat → Prop} (l : List Nat) (hl : ∀ r ∈ l, r < 64) {s : State} (h : s.hstOff)
    (hP : ∀ q, P q → (s.ring q).quiet) : s.Drops P (l.foldl (fun s r => s.flushWaiting r) s) := by
  induction l generalizing s with
  | nil => exact .refl
  | cons r l ih =>
    have hd := h.flushWaiting_drops (P := P) (hl r (List.mem_cons_self ..)) (hP r)
    refine hd.trans (ih (fun q hq => hl q (List.mem_cons_of_mem _ hq)) (hd.hstOff h) fun q hq => ?_)
    rw [hd.ring q hq]
    exact hP q hq

/-- The state in which the reset of the HST block meets the completions that are still to come (R73). -/
def State.hstCut (s : State) (up perst : Bool) : State :=
  let keep := [addrOf .hstLoss 0 0 0, addrOf .hstLossStampLo 0 0 0, addrOf .hstLossStampHi 0 0 0]
  { s with
    regs := s.regs.filter (fun p => p.1 / 0x10000 != 1 || keep.contains p.1)
    hst := { rings := s.hst.rings.map Ring.afterReset }
    pci := { linkUp := up, perst, rate := if up then s.pci.rate else 0, width := if up then s.pci.width else 0 } }

theorem State.hstReset_eq (s : State) (up perst : Bool) :
    s.hstReset up perst = (List.range 64).foldl (fun s r => s.flushWaiting r) (s.hstCut up perst) := rfl

theorem State.hstCut_getW {s : State} {up perst : Bool} {a : Nat}
    (ha : a / 0x10000 ≠ 1 ∨ ∃ r ∈ hstKept.take 3, a = addrOf r 0 0 0) : (s.hstCut up perst).getW a = s.getW a := by
  refine rfGet_filter _ _ _ fun _ => ?_
  obtain ha | ⟨r, hr, rfl⟩ := ha
  · simp [ha]
  · have hk : ∀ r ∈ hstKept.take 3, [addrOf .hstLoss 0 0 0, addrOf .hstLossStampLo 0 0 0,
      addrOf .hstLossStampHi 0 0 0].contains (addrOf r 0 0 0) = true := by decide
    simp only [hk r hr, Bool.or_true]

/-- An address that is dropped from a register table reads its reset word. -/
theorem rfGet_filter_out (g : Nat × Word → Bool) (f : RegFile) (a : Nat) (h : ∀ w, g (a, w) = false) :
    rfGet (f.filter g) a = resetWord a := by
  have hn : kvGet a (f.filter g) = none := by
    induction f with
    | nil => rfl
    | cons p t ih =>
      obtain ⟨b, v⟩ := p
      rw [List.filter_cons]
      by_cases e : b = a
      · subst e; simpa [h v] using ih
      · split
        · simpa [kvGet, e] using ih
        · exact ih
  rw [rfGet, hn, Option.getD_none]

theorem State.hstCut_hstOff (s : State) (up perst : Bool) : (s.hstCut up perst).hstOff := by
  intro a ha hk
  refine rfGet_filter_out _ _ _ fun _ => ?_
  simp [ha, hk .hstLoss (by decide), hk .hstLossStampLo (by decide), hk .hstLossStampHi (by decide)]

theorem State.hstCut_ring (s : State) (up perst : Bool) {q : Nat} (hq : q < 64) :
    (s.hstCut up perst).ring q = (s.ring q).afterReset := by
  simp [State.hstCut, State.ring, vget_eq, hq]

/-- What the reset of the HST block leaves, and what it drops (R73). -/
theorem State.hstReset_drops (s : State) (up perst : Bool) :
    (s.hstCut up perst).Drops (fun q => q < 64 ∧ (s.ring q).quiet) (s.hstReset up perst) := by
  rw [State.hstReset_eq]
  refine (s.hstCut_hstOff up perst).flushAll_drops _ (fun r hr => List.mem_range.1 hr) fun q hq => ?_
  rw [s.hstCut_ring up perst hq.1]
  exact hq.2

/-- A word outside the HST block, and of HST_LOSS and its stamp, outlives the reset (R73). -/
theorem State.hstReset_getW {s : State} {up perst : Bool} {a : Nat}
    (ha : a / 0x10000 ≠ 1 ∨ ∃ r ∈ hstKept.take 3, a = addrOf r 0 0 0) : (s.hstReset up perst).getW a = s.getW a := by
  have hl : a ≠ addrOf .hstLost 0 0 0 := by
    obtain ha | ⟨r, hr, rfl⟩ := ha
    · intro e; subst e; exact ha (by decide)
    · revert r; decide
  rw [(s.hstReset_drops up perst).word a hl, State.hstCut_getW ha]

theorem State.hstReset_rd_kept (s : State) (up perst : Bool) {r : RegName} (hr : r ∈ hstKept.take 3) :
    (s.hstReset up perst).rd r = s.rd r := State.hstReset_getW (.inr ⟨r, hr, rfl⟩)

theorem State.hstReset_sysMode (s : State) (up perst : Bool) : (s.hstReset up perst).rd .sysMode = s.rd .sysMode :=
  State.hstReset_getW (.inl (by decide))

/-- From s to t the PCIe controller and the HST block are reset, but for what a loss has recorded and what the rings have
begun (R73). -/
def State.hstCleared (s t : State) (up perst : Bool) : Prop :=
  t.hst = { rings := t.hst.rings } ∧
  (∀ q, q < 64 → (s.ring q).waiting = [] → (∀ i d, (s.ring q).hold ≠ some (.hostWrite i d)) →
    t.ring q = { cq := (s.ring q).cq, begun := (s.ring q).begun, hold := (s.ring q).hold }) ∧
  t.pci = { linkUp := up, perst, rate := if up then s.pci.rate else 0, width := if up then s.pci.width else 0 } ∧
  t.hstOff

theorem State.hstReset_cleared (s : State) (up perst : Bool) : s.hstCleared (s.hstReset up perst) up perst := by
  have hd := s.hstReset_drops up perst
  refine ⟨hd.hst, fun q hq hw hh => ?_, hd.pci, hd.hstOff (s.hstCut_hstOff up perst)⟩
  rw [hd.ring q ⟨hq, hw, hh⟩, s.hstCut_ring up perst hq, Ring.afterReset, hw]

theorem State.hstCleared_congr {s u t : State} {up perst : Bool} (hh : u.hst = s.hst) (hp : u.pci = s.pci)
    (h : u.hstCleared t up perst) : s.hstCleared t up perst := by
  unfold State.hstCleared State.ring at *
  rwa [hh, hp] at h

/-! ### Host losses -/

/-- The modes in which a host loss leads to Recovery at once (R72, R385). -/
def State.awake (s : State) : Prop := s.mode = 1 ∨ s.mode = 2 ∨ s.mode = 3 ∨ s.mode = 5

/-- From s to t a loss is recorded with its cause and stamp, and Recovery is entered (R72, R385). -/
def State.lostTo (s t : State) (cause : Nat) : Prop :=
  t.mode = 6 ∧ t.rf .sysMode 5 3 = s.mode ∧ t.rf .hstLoss 3 0 = cause ∧
    ∃ v : Nat, s.stamps 2 v ∧ t.rd .hstLossStampLo = BitVec.ofNat 32 v ∧ t.rd .hstLossStampHi = BitVec.ofNat 32 (v / 2 ^ 32)

/-- From s to t the mode stays, and no loss is recorded. -/
def State.lossSilent (s t : State) : Prop := t.mode = s.mode ∧ ∀ r, r ∈ hstKept.take 3 → t.rd r = s.rd r

theorem State.lostTo_congr {s t u : State} {cause : Nat} (hm : u.rd .sysMode = t.rd .sysMode)
    (hk : ∀ r, r ∈ hstKept.take 3 → u.rd r = t.rd r) (h : s.lostTo t cause) : s.lostTo u cause := by
  unfold State.lostTo State.mode State.rf at *
  rwa [hm, hk .hstLoss (by decide), hk .hstLossStampLo (by decide), hk .hstLossStampHi (by decide)]

/-- A loss shows its cause and a stamp of the host fabric, and changes no mode (R72). -/
theorem State.recordLoss_record (s : State) {cause : Nat} (hc : cause < 16) :
    (s.recordLoss cause).rf .hstLoss 3 0 = cause ∧ ∃ v : Nat, s.stamps 2 v ∧
      (s.recordLoss cause).rd .hstLossStampLo = BitVec.ofNat 32 v ∧
      (s.recordLoss cause).rd .hstLossStampHi = BitVec.ofNat 32 (v / 2 ^ 32) := by
  unfold State.recordLoss
  dsimp only
  refine ⟨?_, _, s.stamp_stamps (by decide), ?_, ?_⟩
  · rw [State.rf, State.rd_wr_other _ _ _ _ _ _ _ _ _ _ (by decide), State.rd_wr_other _ _ _ _ _ _ _ _ _ _ (by decide),
      State.rd_wf_same, fld_setFld_same _ _ _ _ (by decide) (by decide)]
    exact Nat.mod_eq_of_lt hc
  · rw [State.rd_wr_other _ _ _ _ _ _ _ _ _ _ (by decide), State.rd_wr_same]
  · rw [State.rd_wr_same]

theorem State.recordLoss_mode (s : State) (cause : Nat) : (s.recordLoss cause).mode = s.mode :=
  State.mode_congr ((State.recordLoss_keeps cause (fp := 0x800002) (.refl _ s) rfl).rd .sysMode rfl 0 0 0)

theorem State.asleep_of_awake {s : State} (he : s.sys.entering = false) (ha : s.awake) : s.asleep = false := by
  unfold State.awake at ha
  rw [State.asleep, he, Bool.or_false, beq_eq_false_iff_ne]
  omega

section
variable {s : State} {cause : Nat}

/-- A loss in an awake mode is recorded and enters Recovery (R72, R385). -/
theorem State.hostLoss_lostTo (he : s.sys.entering = false) (ha : s.awake) (hc : cause < 16) :
    s.lostTo (s.hostLoss cause) cause := by
  have hs := State.asleep_of_awake he ha
  unfold State.awake at ha
  unfold State.hostLoss
  rw [if_neg (by omega), if_neg (by omega), if_neg (by simp [hs]), if_neg (by omega)]
  generalize hs0 : ({ s with sys := { s.sys with lossAt := some s.now } } : State) = s0
  have hregs : s0.regs = s.regs := by rw [← hs0]
  have htmr : s0.tmr = s.tmr := by rw [← hs0]
  have hm : (s0.recordLoss cause).mode = s.mode :=
    (s0.recordLoss_mode cause).trans (State.mode_congr (State.rd_congr hregs ..))
  obtain ⟨hcause, v, hv, hlo, hhi⟩ := s0.recordLoss_record hc
  generalize s0.recordLoss cause = u at *
  generalize hw : ({ u with sys := { u.sys with lossProv := s.mode == 1 } } : State) = w
  have hwregs : w.regs = u.regs := by rw [← hw]
  have hwm : w.mode = s.mode := (State.mode_congr (State.rd_congr hwregs ..)).trans hm
  have hwr : ∀ r, r.part = .hstRegs → (w.setMode 6).rd r = u.rd r := fun r hr =>
    ((w.setMode_frame 6).rd r (by rw [RegName.bit, hr]; rfl) 0 0 0).trans (State.rd_congr hwregs r 0 0 0)
  refine ⟨w.setMode_mode (by decide), (w.setMode_prev (by omega)).trans hwm, ?_, v,
    (State.SameClock.of_tmr htmr).stamps hv, ?_, ?_⟩
  · rw [State.rf, hwr .hstLoss rfl]; exact hcause
  · rw [hwr .hstLossStampLo rfl]; exact hlo
  · rw [hwr .hstLossStampHi rfl]; exact hhi

theorem State.hostLoss_regs_of_silent (h : s.mode = 6 ∨ s.mode = 0) : (s.hostLoss cause).regs = s.regs := by
  unfold State.hostLoss
  by_cases h0 : s.mode = 0
  · rw [if_pos h0]
  · rw [if_neg h0, if_pos (h.resolve_right h0)]

theorem State.lossSilent_of_regs {t : State} (h : t.regs = s.regs) : s.lossSilent t :=
  ⟨State.mode_congr (State.rd_congr h _ 0 0 0), fun r _ => State.rd_congr h r 0 0 0⟩

theorem State.hostLoss_pci : (s.hostLoss cause).pci = s.pci := (s.hostLoss_frame cause).pci rfl
theorem State.hostLoss_hst : (s.hostLoss cause).hst = s.hst := (s.hostLoss_frame cause).hst rfl
end

/-- DL_Down, a hot reset, a Function Level Reset and PERST_N: the loss and the reset (R72, R73). -/
theorem State.linkLoss_effect (s : State) (he : s.sys.entering = false) {cause : Nat} (hc : cause < 16) (up perst : Bool) :
    (s.awake → s.lostTo (s.linkLoss cause up perst) cause) ∧
      (s.mode = 6 ∨ s.mode = 0 → s.lossSilent (s.linkLoss cause up perst)) ∧
      s.hstCleared (s.linkLoss cause up perst) up perst := by
  have hm := (s.hostLoss cause).hstReset_sysMode up perst
  have hk := fun r => (s.hostLoss cause).hstReset_rd_kept up perst (r := r)
  refine ⟨fun ha => State.lostTo_congr hm hk (State.hostLoss_lostTo he ha hc), fun h => ?_,
    State.hstCleared_congr State.hostLoss_hst State.hostLoss_pci (State.hstReset_cleared _ up perst)⟩
  obtain ⟨hmode, hkept⟩ := State.lossSilent_of_regs (State.hostLoss_regs_of_silent (cause := cause) h)
  exact ⟨(State.mode_congr hm).trans hmode, fun r hr => (hk r hr).trans (hkept r hr)⟩

/-- Polling is active in an awake mode while RINGS_EN is 1 (R57). -/
theorem State.polling_of_awake {s : State} (ha : s.awake) (hr : s.rb .hstCtrl 0 = true) : s.polling = true := by
  unfold State.awake at ha
  have h7 : s.mode ≠ 7 := by omega
  have h4 : (s.mode != 4) = true := by simp; omega
  have hl : s.hostLost = false := by
    simp [State.hostLost, State.runMode, h7]; omega
  rw [State.polling, hr, h4, hl]; rfl

theorem heartbeatTimeout_of_polling {s : State} (ha : s.awake) (hr : s.rb .hstCtrl 0 = true)
    (hb : s.rf .hstHb 15 0 ≠ 0) : heartbeatTimeout s = s.hostLoss 1 := by
  rw [heartbeatTimeout, State.polling_of_awake ha hr, if_pos (by simpa using hb)]

theorem busMasterClear_effect {s : State} (he : s.sys.entering = false) (hb : s.pci.busMaster = true) :
    (busMasterClear s).pci = { s.pci with busMaster := false } ∧
      (s.rb .hstCtrl 0 = true → s.awake → s.lostTo (busMasterClear s) 3) ∧
      (s.rb .hstCtrl 0 = false → (busMasterClear s).regs = s.regs) := by
  unfold busMasterClear
  rw [if_neg (by simp [hb])]
  dsimp only
  cases hr : s.rb .hstCtrl 0
  case false => exact ⟨rfl, fun h => absurd h (by simp), fun _ => rfl⟩
  case true =>
    refine ⟨?_, fun _ ha => ?_, fun h => absurd h (by simp)⟩
    · rw [if_pos rfl, State.hostLoss_pci]
    · rw [if_pos rfl]
      exact State.hostLoss_lostTo he ha (by decide)

theorem d3hot_effect {s : State} (he : s.sys.entering = false) (hd : s.pci.d3hot = false) :
    (d3hot s).pci = { s.pci with d3hot := true } ∧ (s.awake → s.lostTo (d3hot s) 7) ∧
      (s.mode = 6 → s.lossSilent (d3hot s)) := by
  unfold d3hot
  rw [if_neg (by simp [hd])]
  refine ⟨State.hostLoss_pci, fun ha => ?_, fun h => ?_⟩
  · exact State.hostLoss_lostTo (s := { s with pci := { s.pci with d3hot := true } }) he ha (by decide)
  · exact State.lossSilent_of_regs (State.hostLoss_regs_of_silent (s := { s with pci := { s.pci with d3hot := true } }) (.inl h))

/-! ### Event records -/

/-- What posting an event record reads is the same in two states. -/
structure State.EventSame (s t : State) : Prop where
  clock : s.SameClock t
  eqCtrl : t.rd .hstEqCtrl = s.rd .hstEqCtrl
  eqStatus : t.rd .hstEqStatus = s.rd .hstEqStatus
  baseLo : t.rd .hstEqBaseLo = s.rd .hstEqBaseLo
  baseHi : t.rd .hstEqBaseHi = s.rd .hstEqBaseHi
  eqCi : t.hst.eqCi = s.hst.eqCi
  pci : t.pci = s.pci
  sys : t.sys = s.sys

section
variable {s t u : State} {type ring info addr : Nat}

theorem State.EventSame.canPostEvent (h : s.EventSame t) (hs : s.canPostEvent) : t.canPostEvent := by
  simpa only [State.canPostEvent, State.rb, State.rf, State.scanned, h.eqCtrl, h.eqStatus, h.eqCi, h.pci, h.sys] using hs

theorem State.EventSame.postsEvent (h : s.EventSame t) (hp : t.postsEvent u type ring info addr) :
    s.postsEvent u type ring info addr := by
  unfold State.postsEvent State.addr64 State.rb State.rf at *
  rw [h.eqCtrl, h.eqStatus, h.baseLo, h.baseHi] at hp
  obtain ⟨hi, v, hv, ho⟩ := hp
  exact ⟨hi, v, h.clock.stamps hv, ho⟩

/-- A record that has been posted stays posted while the HST registers stay. -/
theorem State.postsEvent_keeps {m : Nat} (hp : s.postsEvent t type ring info addr) (h : t.Keeps m u)
    (hm : m.testBit 1 = false) : s.postsEvent u type ring info addr := by
  obtain ⟨hi, v, hv, ho⟩ := hp
  refine ⟨?_, v, hv, h.mem_out ho⟩
  rw [State.rf, h.rd .hstEqStatus hm]
  exact hi
end

/-- The producer index advances, and PHASE is another bit (R67). -/
theorem State.advancePi_eqStatus (s : State) {k : Nat} (hk : k ≤ 16) :
    (s.advancePi .hstEqStatus 0 k).rf .hstEqStatus 16 0 = (s.rf .hstEqStatus 16 0 + 1) % 2 ^ (k + 1) := by
  have hp : (s.rf .hstEqStatus 16 0 + 1) % 2 ^ (k + 1) < 2 ^ 17 :=
    Nat.lt_of_lt_of_le (Nat.mod_lt _ (Nat.two_pow_pos _)) (Nat.pow_le_pow_right (by decide) (by omega))
  unfold State.advancePi
  generalize (s.rf .hstEqStatus 16 0 + 1) % 2 ^ (k + 1) = p at *
  have hw : (s.wf .hstEqStatus 16 0 p).rf .hstEqStatus 16 0 = p := by
    rw [State.rf, State.rd_wf_same, fld_setFld_same _ _ _ _ (by decide) (by decide)]
    exact Nat.mod_eq_of_lt hp
  dsimp only
  split
  · rw [State.rf, State.wb, State.rd_wf_same, fld_setFld_other _ _ _ _ _ _ (by decide) (by decide) (by decide)]
    exact hw
  · exact hw

theorem State.advancePi_getW (s : State) (k : Nat) {a : Nat} (ha : a ≠ addrOf .hstEqStatus 0 0 0) :
    (s.advancePi .hstEqStatus 0 k).getW a = s.getW a := by
  unfold State.advancePi
  dsimp only
  split
  · exact (State.getW_wr_other _ _ _ _ _ _ _ ha).trans (State.getW_wr_other _ _ _ _ _ _ _ ha)
  · exact State.getW_wr_other _ _ _ _ _ _ _ ha

/-- The record of an event, with a stamp of the host fabric (R68). -/
def State.eventWrite (s : State) (type ring info addr : Nat) : OutEvent :=
  .hostWrite (BitVec.ofNat 64 (s.addr64 .hstEqBaseLo .hstEqBaseHi + s.rf .hstEqStatus 16 0 % 2 ^ s.rf .hstEqCtrl 5 1 * 32))
    ([BitVec.ofNat 8 type, BitVec.ofNat 8 (s.rb .hstEqStatus 17).toNat, BitVec.ofNat 8 ring, 0] ++ bytesLE 4 info ++
      bytesLE 8 (s.stamp 2).1.toNat ++ bytesLE 8 addr ++ bytesLE 8 0)

/-- The state in which an event record has been written and the producer index has advanced (R68). -/
def State.eventPosted (s : State) (type ring info addr : Nat) : State :=
  ((s.stamp 2).2.emit (s.eventWrite type ring info addr)).advancePi .hstEqStatus 0 (s.rf .hstEqCtrl 5 1)

/-- The event ring, of 2^k entries, has no room (R68). -/
def State.eqFull (s : State) (k : Nat) : Bool := decide (2 ^ k ≤ ringCount k (s.rf .hstEqStatus 16 0) s.hst.eqCi)

/-- What leaves the block while its balls follow the functional logic has left it (R424). -/
theorem State.mem_emit {s : State} (h : s.scanned = false) (e : OutEvent) : e ∈ (s.emit e).out := by
  rw [State.emit, if_neg (by simp [h])]
  simp

section
variable {s : State} (h : s.canPostEvent) (type ring info addr : Nat)

theorem State.eventPosted_eqStatus (hk : s.rf .hstEqCtrl 5 1 ≤ 16) :
    (s.eventPosted type ring info addr).rf .hstEqStatus 16 0 =
      (s.rf .hstEqStatus 16 0 + 1) % 2 ^ (s.rf .hstEqCtrl 5 1 + 1) := by
  have hrd : ((s.stamp 2).2.emit (s.eventWrite type ring info addr)).rd .hstEqStatus = s.rd .hstEqStatus :=
    State.rd_congr (by simp) _ 0 0 0
  refine (State.advancePi_eqStatus _ hk).trans ?_
  simp only [State.rf, hrd]

theorem State.eventPosted_out (hs : s.scanned = false) :
    s.eventWrite type ring info addr ∈ (s.eventPosted type ring info addr).out := by
  have hs2 : (s.stamp 2).2.scanned = false := by rw [State.scanned, State.stamp_sys]; exact hs
  exact (State.advancePi_keeps .hstEqStatus 0 _ (fp := 2) (.refl _ _) rfl rfl).mem_out (State.mem_emit hs2 _)

theorem State.eventPosted_getW {a : Nat} (ha : a ≠ addrOf .hstEqStatus 0 0 0) :
    (s.eventPosted type ring info addr).getW a = s.getW a :=
  (State.advancePi_getW _ _ ha).trans (State.getW_congr (by simp) a)

include h

/-- An event record that can be written is written; FULL and the source of the event ring follow (R68). -/
theorem State.postEvent_of_canPost : s.postEvent type ring info addr =
    ((s.eventPosted type ring info addr).wb .hstEqStatus 18
      ((s.eventPosted type ring info addr).eqFull (s.rf .hstEqCtrl 5 1))).raise 320 2 := by
  obtain ⟨hen, -, hroom, hbm, -⟩ := h
  have hrd : ∀ r i j k, (s.stamp 2).2.rd r i j k = s.rd r i j k := fun r i j k => State.rd_congr (s.stamp_regs 2) r i j k
  unfold State.postEvent
  rw [hen, hbm, if_neg (by decide), if_neg (by omega)]
  simp only [State.eqFull, State.eventPosted, State.eventWrite, State.addr64, State.rf, State.rb, hrd]
  rfl

theorem State.postEvent_posts : s.postsEvent (s.postEvent type ring info addr) type ring info addr := by
  rw [State.postEvent_of_canPost h]
  obtain ⟨-, hk, -, -, hscan⟩ := h
  refine State.postsEvent_keeps ?_ (State.raise_frame _ 320 2) rfl
  refine ⟨?_, _, s.stamp_stamps (d := 2) (by decide), ?_⟩
  · rw [State.rf, State.wb, State.rd_wf_same, fld_setFld_other _ _ _ _ _ _ (by decide) (by decide) (by decide)]
    exact State.eventPosted_eqStatus type ring info addr hk
  · rw [State.wb_out]
    exact State.eventPosted_out type ring info addr hscan

/-- Of the HST registers, the record of an event changes the event ring's status alone. -/
theorem State.postEvent_getW {a : Nat} (ha : regPart a = .hstRegs) (hn : a ≠ addrOf .hstEqStatus 0 0 0) :
    (s.postEvent type ring info addr).getW a = s.getW a := by
  rw [State.postEvent_of_canPost h, (State.raise_frame _ 320 2).getW (by rw [ha]; rfl)]
  exact (State.getW_wr_other _ _ _ _ _ _ _ hn).trans (State.eventPosted_getW type ring info addr hn)
end

/-! ### RESUME -/

/-- The mode to which RESUME returns before it looks at the beams: Provisioning after a loss there, else Service (R385). -/
def State.resumeMode (s : State) : Nat := if s.sys.lossProv then 1 else 2

/-- No poll has failed: as polling restarts (R57, R74). -/
def State.pollAnew (s : State) : State := { s with hst := { s.hst with failed := 0 } }

@[simp] theorem State.pollAnew_regs (s : State) : s.pollAnew.regs = s.regs := rfl
@[simp] theorem State.pollAnew_pci (s : State) : s.pollAnew.pci = s.pci := rfl
@[simp] theorem State.pollAnew_hst (s : State) : s.pollAnew.hst = { s.hst with failed := 0 } := rfl
@[simp] theorem State.pollAnew_tmr (s : State) : s.pollAnew.tmr = s.tmr := rfl
@[simp] theorem State.pollAnew_sys (s : State) : s.pollAnew.sys = s.sys := rfl

/-- The state in which RESUME has left Recovery and polling restarts at the minimum interval (R74). -/
def State.restarted (s : State) : State :=
  ((s.setMode s.resumeMode).wf .hstPoll 25 16 ((s.setMode s.resumeMode).rf .hstPoll 9 0)).pollAnew

theorem hostResume_of_recovery {s : State} (hm : s.mode = 6) (hl : s.sys.lossAt ≠ some s.now) :
    hostResume s = (s.restarted.postEvent 5 0xFF 0 0).followVigil := by
  rw [hostResume, if_neg (by simp [hm, hl])]
  rfl

theorem hostResume_of_reject {s : State} (h : s.mode ≠ 6 ∨ s.sys.lossAt = some s.now) :
    hostResume s = s.reject (addrOf .hstCtrl 0 0 0) := by
  rw [hostResume, if_pos h]

section
variable (s : State)

theorem State.restarted_regs : s.restarted.regs =
    ((s.setMode s.resumeMode).wf .hstPoll 25 16 ((s.setMode s.resumeMode).rf .hstPoll 9 0)).regs :=
  State.pollAnew_regs _

theorem State.restarted_hst : s.restarted.hst = { s.hst with failed := 0 } := by
  rw [State.restarted, State.pollAnew_hst, State.wf_hst, (s.setMode_frame _).hst rfl]

theorem State.restarted_pci : s.restarted.pci = s.pci := by
  rw [State.restarted, State.pollAnew_pci, State.wf_pci, (s.setMode_frame _).pci rfl]

theorem State.restarted_sys : s.restarted.sys = s.sys := by
  rw [State.restarted, State.pollAnew_sys, State.wf_sys, (s.setMode_frame _).sys rfl]

theorem State.restarted_tmr : s.restarted.tmr = (s.setMode s.resumeMode).tmr := by
  rw [State.restarted, State.pollAnew_tmr, State.wf_tmr]

theorem State.restarted_mode : s.restarted.mode = s.resumeMode := by
  rw [State.mode_congr (State.rd_congr s.restarted_regs .sysMode 0 0 0),
    State.mode_congr (State.rd_wf_other _ _ _ _ _ _ _ _ _ _ _ _ (by decide)), State.setMode_mode]
  unfold State.resumeMode; split <;> decide

/-- Polling restarts at the minimum interval (R74). -/
theorem State.restarted_poll : s.restarted.rf .hstPoll 25 16 = s.rf .hstPoll 9 0 := by
  have hp : (s.setMode s.resumeMode).rd .hstPoll = s.rd .hstPoll := (s.setMode_frame _).rd .hstPoll rfl 0 0 0
  rw [State.rf, State.rd_congr s.restarted_regs, State.rd_wf_same, fld_setFld_same _ _ _ _ (by decide) (by decide),
    State.rf, hp]
  exact Nat.mod_mod _ _

/-- A register but of modes, links, events, timers and the poll interval is as before RESUME. -/
theorem State.restarted_rd (r : RegName) (hr : Nat.testBit 0x2000180040D r.bit = false) (i j k : Nat)
    (hp : addrOf r i j k ≠ addrOf .hstPoll 0 0 0) : s.restarted.rd r i j k = s.rd r i j k := by
  rw [State.rd_congr s.restarted_regs, State.rd_wf_other _ _ _ _ _ _ _ _ _ _ _ _ hp]
  exact (s.setMode_frame _).rd r hr i j k

theorem State.restarted_eventSame : s.EventSame s.restarted where
  clock := (s.setMode_sameClock _).trans (.of_tmr s.restarted_tmr)
  eqCtrl := s.restarted_rd .hstEqCtrl rfl 0 0 0 (by decide)
  eqStatus := s.restarted_rd .hstEqStatus rfl 0 0 0 (by decide)
  baseLo := s.restarted_rd .hstEqBaseLo rfl 0 0 0 (by decide)
  baseHi := s.restarted_rd .hstEqBaseHi rfl 0 0 0 (by decide)
  eqCi := by rw [s.restarted_hst]
  pci := s.restarted_pci
  sys := s.restarted_sys

theorem State.restarted_allVigil : s.restarted.allVigil = s.allVigil :=
  State.allVigil_congr fun n => s.restarted_rd .beamStatus rfl n 0 0 fun e => by
    have := congrArg regPart e
    rw [regPart_addrOf, regPart_addrOf] at this
    cases this
end

theorem hostResume_effect {s : State} (hm : s.mode = 6) (hl : s.sys.lossAt ≠ some s.now) (hc : s.canPostEvent) :
    s.postsEvent (hostResume s) 5 0xFF 0 0 ∧ (hostResume s).rf .hstPoll 25 16 = s.rf .hstPoll 9 0 ∧
      (hostResume s).hst.failed = 0 ∧
      (hostResume s).mode = if s.sys.lossProv = true then 1 else if s.allVigil = true then 3 else 2 := by
  rw [hostResume_of_recovery hm hl]
  have hcr := s.restarted_eventSame.canPostEvent hc
  have hp := s.restarted.postEvent_frame 5 0xFF 0 0
  generalize hu : s.restarted.postEvent 5 0xFF 0 0 = u at *
  have hv := u.followVigil_frame
  refine ⟨?_, ?_, ?_, ?_⟩
  · rw [← hu] at hv ⊢
    exact s.restarted_eventSame.postsEvent (State.postsEvent_keeps (State.postEvent_posts hcr 5 0xFF 0 0) hv rfl)
  · rw [State.rf, hv.rd .hstPoll rfl, ← hu]
    rw [State.rd, State.postEvent_getW hcr _ _ _ _ (regPart_addrOf ..) (by decide)]
    exact s.restarted_poll
  · rw [hv.hst rfl, hp.hst rfl, s.restarted_hst]
  · have hum : u.mode = s.resumeMode := (State.mode_congr (hp.rd .sysMode rfl 0 0 0)).trans s.restarted_mode
    have huv : u.allVigil = s.allVigil :=
      (State.allVigil_congr fun n => hp.rd .beamStatus rfl n 0 0).trans s.restarted_allVigil
    have h3 : s.resumeMode ≠ 3 := by unfold State.resumeMode; split <;> decide
    rw [u.followVigil_mode (by omega), hum, huv]
    unfold State.resumeMode
    cases s.sys.lossProv <;> simp

/-! ### The statement -/

/-- Settles O26: a loss is `State.hostLoss`, whose record and mode change `State.hostLoss_lostTo` states; the reset that some
causes bring is `State.hstReset`, which finds every completion ring disabled, so that of its words HST_LOST alone changes;
RESUME is a mode change and an event record, and neither moves what the other reads. -/
theorem hostLoss : Obligations.HostLoss := by
  intro s he awake lost kept cleared silent resets
  refine ⟨fun x hx => ?_, fun ha hr hb => ?_, fun hb => ?_, fun hb => ⟨_, rfl, busMasterClear_effect he hb⟩,
    fun hd => ⟨_, rfl, d3hot_effect he hd⟩, fun hm hl hc => ⟨_, rfl, hostResume_effect hm hl hc⟩,
    fun h => ⟨_, rfl, hostResume_of_reject h⟩⟩
  · obtain rfl | rfl | rfl | rfl : x = (.dlDown, 4, false, s.pci.perst) ∨ x = (.hotReset, 5, s.pci.linkUp, s.pci.perst) ∨
        x = (.functionLevelReset, 6, s.pci.linkUp, s.pci.perst) ∨ x = (.perstNAssert, 8, false, true) := by
      simpa [resets] using hx
    all_goals exact ⟨_, rfl, s.linkLoss_effect he (by decide) _ _⟩
  · refine ⟨_, rfl, ?_⟩
    rw [heartbeatTimeout_of_polling ha hr hb]
    exact ⟨State.hostLoss_lostTo he ha (by decide), State.hostLoss_hst, State.hostLoss_pci⟩
  · show Host.Outcome.next (heartbeatTimeout s) = .next s
    rw [heartbeatTimeout, if_neg (by simp [hb])]

end Sys2Proof.Machine
end

section
/-! Proofs of spec 11, Fanel cores: shifts and rotates (R215), division (R216), window accesses and data faults (R208 to
R211). What an idle pipeline does and what a read of clean words leaves come first; then one rule each for an instruction
that completes and for one that takes an exception; and what the instructions do is read off the functions that mean them. -/

namespace Sys2Proof.Machine

/-! ### A core with nothing to come -/

/-- No result is still to come in the pipeline of a core, and none in its multiply-divide unit. -/
structure Core.Idle (k : Core) : Prop where
  pend : k.pend = []
  div : k.div = none

section
variable {k : Core} (h : k.Idle)
include h

theorem Core.Idle.land : k.land = k := by
  obtain ⟨hp, hd⟩ := h
  cases k
  cases hp
  cases hd
  rfl

theorem Core.Idle.pass (n : Nat) : k.pass n = { k with t := k.t + n, cyc := k.cyc + BitVec.ofNat 32 n } :=
  Core.Idle.land ⟨h.pend, h.div⟩

theorem Core.Idle.need (rs : List PReg) : k.need rs = k := by
  have hdue : k.dueAt rs = k.t := by rw [Core.dueAt, h.pend]; rfl
  rw [Core.need, hdue, Nat.sub_self, h.pass]
  simp

theorem Core.Idle.freeUnit : k.freeUnit = k := by rw [Core.freeUnit, h.div]
end

/-- Outside every loop an instruction goes on to the next word (R218, R224). -/
theorem Core.finish_of_ld {k : Core} {n : Nat} (hl : (k.pass n).ld = 0) :
    k.finish n = { k.pass n with pc := k.pc + 4, skipBp := false } := by
  simp [Core.finish, Core.loopCheck, hl]

theorem Core.Idle.finish {k : Core} (h : k.Idle) (hl : k.ld = 0) (n : Nat) : k.finish n = k.advanced n := by
  have hp := h.pass n
  rw [Core.finish_of_ld (by rw [hp]; exact hl), hp]
  rfl

/-! ### Reads of clean words -/

/-- The state in which the rewriting of poisoned table words in ascending order has come to x (R239). -/
def State.cleared (s : State) (x : List (Nat × Nat)) : State := { s with tbl := { s.tbl with clear := x } }

/-- A read of a word without errors changes nothing (R103). -/
theorem State.readTable_of_clean {s : State} {key : Nat} (hp : s.tbl.poison.contains key = false)
    (he : kvGet key s.tbl.err = none) : s.readTable key = (false, s) := by
  rw [State.readTable, if_neg (by rw [hp]; exact Bool.false_ne_true), he]
  rfl

/-- A core's read of words without errors breaks off their rewriting, and no more (R239). -/
theorem State.tcmTouch_of_clean {s : State} {c a n : Nat} (h : ∀ i, i < n → s.tcmClean c (a + 4 * i)) :
    ∃ x, s.tcmTouch c a n = s.cleared x := by
  have hkeys : ∀ k ∈ ((List.range n).map fun i => tcmKey c (a + 4 * i)).eraseDups,
      s.tbl.poison.contains k = false ∧ kvGet k s.tbl.err = none := by
    intro k hk
    obtain ⟨i, hi, rfl⟩ := List.mem_map.1 (List.mem_eraseDups.1 hk)
    exact h i (List.mem_range.1 hi)
  unfold State.tcmTouch
  generalize ((List.range n).map fun i => tcmKey c (a + 4 * i)).eraseDups = l at hkeys
  suffices ∀ x, ∃ y, l.foldl (fun s k =>
      let s1 := (s.readTable k).2
      { s1 with tbl := { s1.tbl with clear := kvDel k s1.tbl.clear } }) (s.cleared x) = s.cleared y from this s.tbl.clear
  induction l with
  | nil => exact fun x => ⟨x, rfl⟩
  | cons k l ih =>
    intro x
    obtain ⟨hp, he⟩ := hkeys k (List.mem_cons_self ..)
    have hread : (s.cleared x).readTable k = (false, s.cleared x) := State.readTable_of_clean hp he
    rw [List.foldl_cons, hread]
    exact ih (fun j hj => hkeys j (List.mem_cons_of_mem _ hj)) (kvDel k x)

theorem State.tcmClean.tcmTouch {s : State} {c a : Nat} (h : s.tcmClean c a) : ∃ x, s.tcmTouch c a 1 = s.cleared x := by
  refine State.tcmTouch_of_clean fun i hi => ?_
  obtain rfl : i = 0 := by omega
  exact h

theorem State.tcmClean.tcmBad {s : State} {c a : Nat} (h : s.tcmClean c a) : s.tcmBad c a = false := by
  rw [State.tcmBad, h.1, h.2]
  rfl

theorem State.setCore_core (s : State) (c : Nat) : s.setCore c (s.core c) = s := by
  have hv : vset s.cores c (vget s.cores c {}) = s.cores := by
    apply Vector.ext
    intro i hi
    rw [vset, Vector.getElem_setIfInBounds]
    split
    · subst_vars; simp [vget_eq, hi]
    · rfl
  rw [State.setCore, State.core, hv]

/-! ### An instruction that completes -/

section
variable {s : State} {c : Nat} {i : Instr} {body : Core → State → State} {k : Core}

theorem State.ready.idle (h : s.ready c) : (s.core c).Idle := ⟨h.2.1, h.2.2.1⟩

/-- A ready core runs the body of its instruction, on the core as it stands. -/
theorem issue_of_ready (h : s.ready c) (body : Core → State → State) :
    ∃ x, issue c body s = body (s.core c) (s.cleared x) := by
  have hidle := h.idle
  obtain ⟨hrun, -, -, hpc, hclean, hbp⟩ := h
  obtain ⟨x, hx⟩ := hclean.tcmTouch
  have hbad : (s.cleared x).tcmBad c (s.core c).pc.toNat = false := State.tcmClean.tcmBad hclean
  have hself : (s.cleared x).setCore c (s.core c) = s.cleared x := State.setCore_core (s.cleared x) c
  have hgo : (!(s.core c).skipBp && s.breakAt c (s.core c).pc) = false := by rcases hbp with h | h <;> simp [h]
  refine ⟨x, ?_⟩
  rw [issue, hidle.land]
  dsimp only
  rw [if_neg (by simp [hrun]), if_neg (by simp [hgo]), if_neg (by omega), hx, hself, if_neg (by simp [hbad])]

/-- So it does where no reserved field or form makes the instruction illegal (R213). -/
theorem issueIf_of_ready (h : s.ready c) {ok : Core → Bool} (hok : ok (s.core c) = true) (body : Core → State → State) :
    ∃ x, issueIf c ok body s = body (s.core c) (s.cleared x) := by
  obtain ⟨x, hx⟩ := issue_of_ready h fun k s => if ok k then body k s else illegal c k s
  exact ⟨x, hx.trans (if_pos hok)⟩

/-- The step of a core that reads clean words changes that core alone. -/
theorem State.coreOnly_cleared_setCore (s : State) (c : Nat) (x : List (Nat × Nat)) (k : Core) :
    s.coreOnly ((s.cleared x).setCore c k) c := by
  refine ⟨fun j hj => State.core_setCore_other _ _ _ _ hj, fun p hp => ?_, rfl, rfl, rfl⟩
  have hsame : p.same s s := p.same_refl s
  cases p with
  | cores | tables => simp at hp
  | _ => exact hsame

/-- A command that leaves core c as k and breaks off rewritings has done that and nothing else. -/
theorem State.runs_of_setCore {t : State} (hc : c < 20) {p : Core → Prop} (he : exec i s = .next t)
    (ht : ∃ x, t = (s.cleared x).setCore c k) (hp : p k) : s.runs i c p := by
  obtain ⟨x, rfl⟩ := ht
  refine ⟨_, he, s.coreOnly_cleared_setCore c x k, ?_⟩
  rw [State.core_setCore_same _ _ _ hc]
  exact hp

end

/-! ### Results that land together -/

/-- The core with the run state, the clock, the position in the program and what is to come of another. -/
def Core.moved (k j : Core) : Core :=
  { k with run := j.run, t := j.t, cyc := j.cyc, pc := j.pc, skipBp := j.skipBp, div := j.div, pend := j.pend }

/-- The distance of an ALU result (R219). -/
def Core.aluDist (k : Core) : Nat := if k.pipeX then 2 else 1

/-- The core after a list of results has reached its registers. -/
def Core.given (k : Core) (ps : List PendWrite) : Core := ps.foldl (fun k p => k.apply p.reg p.val) k

/-- A result changes registers alone, and does not depend on clock or position. -/
theorem Core.apply_moved (k j : Core) (r : PReg) (v : Word) : (k.moved j).apply r v = (k.apply r v).moved j := by
  unfold Core.apply
  split
  case h_1 => split <;> rfl
  case h_11 =>
    split
    · rfl
    · split <;> rfl
  all_goals rfl

theorem Core.given_moved (k j : Core) (ps : List PendWrite) : (k.moved j).given ps = (k.given ps).moved j := by
  induction ps generalizing k with
  | nil => rfl
  | cons p ps ih => exact (congrArg (Core.given · ps) (k.apply_moved j p.reg p.val)).trans (ih _)

theorem Core.given_self (k : Core) (ps : List PendWrite) : (k.given ps).moved k = k.given ps :=
  (k.given_moved k ps).symm

theorem Core.given_div (k : Core) (ps : List PendWrite) : (k.given ps).div = k.div :=
  (congrArg Core.div (k.given_self ps).symm).trans rfl

theorem Core.given_t (k : Core) (ps : List PendWrite) : (k.given ps).t = k.t :=
  (congrArg Core.t (k.given_self ps).symm).trans rfl

theorem Core.given_given (k : Core) (ps qs : List PendWrite) : (k.given ps).given qs = k.given (ps ++ qs) :=
  List.foldl_append.symm

/-- A result of a general register or of a flag leaves LD. -/
def PReg.keepsLd : PReg → Bool
  | .g _ => true
  | .flag f => f < 13
  | .sp _ => false

theorem Core.apply_ld {r : PReg} (h : r.keepsLd = true) (k : Core) (v : Word) : (k.apply r v).ld = k.ld := by
  cases r with
  | g i => rw [Core.apply]; split <;> rfl
  | flag f =>
    have hf : f < 13 := of_decide_eq_true h
    exact fld_setBit_other k.st f 15 13 _ (by omega) (.inr hf)
  | sp n => cases h

theorem Core.given_ld {ps : List PendWrite} (h : ∀ p ∈ ps, p.reg.keepsLd = true) (k : Core) :
    (k.given ps).ld = k.ld := by
  induction ps generalizing k with
  | nil => rfl
  | cons p ps ih =>
    exact (ih (fun q hq => h q (List.mem_cons_of_mem _ hq)) _).trans (k.apply_ld (h p (List.mem_cons_self ..)) p.val)

section
variable {k : Core}

/-- Before its time nothing lands. -/
theorem Core.land_of_later (h : ∀ p ∈ k.pend, k.t < p.at_) (hd : ∀ d, k.div = some d → k.t < d.endAt) : k.land = k := by
  have hnone : (k.pend.filter fun p => p.at_ ≤ k.t) = [] :=
    List.filter_eq_nil_iff.2 fun p hp => by simpa using h p hp
  have hall : (k.pend.filter fun p => k.t < p.at_) = k.pend := List.filter_eq_self.2 fun p hp => by simpa using h p hp
  rw [Core.land, hnone, hall]
  show (match k.div with
    | some d => if d.endAt ≤ k.t then { k with ml := d.quo, mh := d.rem, div := none } else k
    | none => k) = k
  split
  case h_1 d hk => exact if_neg (Nat.not_le.2 (hd d hk))
  case h_2 => rfl

/-- What lands when every result is due, and the end of a division that is due too (R219). -/
theorem Core.land_of_due (h : ∀ p ∈ k.pend, p.at_ ≤ k.t) : k.land = match k.div with
    | some d => if d.endAt ≤ k.t then { k.given k.pend with pend := [], ml := d.quo, mh := d.rem, div := none }
      else { k.given k.pend with pend := [] }
    | none => { k.given k.pend with pend := [] } := by
  have hall : (k.pend.filter fun p => p.at_ ≤ k.t) = k.pend := List.filter_eq_self.2 fun p hp => by simpa using h p hp
  have hnone : (k.pend.filter fun p => k.t < p.at_) = [] :=
    List.filter_eq_nil_iff.2 fun p hp => by simpa using h p hp
  rw [Core.land, hall, hnone]
  show (match (k.given k.pend).div with
    | some d => if d.endAt ≤ (k.given k.pend).t then
        { k.given k.pend with pend := [], ml := d.quo, mh := d.rem, div := none } else { k.given k.pend with pend := [] }
    | none => { k.given k.pend with pend := [] }) = _
  rw [Core.given_div, Core.given_t]

variable {ps : List PendWrite} {D : Option Division}

/-- An instruction outside every loop finishes in one cycle: some of its results, all due in the second cycle at the latest,
have then landed, and the others are to come. -/
theorem Core.finish_results (hl : k.ld = 0) (hps : ∀ p ∈ ps, p.at_ = k.t + k.aluDist)
    (hld : ∀ p ∈ ps, p.reg.keepsLd = true) (hD : ∀ d, D = some d → k.t + 1 < d.endAt) :
    ∃ rs qs, rs ++ qs = ps ∧ (∀ p ∈ qs, p.at_ ≤ k.t + 2) ∧ Core.finish { k with pend := ps, div := D } 1 =
      (k.given rs).moved { k.advanced 1 with pend := qs, div := D } := by
  have hfin {j : Core} (hj : Core.pass { k with pend := ps, div := D } 1 = j) (hl : j.ld = 0) :
      Core.finish { k with pend := ps, div := D } 1 = { j with pc := k.pc + 4, skipBp := false } := by
    subst hj
    exact Core.finish_of_ld hl
  unfold Core.aluDist at hps
  by_cases hx : k.pipeX = true
  · rw [if_pos hx] at hps
    have hpass : Core.pass { k with pend := ps, div := D } 1 =
        { k with pend := ps, div := D, t := k.t + 1, cyc := k.cyc + 1 } :=
      Core.land_of_later (fun p hp => by have := hps p hp; show k.t + 1 < p.at_; omega) hD
    exact ⟨[], ps, rfl, fun p hp => Nat.le_of_eq (hps p hp), (hfin hpass hl).trans rfl⟩
  · rw [if_neg hx] at hps
    have hpass : Core.pass { k with pend := ps, div := D } 1 =
        (k.given ps).moved { k with pend := [], div := D, t := k.t + 1, cyc := k.cyc + 1 } := by
      refine (Core.land_of_due fun p hp => Nat.le_of_eq (hps p hp)).trans ?_
      have hg := k.given_moved { k with pend := ps, div := D, t := k.t + 1, cyc := k.cyc + 1 } ps
      cases D with
      | none => exact congrArg (fun j : Core => { j with pend := [] }) hg
      | some d => 
        refine (if_neg (Nat.not_le.2 (hD d rfl))).trans ?_
        exact congrArg (fun j : Core => { j with pend := [] }) hg
    exact ⟨ps, [], List.append_nil ps, fun p hp => absurd hp List.not_mem_nil,
      hfin hpass ((Core.given_ld hld k).trans hl)⟩

/-- The core with the results of a division that has ended in ml and mh (R216). -/
def Core.ended (k : Core) : Option Division → Core
  | none => k
  | some d => { k with ml := d.quo, mh := d.rem }

/-- Once the results of an instruction are due, and its division has ended, they are in their registers and nothing is to
come. -/
theorem Core.finish_pass (hl : k.ld = 0) (hps : ∀ p ∈ ps, p.at_ = k.t + k.aluDist)
    (hld : ∀ p ∈ ps, p.reg.keepsLd = true) {n : Nat} (hn : 1 ≤ n)
    (hD : ∀ d, D = some d → k.t + 1 < d.endAt ∧ d.endAt ≤ k.t + 1 + n) :
    (Core.finish { k with pend := ps, div := D } 1).pass n =
      ((k.given ps).moved { k.advanced (1 + n) with pend := [], div := none }).ended D := by
  obtain ⟨rs, qs, rfl, hqs, hfin⟩ := Core.finish_results hl hps hld fun d hd => (hD d hd).1
  let j : Core := { k with pc := k.pc + 4, skipBp := false, pend := qs, div := D, t := k.t + 1 + n
                           cyc := k.cyc + BitVec.ofNat 32 1 + BitVec.ofNat 32 n }
  have hg : ((k.given rs).moved j).given qs = (k.given (rs ++ qs)).moved j := by rw [Core.given_moved, Core.given_given]
  have hj : { k.advanced (1 + n) with pend := [], div := none } = { j with pend := [], div := none } := by
    simp [Core.advanced, j, Nat.add_assoc, BitVec.add_assoc, BitVec.ofNat_add]
  rw [hfin, hj]
  refine (Core.land_of_due (k := (k.given rs).moved j) fun p hp => ?_).trans ?_
  · have := hqs p hp
    show p.at_ ≤ k.t + 1 + n
    omega
  · cases D with
    | none => exact congrArg (fun i : Core => { i with pend := [] }) hg
    | some d =>
      refine (if_pos (hD d rfl).2).trans ?_
      exact congrArg (fun i : Core => { i with pend := [], ml := d.quo, mh := d.rem, div := none }) hg
end

/-! ### ALU results -/

/-- What an arithmetic instruction has to write: its result, unless to g0, and its flags, at the ALU distance. -/
def Core.aluWrites (k : Core) (rd : Nat) (v : Word) (fs : List (Nat × Bool)) : List PendWrite :=
  (if rd = 0 then [] else [⟨.g rd, v, k.t + k.aluDist⟩]) ++
    fs.map fun f => ⟨.flag f.1, BitVec.ofNat 32 f.2.toNat, k.t + k.aluDist⟩

/-- The register and the flags that an arithmetic instruction writes. -/
def Core.aluGiven (k : Core) (rd : Nat) (v : Word) (fs : List (Nat × Bool)) : Core :=
  { k with g := if rd = 0 then k.g else vset k.g rd v, st := fs.foldl (fun w f => setBit w f.1 f.2) k.st }

theorem Core.given_flags (k : Core) (n : Nat) (fs : List (Nat × Bool)) :
    k.given (fs.map fun f => ⟨.flag f.1, BitVec.ofNat 32 f.2.toNat, n⟩) =
      { k with st := fs.foldl (fun w f => setBit w f.1 f.2) k.st } := by
  induction fs generalizing k with
  | nil => rfl
  | cons f fs ih =>
    have hb : bit (BitVec.ofNat 32 f.2.toNat) 0 = f.2 := by cases f.2 <;> rfl
    refine (ih _).trans ?_
    simp only [Core.apply, hb, List.foldl_cons]

theorem Core.given_aluWrites (k : Core) (rd : Nat) (v : Word) (fs : List (Nat × Bool)) :
    k.given (k.aluWrites rd v fs) = k.aluGiven rd v fs := by
  rw [Core.aluWrites, ← Core.given_given, Core.given_flags]
  by_cases hrd : rd = 0
  · rw [Core.aluGiven, if_pos hrd, if_pos hrd]
    rfl
  · have hg : k.given [⟨.g rd, v, k.t + k.aluDist⟩] = { k with g := vset k.g rd v } := if_neg hrd
    rw [Core.aluGiven, if_neg hrd, if_neg hrd, hg]

theorem Core.mem_aluWrites {k : Core} {rd : Nat} {v : Word} {fs : List (Nat × Bool)} (hfs : ∀ f ∈ fs, f.1 < 13)
    {p : PendWrite} (hp : p ∈ k.aluWrites rd v fs) : p.at_ = k.t + k.aluDist ∧ p.reg.keepsLd = true := by
  rcases List.mem_append.1 hp with hp | hp
  · split at hp
    · cases hp
    · rw [List.mem_singleton.1 hp]; exact ⟨rfl, rfl⟩
  · obtain ⟨f, hf, rfl⟩ := List.mem_map.1 hp
    exact ⟨rfl, decide_eq_true (hfs f hf)⟩

section
variable {k : Core}

/-- A result joins those to come of other registers (R219, R220). -/
theorem Core.result_new {ps : List PendWrite} {r : PReg} (v : Word) (hr : r ≠ .g 0) (hn : ∀ p ∈ ps, p.reg ≠ r) :
    Core.result { k with pend := ps } r v 2 1 = { k with pend := ps ++ [⟨r, v, k.t + k.aluDist⟩] } := by
  have hkeep : (ps.filter fun p => p.reg ≠ r || p.at_ < k.t + k.aluDist) = ps :=
    List.filter_eq_self.2 fun p hp => by simp [hn p hp]
  rw [Core.result, if_neg hr]
  exact congrArg (fun l => ({ k with pend := l ++ [⟨r, v, k.t + k.aluDist⟩] } : Core)) hkeep

theorem Core.flags_new {fs : List (Nat × Bool)} {ps : List PendWrite} (hn : ∀ p ∈ ps, ∀ f ∈ fs, p.reg ≠ .flag f.1)
    (hfs : (fs.map (·.1)).Nodup) : Core.flags { k with pend := ps } fs =
      { k with pend := ps ++ fs.map fun f => ⟨.flag f.1, BitVec.ofNat 32 f.2.toNat, k.t + k.aluDist⟩ } := by
  induction fs generalizing ps with
  | nil => simp [Core.flags]
  | cons f fs ih =>
    obtain ⟨hf, hfs⟩ := List.nodup_cons.1 hfs
    rw [Core.flags, List.foldl_cons, Core.result_new _ (by simp) fun p hp => hn p hp f (List.mem_cons_self ..)]
    refine (ih (fun p hp g hg => ?_) hfs).trans (by simp)
    rcases List.mem_append.1 hp with hp | hp
    · exact hn p hp g (List.mem_cons_of_mem _ hg)
    · rw [List.mem_singleton.1 hp]
      exact fun e => hf (List.mem_map.2 ⟨g, hg, (PReg.flag.inj e).symm⟩)

section
variable (h : k.Idle)
include h

theorem Core.Idle.result_flags (rd : Nat) (v : Word) {fs : List (Nat × Bool)} (hfs : (fs.map (·.1)).Nodup) :
    (k.result (.g rd) v 2 1).flags fs = { k with pend := k.aluWrites rd v fs } := by
  have hk : k = { k with pend := [] } := by cases k; cases h.pend; rfl
  have hr : k.result (.g rd) v 2 1 =
      { k with pend := if rd = 0 then [] else [⟨.g rd, v, k.t + k.aluDist⟩] } := by
    by_cases hrd : rd = 0
    · rw [hrd]; exact hk
    · rw [if_neg hrd]
      exact (congrArg (fun j : Core => j.result (.g rd) v 2 1) hk).trans
        (Core.result_new v (fun e => hrd (PReg.g.inj e)) fun p hp => absurd hp List.not_mem_nil)
  rw [hr]
  refine Core.flags_new (fun p hp f _ => ?_) hfs
  split at hp
  · cases hp
  · rw [List.mem_singleton.1 hp]
    exact PReg.noConfusion

/-- The results of an instruction outside every loop, and of the division that it begins, once they are due. -/
theorem Core.Idle.alu_pass {rd n : Nat} {D : Option Division} (hl : k.ld = 0) (v : Word) {fs : List (Nat × Bool)}
    (hn : (fs.map (·.1)).Nodup) (hfs : ∀ f ∈ fs, f.1 < 13) (h1 : 1 ≤ n)
    (hD : ∀ d, D = some d → k.t + 1 < d.endAt ∧ d.endAt ≤ k.t + 1 + n) :
    (Core.finish { (k.result (.g rd) v 2 1).flags fs with div := D } 1).pass n =
      ((k.aluGiven rd v fs).moved (k.advanced (1 + n))).ended D := by
  have hk : { k.advanced (1 + n) with pend := [], div := none } = k.advanced (1 + n) := by
    obtain ⟨hp, hd⟩ := h
    cases k
    cases hp
    cases hd
    rfl
  rw [h.result_flags rd v hn]
  refine (Core.finish_pass hl (fun p hp => (Core.mem_aluWrites hfs hp).1) (fun p hp => (Core.mem_aluWrites hfs hp).2)
    h1 hD).trans ?_
  rw [hk, Core.given_aluWrites]

theorem Core.Idle.wrote {rd : Nat} (hl : k.ld = 0) (v : Word) {fs : List (Nat × Bool)} (hn : (fs.map (·.1)).Nodup)
    (hfs : ∀ f ∈ fs, f.1 < 13) : (((k.result (.g rd) v 2 1).flags fs).finish 1).pass 1 = k.wrote rd v fs := by
  have hd : { (k.result (.g rd) v 2 1).flags fs with div := none } = (k.result (.g rd) v 2 1).flags fs := by
    rw [h.result_flags rd v hn, ← h.div]
  rw [← hd]
  exact h.alu_pass hl v hn hfs (Nat.le_refl 1) fun d hd => by cases hd
end
end

theorem flagsNZ_eq (v : Word) : flagsNZ v = nz v := by
  have hn : v.msb = decide (v.toInt < 0) := BitVec.msb_eq_toInt
  have hz : (v == 0) = decide (v.toNat = 0) := by
    rw [Bool.eq_iff_iff, beq_iff_eq, decide_eq_true_iff]
    exact BitVec.toNat_inj.symm
  rw [flagsNZ, nz, hn, hz]

section
variable {s : State} {c : Nat} {i : Instr} {o : FmtReg} {f : Word → Word → AluOut} {v : Word}

/-- An arithmetic instruction that sets N and Z (R206, R219). -/
theorem State.computes_of_ready (h : s.ready c) (hc : c < 20) (hl : (s.core c).ld = 0) {rd : Nat} {t : State}
    (he : exec i s = .next t) (ht : ∃ x, t = aluDone c rd (s.core c) (withNZ v) (s.cleared x)) :
    s.computes i c rd v (nz v) := by
  refine State.runs_of_setCore hc he ht ?_
  rw [← flagsNZ_eq]
  exact h.idle.wrote hl v (fs := flagsNZ v) (by simp [flagsNZ]) (by simp [flagsNZ])

/-- A two-register operation on the values of ra and rb (R212). -/
theorem aluRR_of_ready (h : s.ready c) (ht : o.top = 0) (hs : o.sh = 0) (f : Word → Word → AluOut) :
    ∃ x, aluRR f c o s = aluDone c o.rd (s.core c) (f ((s.core c).gr o.ra) ((s.core c).gr o.rb)) (s.cleared x) := by
  obtain ⟨x, hx⟩ := issueIf_of_ready h (ok := fun _ => o.top = 0 && o.sh = 0) (by simp [ht, hs]) fun k s =>
    aluDone c o.rd (k.need [.g o.ra, .g o.rb]) (f ((k.need [.g o.ra, .g o.rb]).gr o.ra) ((k.need [.g o.ra, .g o.rb]).gr o.rb)) s
  rw [h.idle.need] at hx
  exact ⟨x, hx⟩

/-- A shift of the value of ra by sh (R215). -/
theorem aluSh_of_ready (h : s.ready c) (ht : o.top = 0) (hr : o.rb = 0) (f : Word → Word → AluOut) :
    ∃ x, aluSh f c o s = aluDone c o.rd (s.core c) (f ((s.core c).gr o.ra) (BitVec.ofNat 32 o.sh)) (s.cleared x) := by
  obtain ⟨x, hx⟩ := issueIf_of_ready h (ok := fun _ => o.top = 0 && o.rb = 0) (by simp [ht, hr]) fun k s =>
    aluDone c o.rd (k.need [.g o.ra]) (f ((k.need [.g o.ra]).gr o.ra) (BitVec.ofNat 32 o.sh)) s
  rw [h.idle.need] at hx
  exact ⟨x, hx⟩
end

/-! ### An instruction that takes an exception -/

/-- The core with its return pc and st pushed, two cycles on (R233, R236). -/
def Core.stacked (k : Core) (ret : Word) : Core :=
  { k with
    g := vset k.g 30 (BitVec.ofNat 32 ((k.gr 30).toNat - 8))
    dtcm := kvPut 0 (((k.gr 30).toNat - 8 - 0x10000) / 4) k.stWord
      (kvPut 0 (((k.gr 30).toNat - 8 + 4 - 0x10000) / 4) ret k.dtcm)
    t := k.t + 2, cyc := k.cyc + 2 }

section
variable {k : Core} (h : k.Idle)
include h

theorem Core.Idle.now (r : PReg) (v : Word) : k.now r v = k.apply r v := by
  have hk : { k with pend := k.pend.filter fun p => p.reg ≠ r } = k := by
    rw [h.pend]
    exact congrArg (fun l => ({ k with pend := l } : Core)) h.pend.symm
  rw [Core.now, hk]

/-- Both words pushed lie in D-TCM (R238). -/
theorem Core.Idle.push (hsp : 0x10008 ≤ (k.gr 30).toNat) (ret : Word) :
    k.push ret = { k with
      g := vset k.g 30 (BitVec.ofNat 32 ((k.gr 30).toNat - 8))
      dtcm := kvPut 0 (((k.gr 30).toNat - 8 - 0x10000) / 4) k.stWord
        (kvPut 0 (((k.gr 30).toNat - 8 + 4 - 0x10000) / 4) ret k.dtcm) } := by
  have hset {j : Core} {a : Nat} (ha : 0x10000 ≤ a) (w : Word) :
      j.setTcm a w = { j with dtcm := kvPut 0 ((a - 0x10000) / 4) w j.dtcm } := if_neg (Nat.not_lt.2 ha)
  rw [Core.push, hset (by omega), hset (by omega), Core.Idle.now]
  · rfl
  · exact ⟨h.pend, h.div⟩

/-- In the first two cycles of an entry sp is read and both words are pushed. -/
theorem Core.Idle.push_pass (hsp : 0x10008 ≤ (k.gr 30).toNat) (ret : Word) :
    (((k.need [.g 30]).pass 1).push ret).pass 1 = k.stacked ret := by
  have hpush := Core.Idle.push (k := { k with t := k.t + 1, cyc := k.cyc + 1 }) ⟨h.pend, h.div⟩ hsp ret
  have hcyc : k.cyc + 1 + BitVec.ofNat 32 1 = k.cyc + 2 := BitVec.add_assoc ..
  rw [h.need, h.pass]
  refine (congrArg (Core.pass · 1) hpush).trans ((Core.Idle.pass ?_ 1).trans ?_)
  · exact ⟨h.pend, h.div⟩
  · rw [Core.stacked, ← hcyc]
    rfl

theorem Core.Idle.setCause (v : Word) (n : Nat) :
    (k.now (.sp 16) v).setIpl n = { k with xcause := v, st := setFld k.st 12 8 n } := by
  have hp : (k.pend.filter fun p => p.reg ≠ .sp 0) = k.pend := by rw [h.pend]; rfl
  rw [h.now]
  exact congrArg (fun l => ({ k with xcause := v, st := setFld k.st 12 8 n, pend := l } : Core)) hp

/-- Entry to an exception with nothing to come (R233). -/
theorem Core.Idle.enter (hrun : k.run = .running) (hsp : 0x10008 ≤ (k.gr 30).toNat) (code : Nat)
    (saved xaddr : Word) :
    k.enter saved (BitVec.ofNat 32 (0x80000000 + code)) (some xaddr) 17 code = k.trapped code saved xaddr := by
  have hcyc : k.cyc + 2 + BitVec.ofNat 32 3 = k.cyc + 5 := BitVec.add_assoc ..
  have hstack : (k.stacked saved).Idle := ⟨h.pend, h.div⟩
  let cause := BitVec.ofNat 32 (0x80000000 + code)
  have hcaused : ((((k.need [.g 30]).pass 1).push saved).pass 1 |>.now (.sp 16) cause).setIpl 17 =
      { k.stacked saved with xcause := cause, st := setFld k.st 12 8 17 } := by
    rw [h.push_pass hsp, hstack.setCause]
    rfl
  let k4 : Core := { k.stacked saved with
    xcause := cause, st := setFld k.st 12 8 17, xaddr := xaddr, run := .running, wait := .none, skipBp := false }
  have hpass : k4.pass 3 = { k4 with t := k4.t + 3, cyc := k4.cyc + 3 } := Core.Idle.pass (k := k4) ⟨h.pend, h.div⟩ 3
  calc k.enter saved cause (some xaddr) 17 code
    _ = { k4.pass 3 with pc := (k4.pass 3).vector code } :=
      congrArg (fun j : Core =>
        let k5 := Core.pass { j with xaddr := xaddr, run := .running, wait := .none, skipBp := false } 3
        { k5 with pc := k5.vector code }) hcaused
    _ = k.trapped code saved xaddr := by
      rw [hpass, Core.trapped, hrun, ← hcyc]
      rfl
end

theorem isLp_of_steward {c : Nat} (hc : 16 ≤ c) : isLp c = false := decide_eq_false (by omega)

theorem isLp_of_lt {c : Nat} (hc : c < 16) : isLp c = true := decide_eq_true hc

/-- The state with an exception of core c counted, which a line processor does (R241). -/
def State.counted (s : State) (c : Nat) : State := if isLp c then s.bump .lpExc c else s

section
variable {s : State} {c code : Nat} {k : Core}

theorem State.counted_tbl (s : State) (c : Nat) : (s.counted c).tbl = s.tbl := by
  unfold State.counted
  split
  · exact State.bump_tbl ..
  · rfl

theorem State.counted_core (s : State) (c j : Nat) : (s.counted c).core j = s.core j := by
  have hcores : (s.counted c).cores = s.cores := by
    unfold State.counted
    split
    · exact State.bump_cores ..
    · rfl
  rw [State.core, hcores, ← State.core]

theorem State.counted_onlyChanges (s : State) (c : Nat) : s.onlyChanges (s.counted c) [.lpRegs] := by
  have hkeeps : s.Keeps 0x10000 (s.counted c) := by
    unfold State.counted
    split
    · exact State.bump_keeps .lpExc c 0 0 1 (.refl _ s) rfl
    · exact .refl _ s
  intro p hp
  refine hkeeps.2.2.2 p ?_
  cases p with
  | lpRegs => simp at hp
  | _ => rfl

theorem State.counted_getW (s : State) {c a : Nat} (h : 16 ≤ c ∨ a ≠ addrOf .lpExc c 0 0) :
    (s.counted c).getW a = s.getW a := by
  unfold State.counted
  split
  case isTrue hlp =>
    have hc : c < 16 := of_decide_eq_true hlp
    exact s.getW_wr_other a .lpExc _ c 0 0 (h.resolve_left (by omega))
  case isFalse => rfl

theorem State.counted_lpExc (s : State) {c : Nat} (h : c < 16) :
    (s.counted c).rd .lpExc c = countWord (s.rd .lpExc c) 1 := by
  rw [State.counted, if_pos (isLp_of_lt h), State.bump, if_neg Nat.one_ne_zero]
  exact State.rd_wr_same ..

theorem State.putW_setCore (s : State) (c a : Nat) (w : Word) (x : List (Nat × Nat)) (k : Core) :
    ((s.cleared x).setCore c k).putW a w = ((s.putW a w).cleared x).setCore c k := rfl

theorem State.counted_setCore (s : State) (c : Nat) (x : List (Nat × Nat)) (k : Core) :
    ((s.cleared x).setCore c k).counted c = ((s.counted c).cleared x).setCore c k := by
  have hrd : ((s.cleared x).setCore c k).rd .lpExc c = s.rd .lpExc c := State.rd_congr rfl ..
  unfold State.counted State.bump
  rw [if_neg Nat.one_ne_zero, if_neg Nat.one_ne_zero, hrd, State.wr, State.putW_setCore, ← State.wr]
  split
  · rfl
  · rfl

/-- An update of a core and of rewritings leaves what is held of a word's errors. -/
theorem State.tcmClean.setCore {a : Nat} (h : s.tcmClean c a) (x : List (Nat × Nat)) (k : Core) :
    ((s.cleared x).setCore c k).tcmClean c a := h

theorem State.tcmClean.counted {a : Nat} (h : s.tcmClean c a) : (s.counted c).tcmClean c a := by
  unfold State.tcmClean
  rw [s.counted_tbl]
  exact h

theorem State.setCore_setCore (s : State) (c : Nat) (j k : Core) : (s.setCore c j).setCore c k = s.setCore c k := by
  have hv : vset (vset s.cores c j) c k = vset s.cores c k := by
    rw [vset, vset, vset, Vector.setIfInBounds_setIfInBounds]
  exact congrArg (fun v => { s with cores := v }) hv

/-- The words that an entry pushes are read first, without more (R238, R239). -/
theorem State.stackOk.touchPush (h : s.stackOk c) :
    ∃ y, s.touchPush c ((s.core c).gr 30) = s.cleared y := by
  obtain ⟨hal, hlo, hhi, hlow, hhigh⟩ := h
  rw [State.touchPush, if_pos ⟨hal, hlo, hhi⟩]
  refine State.tcmTouch_of_clean fun i hi => ?_
  obtain rfl | rfl : i = 0 ∨ i = 1 := by omega
  · exact hlow
  · rwa [show ((s.core c).gr 30).toNat - 8 + 4 * 1 = ((s.core c).gr 30).toNat - 4 by omega]

theorem State.stackOk.canPushAt (h : s.stackOk c) : s.canPushAt c ((s.core c).gr 30) = true := by
  obtain ⟨hal, hlo, hhi, hlow, hhigh⟩ := h
  simp [State.canPushAt, hal, hlo, hhi, hlow.tcmBad, hhigh.tcmBad]

/-- Counting, and an update of the core that leaves its sp, keep its stack. -/
theorem State.stackOk.counted_setCore (h : s.stackOk c) (hc : c < 20) (hg : k.gr 30 = (s.core c).gr 30)
    (x : List (Nat × Nat)) : (((s.counted c).cleared x).setCore c k).stackOk c := by
  obtain ⟨hal, hlo, hhi, hlow, hhigh⟩ := h
  unfold State.stackOk
  rw [State.core_setCore_same _ _ _ hc, hg]
  exact ⟨hal, hlo, hhi, hlow.counted.setCore x k, hhigh.counted.setCore x k⟩

theorem State.noExcHalt.go (h : s.noExcHalt c) : (isLp c && s.rb .lpDbgCtrl 1 c) = false := by
  by_cases hlp : c < 16
  · rw [h hlp, Bool.and_false]
  · rw [isLp_of_steward (Nat.le_of_not_lt hlp), Bool.false_and]

/-- The vector of an entry can be read (R233, R239). -/
theorem State.readVector_of_clean {e : Nat} (h : s.tcmClean c ((s.core c).vectorAt e)) (bad : State → State) :
    ∃ y, s.readVector c e bad = s.cleared y := by
  obtain ⟨y, hy⟩ := h.tcmTouch
  have hbad : (s.cleared y).tcmBad c ((s.core c).vectorAt e) = false := State.tcmClean.tcmBad h
  exact ⟨y, by rw [State.readVector, hy, if_neg (by simp [hbad])]⟩

/-- A core that can enter an exception enters it (R232, R233). -/
theorem takeException_of_canEnter (hc : c < 20) (h : s.canEnter c) (hk : k.Idle) (hrun : k.run = .running)
    (hg : k.gr 30 = (s.core c).gr 30) (hv : k.vbase = (s.core c).vbase) (hcode : code < 48) (saved xaddr : Word)
    (x : List (Nat × Nat)) : ∃ y, takeException c code saved xaddr ((s.cleared x).setCore c k) =
      ((s.counted c).cleared y).setCore c (k.trapped code saved xaddr) := by
  obtain ⟨hstack, hhalt, hvec⟩ := h
  have hcore : ((s.cleared x).setCore c k).core c = k := State.core_setCore_same _ _ _ hc
  have hno : (isLp c && ((s.cleared x).setCore c k).rb .lpDbgCtrl 1 c) = false := hhalt.go
  have hcount : (if isLp c then ((s.cleared x).setCore c k).bump .lpExc c else (s.cleared x).setCore c k) =
      ((s.counted c).cleared x).setCore c k := s.counted_setCore c x k
  have hk1 : ((k.need [.g 30]).pass 1).gr 30 = k.gr 30 := by rw [hk.need, hk.pass]; rfl
  have hcore' (y : List (Nat × Nat)) (j : Core) : (((s.counted c).cleared y).setCore c j).core c = j :=
    State.core_setCore_same _ _ _ hc
  obtain ⟨y, hy⟩ : ∃ y, (((s.counted c).cleared x).setCore c k).touchPush c (k.gr 30) =
      ((s.counted c).cleared y).setCore c k := by
    obtain ⟨y, hy⟩ := (hstack.counted_setCore hc hg x).touchPush
    rw [hcore'] at hy
    exact ⟨y, hy⟩
  have hpush : (((s.counted c).cleared y).setCore c k).canPushAt c (k.gr 30) = true := by
    have := (hstack.counted_setCore hc hg y).canPushAt
    rwa [hcore'] at this
  have hvector : (((s.counted c).cleared y).setCore c (k.trapped code saved xaddr)).tcmClean c
      (Core.vectorAt ((((s.counted c).cleared y).setCore c (k.trapped code saved xaddr)).core c) code) := by
    rw [hcore']
    have hat : (k.trapped code saved xaddr).vectorAt code = (s.core c).vbase.toNat + 4 * code := by rw [← hv]; rfl
    rw [hat]
    exact (hvec code hcode).counted.setCore y _
  obtain ⟨z, hz⟩ := State.readVector_of_clean hvector (vectorFault c code saved)
  refine ⟨z, ?_⟩
  rw [takeException, exceptionOr]
  dsimp only
  rw [hcore, if_neg (by simp [hno]), hk1, hcount, hy, if_pos hpush, State.setCore_setCore,
    hk.enter hrun (hg ▸ hstack.2.1), hz]
  rfl

/-- Such an entry changes the core, and the count of exceptions of a line processor. -/
theorem State.traps_of_canEnter {i : Instr} {t : State} (hc : c < 20) (h : s.canEnter c) (hk : k.Idle) (hrun : k.run = .running)
    (hg : k.gr 30 = (s.core c).gr 30) (hv : k.vbase = (s.core c).vbase) (hcode : code < 48) {saved xaddr : Word}
    (he : exec i s = .next t) (ht : ∃ x, t = takeException c code saved xaddr ((s.cleared x).setCore c k)) :
    s.traps i c code saved xaddr k := by
  obtain ⟨x, rfl⟩ := ht
  obtain ⟨y, hy⟩ := takeException_of_canEnter hc h hk hrun hg hv hcode saved xaddr x
  refine ⟨_, he, ?_⟩
  rw [hy]
  refine ⟨State.core_setCore_same _ _ _ hc, fun j hj => ?others, fun p hp => ?parts, ?err, ?poison,
    fun a ha => s.counted_getW ha, fun hlp => s.counted_lpExc hlp⟩
  case others => exact (State.core_setCore_other _ _ _ _ hj).trans (s.counted_core c j)
  case parts =>
    obtain ⟨-, hparts, -⟩ := (s.counted c).coreOnly_cleared_setCore c y (k.trapped code saved xaddr)
    simp only [List.mem_cons, not_or] at hp
    exact Part.same_trans (s.counted_onlyChanges c p (by simp [hp])) (hparts p (by simp [hp]))
  case err => rw [State.setCore_tbl, State.cleared, s.counted_tbl]
  case poison => rw [State.setCore_tbl, State.cleared, s.counted_tbl]
end

/-! ### Shifts and rotates (R215) -/

theorem aluSll_eq (a b : Word) : aluSll a b = withNZ (BitVec.ofNat 32 (a.toNat * 2 ^ (b.toNat % 64))) := by
  rw [aluSll, ← Nat.shiftLeft_eq]
  rfl

theorem aluSrl_eq (a b : Word) : aluSrl a b = withNZ (BitVec.ofNat 32 (a.toNat / 2 ^ (b.toNat % 64))) := by
  rw [aluSrl, ← Nat.shiftRight_eq_div_pow, ← BitVec.toNat_ushiftRight, BitVec.ofNat_toNat, BitVec.setWidth_eq]

theorem aluSra_eq (a b : Word) : aluSra a b = withNZ (BitVec.ofInt 32 (a.toInt / 2 ^ (b.toNat % 64))) := by
  rw [aluSra, BitVec.sshiftRight, Int.shiftRight_eq_div_pow, Int.natCast_pow, Int.cast_ofNat_Int]

/-- Bit k of a word rotated right is the bit n places up. -/
theorem getLsbD_rotateRight_mod (a : Word) {n k : Nat} (hn : n < 32) (hk : k < 32) :
    (a.rotateRight n).getLsbD k = a.getLsbD ((k + n) % 32) := by
  rw [BitVec.getLsbD_rotateRight, Nat.mod_eq_of_lt hn]
  by_cases h : k < 32 - n
  · rw [decide_eq_true h, Nat.mod_eq_of_lt (by omega), Nat.add_comm, cond_true]
  · rw [decide_eq_false h, cond_false, decide_eq_true hk, Bool.true_and]
    congr 1
    omega

/-- Bit k of a word rotated left is the bit n places down. -/
theorem getLsbD_rotateLeft_mod (a : Word) {n k : Nat} (hn : n < 32) (hk : k < 32) :
    (a.rotateLeft n).getLsbD k = a.getLsbD ((k + (32 - n)) % 32) := by
  rw [BitVec.getLsbD_rotateLeft, Nat.mod_eq_of_lt hn]
  by_cases h : k < n
  · rw [decide_eq_true h, Nat.mod_eq_of_lt (by omega), Nat.add_comm, cond_true]
  · rw [decide_eq_false h, cond_false, decide_eq_true hk, Bool.true_and]
    congr 1
    omega

/-- Settles O4: each operation is `aluRR` or `aluSh` of one function of two words, whose value `aluSll_eq`, `aluSrl_eq`,
`aluSra_eq` or a rotation's bits give; `State.computes_of_ready` says what the instruction then does. -/
theorem fanelShifts : Obligations.FanelShifts := by
  intro s c o h hl ht a n left right sign turned does
  have hc : (c : Nat) < 20 := c.isLt
  have hsh : (BitVec.ofNat 32 o.sh : Word).toNat = o.sh := Nat.mod_eq_of_lt (by omega)
  have hmod : n % 32 = ((s.core c).gr o.rb).toNat % 32 := Nat.mod_mod_of_dvd _ (by decide)
  refine ⟨fun hs => ?byRb, fun hr => ?bySh⟩
  case byRb =>
    have hdo {f : Word → Word → AluOut} {v : Word} {i : Instr} (he : exec i s = .next (aluRR f c o s))
        (hf : f a ((s.core c).gr o.rb) = withNZ v) : s.computes i c o.rd v (nz v) :=
      State.computes_of_ready h hc hl he (hf ▸ aluRR_of_ready h ht hs f)
    refine ⟨hdo rfl (aluSll_eq ..), hdo rfl (aluSrl_eq ..), hdo rfl (aluSra_eq ..), ?_, ?_⟩
    · rw [hmod]
      exact ⟨_, fun k => getLsbD_rotateRight_mod a (Nat.mod_lt _ (by decide)), hdo rfl rfl⟩
    · rw [hmod]
      exact ⟨_, fun k => getLsbD_rotateLeft_mod a (Nat.mod_lt _ (by decide)), hdo rfl rfl⟩
  case bySh =>
    have hdo {f : Word → Word → AluOut} {v : Word} {i : Instr} (he : exec i s = .next (aluSh f c o s))
        (hf : f a (BitVec.ofNat 32 o.sh) = withNZ v) : s.computes i c o.rd v (nz v) :=
      State.computes_of_ready h hc hl he (hf ▸ aluSh_of_ready h ht hr f)
    have hsh64 : o.sh.val % 64 = o.sh := Nat.mod_eq_of_lt (by omega)
    refine ⟨hdo rfl ?_, hdo rfl ?_, hdo rfl ?_, _, fun k => getLsbD_rotateRight_mod a o.sh.isLt, hdo rfl ?_⟩
    · rw [aluSll_eq, hsh, hsh64]
    · rw [aluSrl_eq, hsh, hsh64]
    · rw [aluSra_eq, hsh, hsh64]
    · rw [aluRor, hsh, Nat.mod_eq_of_lt o.sh.isLt]

/-! ### Division (R216) -/

/-- The core at the issue of a division that raises nothing: its flags are due, and the unit is at work (R216, R219). -/
def Core.dividing (k : Core) (signed : Bool) (a b : Word) : Core :=
  { k.flags (divFlags signed a b) with div := some ⟨k.t + 19, (divide signed a b).1, (divide signed a b).2⟩ }

section
variable {s : State} {c : Fin 20} {o : FmtReg} {i : Instr}

/-- What a division does on a ready core: Divide by Zero under DZE, else its issue (R216). -/
theorem divOp_of_ready (h : s.ready c) (ht : o.top = 0) (hs : o.sh = 0) (hd : o.rd = 0) (signed : Bool) :
    ∃ x, divOp signed c o s =
      if ((s.core c).gr o.rb = 0 && bit (s.core c).st 5) = true then
        takeException c 4 (s.core c).pc (s.core c).pc ((s.cleared x).setCore c ((s.core c).now (.flag 4) 1))
      else (s.cleared x).setCore c (((s.core c).dividing signed ((s.core c).gr o.ra) ((s.core c).gr o.rb)).finish 1) := by
  obtain ⟨x, hx⟩ := issueIf_of_ready h (ok := fun _ => o.top = 0 && o.sh = 0 && o.rd = 0) (by simp [ht, hs, hd]) fun k s =>
    let k := (k.freeUnit).need [.g o.ra, .g o.rb]
    if k.gr o.rb = 0 && bit k.st 5 then takeException c 4 k.pc k.pc (s.setCore c (k.now (.flag 4) 1))
    else s.setCore c ((k.dividing signed (k.gr o.ra) (k.gr o.rb)).finish 1)
  rw [h.idle.freeUnit, h.idle.need] at hx
  exact ⟨x, hx⟩

/-- The core 19 cycles after the issue of a division, outside every loop, with its results and a flag. -/
def Core.divided (k : Core) (ml mh : Word) (flag : Nat) (v : Bool) : Core :=
  { k.advanced 19 with ml := ml, mh := mh, st := setBit k.st flag v }

theorem Core.Idle.dividing_pass {k : Core} (h : k.Idle) (hl : k.ld = 0) {signed v : Bool} {a b ml mh : Word} {flag : Nat}
    (hq : divide signed a b = (ml, mh)) (hf : divFlags signed a b = [(flag, v)]) (hlt : flag < 13) :
    ((k.dividing signed a b).finish 1).pass 18 = k.divided ml mh flag v := by
  rw [Core.dividing, hq, hf]
  exact h.alu_pass (rd := 0) hl 0 (fs := [(flag, v)]) (List.pairwise_singleton _ _) (by simpa using hlt) (by decide) fun d hd => by
    cases hd
    exact ⟨Nat.add_lt_add_left (by decide) k.t, Nat.le_refl (k.t + 19)⟩

/-- After its issue a division is in the unit. -/
theorem Core.Idle.dividing_finish {k : Core} (h : k.Idle) (hl : k.ld = 0) {signed v : Bool} {a b ml mh : Word} {flag : Nat}
    (hq : divide signed a b = (ml, mh)) (hf : divFlags signed a b = [(flag, v)]) (hlt : flag < 13) :
    ((k.dividing signed a b).finish 1).run = k.run ∧ ((k.dividing signed a b).finish 1).t = k.t + 1 ∧
      ((k.dividing signed a b).finish 1).div = some ⟨k.t + 19, ml, mh⟩ := by
  have hfs : ∀ f ∈ [(flag, v)], f.1 < 13 := by simpa using hlt
  have hissue : k.dividing signed a b =
      { k with pend := k.aluWrites 0 0 [(flag, v)], div := some ⟨k.t + 19, ml, mh⟩ } := by
    rw [Core.dividing, hq, hf]
    exact congrArg (fun j : Core => { j with div := some ⟨k.t + 19, ml, mh⟩ })
      (h.result_flags 0 0 (fs := [(flag, v)]) (List.pairwise_singleton _ _))
  obtain ⟨rs, qs, -, -, hfin⟩ := Core.finish_results (k := k) (D := some ⟨k.t + 19, ml, mh⟩) hl
    (fun p hp => (Core.mem_aluWrites hfs hp).1) (fun p hp => (Core.mem_aluWrites hfs hp).2) fun d hd => by
      cases hd
      exact Nat.add_lt_add_left (by decide) k.t
  rw [hissue, hfin]
  exact ⟨rfl, rfl, rfl⟩

/-- DIV_COMPLETE lets the cycles pass that are left (R221). -/
theorem divComplete_of_running {d : Division} (hrun : (s.core c).run = .running) (hd : (s.core c).div = some d) :
    divComplete c s = s.setCore c ((s.core c).pass (d.endAt - (s.core c).t)) := by
  simp [divComplete, hrun, hd]

/-- A division outside every loop, and its completion (R216, R221). -/
theorem State.divides_of_ready (h : s.ready c) (hl : (s.core c).ld = 0) (ht : o.top = 0) (hs : o.sh = 0)
    (hd : o.rd = 0) {signed v : Bool} {ml mh : Word} {flag : Nat} (he : exec i s = .next (divOp signed c o s))
    (hz : ((s.core c).gr o.rb = 0 && bit (s.core c).st 5) = false)
    (hq : divide signed ((s.core c).gr o.ra) ((s.core c).gr o.rb) = (ml, mh))
    (hf : divFlags signed ((s.core c).gr o.ra) ((s.core c).gr o.rb) = [(flag, v)]) (hlt : flag < 13) :
    s.runs i c (fun k' => k'.pass 18 = (s.core c).divided ml mh flag v) ∧
      ∀ t, exec i s = .next t → t.runs (.divComplete c) c fun k' => k' = (s.core c).divided ml mh flag v := by
  have hc : (c : Nat) < 20 := c.isLt
  obtain ⟨x, hx⟩ := divOp_of_ready h ht hs hd signed
  rw [if_neg (Bool.eq_false_iff.1 hz)] at hx
  rw [hx] at he
  have hpass := h.idle.dividing_pass hl hq hf hlt
  refine ⟨State.runs_of_setCore hc he ⟨x, rfl⟩ hpass, fun t htn => ?_⟩
  obtain rfl : _ = t := Host.Outcome.next.inj (he.symm.trans htn)
  obtain ⟨hrun, hclock, hdiv⟩ := h.idle.dividing_finish hl hq hf hlt
  generalize ((s.core c).dividing signed ((s.core c).gr o.ra) ((s.core c).gr o.rb)).finish 1 = k1 at *
  have hk1 : ((s.cleared x).setCore c k1).core c = k1 := State.core_setCore_same _ _ _ hc
  refine State.runs_of_setCore (k := k1.pass 18) hc rfl ⟨x, ?_⟩ hpass
  have hleft : (s.core c).t + 19 - ((s.core c).t + 1) = 18 := Nat.add_sub_add_left ..
  rw [divComplete_of_running (by rw [hk1, hrun]; exact h.1) (by rw [hk1]; exact hdiv), hk1, hclock, hleft]
  rfl

/-- Divide by Zero, with DZ set before the entry (R216). -/
theorem State.divide_traps_of_ready (h : s.ready c) (ht : o.top = 0) (hs : o.sh = 0) (hd : o.rd = 0) {signed : Bool}
    (he : exec i s = .next (divOp signed c o s)) (hb : (s.core c).gr o.rb = 0) (hz : bit (s.core c).st 5 = true)
    (hent : s.canEnter c) :
    s.traps i c 4 (s.core c).pc (s.core c).pc { s.core c with st := setBit (s.core c).st 4 true } := by
  obtain ⟨x, hx⟩ := divOp_of_ready h ht hs hd signed
  have hbit : bit (1 : Word) 0 = true := by decide
  rw [if_pos (by rw [hb, hz]; rfl), h.idle.now, Core.apply, hbit] at hx
  exact State.traps_of_canEnter (k := { s.core c with st := setBit (s.core c).st 4 true }) c.isLt hent
    ⟨h.idle.pend, h.idle.div⟩ h.1 rfl rfl (by decide) he ⟨x, hx⟩
end

theorem divFlags_of_ne {a b : Word} (hb : b ≠ 0) (signed : Bool) :
    divFlags signed a b = [(3, signed && a == 0x80000000 && b == 0xFFFFFFFF)] := if_neg hb

theorem divide_signed_of_ne {a b : Word} (hb : b ≠ 0) :
    divide true a b = (BitVec.ofInt 32 (a.toInt.tdiv b.toInt), BitVec.ofInt 32 (a.toInt.tmod b.toInt)) :=
  (if_neg hb).trans (if_pos rfl)

theorem divide_unsigned_of_ne {a b : Word} (hb : b ≠ 0) :
    divide false a b = (BitVec.ofNat 32 (a.toNat / b.toNat), BitVec.ofNat 32 (a.toNat % b.toNat)) :=
  (if_neg hb).trans (if_neg Bool.false_ne_true)

/-- The quotient of a division by zero is the bound of the dividend's sign. -/
theorem divide_signed_zero (a : Word) :
    divide true a 0 = (if 0 ≤ a.toInt then 0x7FFFFFFF else 0x80000000, a) := by
  have hmsb : a.msb = decide (a.toInt < 0) := BitVec.msb_eq_toInt
  rw [divide, if_pos rfl, if_pos rfl, hmsb]
  by_cases h : 0 ≤ a.toInt
  · rw [if_pos h, if_neg (by simpa using h)]
  · rw [if_neg h, if_pos (by simpa using h)]

/-- Settles O6: the operands decide the quotient, the remainder and the flag (`divide`, `divFlags`), and with them
`State.divides_of_ready` gives the issue and its completion; a zero divisor under DZE is `State.divide_traps_of_ready`. -/
theorem fanelDivide : Obligations.FanelDivide := by
  intro s c o h hl ht hs hd k a b gives zero
  have hgives {i : Instr} {signed v : Bool} {ml mh : Word} {flag : Nat} (he : exec i s = .next (divOp signed c o s))
      (hz : (b = 0 && bit k.st 5) = false) (hq : divide signed a b = (ml, mh)) (hf : divFlags signed a b = [(flag, v)])
      (hlt : flag < 13) : gives i ml mh flag v := State.divides_of_ready h hl ht hs hd he hz hq hf hlt
  have hne (hb : b ≠ 0) : (b = 0 && bit k.st 5) = false := by rw [decide_eq_false hb, Bool.false_and]
  refine ⟨fun hb hov => ?overflow, fun hb hov => ?signed, fun hb => ?unsigned, fun hb hz => ?zeroQuiet,
    fun hb hz => ?zeroTrap⟩
  case overflow =>
    obtain ⟨ha, hb1⟩ := hov
    exact hgives rfl (hne hb) (by rw [ha, hb1]; decide) (by rw [ha, hb1]; decide) (by decide)
  case signed =>
    have hv : (true && a == 0x80000000 && b == 0xFFFFFFFF) = false := by simpa using hov
    exact hgives rfl (hne hb) (divide_signed_of_ne hb) (by rw [divFlags_of_ne hb, hv]) (by decide)
  case unsigned => exact hgives rfl (hne hb) (divide_unsigned_of_ne hb) (divFlags_of_ne hb false) (by decide)
  case zeroQuiet =>
    have hz : (b = 0 && bit k.st 5) = false := by rw [hz, Bool.and_false]
    have hf (signed : Bool) : divFlags signed a b = [(4, true)] := if_pos hb
    exact ⟨hgives rfl hz (by rw [hb, divide_signed_zero]) (hf true) (by decide),
      hgives rfl hz (by rw [hb]; rfl) (hf false) (by decide)⟩
  case zeroTrap =>
    exact ⟨State.divide_traps_of_ready h ht hs hd rfl hb hz, State.divide_traps_of_ready h ht hs hd rfl hb hz⟩

/-! ### Where an access lies (R208, R209, R211) -/

/-- A byte address in the device window. -/
def inDevice (n : Nat) : Prop := 0x40000000 ≤ n ∧ n < 0x44000000

/-- A byte address in the pattern window. -/
def inPattern (n : Nat) : Prop := 0x80000000 ≤ n ∧ n < 0xC0000000

section
variable {k : Core} {c : Nat} {w : Word} {store : Bool}

theorem Core.place_device (hc : 16 ≤ c) (hw : inDevice w.toNat) :
    k.place c w store = .device (w.toNat - 0x40000000) := by
  obtain ⟨hlo, hhi⟩ := hw
  rw [Core.place, isLp_of_steward hc]
  dsimp only
  rw [if_neg (by omega), if_pos ⟨hlo, hhi⟩, if_neg Bool.false_ne_true]

/-- A line processor loads from its own beam's region. -/
theorem Core.place_ownBeam (hc : c < 16) (hlo : 0x40100000 + c * 0x100000 ≤ w.toNat)
    (hhi : w.toNat < 0x40200000 + c * 0x100000) : k.place c w false = .device (w.toNat - 0x40000000) := by
  have hbeam : beamOf (w.toNat - 0x40000000) = some c := by
    rw [beamOf, if_pos (by omega)]
    congr 1
    omega
  rw [Core.place, isLp_of_lt hc]
  dsimp only
  rw [if_neg (by omega), if_pos (by omega), if_pos rfl, hbeam, if_pos (by simp)]

theorem Core.place_pattern (hc : 16 ≤ c) (hw : inPattern w.toNat) :
    k.place c w store = .pattern (w.toNat - 0x80000000 + k.pswin.toNat * 2 ^ 30) := by
  obtain ⟨hlo, hhi⟩ := hw
  rw [Core.place, isLp_of_steward hc]
  dsimp only
  rw [if_neg (by omega), if_neg (by omega), if_pos ⟨hlo, hhi, rfl⟩]

theorem Core.place_unmapped (hw : 0x20000 ≤ w.toNat) (hd : ¬inDevice w.toNat) (hp : ¬inPattern w.toNat) :
    k.place c w store = .none := by
  unfold inDevice at hd
  unfold inPattern at hp
  rw [Core.place]
  dsimp only
  rw [if_neg (by omega), if_neg hd, if_neg fun h => hp ⟨h.1, h.2.1⟩]

/-- A line processor stores to no window. -/
theorem Core.place_lpStore (hc : c < 16) (hw : 0x20000 ≤ w.toNat) : k.place c w true = .none := by
  rw [Core.place, isLp_of_lt hc]
  dsimp only
  rw [if_neg (by omega)]
  split
  · rfl
  · simp

theorem misaligned_of_mod {size : Nat} (h : w.toNat % size ≠ 0) : misaligned size w = true := by
  simp [misaligned, h]

theorem misaligned_of_device {size : Nat} (hs : size ≠ 4) (hw : inDevice w.toNat) : misaligned size w = true := by
  unfold inDevice at hw
  simp [misaligned, hs, hw]

theorem aligned_word (h : w.toNat % 4 = 0) : misaligned 4 w = false := by
  simp [misaligned, h]

theorem aligned_pattern {size : Nat} (h : w.toNat % size = 0) (hw : inPattern w.toNat) : misaligned size w = false := by
  unfold inPattern at hw
  have hout : ¬(0x40000000 ≤ w.toNat ∧ w.toNat < 0x44000000) := by omega
  rw [misaligned, h, decide_eq_false hout, Bool.and_false]
  rfl
end

/-! ### Loads and stores beyond the core's memories -/

section
variable {s : State} {c : Nat} {o : FmtImm} {w : Word}

/-- A window: the core waits for its answer (R209, R210). -/
def CoreAddr.isWindow : CoreAddr → Bool
  | .device _ | .pattern _ => true
  | _ => false

variable (h : s.ready c) (hw : (s.core c).gr o.ra + sext14 o.imm = w) {size : Nat} {signed : Bool}
include h hw

theorem loadOp_misaligned (ha : misaligned size w = true) :
    ∃ x, loadOp size signed c o s = takeException c 3 (s.core c).pc w ((s.cleared x).setCore c (s.core c)) := by
  unfold loadOp
  refine (issue_of_ready h _).imp fun x hx => hx.trans ?_
  simp only [h.idle.need, hw]
  rw [if_pos ha]

theorem loadOp_unmapped (ha : misaligned size w = false) (hp : (s.core c).place c w false = .none) :
    ∃ x, loadOp size signed c o s = takeException c 2 (s.core c).pc w ((s.cleared x).setCore c (s.core c)) := by
  unfold loadOp
  refine (issue_of_ready h _).imp fun x hx => hx.trans ?_
  simp only [h.idle.need, hw, hp]
  rw [if_neg (by simp [ha])]

/-- A load from a window freezes the core. -/
theorem loadOp_window (ha : misaligned size w = false) (hp : ((s.core c).place c w false).isWindow = true) :
    ∃ x, loadOp size signed c o s =
      (s.cleared x).setCore c { s.core c with run := .waiting, wait := .load w size signed o.rd } := by
  unfold loadOp
  refine (issue_of_ready h _).imp fun x hx => hx.trans ?_
  simp only [h.idle.need, hw]
  rw [if_neg (by simp [ha])]
  cases hplace : (s.core c).place c w false with
  | device off => rfl
  | pattern a => rfl
  | tcm n => rw [hplace] at hp; cases hp
  | none => rw [hplace] at hp; cases hp

theorem storeOp_misaligned (ha : misaligned size w = true) :
    ∃ x, storeOp size c o s = takeException c 3 (s.core c).pc w ((s.cleared x).setCore c (s.core c)) := by
  unfold storeOp
  refine (issue_of_ready h _).imp fun x hx => hx.trans ?_
  simp only [h.idle.need, hw]
  rw [if_pos ha]

theorem storeOp_unmapped (ha : misaligned size w = false) (hp : (s.core c).place c w true = .none) :
    ∃ x, storeOp size c o s = takeException c 2 (s.core c).pc w ((s.cleared x).setCore c (s.core c)) := by
  unfold storeOp
  refine (issue_of_ready h _).imp fun x hx => hx.trans ?_
  simp only [h.idle.need, hw, hp]
  rw [if_neg (by simp [ha])]

/-- A store to the pattern window freezes the core (R210). -/
theorem storeOp_pattern {a : Nat} (ha : misaligned size w = false) (hp : (s.core c).place c w true = .pattern a) :
    ∃ x, storeOp size c o s =
      (s.cleared x).setCore c { s.core c with run := .waiting, wait := .store w size ((s.core c).gr o.rd) } := by
  unfold storeOp
  refine (issue_of_ready h _).imp fun x hx => hx.trans ?_
  simp only [h.idle.need, hw, hp]
  rw [if_neg (by simp [ha])]

/-- A store to the device window is posted while fewer than sixteen are, else it freezes the core (R209). -/
theorem storeOp_device {off : Nat} (ha : misaligned size w = false) (hp : (s.core c).place c w true = .device off) :
    ∃ x, storeOp size c o s = (s.cleared x).setCore c
      (if (s.core c).posted.length < 16 then
        { s.core c with posted := (s.core c).posted ++ [(w, (s.core c).gr o.rd)] }.finish 1
      else { s.core c with run := .waiting, wait := .store w size ((s.core c).gr o.rd) }) := by
  unfold storeOp
  refine (issue_of_ready h _).imp fun x hx => hx.trans ?_
  simp only [h.idle.need, hw, hp]
  rw [if_neg (by simp [ha])]
  split
  · rfl
  · rfl
end

/-- Settles O9: alignment (`misaligned`) and the address map (`Core.place`) decide which of the cases of `loadOp` and `storeOp`
an access meets: a freeze, a posted store, or an exception, which `State.traps_of_canEnter` describes. -/
theorem fanelWindows : Obligations.FanelWindows := by
  intro s c o h hl k w a v device ownBeam pattern waits trap
  have hc : (c : Nat) < 20 := c.isLt
  have hw : (s.core c).gr o.ra + sext14 o.imm = w := rfl
  have htrap {i : Instr} {t : State} {code : Nat} (hcode : code < 48) (he : exec i s = .next t)
      (ht : ∃ x, t = takeException c code k.pc w ((s.cleared x).setCore c k)) : trap i code := fun hent =>
    State.traps_of_canEnter hc hent h.idle h.1 rfl rfl hcode he ht
  have hwait {i : Instr} {t : State} {wait : CoreWait} (he : exec i s = .next t)
      (ht : ∃ x, t = (s.cleared x).setCore c { k with run := .waiting, wait := wait }) : waits i wait :=
    State.runs_of_setCore hc he ht rfl
  have hload {i : Instr} {size : Nat} {signed : Bool} (he : exec i s = .next (loadOp size signed c o s))
      (hal : misaligned size w = false) (hwin : ((s.core c).place c w false).isWindow = true) :
      waits i (.load w size signed o.rd) := hwait he (loadOp_window h hw hal hwin)
  have hstore {i : Instr} {size : Nat} (he : exec i s = .next (storeOp size c o s)) (hal : misaligned size w = false)
      (hsc : 16 ≤ c.val) (hpat : pattern) : waits i (.store w size v) :=
    hwait he (storeOp_pattern h hw hal (Core.place_pattern hsc hpat))
  have hwin (hsc : 16 ≤ c.val) (hpat : pattern) : ((s.core c).place c w false).isWindow = true := by
    rw [Core.place_pattern hsc hpat]; rfl
  have hbadLoad {i : Instr} {size : Nat} {signed : Bool} (he : exec i s = .next (loadOp size signed c o s))
      (hmis : misaligned size w = true) : trap i 3 := htrap (by decide) he (loadOp_misaligned h hw hmis)
  have hbadStore {i : Instr} {size : Nat} (he : exec i s = .next (storeOp size c o s))
      (hmis : misaligned size w = true) : trap i 3 := htrap (by decide) he (storeOp_misaligned h hw hmis)
  refine ⟨?loadWord, ?half, ?byte, ?storeWord, ?posted, ?badWord, ?badHalf, ?badDevice, ?unmapped, ?lpStore⟩
  case loadWord =>
    intro ha hin
    refine hload rfl (aligned_word ha) ?_
    rcases hin with ⟨hsc, hdev⟩ | ⟨hlp, hlo, hhi⟩ | ⟨hsc, hpat⟩
    · rw [Core.place_device hsc hdev]; rfl
    · rw [Core.place_ownBeam hlp hlo hhi]; rfl
    · exact hwin hsc hpat
  case half =>
    intro ha hsc hpat
    have hal := aligned_pattern ha hpat
    exact ⟨hload rfl hal (hwin hsc hpat), hload rfl hal (hwin hsc hpat), hstore rfl hal hsc hpat⟩
  case byte =>
    intro hsc hpat
    have hal := aligned_pattern (Nat.mod_one a) hpat
    exact ⟨hload rfl hal (hwin hsc hpat), hload rfl hal (hwin hsc hpat), hstore rfl hal hsc hpat⟩
  case storeWord =>
    intro ha hsc hin
    rcases hin with hpat | ⟨hdev, hfull⟩
    · exact hstore rfl (aligned_word ha) hsc hpat
    · have hx := storeOp_device h hw (aligned_word ha) (Core.place_device hsc hdev)
      rw [if_neg (Nat.not_lt.2 hfull)] at hx
      exact hwait rfl hx
  case posted =>
    intro ha hsc hdev hroom
    have hx := storeOp_device h hw (aligned_word ha) (Core.place_device hsc hdev)
    rw [if_pos hroom] at hx
    refine State.runs_of_setCore hc rfl hx ?_
    exact Core.Idle.finish (k := { k with posted := k.posted ++ [(w, v)] }) ⟨h.idle.pend, h.idle.div⟩ hl 1
  case badWord =>
    intro ha
    have hmis := misaligned_of_mod ha
    exact ⟨hbadLoad rfl hmis, hbadStore rfl hmis⟩
  case badHalf =>
    intro ha
    have hmis := misaligned_of_mod ha
    exact ⟨hbadLoad rfl hmis, hbadLoad rfl hmis, hbadStore rfl hmis⟩
  case badDevice =>
    intro hsc hdev
    have hhalf : misaligned 2 w = true := misaligned_of_device (by decide) hdev
    have hbyte : misaligned 1 w = true := misaligned_of_device (by decide) hdev
    exact ⟨hbadLoad rfl hhalf, hbadLoad rfl hhalf, hbadLoad rfl hbyte, hbadLoad rfl hbyte, hbadStore rfl hhalf,
      hbadStore rfl hbyte⟩
  case unmapped =>
    intro ha hout hdev hpat
    exact ⟨htrap (by decide) rfl (loadOp_unmapped h hw (aligned_word ha) (Core.place_unmapped hout hdev hpat)),
      htrap (by decide) rfl (storeOp_unmapped h hw (aligned_word ha) (Core.place_unmapped hout hdev hpat))⟩
  case lpStore =>
    intro ha hlp hout
    exact htrap (by decide) rfl (storeOp_unmapped h hw (aligned_word ha) (Core.place_lpStore hlp hout))

end Sys2Proof.Machine
end

section
/-! Proofs of spec 20, self-test and repair (R397 to R409). Which words of the block an operation writes and what it leaves of the
engine's state come first; then programs, slices with their faults and pre-emptions, and repairs, each with the function that
means it. -/

namespace Sys2Proof.Machine

/-! ### Words of the self-test block -/

/-- From s to t, of the words of the self-test block those at the addresses listed alone change. -/
def State.BistWrites (s : State) (l : List Nat) (t : State) : Prop :=
  ∀ a, regPart a = .bistRegs → a ∉ l → t.getW a = s.getW a

section
variable {s t u : State} {l m : List Nat}

theorem State.BistWrites.refl (s : State) (l : List Nat) : s.BistWrites l s := fun _ _ _ => rfl

theorem State.BistWrites.trans (h : s.BistWrites l t) (k : t.BistWrites l u) : s.BistWrites l u :=
  fun a ha hl => (k a ha hl).trans (h a ha hl)

theorem State.BistWrites.mono (h : s.BistWrites l t) (hs : l ⊆ m) : s.BistWrites m t :=
  fun a ha hm => h a ha fun hl => hm (hs hl)

theorem State.BistWrites.of_regs (h : t.regs = s.regs) : s.BistWrites l t := fun a _ _ => State.getW_congr h a

theorem State.BistWrites.rd (h : s.BistWrites l t) (r : RegName) (i : Nat) (hr : r.part = .bistRegs)
    (hl : addrOf r i 0 0 ∉ l) : t.rd r i = s.rd r i := h _ ((regPart_addrOf r i 0 0).trans hr) hl

theorem State.wr_bistWrites (s : State) (r : RegName) (w : Word) (i : Nat) (hl : addrOf r i 0 0 ∈ l) :
    s.BistWrites l (s.wr r w i) := fun a _ ha => State.getW_wr_other s a r w i 0 0 fun e => ha (e ▸ hl)

theorem State.wf_bistWrites (s : State) (r : RegName) (hi lo v : Nat) (hl : addrOf r 0 0 0 ∈ l) :
    s.BistWrites l (s.wf r hi lo v) := s.wr_bistWrites r _ 0 hl

theorem State.bump_bistWrites (s : State) (i n : Nat) (hl : addrOf .bistCount i 0 0 ∈ l) :
    s.BistWrites l (s.bump .bistCount i 0 0 n) := by
  unfold State.bump
  split
  · exact .refl s l
  · exact s.wr_bistWrites .bistCount _ i hl

theorem State.raise_bistWrites (s : State) (n d : Nat) : s.BistWrites l (s.raise n d) :=
  fun _ ha _ => (s.raise_frame n d).getW (by rw [ha]; rfl)
end

/-- A value that fits a field reads back. -/
theorem fld_setFld_fits (w : Word) (hi lo : Nat) {v : Nat} (h : lo ≤ hi) (h32 : hi < 32) (hv : v < 2 ^ (hi + 1 - lo)) :
    fld (setFld w hi lo v) hi lo = v := (fld_setFld_same w hi lo v h h32).trans (Nat.mod_eq_of_lt hv)

@[simp] theorem State.setBist_bist (s : State) (b : Bist) : (s.setBist b).sys.bist = b := rfl

@[simp] theorem State.setBist_rd (s : State) (b : Bist) (r : RegName) (i j k : Nat) : (s.setBist b).rd r i j k = s.rd r i j k :=
  State.rd_congr (s.setBist_regs b) r i j k

@[simp] theorem State.raise_sys (s : State) (n d : Nat) : (s.raise n d).sys = s.sys := (s.raise_frame n d).sys rfl

/-- Nothing counted leaves the word of a counter. -/
theorem countWord_zero (w : Word) : countWord w 0 = w := by
  have hlt : fld w 30 0 < 2 ^ 31 := Nat.mod_lt _ (by decide)
  have hle : fld w 30 0 ≤ w.toNat := Nat.le_trans (Nat.mod_le _ _) (Nat.div_le_self _ _)
  rw [countWord, Nat.add_zero, if_pos hlt]
  apply BitVec.eq_of_toNat_eq
  have hw := w.isLt
  simp only [setFld, BitVec.toNat_ofNat]
  generalize fld w 30 0 = f at *
  omega

/-- A counter after a count. -/
theorem State.bump_rd (s : State) (i n : Nat) :
    (s.bump .bistCount i 0 0 n).rd .bistCount i = countWord (s.rd .bistCount i) n := by
  unfold State.bump
  split
  case isTrue h => rw [h, countWord_zero]
  case isFalse => exact s.rd_wr_same ..

/-- The other counters stay. -/
theorem State.bump_rd_other (s : State) (i n : Nat) {j : Nat} (h : addrOf .bistCount j 0 0 ∉ [addrOf .bistCount i 0 0]) :
    (s.bump .bistCount i 0 0 n).rd .bistCount j = s.rd .bistCount j :=
  (s.bump_bistWrites i n (List.mem_singleton_self _)).rd .bistCount j rfl h

/-- The address of BIST_STATUS, the one word that moves as a program goes on. -/
abbrev bistStatusAt : Nat := addrOf .bistStatus 0 0 0

/-! ### The course of a program -/

/-- The program has ended, with its RESULT, and nothing of it waits (R406). -/
def State.bistEnded (t : State) (result : Nat) : Prop :=
  t.rf .bistStatus 2 0 = 5 ∧ t.rf .bistStatus 6 3 = result ∧ t.sys.bist.entries = [] ∧ t.sys.bist.pausing = none ∧
    t.sys.bist.stop = false ∧ t.sys.bist.goNext = false

/-- STATUS shows that a program is fetched (R406). -/
def State.bistFetching (t : State) : Prop := t.rf .bistStatus 6 0 = 1 ∧ t.rf .bistStatus 16 9 = 0

theorem State.bistEnd_bist (s : State) (r : Nat) : (s.bistEnd r).sys.bist =
    { s.sys.bist with entries := [], pausing := none, stop := false, goNext := false, cut := 0, retry := none } := by
  rw [State.bistEnd, State.raise_sys, State.wf_sys, State.wf_sys, State.setBist_bist]

theorem State.bistEnd_writes (s : State) (r : Nat) : s.BistWrites [bistStatusAt] (s.bistEnd r) :=
  .trans (.trans (.trans (.of_regs rfl) (State.wf_bistWrites _ .bistStatus 2 0 5 (by decide)))
    (State.wf_bistWrites _ .bistStatus 6 3 r (by decide))) (State.raise_bistWrites _ 768 domCentral)

theorem State.bistEnd_status (s : State) (r : Nat) :
    (s.bistEnd r).rd .bistStatus = setFld (setFld (s.rd .bistStatus) 2 0 5) 6 3 r := by
  rw [State.bistEnd, (State.raise_frame _ 768 domCentral).rd .bistStatus rfl, State.rd_wf_same, State.rd_wf_same]
  rfl

theorem State.bistEnd_ended (s : State) {r : Nat} (hr : r < 16) : (s.bistEnd r).bistEnded r := by
  unfold State.bistEnded State.rf
  rw [s.bistEnd_bist, s.bistEnd_status]
  refine ⟨?_, ?_, rfl, rfl, rfl, rfl⟩
  · rw [fld_setFld_other _ _ _ _ _ _ (by decide) (by decide) (by decide)]
    exact fld_setFld_fits _ _ _ (by decide) (by decide) (by decide)
  · exact fld_setFld_fits _ _ _ (by decide) (by decide) hr

/-- STATUS as a fetch begins. -/
def State.fetchShown (s : State) : State := (s.wf .bistStatus 6 0 1).wf .bistStatus 16 9 0

theorem State.bistFetch_eq (s : State) : s.bistFetch =
    if s.rb .bistProgCtrl 2 then s.fetchShown.askHost (s.addr64 .bistProgLo .bistProgHi) 64 else s.fetchShown := rfl

theorem State.bistFetch_regs (s : State) : s.bistFetch.regs = s.fetchShown.regs := by
  rw [State.bistFetch_eq]
  split
  · exact State.askHost_regs ..
  · rfl

@[simp] theorem State.bistFetch_sys (s : State) : s.bistFetch.sys = s.sys := by
  rw [State.bistFetch_eq]
  split
  · exact State.askHost_sys ..
  · rfl

theorem State.bistFetch_writes (s : State) : s.BistWrites [bistStatusAt] s.bistFetch :=
  .trans (.trans (State.wf_bistWrites s .bistStatus 6 0 1 (by decide))
    (State.wf_bistWrites _ .bistStatus 16 9 0 (by decide))) (.of_regs s.bistFetch_regs)

theorem State.bistFetch_fetching (s : State) : s.bistFetch.bistFetching := by
  unfold State.bistFetching State.rf
  rw [State.rd_congr s.bistFetch_regs, State.fetchShown, State.rd_wf_same, State.rd_wf_same]
  refine ⟨?_, ?_⟩
  · rw [fld_setFld_other _ _ _ _ _ _ (by decide) (by decide) (by decide)]
    exact fld_setFld_fits _ _ _ (by decide) (by decide) (by decide)
  · exact fld_setFld_fits _ _ _ (by decide) (by decide) (by decide)

/-- Over PCIe the fetch asks the host, if the device may (R406). -/
theorem State.bistFetch_out {s : State} (hp : s.rb .bistProgCtrl 2 = true) (hb : s.pci.busMaster = true)
    (hs : s.scanned = false) :
    s.bistFetch.out = s.out ++ [.hostRead (BitVec.ofNat 64 (s.addr64 .bistProgLo .bistProgHi)) 64] := by
  have hb1 : s.fetchShown.pci.busMaster = true := hb
  have hs1 : s.fetchShown.scanned = false := hs
  rw [State.bistFetch_eq, if_pos hp, State.askHost, if_pos hb1, State.emit, if_neg (by simp [hs1])]
  rfl

section
variable {s : State}

theorem bistGo_of_refused (h : s.rf .bistStatus 8 7 = 0) : bistGo s = s.reject (addrOf .bistProgCtrl 0 0 0) := if_pos h

theorem bistGo_of_idle (h : s.rf .bistStatus 8 7 ≠ 0) (hr : s.rf .bistStatus 2 0 ≠ 3) : bistGo s = s.bistFetch :=
  (if_neg h).trans (if_pos hr)

theorem State.bistBusy_iff : s.bistBusy = true ↔ s.sys.bist.slice = true ∧ s.sys.bist.fixing = false := by
  simp [State.bistBusy]

theorem bistGo_of_busy (h : s.rf .bistStatus 8 7 ≠ 0) (hr : s.rf .bistStatus 2 0 = 3)
    (hb : s.sys.bist.slice = true ∧ s.sys.bist.fixing = false) :
    bistGo s = s.setBist { s.sys.bist with goNext := true } :=
  (if_neg h).trans ((if_neg (by simp [hr])).trans (if_pos (State.bistBusy_iff.2 hb)))

theorem bistGo_of_between (h : s.rf .bistStatus 8 7 ≠ 0) (hr : s.rf .bistStatus 2 0 = 3)
    (hb : ¬(s.sys.bist.slice = true ∧ s.sys.bist.fixing = false)) : bistGo s = (s.bistEnd 0).bistFetch :=
  (if_neg h).trans ((if_neg (by simp [hr])).trans (if_neg (mt State.bistBusy_iff.1 hb)))

theorem bistStop_of_idle (hr : s.rf .bistStatus 2 0 ≠ 3) : bistStop s = s := if_pos hr

theorem bistStop_of_busy (hr : s.rf .bistStatus 2 0 = 3) (hb : s.sys.bist.slice = true ∧ s.sys.bist.fixing = false) :
    bistStop s = s.setBist { s.sys.bist with stop := true } :=
  (if_neg (by simp [hr])).trans (if_pos (State.bistBusy_iff.2 hb))

theorem bistStop_of_between (hr : s.rf .bistStatus 2 0 = 3)
    (hb : ¬(s.sys.bist.slice = true ∧ s.sys.bist.fixing = false)) : bistStop s = s.bistEnd 0 :=
  (if_neg (by simp [hr])).trans (if_neg (mt State.bistBusy_iff.1 hb))
end

/-! ### The checks of a program (R406) -/

/-- Entry j names a memory and an algorithm that exist, with its rows inside. -/
def BistEntryFormed (p : List Byte) (j : Nat) : Prop :=
  let e := bistEntryOf p j
  e.cls ≤ 6 ∧ e.part < bistParts e.cls ∧ e.unit < bistUnits e.cls ∧ e.alg ≤ 1 ∧ descField p (67 + 16 * j) 1 < 32 ∧
    descField p (76 + 16 * j) 4 = 0 ∧ 1 ≤ e.rows ∧ (e.offline = true → e.rows ≤ 1048576) ∧ e.first + e.rows ≤ bistRows e.cls

/-- MAGIC, FORMAT, COUNT, FLAGS, PAUSE and the reserved bytes are right, and every entry is formed. -/
def BistFormed (p : List Byte) : Prop :=
  descField p 0 4 = 0x54534942 ∧ descField p 4 2 = 1 ∧ 1 ≤ descField p 6 2 ∧ descField p 6 2 ≤ 256 ∧
    descField p 8 1 < 4 ∧ descField p 9 3 = 0 ∧ descField p 20 44 = 0 ∧
    ((descField p 8 1).testBit 1 = true → 1 ≤ descField p 16 4 ∧ descField p 16 4 ≤ 86400000) ∧
    ∀ j, j < descField p 6 2 → BistEntryFormed p j

/-- The access level permits the program: at ACCESS 1 a signed one without offline slices. -/
def State.bistAllowed (s : State) (p : List Byte) : Prop :=
  s.rf .bistStatus 8 7 = 2 ∨
    ((descField p 8 1).testBit 0 = true ∧ ∀ j, j < descField p 6 2 → (bistEntryOf p j).offline = false)

/-- Every slice that is not offline keeps to the budget. -/
def State.bistShort (s : State) (p : List Byte) : Prop :=
  ∀ j, j < descField p 6 2 → (bistEntryOf p j).offline = true ∨
    ((bistEntryOf p j).rows ≤ 64 ∧ s.inBudget (s.sliceTime (bistEntryOf p j)) = true)

/-- The key of a signed program has an admitted digest. -/
def State.bistAdmitted (s : State) (p : List Byte) : Prop :=
  (descField p 8 1).testBit 0 = true → ∃ k, 1 ≤ k ∧ k ≤ 2 ∧ s.admits k = true ∧
    s.digestIs (k - 1) (keyDigest p (64 + 16 * descField p 6 2)) = true

/-- The signature of a signed program holds. -/
def BistVerified (p : List Byte) : Prop :=
  (descField p 8 1).testBit 0 = true → signedAt p (64 + 16 * descField p 6 2) = true

theorem nbit_eq_testBit (n i : Nat) : nbit n i = n.testBit i := by
  rw [nbit, Nat.testBit_eq_decide_div_mod_eq]
  rfl

section
variable {s : State} {p : List Byte}

theorem bistEntryOk_iff {j : Nat} : bistEntryOk p j = true ↔ BistEntryFormed p j := by
  simp only [bistEntryOk, BistEntryFormed, Bool.and_eq_true, Bool.or_eq_true, Bool.not_eq_true', decide_eq_true_eq,
    beq_iff_eq, and_assoc, ← Bool.not_eq_true, Decidable.imp_iff_not_or]

theorem entriesOk_iff : (List.range (descField p 6 2)).all (bistEntryOk p) = true ↔
    ∀ j, j < descField p 6 2 → BistEntryFormed p j := by
  simp only [List.all_eq_true, List.mem_range, bistEntryOk_iff]

/-- No digest admitted is that of the key, or the first of them is named. -/
theorem State.keyOf_eq_zero (at_ : Nat) : s.keyOf p at_ = 0 ↔
    ¬∃ k, 1 ≤ k ∧ k ≤ 2 ∧ s.admits k = true ∧ s.digestIs (k - 1) (keyDigest p at_) = true := by
  have hk (q : Nat → Prop) : (∃ k, 1 ≤ k ∧ k ≤ 2 ∧ q k) ↔ q 1 ∨ q 2 := by
    constructor
    · rintro ⟨k, h1, h2, hq⟩
      obtain rfl | rfl : k = 1 ∨ k = 2 := by omega
      · exact .inl hq
      · exact .inr hq
    · rintro (hq | hq)
      · exact ⟨1, by decide, by decide, hq⟩
      · exact ⟨2, by decide, by decide, hq⟩
  rw [hk]
  unfold State.keyOf
  simp only [List.find?_cons, List.find?_nil, ← Bool.and_eq_true]
  cases s.admits 1 && s.digestIs (1 - 1) (keyDigest p at_) <;>
    cases s.admits 2 && s.digestIs (2 - 1) (keyDigest p at_) <;> simp

open Classical in
/-- RESULT is that of the first check that fails, in the order of R406. -/
theorem State.bistResult_eq (s : State) (p : List Byte) : s.bistResult p =
    if ¬BistFormed p then 2 else if ¬s.bistAllowed p then 3 else if ¬s.bistShort p then 4
    else if ¬s.bistAdmitted p then 5 else if ¬BistVerified p then 6 else 0 := by
  have hall : (s.bistAccess ≠ 2 && (!(descField p 8 1).testBit 0 ||
      ((List.range (descField p 6 2)).map (bistEntryOf p)).any (·.offline))) = true ↔ ¬s.bistAllowed p := by
    unfold State.bistAllowed State.bistAccess
    simp only [List.any_map, Bool.and_eq_true, decide_eq_true_eq, Bool.or_eq_true, Bool.not_eq_true', List.any_eq_true,
      List.mem_range, Function.comp_apply, not_or, Classical.not_and_iff_not_or_not, Classical.not_forall,
      Bool.not_eq_true, Bool.not_eq_false, exists_prop]
  have hshort : ((List.range (descField p 6 2)).map (bistEntryOf p)).any (fun e =>
      !e.offline && (decide (64 < e.rows) || !s.inBudget (s.sliceTime e))) = true ↔ ¬s.bistShort p := by
    unfold State.bistShort
    simp only [List.any_map, Bool.and_eq_true, decide_eq_true_eq, Bool.or_eq_true, Bool.not_eq_true', List.any_eq_true,
      List.mem_range, Function.comp_apply, not_or, Classical.not_and_iff_not_or_not, Classical.not_forall,
      Bool.not_eq_true, exists_prop, Nat.not_le]
  have hkey : ((descField p 8 1).testBit 0 && s.keyOf p (64 + 16 * descField p 6 2) == 0) = true ↔ ¬s.bistAdmitted p := by
    rw [Bool.and_eq_true, beq_iff_eq, State.keyOf_eq_zero, State.bistAdmitted, Classical.not_imp]
  have hsig : ((descField p 8 1).testBit 0 && !signedAt p (64 + 16 * descField p 6 2)) = true ↔ ¬BistVerified p := by
    simp only [BistVerified, Classical.not_imp, Bool.and_eq_true, Bool.not_eq_true', Bool.not_eq_true]
  unfold State.bistResult
  simp only [nbit_eq_testBit, hall, hshort, hkey, hsig]
  by_cases hf : BistFormed p
  · obtain ⟨hmagic, hformat, hone, hmany, hflags, hres, hzero, hpause, hentries⟩ := id hf
    rw [if_neg (by omega), if_neg ?_, if_neg (by rw [entriesOk_iff.2 hentries]; decide), if_neg (not_not_intro hf)]
    simp only [Bool.and_eq_true, Bool.or_eq_true, beq_iff_eq, decide_eq_true_eq]
    rintro ⟨hrep, hbad⟩
    have := hpause hrep
    omega
  · rw [if_pos hf]
    split
    · rfl
    split
    · rfl
    split
    · rfl
    next hfix hpause hentries =>
    refine absurd ⟨by omega, by omega, by omega, by omega, by omega, by omega, by omega, fun hrep => ?_,
      entriesOk_iff.1 (by simpa using hentries)⟩ hf
    simp only [Bool.and_eq_true, Bool.or_eq_true, beq_iff_eq, decide_eq_true_eq] at hpause
    obtain ⟨hzero, hlong⟩ := not_or.1 fun h => hpause ⟨hrep, h⟩
    omega

theorem State.bistResult_format (hf : ¬BistFormed p) : s.bistResult p = 2 := by
  rw [State.bistResult_eq, if_pos hf]

section
variable (hf : BistFormed p)
include hf

theorem State.bistResult_access (ha : ¬s.bistAllowed p) : s.bistResult p = 3 := by
  rw [State.bistResult_eq, if_neg (not_not_intro hf), if_pos ha]

variable (ha : s.bistAllowed p)
include ha

theorem State.bistResult_budget (hs : ¬s.bistShort p) : s.bistResult p = 4 := by
  rw [State.bistResult_eq, if_neg (not_not_intro hf), if_neg (not_not_intro ha), if_pos hs]

variable (hs : s.bistShort p)
include hs

theorem State.bistResult_key (hk : ¬s.bistAdmitted p) : s.bistResult p = 5 := by
  rw [State.bistResult_eq, if_neg (not_not_intro hf), if_neg (not_not_intro ha), if_neg (not_not_intro hs), if_pos hk]

variable (hk : s.bistAdmitted p)
include hk

theorem State.bistResult_signature (hv : ¬BistVerified p) : s.bistResult p = 6 := by
  rw [State.bistResult_eq, if_neg (not_not_intro hf), if_neg (not_not_intro ha), if_neg (not_not_intro hs),
    if_neg (not_not_intro hk), if_pos hv]

theorem State.bistResult_runs (hv : BistVerified p) : s.bistResult p = 0 := by
  rw [State.bistResult_eq, if_neg (not_not_intro hf), if_neg (not_not_intro ha), if_neg (not_not_intro hs),
    if_neg (not_not_intro hk), if_neg (not_not_intro hv)]
end

/-- The engine as a program begins to run. -/
def Bist.loaded (x : Bist) (p : List Byte) : Bist :=
  { x with
    entries := (List.range (descField p 6 2)).map (bistEntryOf p), repeated := (descField p 8 1).testBit 1
    pause := descField p 16 4, pausing := none, stop := false, goNext := false, cut := 0, retry := none }

/-- The state in which a program that has passed its checks begins to run. -/
def State.bistLoaded (s : State) (p : List Byte) : State :=
  ((s.setBist (s.sys.bist.loaded p)).wf .bistStatus 2 0 3).wr .bistKeyid (BitVec.ofNat 32 (descField p 12 4))

theorem bistFetched_of_idle {host : Option (List Byte)} (h : s.rf .bistStatus 2 0 ≠ 1) : bistFetched host s = s := if_pos h

theorem bistFetched_none (h : s.rf .bistStatus 2 0 = 1) (hp : s.rb .bistProgCtrl 2 = true) :
    bistFetched none s = s.bistEnd 1 := by
  rw [bistFetched, if_neg (by simp [h]), if_pos hp, ite_self]

theorem bistFetched_host (h : s.rf .bistStatus 2 0 = 1) (hp : s.rb .bistProgCtrl 2 = true) (hb : s.pci.busMaster = true) :
    bistFetched (some p) s = if s.bistResult p ≠ 0 then s.bistEnd (s.bistResult p) else s.bistLoaded p := by
  rw [bistFetched, if_neg (by simp [h]), if_pos hp, if_pos hb]
  simp only [nbit_eq_testBit]
  rfl

theorem State.bistLoaded_effect (s : State) (p : List Byte) : (s.bistLoaded p).rf .bistStatus 2 0 = 3 ∧
    (s.bistLoaded p).rd .bistKeyid = BitVec.ofNat 32 (descField p 12 4) ∧
    (s.bistLoaded p).sys.bist = s.sys.bist.loaded p := by
  refine ⟨?_, State.rd_wr_same .., rfl⟩
  rw [State.rf, State.bistLoaded, State.rd_wr_other _ _ _ _ _ _ _ _ _ _ (by decide), State.rd_wf_same]
  exact fld_setFld_fits _ _ _ (by decide) (by decide) (by decide)
end

/-! ### What follows a slice -/

section
variable {s : State}

theorem State.bistNext_go (h : s.sys.bist.goNext = true) : s.bistNext = (s.bistEnd 0).bistFetch := if_pos h

theorem State.bistNext_stop (h : s.sys.bist.goNext = false) (hs : s.sys.bist.stop = true) : s.bistNext = s.bistEnd 0 :=
  (if_neg (by simp [h])).trans (if_pos hs)

variable (h : s.sys.bist.goNext = false) (hs : s.sys.bist.stop = false)
include h hs

theorem State.bistNext_entry (hi : s.rf .bistStatus 16 9 + 1 < s.sys.bist.entries.length) :
    s.bistNext = (s.setBist { s.sys.bist with cut := 0, retry := none }).wf .bistStatus 16 9 (s.rf .bistStatus 16 9 + 1) :=
  (if_neg (by simp [h])).trans ((if_neg (by simp [hs])).trans (if_pos hi))

theorem State.bistNext_pass (hi : s.rf .bistStatus 16 9 + 1 = s.sys.bist.entries.length) (hr : s.sys.bist.repeated = true) :
    s.bistNext =
      (s.setBist { s.sys.bist with cut := 0, retry := none, pausing := some s.now }).wf .bistStatus 16 9 0 :=
  (if_neg (by simp [h])).trans ((if_neg (by simp [hs])).trans ((if_neg (by omega)).trans (if_pos hr)))

theorem State.bistNext_end (hi : s.rf .bistStatus 16 9 + 1 = s.sys.bist.entries.length) (hr : s.sys.bist.repeated = false) :
    s.bistNext = s.bistEnd 0 :=
  (if_neg (by simp [h])).trans ((if_neg (by simp [hs])).trans ((if_neg (by omega)).trans (if_neg (by simp [hr]))))

/-- The next entry follows, with no pre-emption yet. -/
theorem State.bistNext_entry_shown (hi : s.rf .bistStatus 16 9 + 1 < s.sys.bist.entries.length)
    (hfit : s.rf .bistStatus 16 9 + 1 < 256) :
    s.bistNext.rf .bistStatus 16 9 = s.rf .bistStatus 16 9 + 1 ∧ s.bistNext.sys.bist.cut = 0 := by
  rw [State.bistNext_entry h hs hi]
  refine ⟨?_, rfl⟩
  rw [State.rf, State.rd_wf_same]
  exact fld_setFld_fits _ _ _ (by decide) (by decide) hfit

/-- The next pass follows, after its pause. -/
theorem State.bistNext_pass_shown (hi : s.rf .bistStatus 16 9 + 1 = s.sys.bist.entries.length)
    (hr : s.sys.bist.repeated = true) :
    s.bistNext.rf .bistStatus 16 9 = 0 ∧ s.bistNext.sys.bist.pausing = some s.now := by
  rw [State.bistNext_pass h hs hi hr]
  refine ⟨?_, rfl⟩
  rw [State.rf, State.rd_wf_same]
  exact fld_setFld_fits _ _ _ (by decide) (by decide) (by decide)
end

/-- Of the words of the block, what follows a slice changes STATUS alone. -/
theorem State.bistNext_writes (s : State) : s.BistWrites [bistStatusAt] s.bistNext := by
  have hmove (b : Bist) (i : Nat) : s.BistWrites [bistStatusAt] ((s.setBist b).wf .bistStatus 16 9 i) :=
    .trans (.of_regs rfl) (State.wf_bistWrites _ .bistStatus 16 9 i (by decide))
  unfold State.bistNext
  dsimp only
  split
  · exact (s.bistEnd_writes 0).trans (State.bistFetch_writes _)
  split
  · exact s.bistEnd_writes 0
  split
  · exact hmove _ _
  split
  · exact hmove _ _
  · exact s.bistEnd_writes 0

/-- What follows a slice begins none, and leaves the repairs that wait. -/
theorem State.bistNext_bist (s : State) :
    s.bistNext.sys.bist.slice = s.sys.bist.slice ∧ s.bistNext.sys.bist.fix = s.sys.bist.fix := by
  unfold State.bistNext
  dsimp only
  split
  · rw [State.bistFetch_sys, State.bistEnd_bist]
    exact ⟨rfl, rfl⟩
  split
  · rw [State.bistEnd_bist]
    exact ⟨rfl, rfl⟩
  split
  · exact ⟨rfl, rfl⟩
  split
  · exact ⟨rfl, rfl⟩
  · rw [State.bistEnd_bist]
    exact ⟨rfl, rfl⟩

/-! ### A slice begins (R399, R400) -/

/-- The engine, the ledger and the mode permit a slice, none runs, and a retry is due. -/
def State.sliceGate (s : State) : Prop :=
  s.rb .bistCtrl 0 = true ∧ s.rf .pwrStatus 1 0 ≠ 2 ∧ s.mode ≠ 0 ∧ s.mode ≠ 4 ∧ s.sys.bist.slice = false ∧
    s.retryDue = true

/-- No beam stands against a slice: it is offline, in Ember, bound to no beam, or beam b is stopped or repeats a frame. -/
def State.quietFor (s : State) (b : Nat) (e : BistEntry) : Prop :=
  e.offline = true ∨ s.runMode = 5 ∨ s.boundBeam e = none ∨
    (s.boundBeam e = some b ∧ ((s.beam b).run = .stopped ∨ (s.beam b).curKind = .repeated))

section
variable {s : State} {e : BistEntry} {t : Nat × Nat} {b : Nat}

theorem State.quietBeam_of_stopped (h : (s.beam b).run = .stopped ∨ (s.beam b).curKind = .repeated) :
    s.quietBeam b t = true := by
  obtain h | h := h <;> simp [State.quietBeam, h]

theorem State.sliceMay_of_shut (h : ¬s.sliceGate) : s.sliceMay e t = false := by
  refine Bool.eq_false_iff.2 fun hm => h ?_
  unfold State.sliceMay State.scarce at hm
  simp only [Bool.and_eq_true, Bool.not_eq_true', bne_iff_ne, beq_eq_false_iff_ne] at hm
  obtain ⟨⟨⟨⟨⟨⟨hen, hled⟩, hm0⟩, hm4⟩, hsl⟩, hdue⟩, -⟩ := hm
  exact ⟨hen, hled, hm0, hm4, hsl, hdue⟩

theorem State.sliceMay_of_quiet (h : s.sliceGate) (hq : s.quietFor b e) : s.sliceMay e t = true := by
  obtain ⟨hen, hled, hm0, hm4, hsl, hdue⟩ := h
  unfold State.sliceMay State.scarce
  rw [hen, hsl, hdue, beq_eq_false_iff_ne.2 hled, bne_iff_ne.2 hm0, bne_iff_ne.2 hm4]
  obtain hq | hq | hq | ⟨hq, hb⟩ := hq
  · simp [hq]
  · simp [hq]
  · simp [hq]
  · simp [hq, State.quietBeam_of_stopped hb]

theorem sliceBegin_of_shut (h : ¬s.sliceGate) : sliceBegin s = s := by
  unfold sliceBegin
  dsimp only
  split
  · rw [State.sliceMay_of_shut h]; rfl
  · split
    · rw [State.sliceMay_of_shut h, Bool.not_false, Bool.or_true, if_pos rfl]
    · rfl

theorem sliceBegin_repair {r : Repair} {rest : List Repair} (h : s.sliceGate) (hf : s.sys.bist.fix = r :: rest)
    (hq : s.quietFor b r.entry) : sliceBegin s = s.setBist { s.sys.bist with slice := true, fixing := true } := by
  unfold sliceBegin
  dsimp only
  rw [hf]
  exact if_pos (State.sliceMay_of_quiet h hq)

/-- A slice of the program begins, unless the clock of its beam has slowed too far. -/
theorem sliceBegin_of_current (h : s.sliceGate) (hf : s.sys.bist.fix = []) (hr : s.rf .bistStatus 2 0 = 3)
    (he : s.sys.bist.entries[s.rf .bistStatus 16 9]? = some e) (hp : s.sys.bist.pausing = none) (hq : s.quietFor b e) :
    sliceBegin s = if !e.offline && (s.boundBeam e).isSome && !s.inBudget (s.sliceTime e)
      then (s.bump .bistCount 4).bistNext else s.setBist { s.sys.bist with slice := true } := by
  have he : s.bistEntry = some e := he
  unfold sliceBegin
  dsimp only
  rw [hf, hr, he]
  exact if_neg (by rw [State.sliceMay_of_quiet h hq, hp]; decide)
end

section
variable {s : State} {e : BistEntry} {b : Nat}

/-- The clock of the slice's beam has slowed too far for the budget (R398). -/
def State.tooSlow (s : State) (e : BistEntry) : Prop :=
  e.offline = false ∧ s.boundBeam e ≠ none ∧ s.inBudget (s.sliceTime e) = false

theorem State.tooSlow_iff :
    (!e.offline && (s.boundBeam e).isSome && !s.inBudget (s.sliceTime e)) = true ↔ s.tooSlow e := by
  rw [State.tooSlow, Bool.and_eq_true, Bool.and_eq_true, Bool.not_eq_true', Bool.not_eq_true', Option.isSome_iff_ne_none,
    and_assoc]

variable (h : s.sliceGate) (hf : s.sys.bist.fix = []) (hr : s.rf .bistStatus 2 0 = 3)
  (he : s.sys.bist.entries[s.rf .bistStatus 16 9]? = some e) (hp : s.sys.bist.pausing = none) (hq : s.quietFor b e)
include h hf hr he hp hq

theorem sliceBegin_begins (hslow : ¬s.tooSlow e) : sliceBegin s = s.setBist { s.sys.bist with slice := true } :=
  (sliceBegin_of_current h hf hr he hp hq).trans (if_neg (mt State.tooSlow_iff.1 hslow))

/-- A slice that would overrun is skipped: SKIPPED_SLOW counts it, and the program goes on (R398). -/
theorem sliceBegin_skips (hslow : s.tooSlow e) :
    (sliceBegin s).rd .bistCount 4 = countWord (s.rd .bistCount 4) 1 ∧ (sliceBegin s).sys.bist.slice = false := by
  rw [(sliceBegin_of_current h hf hr he hp hq).trans (if_pos (State.tooSlow_iff.2 hslow))]
  refine ⟨?_, ?_⟩
  · rw [(State.bistNext_writes _).rd .bistCount 4 rfl (by decide), State.bump_rd]
  · obtain ⟨-, -, -, -, hidle, -⟩ := h
    rw [(State.bistNext_bist _).1, State.bump_sys, hidle]
end

/-! ### A slice ends (R401) -/

/-- The requests that waited for the slice wait no more. -/
def State.sliceFreed (s : State) : State :=
  { s with store := { s.store with promoted := setDel 22 s.store.promoted } }

@[simp] theorem State.sliceFreed_rd (s : State) (r : RegName) (i j k : Nat) : s.sliceFreed.rd r i j k = s.rd r i j k :=
  State.rd_congr rfl r i j k

/-- What a pre-empted slice leaves unchanged: the bytes of the store with their errors and poison, the tables, and the
memories of the cores (R402). -/
def State.sameRows (s t : State) : Prop :=
  t.store.mem = s.store.mem ∧ t.store.err = s.store.err ∧ t.store.poison = s.store.poison ∧ t.tbl = s.tbl ∧
    ∀ j, (t.core j).itcm = (s.core j).itcm ∧ (t.core j).dtcm = (s.core j).dtcm

/-- The rows of a slice that are left out as protected storage (R403). -/
def State.sliceSkipped (s : State) (e : BistEntry) : List Nat :=
  ((List.range e.rows).map (fun i => e.first + i)).filter (s.bistSkips e)

/-- The faults of the rows that a slice has tested. -/
def State.sliceFaults (s : State) (e : BistEntry) (fs : List BistFault) : List BistFault :=
  fs.filter (fun f =>
    e.first ≤ f.row.toNat && f.row.toNat < e.first + e.rows && !(s.sliceSkipped e).contains f.row.toNat)

/-- A slice of the program has tested its rows: SLICES counts it, and PL_SKIP the rows left out (R403). -/
def State.sliceTested (s : State) (e : BistEntry) : State :=
  ((s.setBist { s.sys.bist with slice := false }).bump .bistCount 0).bump .bistCount 5
    (n := (s.sliceSkipped e).length)

section
variable {s : State} {e : BistEntry}

theorem sliceEnd_of_idle {r : SliceEnd} {waited hit : Bool} (h : s.sys.bist.slice = false) :
    sliceEnd r waited hit s = s := if_pos (by simp [h])

theorem sliceEnd_done {fs : List BistFault} (h : s.sys.bist.slice = true) :
    sliceEnd (.done fs) false false s = s.sliceFreed.sliceDone fs false := if_neg (by simp [h])

theorem sliceEnd_waited {fs : List BistFault} (h : s.sys.bist.slice = true) :
    sliceEnd (.done fs) true false s = (s.sliceFreed.bump .bistCount 1).sliceDone fs false := if_neg (by simp [h])

theorem sliceEnd_preempted {hit : Bool} (h : s.sys.bist.slice = true) :
    sliceEnd .preempted false hit s = s.sliceFreed.slicePreempted := if_neg (by simp [h])

theorem State.sliceTested_bist : (s.sliceTested e).sys.bist = { s.sys.bist with slice := false } := by
  rw [State.sliceTested, State.bump_sys, State.bump_sys, State.setBist_bist]

theorem State.sliceTested_now : (s.sliceTested e).now = s.now := by
  rw [State.now, State.sliceTested, State.bump_tmr, State.bump_tmr, State.setBist_tmr, State.now]

theorem State.sliceTested_writes : s.BistWrites [addrOf .bistCount 0 0 0, addrOf .bistCount 5 0 0] (s.sliceTested e) :=
  .trans (.trans (.of_regs rfl) (State.bump_bistWrites _ 0 1 (by decide))) (State.bump_bistWrites _ 5 _ (by decide))

theorem State.sliceTested_rf (hi lo : Nat) : (s.sliceTested e).rf .bistStatus hi lo = s.rf .bistStatus hi lo :=
  congrArg (fld · hi lo) (State.sliceTested_writes.rd .bistStatus 0 rfl (by decide))

/-- AUTO_SOFT stays as it is. -/
theorem State.sliceTested_auto : (s.sliceTested e).rb .bistCtrl 1 = s.rb .bistCtrl 1 :=
  congrArg (bit · 1) (State.sliceTested_writes.rd .bistCtrl 0 rfl (by decide))

theorem State.sliceTested_count : (s.sliceTested e).rd .bistCount 0 = countWord (s.rd .bistCount 0) 1 := by
  rw [State.sliceTested, State.bump_rd_other _ 5 _ (by decide), State.bump_rd]
  rfl

section
variable (hf : s.sys.bist.fixing = false) (he : s.bistEntry = some e)
include hf he

/-- A slice of the program ends: its rows are tested, its faults recorded, and the program goes on. -/
theorem State.sliceDone_program (fs : List BistFault) :
    s.sliceDone fs false = ((s.sliceFaults e fs).foldl (fun s f => s.bistFault e f) (s.sliceTested e)).bistNext := by
  unfold State.sliceDone State.sliceTested State.sliceFaults State.sliceSkipped
  simp only [hf, he, Bool.false_eq_true, if_false]

theorem State.sliceDone_clean : s.sliceDone [] false = (s.sliceTested e).bistNext := by
  rw [State.sliceDone_program hf he, State.sliceFaults, List.filter_nil, List.foldl_nil]

theorem State.sliceDone_fault {q : BistFault} (hlo : e.first ≤ q.row.toNat) (hhi : q.row.toNat < e.first + e.rows)
    (hs : s.bistSkips e q.row.toNat = false) :
    s.sliceDone [q] false = ((s.sliceTested e).bistFault e q).bistNext := by
  have hfound : s.sliceFaults e [q] = [q] := by simp [State.sliceFaults, State.sliceSkipped, hlo, hhi, hs]
  rw [State.sliceDone_program hf he, hfound, List.foldl_cons, List.foldl_nil]
end

theorem State.sliceDone_repair {fs : List BistFault} {r : Repair} {rest : List Repair} (hf : s.sys.bist.fixing = true)
    (hr : s.sys.bist.fix = r :: rest) : s.sliceDone fs false =
      (s.setBist { s.sys.bist with slice := false, fixing := false, fix := rest, fixCut := 0 }).repairMade r := by
  unfold State.sliceDone
  simp only [hf, hr, Bool.false_eq_true, if_false, if_true]
end

/-! ### Faults (R407, R408) -/

/-- The repairs that wait once a fault is recorded. -/
def State.fixAfter (s : State) (e : BistEntry) (f : BistFault) : List Repair :=
  match (s.spareFor e f.column).1 with
  | some k =>
    if s.rb .bistCtrl 1 && !f.column && s.sys.bist.log.length + s.sys.bist.fix.length < 512
    then s.sys.bist.fix ++ [⟨e.cls, e.part, e.unit, false, f.row.toNat, k⟩] else s.sys.bist.fix
  | none => s.sys.bist.fix

/-- The word of BIST_FAIL_HI for a fault, with its REPAIRABLE. -/
def failWord (e : BistEntry) (f : BistFault) (code : Nat) : Nat :=
  e.cls + e.part * 2 ^ 4 + e.unit * 2 ^ 10 + code * 2 ^ 16 + f.bit.val * 2 ^ 18 + (if f.column then 2 else 1) * 2 ^ 28 + 2 ^ 31

theorem State.spareFor_same (s : State) (e : BistEntry) (column : Bool) :
    (s.spareFor e column).2.regs = s.regs ∧ (s.spareFor e column).2.sys = s.sys := by
  unfold State.spareFor
  split
  · split <;> exact ⟨rfl, rfl⟩
  · exact ⟨rfl, rfl⟩

theorem State.spareFor_row {s : State} {e : BistEntry} {column : Bool} (h : e.cls ≠ 6) :
    (s.spareFor e column).1 = s.freeSpare e.cls e.part e.unit column := by
  rw [State.spareFor, if_neg h]

/-- What a fault does: a repair may wait, FAULTS counts it, BIST_FAIL records it, and BIST_FAULT is raised. -/
theorem State.bistFault_eq (s : State) (e : BistEntry) (f : BistFault) : ∃ (u : State) (code : Nat), u.regs = s.regs ∧
    u.sys.bist = { s.sys.bist with fix := s.fixAfter e f } ∧ code < 4 ∧
    s.bistFault e f = (((u.bump .bistCount 6).wr .bistFailLo (BitVec.ofNat 32 f.row.toNat)).wr .bistFailHi
      (BitVec.ofNat 32 (failWord e f code))).raise 769 domCentral := by
  obtain ⟨hregs, hsys⟩ := s.spareFor_same e f.column
  refine ⟨((s.spareFor e f.column).2.fresh 3).2.setBist { s.sys.bist with fix := s.fixAfter e f },
    if (s.spareFor e f.column).1.isNone then 0 else if f.column then 2 else ((s.spareFor e f.column).2.fresh 3).1,
    hregs, rfl, ?_, ?_⟩
  · have hv : ((s.spareFor e f.column).2.fresh 3).1 < 3 := Nat.mod_lt _ (by decide)
    split
    · decide
    split
    · decide
    · omega
  · unfold State.bistFault State.fixAfter failWord
    dsimp only
    rw [State.fresh_sys, hsys] <;> rfl

section
variable {s : State} {e : BistEntry} {f : BistFault}

theorem State.bistFault_bist : (s.bistFault e f).sys.bist = { s.sys.bist with fix := s.fixAfter e f } := by
  obtain ⟨u, code, -, hbist, -, hu⟩ := s.bistFault_eq e f
  rw [hu, State.raise_sys, State.wr_sys, State.wr_sys, State.bump_sys, hbist]

theorem State.bistFault_writes :
    s.BistWrites [addrOf .bistCount 6 0 0, addrOf .bistFailLo 0 0 0, addrOf .bistFailHi 0 0 0] (s.bistFault e f) := by
  obtain ⟨u, code, hregs, -, -, hu⟩ := s.bistFault_eq e f
  rw [hu]
  exact .trans (.trans (.trans (.trans (.of_regs hregs) (u.bump_bistWrites 6 1 (by decide)))
    (State.wr_bistWrites _ .bistFailLo _ 0 (by decide))) (State.wr_bistWrites _ .bistFailHi _ 0 (by decide)))
    (State.raise_bistWrites _ 769 domCentral)

theorem State.bistFault_count : (s.bistFault e f).rd .bistCount 6 = countWord (s.rd .bistCount 6) 1 := by
  obtain ⟨u, code, hregs, -, -, hu⟩ := s.bistFault_eq e f
  rw [hu, (State.raise_frame _ 769 domCentral).rd .bistCount rfl, State.rd_wr_other _ _ _ _ _ _ _ _ _ _ (by decide),
    State.rd_wr_other _ _ _ _ _ _ _ _ _ _ (by decide), State.bump_rd, State.rd_congr hregs]

/-- BIST_FAIL holds the fault. -/
theorem State.bistFault_fail : (s.bistFault e f).rd .bistFailLo = BitVec.ofNat 32 f.row.toNat ∧
    ∃ code, code < 4 ∧ (s.bistFault e f).rd .bistFailHi = BitVec.ofNat 32 (failWord e f code) := by
  obtain ⟨u, code, -, -, hcode, hu⟩ := s.bistFault_eq e f
  rw [hu]
  refine ⟨?_, code, hcode, ?_⟩
  · rw [(State.raise_frame _ 769 domCentral).rd .bistFailLo rfl, State.rd_wr_other _ _ _ _ _ _ _ _ _ _ (by decide),
      State.rd_wr_same]
  · rw [(State.raise_frame _ 769 domCentral).rd .bistFailHi rfl, State.rd_wr_same]

/-- A row fault of a memory with a free spare waits for its repair slice (R408). -/
theorem State.fixAfter_row {k : Nat} (ha : s.rb .bistCtrl 1 = true) (hc : f.column = false) (h6 : e.cls ≠ 6)
    (hk : s.freeSpare e.cls e.part e.unit false = some k) (hl : s.sys.bist.log.length + s.sys.bist.fix.length < 512) :
    s.fixAfter e f = s.sys.bist.fix ++ [⟨e.cls, e.part, e.unit, false, f.row.toNat, k⟩] := by
  rw [State.fixAfter, State.spareFor_row h6, hc, hk]
  exact if_pos (by simp [ha, hl])

theorem State.fixAfter_off (ha : s.rb .bistCtrl 1 = false) : s.fixAfter e f = s.sys.bist.fix := by
  unfold State.fixAfter
  split
  · exact if_neg (by simp [ha])
  · rfl
end

/-- The fields of BIST_FAIL_HI name the memory, the bit and the kind. -/
theorem failWord_fields {e : BistEntry} {f : BistFault} {code : Nat} (hc : code < 4) (h1 : e.cls < 16) (h2 : e.part < 64)
    (h3 : e.unit < 64) : let w : Word := BitVec.ofNat 32 (failWord e f code)
    bit w 31 = true ∧ fld w 3 0 = e.cls ∧ fld w 9 4 = e.part ∧ fld w 15 10 = e.unit ∧ fld w 27 18 = f.bit.val ∧
      fld w 29 28 = if f.column = true then 2 else 1 := by
  have hb := f.bit.isLt
  have hk : (if f.column then 2 else 1) < 4 := by split <;> decide
  intro w
  have hw : w.toNat = failWord e f code % 2 ^ 32 := BitVec.toNat_ofNat ..
  unfold bit BitVec.getLsbD fld
  rw [hw, Nat.testBit_eq_decide_div_mod_eq, decide_eq_true_eq]
  unfold failWord
  generalize (if f.column then 2 else 1) = kind at *
  refine ⟨?_, ?_, ?_, ?_, ?_, ?_⟩ <;> omega

/-! ### A slice of the program reaches its end -/

/-- The spares that are free are told by the repairs made and waiting. -/
theorem State.freeSpare_congr {s t : State} (hl : t.sys.bist.log = s.sys.bist.log) (hu : t.sys.bist.fused = s.sys.bist.fused)
    (hx : t.sys.bist.fix = s.sys.bist.fix) (c part unit : Nat) (column : Bool) :
    t.freeSpare c part unit column = s.freeSpare c part unit column := by
  unfold State.freeSpare
  dsimp only
  rw [hl, hu, hx]

section
variable {s : State} {e : BistEntry} (hb : s.sys.bist.slice = true ∧ s.sys.bist.fixing = false)
  (he : s.sys.bist.entries[s.rf .bistStatus 16 9]? = some e)
include hb he

theorem sliceEnd_clean : sliceEnd (.done []) false false s = (s.sliceFreed.sliceTested e).bistNext :=
  (sliceEnd_done hb.1).trans (State.sliceDone_clean (s := s.sliceFreed) hb.2 he)

theorem sliceEnd_clean_idle : (sliceEnd (.done []) false false s).sys.bist.slice = false := by
  rw [sliceEnd_clean hb he, (State.bistNext_bist _).1, State.sliceTested_bist]

/-- A slice without a fault counts in SLICES and not in FAULTS. -/
theorem sliceEnd_clean_counts :
    (sliceEnd (.done []) false false s).rd .bistCount 0 = countWord (s.rd .bistCount 0) 1 ∧
      (sliceEnd (.done []) false false s).rd .bistCount 6 = countWord (s.rd .bistCount 6) 0 := by
  rw [sliceEnd_clean hb he, (State.bistNext_writes _).rd .bistCount 0 rfl (by decide),
    (State.bistNext_writes _).rd .bistCount 6 rfl (by decide), State.sliceTested_count,
    State.sliceTested_writes.rd .bistCount 6 rfl (by decide), countWord_zero]
  exact ⟨rfl, rfl⟩

theorem sliceEnd_clean_go (hg : s.sys.bist.goNext = true) : (sliceEnd (.done []) false false s).bistFetching := by
  rw [sliceEnd_clean hb he, State.bistNext_go (by rw [State.sliceTested_bist]; exact hg)]
  exact State.bistFetch_fetching _

variable (hg : s.sys.bist.goNext = false)
include hg

theorem sliceEnd_clean_stop (hs : s.sys.bist.stop = true) : (sliceEnd (.done []) false false s).bistEnded 0 := by
  rw [sliceEnd_clean hb he, State.bistNext_stop (by rw [State.sliceTested_bist]; exact hg)
    (by rw [State.sliceTested_bist]; exact hs)]
  exact State.bistEnd_ended _ (by decide)

variable (hs : s.sys.bist.stop = false)
include hs

theorem sliceEnd_clean_entry (hi : s.rf .bistStatus 16 9 + 1 < s.sys.bist.entries.length)
    (hfit : s.rf .bistStatus 16 9 + 1 < 256) :
    (sliceEnd (.done []) false false s).rf .bistStatus 16 9 = s.rf .bistStatus 16 9 + 1 ∧
      (sliceEnd (.done []) false false s).sys.bist.cut = 0 := by
  have hx : (s.sliceFreed.sliceTested e).sys.bist = { s.sys.bist with slice := false } := State.sliceTested_bist
  have hw : (s.sliceFreed.sliceTested e).rf .bistStatus 16 9 = s.rf .bistStatus 16 9 := State.sliceTested_rf 16 9
  rw [sliceEnd_clean hb he, ← hw]
  exact State.bistNext_entry_shown (by rw [hx]; exact hg) (by rw [hx]; exact hs) (by rw [hx, hw]; exact hi) (by rw [hw]; exact hfit)

section
variable (hi : s.rf .bistStatus 16 9 + 1 = s.sys.bist.entries.length)
include hi

theorem sliceEnd_clean_pass (hr : s.sys.bist.repeated = true) :
    (sliceEnd (.done []) false false s).rf .bistStatus 16 9 = 0 ∧
      (sliceEnd (.done []) false false s).sys.bist.pausing = some s.now := by
  have hx : (s.sliceFreed.sliceTested e).sys.bist = { s.sys.bist with slice := false } := State.sliceTested_bist
  have hw : (s.sliceFreed.sliceTested e).rf .bistStatus 16 9 = s.rf .bistStatus 16 9 := State.sliceTested_rf 16 9
  have hn : (s.sliceFreed.sliceTested e).now = s.now := State.sliceTested_now
  rw [sliceEnd_clean hb he, ← hn]
  exact State.bistNext_pass_shown (by rw [hx]; exact hg) (by rw [hx]; exact hs) (by rw [hx, hw]; exact hi) (by rw [hx]; exact hr)

theorem sliceEnd_clean_last (hr : s.sys.bist.repeated = false) : (sliceEnd (.done []) false false s).bistEnded 0 := by
  have hx : (s.sliceFreed.sliceTested e).sys.bist = { s.sys.bist with slice := false } := State.sliceTested_bist
  have hw : (s.sliceFreed.sliceTested e).rf .bistStatus 16 9 = s.rf .bistStatus 16 9 := State.sliceTested_rf 16 9
  rw [sliceEnd_clean hb he, State.bistNext_end (by rw [hx]; exact hg) (by rw [hx]; exact hs) (by rw [hx, hw]; exact hi)
    (by rw [hx]; exact hr)]
  exact State.bistEnd_ended _ (by decide)
end
end

section
variable {s : State} {e : BistEntry} {q : BistFault} (hb : s.sys.bist.slice = true ∧ s.sys.bist.fixing = false)
  (he : s.sys.bist.entries[s.rf .bistStatus 16 9]? = some e) (hlo : e.first ≤ q.row.toNat)
  (hhi : q.row.toNat < e.first + e.rows) (hs : s.bistSkips e q.row.toNat = false)
include hb he hlo hhi hs

theorem sliceEnd_fault : sliceEnd (.done [q]) false false s = ((s.sliceFreed.sliceTested e).bistFault e q).bistNext :=
  (sliceEnd_done hb.1).trans (State.sliceDone_fault (s := s.sliceFreed) hb.2 he hlo hhi hs)

/-- FAULTS counts the fault, and BIST_FAIL names its row. -/
theorem sliceEnd_fault_record :
    (sliceEnd (.done [q]) false false s).rd .bistCount 6 = countWord (s.rd .bistCount 6) 1 ∧
      (sliceEnd (.done [q]) false false s).rd .bistFailLo = BitVec.ofNat 32 q.row.toNat := by
  rw [sliceEnd_fault hb he hlo hhi hs, (State.bistNext_writes _).rd .bistCount 6 rfl (by decide),
    (State.bistNext_writes _).rd .bistFailLo 0 rfl (by decide), State.bistFault_count, State.bistFault_fail.1,
    State.sliceTested_writes.rd .bistCount 6 rfl (by decide)]
  exact ⟨rfl, rfl⟩

/-- BIST_FAIL names the memory, the bit and the kind of the fault. -/
theorem sliceEnd_fault_fields (h1 : e.cls < 16) (h2 : e.part < 64) (h3 : e.unit < 64) :
    (sliceEnd (.done [q]) false false s).rb .bistFailHi 31 = true ∧
      (sliceEnd (.done [q]) false false s).rf .bistFailHi 3 0 = e.cls ∧
      (sliceEnd (.done [q]) false false s).rf .bistFailHi 9 4 = e.part ∧
      (sliceEnd (.done [q]) false false s).rf .bistFailHi 15 10 = e.unit ∧
      (sliceEnd (.done [q]) false false s).rf .bistFailHi 27 18 = q.bit.val ∧
      (sliceEnd (.done [q]) false false s).rf .bistFailHi 29 28 = if q.column = true then 2 else 1 := by
  obtain ⟨code, hcode, hword⟩ := (State.bistFault_fail (s := s.sliceFreed.sliceTested e) (e := e) (f := q)).2
  unfold State.rb State.rf
  rw [sliceEnd_fault hb he hlo hhi hs, (State.bistNext_writes _).rd .bistFailHi 0 rfl (by decide), hword]
  exact failWord_fields hcode h1 h2 h3

theorem sliceEnd_fault_fix : (sliceEnd (.done [q]) false false s).sys.bist.fix = (s.sliceFreed.sliceTested e).fixAfter e q := by
  rw [sliceEnd_fault hb he hlo hhi hs, (State.bistNext_bist _).2, State.bistFault_bist]

theorem sliceEnd_fault_repairs {k : Nat} (ha : s.rb .bistCtrl 1 = true) (hc : q.column = false) (h6 : e.cls ≠ 6)
    (hk : s.freeSpare e.cls e.part e.unit false = some k) (hl : s.sys.bist.log.length + s.sys.bist.fix.length < 512) :
    (sliceEnd (.done [q]) false false s).sys.bist.fix =
      s.sys.bist.fix ++ [⟨e.cls, e.part, e.unit, false, q.row.toNat, k⟩] := by
  have hx : (s.sliceFreed.sliceTested e).sys.bist = { s.sys.bist with slice := false } := State.sliceTested_bist
  have hspare : (s.sliceFreed.sliceTested e).freeSpare e.cls e.part e.unit false = some k :=
    (State.freeSpare_congr (by rw [hx]) (by rw [hx]) (by rw [hx]) ..).trans hk
  have hauto : (s.sliceFreed.sliceTested e).rb .bistCtrl 1 = s.rb .bistCtrl 1 := State.sliceTested_auto
  rw [sliceEnd_fault_fix hb he hlo hhi hs, State.fixAfter_row (hauto.trans ha) hc h6 hspare (by rw [hx]; exact hl), hx]

theorem sliceEnd_fault_stays (ha : s.rb .bistCtrl 1 = false) :
    (sliceEnd (.done [q]) false false s).sys.bist.fix = s.sys.bist.fix := by
  have hauto : (s.sliceFreed.sliceTested e).rb .bistCtrl 1 = s.rb .bistCtrl 1 := State.sliceTested_auto
  rw [sliceEnd_fault_fix hb he hlo hhi hs, State.fixAfter_off (hauto.trans ha), State.sliceTested_bist]
  rfl
end

/-! ### Pre-emptions (R402) -/

section
variable {s : State}

theorem State.slicePreempted_repair (hf : s.sys.bist.fixing = true) (hc : s.sys.bist.fixCut < 15) :
    s.slicePreempted = (s.bump .bistCount 2).setBist { s.sys.bist with
      slice := false, fixing := false, fixCut := s.sys.bist.fixCut + 1,
      retry := some (s.now, 400 * s.rf .bistCtrl 15 8) } :=
  (if_pos hf).trans (if_neg (by omega))

theorem State.slicePreempted_repairLeft (hf : s.sys.bist.fixing = true) (hc : 15 ≤ s.sys.bist.fixCut) :
    s.slicePreempted = ((s.bump .bistCount 2).bump .bistCount 3).setBist { s.sys.bist with
      slice := false, fixing := false, fix := s.sys.bist.fix.tail, fixCut := 0 } :=
  (if_pos hf).trans (if_pos (by omega))

variable (hf : s.sys.bist.fixing = false) (hg : s.sys.bist.goNext = false) (hs : s.sys.bist.stop = false)
include hf hg hs

theorem State.slicePreempted_program (hc : s.sys.bist.cut < 15) :
    s.slicePreempted = (s.bump .bistCount 2).setBist { s.sys.bist with
      slice := false, cut := s.sys.bist.cut + 1, retry := some (s.now, 400 * s.rf .bistCtrl 15 8) } :=
  (if_neg (by simp [hf])).trans ((if_neg (by simp [hg, hs])).trans (if_neg (by omega)))

theorem State.slicePreempted_programLeft (hc : 15 ≤ s.sys.bist.cut) :
    s.slicePreempted =
      (((s.bump .bistCount 2).bump .bistCount 3).setBist { s.sys.bist with slice := false }).bistNext :=
  (if_neg (by simp [hf])).trans ((if_neg (by simp [hg, hs])).trans (if_pos (by omega)))
end

/-- The counters once a slice has been abandoned. -/
theorem State.starved_counts (s : State) :
    ((s.bump .bistCount 2).bump .bistCount 3).rd .bistCount 2 = countWord (s.rd .bistCount 2) 1 ∧
      ((s.bump .bistCount 2).bump .bistCount 3).rd .bistCount 3 = countWord (s.rd .bistCount 3) 1 := by
  rw [State.bump_rd_other _ 3 _ (by decide), State.bump_rd, State.bump_rd, State.bump_rd_other _ 2 _ (by decide)]
  exact ⟨rfl, rfl⟩

section
variable {s : State} {hit : Bool} (h : s.sys.bist.slice = true)
include h

/-- A pre-empted slice has changed no row. -/
theorem sliceEnd_preempted_sameRows : s.sameRows (sliceEnd .preempted false hit s) := by
  rw [sliceEnd_preempted h]
  have hk : s.sliceFreed.Keeps 0x3000180004C s.sliceFreed.slicePreempted := State.slicePreempted_keeps (.refl _ _) rfl
  have hstore : s.sliceFreed.slicePreempted.store = s.sliceFreed.store := hk.2.2.2 .store rfl
  have htbl : s.sliceFreed.slicePreempted.tbl = s.sliceFreed.tbl := hk.2.2.2 .tables rfl
  have hcores : s.sliceFreed.slicePreempted.cores = s.sliceFreed.cores := hk.2.2.2 .cores rfl
  unfold State.sameRows State.core
  rw [hstore, htbl, hcores]
  exact ⟨rfl, rfl, rfl, rfl, fun _ => ⟨rfl, rfl⟩⟩

/-- A pre-empted slice of the program is retried (R402). -/
theorem sliceEnd_preempted_program (hf : s.sys.bist.fixing = false) (hg : s.sys.bist.goNext = false)
    (hs : s.sys.bist.stop = false) (hc : s.sys.bist.cut < 15) :
    (sliceEnd .preempted false hit s).sys.bist = { s.sys.bist with
        slice := false, cut := s.sys.bist.cut + 1, retry := some (s.now, 400 * s.rf .bistCtrl 15 8) } ∧
      (sliceEnd .preempted false hit s).rd .bistCount 2 = countWord (s.rd .bistCount 2) 1 ∧
      (sliceEnd .preempted false hit s).rd .bistStatus = s.rd .bistStatus := by
  rw [sliceEnd_preempted h, State.slicePreempted_program (s := s.sliceFreed) hf hg hs hc]
  have hw := s.sliceFreed.bump_bistWrites (l := [addrOf .bistCount 2 0 0]) 2 1 (by decide)
  rw [State.setBist_rd, State.setBist_rd, State.bump_rd, hw.rd .bistStatus 0 rfl (by decide), State.sliceFreed_rd,
    State.sliceFreed_rd]
  exact ⟨rfl, rfl, rfl⟩

/-- The sixteenth pre-emption in a row abandons the slice, and the program goes on (R402). -/
theorem sliceEnd_preempted_abandons (hf : s.sys.bist.fixing = false) (hg : s.sys.bist.goNext = false)
    (hs : s.sys.bist.stop = false) (hc : 15 ≤ s.sys.bist.cut) :
    (sliceEnd .preempted false hit s).sys.bist.slice = false ∧
      (sliceEnd .preempted false hit s).rd .bistCount 2 = countWord (s.rd .bistCount 2) 1 ∧
      (sliceEnd .preempted false hit s).rd .bistCount 3 = countWord (s.rd .bistCount 3) 1 ∧
      (s.rf .bistStatus 16 9 + 1 < s.sys.bist.entries.length → s.rf .bistStatus 16 9 + 1 < 256 →
        (sliceEnd .preempted false hit s).rf .bistStatus 16 9 = s.rf .bistStatus 16 9 + 1 ∧
          (sliceEnd .preempted false hit s).sys.bist.cut = 0) := by
  rw [sliceEnd_preempted h, State.slicePreempted_programLeft (s := s.sliceFreed) hf hg hs hc]
  obtain ⟨hcount2, hcount3⟩ := s.sliceFreed.starved_counts
  rw [State.sliceFreed_rd] at hcount2 hcount3
  have hw : s.sliceFreed.BistWrites [addrOf .bistCount 2 0 0, addrOf .bistCount 3 0 0]
      ((s.sliceFreed.bump .bistCount 2).bump .bistCount 3) :=
    .trans (State.bump_bistWrites _ 2 1 (by decide)) (State.bump_bistWrites _ 3 1 (by decide))
  generalize (s.sliceFreed.bump .bistCount 2).bump .bistCount 3 = u at *
  have hrf : (u.setBist { s.sys.bist with slice := false }).rf .bistStatus 16 9 = s.rf .bistStatus 16 9 := by
    rw [State.rf, State.setBist_rd, hw.rd .bistStatus 0 rfl (by decide), State.sliceFreed_rd, State.rf]
  refine ⟨(State.bistNext_bist _).1, ?_, ?_, fun hi hfit => ?_⟩
  · exact ((State.bistNext_writes _).rd .bistCount 2 rfl (by decide)).trans ((State.setBist_rd ..).trans hcount2)
  · exact ((State.bistNext_writes _).rd .bistCount 3 rfl (by decide)).trans ((State.setBist_rd ..).trans hcount3)
  · rw [← hrf] at hi hfit ⊢
    exact State.bistNext_entry_shown hg hs hi hfit

section
variable (hf : s.sys.bist.fixing = true)
include hf

/-- A pre-empted repair slice is retried, and its repair waits on (R402). -/
theorem sliceEnd_preempted_repair (hc : s.sys.bist.fixCut < 15) :
    (sliceEnd .preempted false hit s).sys.bist = { s.sys.bist with
        slice := false, fixing := false, fixCut := s.sys.bist.fixCut + 1,
        retry := some (s.now, 400 * s.rf .bistCtrl 15 8) } ∧
      (sliceEnd .preempted false hit s).rd .bistCount 2 = countWord (s.rd .bistCount 2) 1 ∧
      (sliceEnd .preempted false hit s).rd .bistCount 3 = countWord (s.rd .bistCount 3) 0 := by
  rw [sliceEnd_preempted h, State.slicePreempted_repair (s := s.sliceFreed) hf hc, countWord_zero]
  rw [State.setBist_rd, State.setBist_rd, State.bump_rd, State.bump_rd_other _ 2 _ (by decide), State.sliceFreed_rd,
    State.sliceFreed_rd]
  exact ⟨rfl, rfl, rfl⟩

/-- The sixteenth pre-emption in a row abandons a repair (R402). -/
theorem sliceEnd_preempted_repairLeft (hc : 15 ≤ s.sys.bist.fixCut) :
    (sliceEnd .preempted false hit s).sys.bist = { s.sys.bist with
        slice := false, fixing := false, fix := s.sys.bist.fix.tail, fixCut := 0 } ∧
      (sliceEnd .preempted false hit s).rd .bistCount 2 = countWord (s.rd .bistCount 2) 1 ∧
      (sliceEnd .preempted false hit s).rd .bistCount 3 = countWord (s.rd .bistCount 3) 1 := by
  rw [sliceEnd_preempted h, State.slicePreempted_repairLeft (s := s.sliceFreed) hf hc]
  obtain ⟨hcount2, hcount3⟩ := s.sliceFreed.starved_counts
  rw [State.setBist_rd, State.setBist_rd, hcount2, hcount3, State.sliceFreed_rd, State.sliceFreed_rd]
  exact ⟨rfl, rfl, rfl⟩
end
end

/-! ### Repairs (R408, R409) -/

/-- A bit written reads back. -/
theorem State.rb_wb_same (s : State) (r : RegName) {b : Nat} (v : Bool) (h : b < 32) : (s.wb r b v).rb r b = v := by
  rw [State.rb, State.wb, State.rd_wf_same]
  exact bit_setBit_same _ b v h

theorem State.repairShow_writes (s : State) : s.BistWrites [addrOf .bistRepairStatus 0 0 0] s.repairShow :=
  .trans (State.wf_bistWrites s .bistRepairStatus 9 0 _ (by decide))
    (State.wf_bistWrites _ .bistRepairStatus 18 10 _ (by decide))

/-- The words that show repairs. -/
abbrev bistRepairAts : List Nat := [addrOf .bistRepairStatus 0 0 0, addrOf .bistFailHi 0 0 0]

theorem State.repairMade_writes (s : State) (r : Repair) : s.BistWrites bistRepairAts (s.repairMade r) := by
  have hshow : s.BistWrites bistRepairAts (s.setBist { s.sys.bist with log := s.sys.bist.log ++ [some r] }).repairShow :=
    .trans (.of_regs rfl) ((State.repairShow_writes _).mono (by simp))
  unfold State.repairMade
  dsimp only
  split
  · exact hshow.trans (State.wf_bistWrites _ .bistFailHi 17 16 1 (by decide))
  · exact hshow

/-- A repair made is the newest entry of the log. -/
theorem State.repairMade_bist (s : State) (r : Repair) :
    (s.repairMade r).sys.bist = { s.sys.bist with log := s.sys.bist.log ++ [some r] } := by
  unfold State.repairMade
  dsimp only
  split <;> rfl

/-- A repair slice ends: its repair no longer waits and is in the log (R408). -/
theorem sliceEnd_repair {s : State} {fs : List BistFault} {r : Repair} {rest : List Repair} (h : s.sys.bist.slice = true)
    (hf : s.sys.bist.fixing = true) (hr : s.sys.bist.fix = r :: rest) :
    (sliceEnd (.done fs) false false s).sys.bist = { s.sys.bist with
      slice := false, fixing := false, fix := rest, fixCut := 0, log := s.sys.bist.log ++ [some r] } := by
  rw [sliceEnd_done h, State.sliceDone_repair (s := s.sliceFreed) hf hr, State.repairMade_bist]
  rfl

/-- The words that change as a slice, of the program or of a repair, ends without a fault: WAITED is none of them. -/
theorem State.sliceDone_writes (s : State) :
    s.BistWrites ([bistStatusAt, addrOf .bistCount 0 0 0, addrOf .bistCount 5 0 0] ++ bistRepairAts) (s.sliceDone [] false) := by
  cases hf : s.sys.bist.fixing with
  | true =>
    cases hr : s.sys.bist.fix with
    | nil =>
      unfold State.sliceDone
      simp only [hf, hr, Bool.false_eq_true, if_false, if_true]
      exact .of_regs rfl
    | cons r rest =>
      rw [State.sliceDone_repair hf hr]
      exact .trans (.of_regs rfl) ((State.repairMade_writes _ r).mono (List.subset_append_right ..))
  | false =>
    cases he : s.bistEntry with
    | none =>
      unfold State.sliceDone
      simp only [hf, he, Bool.false_eq_true, if_false]
      exact .of_regs rfl
    | some e =>
      rw [State.sliceDone_clean hf he]
      exact (State.sliceTested_writes.mono (by simp)).trans ((State.bistNext_writes _).mono (by simp))

/-- A slice for which a request has waited counts once in WAITED (R401). -/
theorem sliceEnd_waited_count {s : State} (h : s.sys.bist.slice = true) :
    (sliceEnd (.done []) true false s).rd .bistCount 1 = countWord (s.rd .bistCount 1) 1 := by
  rw [sliceEnd_waited h, (State.sliceDone_writes _).rd .bistCount 1 rfl (by decide), State.bump_rd, State.sliceFreed_rd]

/-- The repair that an operation takes up: OP 1 takes the recorded fault when it may be repaired. -/
def State.repairTaken (s : State) (op : Nat) : Option Repair :=
  let w := s.rd .bistFailHi
  let column := fld w 29 28 == 2
  if op = 1 && bit w 31 && (!column || s.bistAccess == 2) && s.sys.bist.log.length < 512 then
    (s.spareFor ⟨fld w 3 0, fld w 9 4, fld w 15 10, 0, false, 0, 1⟩ column).1.map
      (fun k => ⟨fld w 3 0, fld w 9 4, fld w 15 10, column, s.rf .bistFailLo 23 0, k⟩)
  else none

section
variable {s : State} {op : Nat}

theorem bistRepair_busy (hop : op ≠ 0) (hw : s.rb .bistRepairStatus 19 = true) :
    bistRepair op s = s.reject (addrOf .bistRepairCtrl 0 0 0) := (if_neg hop).trans (if_pos hw)

/-- An operation that meets none under way begins. -/
theorem bistRepair_begins (hop : op ≠ 0) (hw : ¬s.rb .bistRepairStatus 19 = true) :
    (bistRepair op s).rb .bistRepairStatus 19 = true ∧ (bistRepair op s).sys.bist.op = some (op, s.repairTaken op) := by
  unfold bistRepair
  rw [if_neg hop, if_neg hw]
  exact ⟨State.rb_wb_same _ .bistRepairStatus true (by decide), rfl⟩

theorem State.repairTaken_fuse : s.repairTaken 2 = none := rfl

theorem State.repairTaken_of_none (h : bit (s.rd .bistFailHi) 31 = false) : s.repairTaken 1 = none := if_neg (by simp [h])

/-- The row fault on record, with the lowest free spare of its memory. -/
theorem State.repairTaken_row {k : Nat} (hv : bit (s.rd .bistFailHi) 31 = true) (hk : fld (s.rd .bistFailHi) 29 28 = 1)
    (h6 : fld (s.rd .bistFailHi) 3 0 ≠ 6) (hl : s.sys.bist.log.length < 512)
    (hf : s.freeSpare (fld (s.rd .bistFailHi) 3 0) (fld (s.rd .bistFailHi) 9 4) (fld (s.rd .bistFailHi) 15 10) false = some k) :
    s.repairTaken 1 = some ⟨fld (s.rd .bistFailHi) 3 0, fld (s.rd .bistFailHi) 9 4, fld (s.rd .bistFailHi) 15 10, false,
      s.rf .bistFailLo 23 0, k⟩ := by
  have hc : (fld (s.rd .bistFailHi) 29 28 == 2) = false := by simp [hk]
  unfold State.repairTaken
  dsimp only
  rw [hc, State.spareFor_row h6, hf, if_pos (by simp [hv, hl])]
  rfl
end

/-- The operation under way is over, with its RESULT. -/
def State.repairOver (t : State) (result : Nat) : Prop :=
  t.sys.bist.op = none ∧ t.rb .bistRepairStatus 19 = false ∧ t.rf .bistRepairStatus 21 20 = result

/-- STATUS after an operation, and REPAIR_DONE (R409, R410). -/
def State.repairClosed (s : State) (result : Nat) : State :=
  ((s.wb .bistRepairStatus 19 false).wf .bistRepairStatus 21 20 result).raise 770 domCentral

theorem State.repairClosed_sys (s : State) (result : Nat) : (s.repairClosed result).sys = s.sys := by
  rw [State.repairClosed, State.raise_sys, State.wf_sys, State.wb_sys]

theorem State.repairClosed_over {s : State} {result : Nat} (h : s.sys.bist.op = none) (hr : result < 4) :
    (s.repairClosed result).repairOver result := by
  refine ⟨by rw [State.repairClosed_sys, h], ?_, ?_⟩
  · rw [State.repairClosed, State.rb, (State.raise_frame _ 770 domCentral).rd .bistRepairStatus rfl, State.rd_wf_same,
      bit_setFld _ _ _ _ _ (by decide) (by decide), if_neg (by decide)]
    exact State.rb_wb_same s .bistRepairStatus false (by decide)
  · rw [State.repairClosed, State.rf, (State.raise_frame _ 770 domCentral).rd .bistRepairStatus rfl, State.rd_wf_same]
    exact fld_setFld_fits _ _ _ (by decide) (by decide) hr

section
variable {s : State} {fault : Option Repair}

theorem repairDone_of_none (h : s.sys.bist.op = none) : repairDone s = s := by
  unfold repairDone
  dsimp only
  rw [h]

theorem repairDone_soft {r : Repair} (h : s.sys.bist.op = some (1, some r)) :
    repairDone s = ((s.setBist { s.sys.bist with op := none }).repairMade r).repairClosed 0 := by
  unfold repairDone
  dsimp only
  rw [h]
  rfl

theorem repairDone_fuse_refused (h : s.sys.bist.op = some (2, fault)) (ha : s.rf .bistStatus 8 7 ≠ 2) :
    repairDone s = (s.setBist { s.sys.bist with op := none }).repairClosed 2 := by
  have ha : s.bistAccess ≠ 2 := ha
  unfold repairDone
  dsimp only
  rw [h]
  dsimp only
  rw [if_neg (by decide), if_pos ha]
  rfl

/-- The log and the fuse array after a fuse operation. -/
def Bist.fuse (x : Bist) : Bist :=
  { x with op := none, log := (fuseRepairs x.log x.fused).1, fused := (fuseRepairs x.log x.fused).2 }

theorem repairDone_fuse (h : s.sys.bist.op = some (2, fault)) (ha : s.rf .bistStatus 8 7 = 2) :
    repairDone s = (s.setBist s.sys.bist.fuse).repairShow.repairClosed
      (if (fuseRepairs s.sys.bist.log s.sys.bist.fused).1.any (·.isSome) then 1 else 0) := by
  have ha : s.bistAccess = 2 := ha
  unfold repairDone
  dsimp only
  rw [h]
  dsimp only
  rw [if_neg (by decide), if_neg (by simp [ha])]
  rfl
end

/-- With room in the fuse array, every soft entry goes to it; torn entries alone stay in the log. -/
theorem fuseRepairs_of_room (l : List (Option Repair)) (f : List Repair) (hlen : f.length + l.length ≤ 256)
    (h6 : ∀ r, some r ∈ l → r.cls ≠ 6) :
    (fuseRepairs l f).2 = f ++ l.filterMap id ∧ ∀ x, x ∈ (fuseRepairs l f).1 → x = none := by
  induction l generalizing f with
  | nil => exact ⟨(List.append_nil f).symm, fun _ hx => absurd hx (List.not_mem_nil)⟩
  | cons x t ih =>
    rw [List.length_cons] at hlen
    have ht (r : Repair) (hr : some r ∈ t) : r.cls ≠ 6 := h6 r (List.mem_cons_of_mem _ hr)
    cases x with
    | none =>
      obtain ⟨hfused, hlog⟩ := ih f (by omega) ht
      refine ⟨hfused, fun y hy => ?_⟩
      obtain rfl | hy := List.mem_cons.1 hy
      · rfl
      · exact hlog y hy
    | some r =>
      obtain ⟨hfused, hlog⟩ := ih (f ++ [r]) (by rw [List.length_append, List.length_singleton]; omega) ht
      rw [fuseRepairs, if_neg (h6 r (List.mem_cons_self ..)), if_pos (by omega)]
      exact ⟨by simp [hfused], hlog⟩

/-! ### The pause between passes (R406) -/

theorem pauseExpiry_over {s : State} {since : Nat} (h : s.sys.bist.pausing = some since)
    (hp : s.passed since (s.sys.bist.pause * 1000000) = true) :
    pauseExpiry s = s.setBist { s.sys.bist with pausing := none } := by
  rw [pauseExpiry, h]
  exact if_pos hp

theorem pauseExpiry_early {s : State}
    (h : ∀ since, s.sys.bist.pausing = some since → s.passed since (s.sys.bist.pause * 1000000) = false) :
    pauseExpiry s = s := by
  unfold pauseExpiry
  split
  case h_1 since hs => rw [h since hs]; rfl
  case h_2 => rfl

/-! ### The statement -/

/-- Settles O52: GO and STOP are `State.bistEnd` and `State.bistFetch`; a fetched program meets the checks in the order of
`State.bistResult_eq`; a slice begins behind `State.sliceGate` and ends in one of the ways of `sliceEnd`, after each of which
`State.bistNext` says what follows; a repair is an entry of the log (`State.repairMade_bist`), and the fuse array takes every
entry while it has room (`fuseRepairs_of_room`). -/
theorem selfTest : Obligations.SelfTest := by
  intro s p hit e q r rest from_ fault b x access st spaceHost i busy ended fetching asked f n signed repeats entry formed
    allowed short keyAt admitted verified host fetched current gate quiet slow count done cut unskipped later still past spare
    wait w repaired
  have hfetched : host → fetched fun t => t = if s.bistResult p ≠ 0 then s.bistEnd (s.bistResult p) else s.bistLoaded p :=
    fun ⟨hst, hsp, hbm⟩ => ⟨_, rfl, bistFetched_host hst hsp hbm⟩
  have hfails {k : Nat} (hk : k < 16) (h0 : k ≠ 0) (hh : host) (hr : s.bistResult p = k) : fetched fun t => ended t k := by
    obtain ⟨t, he, rfl⟩ := hfetched hh
    refine ⟨_, he, ?_⟩
    rw [hr, if_pos h0]
    exact s.bistEnd_ended hk
  have hpast (h : past from_) : s.passed from_ (s.sys.bist.pause * 1000000) = true := decide_eq_true h
  refine ⟨fun ha => ⟨_, rfl, bistGo_of_refused ha⟩, fun ha hr => ⟨_, rfl, ?goFetch⟩,
    fun ha hr hb => ⟨_, rfl, bistGo_of_busy ha hr hb⟩, fun ha hr hb => ⟨_, rfl, ?goBetween⟩,
    fun hr => congrArg _ (bistStop_of_idle hr), fun hr hb => ⟨_, rfl, bistStop_of_busy hr hb⟩,
    fun hr hb => ⟨_, rfl, ?stopBetween⟩,
    fun hr => congrArg _ (bistFetched_of_idle hr), fun hr hp => ⟨_, rfl, ?fetchFails⟩,
    fun hh hf => hfails (by decide) (by decide) hh (State.bistResult_format hf),
    fun hh hf ha => hfails (by decide) (by decide) hh (State.bistResult_access hf ha),
    fun hh hf ha hs => hfails (by decide) (by decide) hh (State.bistResult_budget hf ha hs),
    fun hh hf ha hs hk => hfails (by decide) (by decide) hh (State.bistResult_key hf ha hs hk),
    fun hh hf ha hs hk hv => hfails (by decide) (by decide) hh (State.bistResult_signature hf ha hs hk hv),
    fun hh hf ha hs hk hv => ?runs,
    fun hg => congrArg _ (sliceBegin_of_shut hg),
    fun hg hx ⟨hr, he⟩ hp hq hs => ⟨_, rfl, sliceBegin_begins hg hx hr he hp hq hs⟩,
    fun hg hx ⟨hr, he⟩ hp hq hs => ⟨_, rfl, sliceBegin_skips hg hx hr he hp hq hs⟩,
    fun hg hx hq => ⟨_, rfl, sliceBegin_repair hg hx hq⟩,
    fun hb => congrArg _ (sliceEnd_of_idle hb), fun hb ⟨_, he⟩ hs hg hi hfit => ⟨_, rfl, ?nextEntry⟩,
    fun hb ⟨_, he⟩ hs hg hi hr => ⟨_, rfl, ?nextPass⟩, fun hb ⟨_, he⟩ hs hg => ⟨_, rfl, ?ends⟩,
    fun hb ⟨_, he⟩ hg => ⟨_, rfl, sliceEnd_clean_go hb he hg⟩, fun hb ⟨_, he⟩ hlo hhi hs => ⟨_, rfl, ?fault⟩,
    fun hb hs hg hc => ⟨_, rfl, ?retried⟩, fun hb _ hs hg hc => ⟨_, rfl, ?abandoned⟩,
    fun hb hf hc => ⟨_, rfl, ?repairRetried⟩, fun hb hf hr hc => ⟨_, rfl, ?repairAbandoned⟩,
    fun hb hf hr => ⟨_, rfl, ?repairDone⟩, fun hb => ⟨_, rfl, sliceEnd_waited_count hb⟩,
    fun hp ho => ⟨_, rfl, pauseExpiry_over hp (hpast ho)⟩, fun hp => congrArg _ (pauseExpiry_early ?early),
    fun hw => ⟨_, rfl, bistRepair_busy (by decide) hw⟩, fun hw => ⟨_, rfl, bistRepair_busy (by decide) hw⟩,
    fun hw => ⟨_, rfl, ?fuseBegins⟩, fun k hw hv hk h6 hl hf => ⟨_, rfl, ?softBegins⟩, fun hw hv => ⟨_, rfl, ?softNone⟩,
    fun ho => congrArg _ (repairDone_of_none ho), fun ho => ⟨_, rfl, ?softMade⟩, fun ho ha => ⟨_, rfl, ?fuseRefused⟩,
    fun ho ha hroom h6 => ⟨_, rfl, ?fused⟩⟩
  case goFetch =>
    rw [bistGo_of_idle ha hr]
    exact ⟨s.bistFetch_fetching, State.bistFetch_out⟩
  case goBetween =>
    rw [bistGo_of_between ha hr hb]
    exact ⟨State.bistFetch_fetching _, by rw [State.bistFetch_sys, State.bistEnd_bist]⟩
  case stopBetween =>
    rw [bistStop_of_between hr hb]
    exact s.bistEnd_ended (by decide)
  case fetchFails =>
    rw [bistFetched_none hr hp]
    exact s.bistEnd_ended (by decide)
  case runs =>
    obtain ⟨t, he, rfl⟩ := hfetched hh
    refine ⟨_, he, ?_⟩
    rw [if_neg (not_not_intro (State.bistResult_runs hf ha hs hk hv))]
    obtain ⟨hrun, hkey, hbist⟩ := s.bistLoaded_effect p
    rw [hbist]
    exact ⟨hrun, hkey, rfl, Iff.rfl, rfl⟩
  case nextEntry =>
    obtain ⟨hentry, hcut⟩ := sliceEnd_clean_entry hb he hg hs hi hfit
    exact ⟨sliceEnd_clean_idle hb he, hentry, hcut, sliceEnd_clean_counts hb he⟩
  case nextPass => exact ⟨sliceEnd_clean_idle hb he, sliceEnd_clean_pass hb he hg hs hi hr⟩
  case ends =>
    cases hstop : s.sys.bist.stop with
    | true => exact sliceEnd_clean_stop hb he hg hstop
    | false =>
      obtain ⟨hi, hr⟩ := hs.resolve_left (by simp [x, hstop])
      exact sliceEnd_clean_last hb he hg hstop hi hr
  case fault =>
    obtain ⟨hcount, hrow⟩ := sliceEnd_fault_record hb he hlo hhi hs
    exact ⟨hcount, hrow, sliceEnd_fault_fields hb he hlo hhi hs,
      fun k ha hc h6 hk hl => sliceEnd_fault_repairs hb he hlo hhi hs ha hc h6 hk hl, sliceEnd_fault_stays hb he hlo hhi hs⟩
  case retried =>
    obtain ⟨hslice, hfix⟩ := hb
    obtain ⟨hbist, hcount, hstatus⟩ := sliceEnd_preempted_program (hit := hit) hslice hfix hg hs hc
    exact ⟨sliceEnd_preempted_sameRows hslice, congrArg Bist.slice hbist, (congrArg Bist.cut hbist :),
      (congrArg Bist.retry hbist :), hcount, (congrArg Bist.entries hbist :), hstatus⟩
  case abandoned =>
    obtain ⟨hslice, hfix⟩ := hb
    exact ⟨sliceEnd_preempted_sameRows hslice, sliceEnd_preempted_abandons hslice hfix hg hs hc⟩
  case repairRetried =>
    obtain ⟨hbist, hcounts⟩ := sliceEnd_preempted_repair (hit := hit) hb hf hc
    exact ⟨sliceEnd_preempted_sameRows hb, congrArg Bist.slice hbist, congrArg Bist.fixing hbist, (congrArg Bist.fix hbist :),
      (congrArg Bist.fixCut hbist :), (congrArg Bist.retry hbist :), hcounts⟩
  case repairAbandoned =>
    obtain ⟨hbist, hcounts⟩ := sliceEnd_preempted_repairLeft (hit := hit) hb hf hc
    exact ⟨sliceEnd_preempted_sameRows hb, congrArg Bist.slice hbist, congrArg Bist.fixing hbist,
      (congrArg Bist.fix hbist).trans (congrArg List.tail hr), (congrArg Bist.fixCut hbist :),
      (congrArg Bist.log hbist :), hcounts⟩
  case repairDone =>
    have hbist := sliceEnd_repair (fs := []) hb hf hr
    exact ⟨congrArg Bist.slice hbist, congrArg Bist.fixing hbist, congrArg Bist.fix hbist, (congrArg Bist.log hbist :)⟩
  case early =>
    intro since hs
    obtain hp | ⟨hp, hearly⟩ := hp
    · exact absurd (hs.symm.trans hp) (by simp)
    · obtain rfl : since = from_ := Option.some.inj (hs.symm.trans hp)
      exact decide_eq_false hearly
  case fuseBegins =>
    obtain ⟨hbusy, hop⟩ := bistRepair_begins (op := 2) (by decide) hw
    exact ⟨hop, hbusy⟩
  case softBegins =>
    obtain ⟨hbusy, hop⟩ := bistRepair_begins (op := 1) (by decide) hw
    exact ⟨hbusy, hop.trans (by rw [State.repairTaken_row hv hk h6 hl hf])⟩
  case softNone =>
    obtain ⟨-, hop⟩ := bistRepair_begins (op := 1) (by decide) hw
    exact hop.trans (by rw [State.repairTaken_of_none hv])
  case softMade =>
    rw [repairDone_soft ho]
    exact ⟨State.repairClosed_over (by rw [State.repairMade_bist]; rfl) (by decide),
      by rw [State.repairClosed_sys, State.repairMade_bist]; rfl⟩
  case fuseRefused =>
    rw [repairDone_fuse_refused ho ha]
    have hsys := State.repairClosed_sys (s.setBist { s.sys.bist with op := none }) 2
    exact ⟨State.repairClosed_over rfl (by decide), congrArg (·.bist.fused) hsys, congrArg (·.bist.log) hsys⟩
  case fused =>
    obtain ⟨hfused, hlog⟩ := fuseRepairs_of_room s.sys.bist.log s.sys.bist.fused hroom h6
    have hnone : ((fuseRepairs s.sys.bist.log s.sys.bist.fused).1.any (·.isSome)) = false := by
      rw [List.any_eq_false]
      exact fun y hy => by rw [hlog y hy]; decide
    rw [repairDone_fuse ho ha, hnone]
    have hsys := (s.setBist s.sys.bist.fuse).repairShow.repairClosed_sys 0
    exact ⟨State.repairClosed_over rfl (by decide), (congrArg (·.bist.fused) hsys).trans hfused,
      fun y hy => hlog y ((congrArg (y ∈ ·.bist.log) hsys).mp hy)⟩

end Sys2Proof.Machine
end
